-- ==== Sys2Proof/Word.lean ====
section
/-! DEFINITION. The word types of the Celquel W64 (spec/00_scope.md R8, spec/02 R50). -/
namespace Sys2Proof

/-- A byte of memory. -/
abbrev Byte := BitVec 8
/-- A vector register of one lane (R50). -/
abbrev W32 := BitVec 32
/-- A uniform register (R50), a record word (R34, R122). -/
abbrev W64 := BitVec 64
/-- A set of lanes, bit l for lane l (R15). -/
abbrev Lanes := BitVec 64

end Sys2Proof
end

