-- ==== Sys2Proof/Syntax.lean ====
section
/-! DEFINITION. The instructions: the fields of the instruction words (spec/07 R174-R178), and one constructor for every
row of the opcode table. Group and tile instructions carry their words' fields under the manual's names; the rows that
are steps of the device's other agents (spec/95) carry what names the step. -/
namespace Sys2Proof

/-- The fields of an extended instruction (R178), with the literal where L = 0b10. -/
structure Ext where
  s : Bool
  g0 : BitVec 3
  g0n : Bool
  g1 : BitVec 3
  g1n : Bool
  gc : Bool
  hint : BitVec 2
  d : BitVec 8
  dcl : Bool
  a : BitVec 8
  acl : Bool
  apop : Bool
  b : BitVec 8
  bcl : Bool
  bpop : Bool
  c : BitVec 8
  ccl : Bool
  cpop : Bool
  e : BitVec 8
  ecl : Bool
  epop : Bool
  ty : BitVec 4
  rm : BitVec 3
  sat : Bool
  mod6 : BitVec 6
  aux8 : BitVec 8
  lit : Option W64
  deriving DecidableEq, Repr

/-- The fields of a base instruction (R176), with the literal where L = 0b11. -/
structure Base where
  s : Bool
  d : BitVec 7
  a : BitVec 7
  b : BitVec 7
  lit : Option W64
  deriving DecidableEq, Repr

/-- One constructor per row of the opcode table: the extended forms (R195-R198), the base forms (R202), and the
steps of the dispatchers, engines, memory system, firmware and host (spec/95). -/
inductive Instr where
  /-- UADD (R206) -/
  | uadd (x : Ext)
  /-- USUB (R206) -/
  | usub (x : Ext)
  /-- UMUL (R206) -/
  | umul (x : Ext)
  /-- UMULH (R206) -/
  | umulh (x : Ext)
  /-- UMAD (R206) -/
  | umad (x : Ext)
  /-- UAND (R206) -/
  | uand (x : Ext)
  /-- UOR (R206) -/
  | uor (x : Ext)
  /-- UXOR (R206) -/
  | uxor (x : Ext)
  /-- USHL (R206) -/
  | ushl (x : Ext)
  /-- USHR (R206) -/
  | ushr (x : Ext)
  /-- USRA (R206) -/
  | usra (x : Ext)
  /-- UMIN (R206) -/
  | umin (x : Ext)
  /-- UMAX (R206) -/
  | umax (x : Ext)
  /-- UCLZ (R206) -/
  | uclz (x : Ext)
  /-- UPOPC (R206) -/
  | upopc (x : Ext)
  /-- ULEA (R206) -/
  | ulea (x : Ext)
  /-- USEL (R206) -/
  | usel (x : Ext)
  /-- UCMP (R207) -/
  | ucmp (x : Ext)
  /-- UMOV (R206) -/
  | umov (x : Ext)
  /-- ULD (R208) -/
  | uld (x : Ext)
  /-- UST (R208) -/
  | ust (x : Ext)
  /-- BRA (R211) -/
  | bra (x : Ext)
  /-- BRX (R212) -/
  | brx (x : Ext)
  /-- CALL (R213) -/
  | call (x : Ext)
  /-- RET (R214) -/
  | ret (x : Ext)
  /-- JFENCE (R215) -/
  | jfence (x : Ext)
  /-- CFETCH (R216) -/
  | cfetch (x : Ext)
  /-- EXIT (R217) -/
  | exit (x : Ext)
  /-- YLD (R217) -/
  | yld (x : Ext)
  /-- RECONV (R21) -/
  | reconv (x : Ext)
  /-- NOP (R217) -/
  | nop (x : Ext)
  /-- SPAWN (R218) -/
  | spawn (x : Ext)
  /-- JOIN (R37) -/
  | join (x : Ext)
  /-- CANCEL (R33) -/
  | cancel (x : Ext)
  /-- LVLRD (R221) -/
  | lvlrd (x : Ext)
  /-- CAPQ (R222) -/
  | capq (x : Ext)
  /-- RDSR (R223) -/
  | rdsr (x : Ext)
  /-- WRSR (R223) -/
  | wrsr (x : Ext)
  /-- TRAP (R226) -/
  | trap (x : Ext)
  /-- ERET (R227) -/
  | eret (x : Ext)
  /-- PREACK (R228) -/
  | preack (x : Ext)
  /-- IADD (R231) -/
  | iadd (x : Ext)
  /-- ISUB (R231) -/
  | isub (x : Ext)
  /-- IMUL (R231) -/
  | imul (x : Ext)
  /-- IMULH (R231) -/
  | imulh (x : Ext)
  /-- IMAD (R231) -/
  | imad (x : Ext)
  /-- IMIN (R231) -/
  | imin (x : Ext)
  /-- IMAX (R231) -/
  | imax (x : Ext)
  /-- IABS (R231) -/
  | iabs (x : Ext)
  /-- IAND (R232) -/
  | iand (x : Ext)
  /-- IOR (R232) -/
  | ior (x : Ext)
  /-- IXOR (R232) -/
  | ixor (x : Ext)
  /-- ISHL (R232) -/
  | ishl (x : Ext)
  /-- ISHR (R232) -/
  | ishr (x : Ext)
  /-- ISRA (R232) -/
  | isra (x : Ext)
  /-- ICLZ (R232) -/
  | iclz (x : Ext)
  /-- IPOPC (R232) -/
  | ipopc (x : Ext)
  /-- IBFX (R233) -/
  | ibfx (x : Ext)
  /-- IBFI (R233) -/
  | ibfi (x : Ext)
  /-- ISET (R234) -/
  | iset (x : Ext)
  /-- ISEL (R234) -/
  | isel (x : Ext)
  /-- FADD (R235) -/
  | fadd (x : Ext)
  /-- FSUB (R235) -/
  | fsub (x : Ext)
  /-- FMUL (R235) -/
  | fmul (x : Ext)
  /-- FFMA (R235) -/
  | ffma (x : Ext)
  /-- FMIN (R237) -/
  | fmin (x : Ext)
  /-- FMAX (R237) -/
  | fmax (x : Ext)
  /-- FSET (R238) -/
  | fset (x : Ext)
  /-- FCLASS (R239) -/
  | fclass (x : Ext)
  /-- HADD2 (R240) -/
  | hadd2 (x : Ext)
  /-- HMUL2 (R240) -/
  | hmul2 (x : Ext)
  /-- HFMA2 (R240) -/
  | hfma2 (x : Ext)
  /-- HMIN2 (R240) -/
  | hmin2 (x : Ext)
  /-- HMAX2 (R240) -/
  | hmax2 (x : Ext)
  /-- CVT (R242) -/
  | cvt (x : Ext)
  /-- PACK4 (R243) -/
  | pack4 (x : Ext)
  /-- UNPK4 (R244) -/
  | unpk4 (x : Ext)
  /-- PLOP (R245) -/
  | plop (x : Ext)
  /-- MOV (R246) -/
  | mov (x : Ext)
  /-- S2V (R246) -/
  | s2v (x : Ext)
  /-- V2S (R247) -/
  | v2s (x : Ext)
  /-- SHFL (R249) -/
  | shfl (x : Ext)
  /-- VOTE (R250) -/
  | vote (x : Ext)
  /-- REDG (R251) -/
  | redg (x : Ext)
  /-- SCANG (R252) -/
  | scang (x : Ext)
  /-- MATCH (R253) -/
  | matchLanes (x : Ext)
  /-- EXP2 (R256) -/
  | exp2 (x : Ext)
  /-- LOG2 (R256) -/
  | log2 (x : Ext)
  /-- RCP (R256) -/
  | rcp (x : Ext)
  /-- RSQ (R256) -/
  | rsq (x : Ext)
  /-- SQRT (R256) -/
  | sqrt (x : Ext)
  /-- TANH (R256) -/
  | tanh (x : Ext)
  /-- LGST (R256) -/
  | lgst (x : Ext)
  /-- SINP (R256) -/
  | sinp (x : Ext)
  /-- COSP (R256) -/
  | cosp (x : Ext)
  /-- SFWAIT (R257) -/
  | sfwait (x : Ext)
  /-- LDG (R263) -/
  | ldg (x : Ext)
  /-- STG (R263) -/
  | stg (x : Ext)
  /-- LDS (R263) -/
  | lds (x : Ext)
  /-- STS (R263) -/
  | sts (x : Ext)
  /-- LDL (R263) -/
  | ldl (x : Ext)
  /-- STL (R263) -/
  | stl (x : Ext)
  /-- LDC (R263) -/
  | ldc (x : Ext)
  /-- PFCH (R265) -/
  | pfch (x : Ext)
  /-- ATOM (R267) -/
  | atom (x : Ext)
  /-- ATOMC (R269) -/
  | atomc (x : Ext)
  /-- RED (R267) -/
  | red (x : Ext)
  /-- ATOMS (R267) -/
  | atoms (x : Ext)
  /-- LDA (R271) -/
  | lda (x : Ext)
  /-- STRL (R271) -/
  | strl (x : Ext)
  /-- FENCE (R272) -/
  | fence (x : Ext)
  /-- OBJDECL (R90) -/
  | objdecl (x : Ext)
  /-- OBJDROP (R90) -/
  | objdrop (x : Ext)
  /-- SEAL (R91) -/
  | sealRange (x : Ext)
  /-- UNSEAL (R92) -/
  | unsealRange (x : Ext)
  /-- RSDECL (R275) -/
  | rsdecl (x : Ext)
  /-- RSSET (R275) -/
  | rsset (x : Ext)
  /-- RSEVICT (R275) -/
  | rsevict (x : Ext)
  /-- BARA (R276) -/
  | bara (x : Ext)
  /-- BARW (R101) -/
  | barw (x : Ext)
  /-- BARS (R101) -/
  | bars (x : Ext)
  /-- BARGEN (R276) -/
  | bargen (x : Ext)
  /-- BARCFG (R104) -/
  | barcfg (x : Ext)
  /-- SSTEP (R110) -/
  | sstep (x : Ext)
  /-- SBINIT (R113) -/
  | sbinit (x : Ext)
  /-- SBTAKE (R115) -/
  | sbtake (x : Ext)
  /-- SBGIVE (R117) -/
  | sbgive (x : Ext)
  /-- SBREAD (R118) -/
  | sbread (x : Ext)
  /-- SBCLOSE (R118) -/
  | sbclose (x : Ext)
  /-- CPY (R280) -/
  | cpy (x : Ext)
  /-- CPYR (R280) -/
  | cpyr (x : Ext)
  /-- CPYM (R280) -/
  | cpym (x : Ext)
  /-- MACK (R281) -/
  | mack (x : Ext)
  /-- CHAIN (R126) -/
  | chain (x : Ext)
  /-- MARM (R129) -/
  | marm (x : Ext)
  /-- MWAIT (R129) -/
  | mwait (x : Ext)
  /-- CHCFG (R138) -/
  | chcfg (x : Ext)
  /-- CHSTAT (R142) -/
  | chstat (x : Ext)
  /-- VQSEND (R143) -/
  | vqsend (x : Ext)
  /-- IDMB (R286) -/
  | idmb (x : Ext)
  /-- IDME (R286) -/
  | idme (x : Ext)
  /-- TSET (R300) -/
  | tset (x : Ext)
  /-- TDESC (R295) -/
  | tdesc (x : Ext)
  /-- TZERO (R301) -/
  | tzero (x : Ext)
  /-- TLDACC (R301) -/
  | tldacc (x : Ext)
  /-- TMMA (R302) -/
  | tmma (x : Ext)
  /-- TMMAB (R304) -/
  | tmmab (x : Ext)
  /-- TSCALE (R305) -/
  | tscale (x : Ext)
  /-- TTRANS (R305) -/
  | ttrans (x : Ext)
  /-- TADD (R305) -/
  | tadd (x : Ext)
  /-- TCVT (R305) -/
  | tcvt (x : Ext)
  /-- TSTORE (R306) -/
  | tstore (x : Ext)
  /-- TBAR (R307) -/
  | tbar (x : Ext)
  /-- TLOOP (R309) -/
  | tloop (x : Ext)
  /-- TEND (R310) -/
  | tend (x : Ext)
  /-- TFENCE (R308) -/
  | tfence (x : Ext)
  /-- RWPERM (R311) -/
  | rwperm (x : Ext)
  /-- TSAVE (R313) -/
  | tsave (x : Ext)
  /-- TRSTR (R313) -/
  | trstr (x : Ext)
  /-- TNOP (R308) -/
  | tnop (x : Ext)
  /-- TEXIT (R310) -/
  | texit (x : Ext)
  /-- NOP_BASE (R217) -/
  | nopBase (x : Base)
  /-- MOV_BASE (R246) -/
  | movBase (x : Base)
  /-- IADD_S32_BASE (R231) -/
  | iaddS32Base (x : Base)
  /-- IADD_S32_IMM_BASE (R231) -/
  | iaddS32ImmBase (x : Base)
  /-- ISUB_S32_BASE (R231) -/
  | isubS32Base (x : Base)
  /-- IMUL_S32_BASE (R231) -/
  | imulS32Base (x : Base)
  /-- IMUL_S32_IMM_BASE (R231) -/
  | imulS32ImmBase (x : Base)
  /-- IMULH_S32_BASE (R231) -/
  | imulhS32Base (x : Base)
  /-- IMIN_S32_BASE (R231) -/
  | iminS32Base (x : Base)
  /-- IMAX_S32_BASE (R231) -/
  | imaxS32Base (x : Base)
  /-- IMIN_U32_BASE (R231) -/
  | iminU32Base (x : Base)
  /-- IMAX_U32_BASE (R231) -/
  | imaxU32Base (x : Base)
  /-- IAND_BASE (R232) -/
  | iandBase (x : Base)
  /-- IOR_BASE (R232) -/
  | iorBase (x : Base)
  /-- IXOR_BASE (R232) -/
  | ixorBase (x : Base)
  /-- ISHL_BASE (R232) -/
  | ishlBase (x : Base)
  /-- ISHL_IMM_BASE (R232) -/
  | ishlImmBase (x : Base)
  /-- ISHR_BASE (R232) -/
  | ishrBase (x : Base)
  /-- ISHR_IMM_BASE (R232) -/
  | ishrImmBase (x : Base)
  /-- ISRA_BASE (R232) -/
  | israBase (x : Base)
  /-- ISRA_IMM_BASE (R232) -/
  | israImmBase (x : Base)
  /-- IAND_IMM_BASE (R232) -/
  | iandImmBase (x : Base)
  /-- FADD_BASE (R235) -/
  | faddBase (x : Base)
  /-- FSUB_BASE (R235) -/
  | fsubBase (x : Base)
  /-- FMUL_BASE (R235) -/
  | fmulBase (x : Base)
  /-- FMIN_BASE (R237) -/
  | fminBase (x : Base)
  /-- FMAX_BASE (R237) -/
  | fmaxBase (x : Base)
  /-- HADD2_F16_BASE (R240) -/
  | hadd2F16Base (x : Base)
  /-- HMUL2_F16_BASE (R240) -/
  | hmul2F16Base (x : Base)
  /-- HADD2_BF16_BASE (R240) -/
  | hadd2Bf16Base (x : Base)
  /-- HMUL2_BF16_BASE (R240) -/
  | hmul2Bf16Base (x : Base)
  /-- S2V_BASE (R246) -/
  | s2vBase (x : Base)
  /-- V2S_BASE (R247) -/
  | v2sBase (x : Base)
  /-- UADD_S64_BASE (R206) -/
  | uaddS64Base (x : Base)
  /-- UADD_S64_IMM_BASE (R206) -/
  | uaddS64ImmBase (x : Base)
  /-- USUB_S64_BASE (R206) -/
  | usubS64Base (x : Base)
  /-- UMUL_S64_BASE (R206) -/
  | umulS64Base (x : Base)
  /-- UAND_BASE (R206) -/
  | uandBase (x : Base)
  /-- UOR_BASE (R206) -/
  | uorBase (x : Base)
  /-- UXOR_BASE (R206) -/
  | uxorBase (x : Base)
  /-- USHL_IMM_BASE (R206) -/
  | ushlImmBase (x : Base)
  /-- USHR_IMM_BASE (R206) -/
  | ushrImmBase (x : Base)
  /-- UMIN_S64_BASE (R206) -/
  | uminS64Base (x : Base)
  /-- UMAX_S64_BASE (R206) -/
  | umaxS64Base (x : Base)
  /-- UMOV_BASE (R206) -/
  | umovBase (x : Base)
  /-- LDS_B32_BASE (R263) -/
  | ldsB32Base (x : Base)
  /-- LDG_B32_BASE (R263) -/
  | ldgB32Base (x : Base)
  /-- LDG_U64_BASE (R263) -/
  | ldgU64Base (x : Base)
  /-- ULD_U64_BASE (R208) -/
  | uldU64Base (x : Base)
  /-- ISET_LT_S32_BASE (R234) -/
  | isetLtS32Base (x : Base)
  /-- ISET_GE_S32_BASE (R234) -/
  | isetGeS32Base (x : Base)
  /-- ISET_EQ_S32_BASE (R234) -/
  | isetEqS32Base (x : Base)
  /-- ISET_NE_S32_BASE (R234) -/
  | isetNeS32Base (x : Base)
  /-- UCMP_LT_S64_BASE (R207) -/
  | ucmpLtS64Base (x : Base)
  /-- UCMP_EQ_S64_BASE (R207) -/
  | ucmpEqS64Base (x : Base)
  /-- UCMP_LT_S64_IMM_BASE (R207) -/
  | ucmpLtS64ImmBase (x : Base)
  /-- EXIT_BASE (R217) -/
  | exitBase (x : Base)
  /-- YLD_BASE (R217) -/
  | yldBase (x : Base)
  /-- RET_BASE (R214) -/
  | retBase (x : Base)
  /-- UMOV_IMM_BASE (R206) -/
  | umovImmBase (x : Base)
  /-- MOV_IMM_BASE (R246) -/
  | movImmBase (x : Base)
  /-- LDC_B32_BASE (R263) -/
  | ldcB32Base (x : Base)
  /-- USRA_IMM_BASE (R206) -/
  | usraImmBase (x : Base)
  /-- UPOPC_BASE (R206) -/
  | upopcBase (x : Base)
  /-- ENTRY_PROMOTION (R19) -/
  | entryPromotion (c : Nat) (b : Nat) (g : Nat)
  /-- RECONV_DEADLOCK_RELEASE (R21) -/
  | reconvDeadlockRelease (c : Nat) (b : Nat) (g : Nat)
  /-- LAUNCH_RECORD (R382) -/
  | launchRecord (t : Nat) (ring : Nat)
  /-- QUEUE_PROMOTION (R39) -/
  | queuePromotion (t : Nat)
  /-- BLOCK_DISPATCH (R41) -/
  | blockDispatch (t : Nat)
  /-- PATIENCE_EXPIRY (R41) -/
  | patienceExpiry (t : Nat) (l : Nat)
  /-- REGION_ADMISSION_STEP (R399) -/
  | regionAdmissionStep
  /-- BLOCK_START (R42) -/
  | blockStart (d : Nat)
  /-- BLOCK_COMPLETE (R27) -/
  | blockComplete (c : Nat) (b : Nat)
  /-- SCHEDULE_SET_SELECTION (R43) -/
  | scheduleSetSelection (t : Nat) (l : Nat)
  /-- VARIABLE_LATENCY_RETURN (R319) -/
  | variableLatencyReturn (c : Nat) (b : Nat) (g : Nat) (i : Nat)
  /-- SCOREBOARD_RETURN (R260) -/
  | scoreboardReturn (c : Nat) (b : Nat) (g : Nat) (i : Nat)
  /-- TOKEN_COMPLETE (R255) -/
  | tokenComplete (c : Nat) (b : Nat) (g : Nat) (k : Nat)
  /-- FORCED_SWITCH (R323) -/
  | forcedSwitch (c : Nat) (b : Nat) (g : Nat)
  /-- GROUP_DEMOTION (R324) -/
  | groupDemotion (c : Nat) (b : Nat) (g : Nat)
  /-- GROUP_RECALL (R324) -/
  | groupRecall (c : Nat) (b : Nat) (g : Nat)
  /-- TRAP_DELIVERY (R224) -/
  | trapDelivery (c : Nat) (b : Nat) (g : Nat)
  /-- WRITE_COMBINING_DRAIN (R84) -/
  | writeCombiningDrain (c : Nat) (line : Nat)
  /-- DIRECTORY_REQUEST (R89) -/
  | directoryRequest (e : Nat) (line : Nat) (write : Nat)
  /-- GUEST_DROP_REPORT (R356) -/
  | guestDropReport (e : Nat) (line : Nat)
  /-- SCRATCHPAD_ECC_ERROR (R69) -/
  | scratchpadEccError (c : Nat) (b : Nat)
  /-- HOLD_ECC_ERROR (R52) -/
  | holdEccError (c : Nat) (b : Nat) (g : Nat) (key : Nat)
  /-- BARRIER_RELEASE (R102) -/
  | barrierRelease (c : Nat) (b : Nat) (lvl : Nat) (n : Nat)
  /-- AND_TREE_ARRIVAL (R105) -/
  | andTreeArrival (t : Nat) (l : Nat) (n : Nat) (node : Nat)
  /-- AND_TREE_RELEASE (R108) -/
  | andTreeRelease (t : Nat) (l : Nat) (n : Nat)
  /-- CORE_FAILURE (R109) -/
  | coreFailure (c : Nat)
  /-- STAMP_BOOK_HOME_REQUEST (R115) -/
  | stampBookHomeRequest (d : Nat)
  /-- CHAIN_RECORD_FETCH (R126) -/
  | chainRecordFetch (c : Nat) (slot : Nat)
  /-- XFER_NOP (R123) -/
  | xferNop (c : Nat) (id : Nat)
  /-- COPY (R124) -/
  | copy (c : Nat) (id : Nat)
  /-- REDUCE (R131) -/
  | reduce (c : Nat) (id : Nat)
  /-- MCAST (R130) -/
  | mcast (c : Nat) (id : Nat)
  /-- MULTICAST_DELIVERY_ACK (R130) -/
  | multicastDeliveryAck (c : Nat) (id : Nat) (rank : Nat)
  /-- COPY_OPERATION_COMPLETE (R128) -/
  | copyOperationComplete (c : Nat) (id : Nat)
  /-- MONITOR_WAKE (R129) -/
  | monitorWake (c : Nat) (b : Nat) (g : Nat) (m : Nat)
  /-- MONITOR_POLL (R129) -/
  | monitorPoll (c : Nat) (b : Nat) (g : Nat) (m : Nat)
  /-- LINK_PACKET_RECEIVE (R132) -/
  | linkPacketReceive (d : Nat) (unit : Nat) (seqno : Nat) (crcOk : Nat) (vni : Nat) (red : Nat) (pa : Nat) (payload : List Byte)
  /-- LINK_REPLAY (R132) -/
  | linkReplay (d : Nat) (unit : Nat) (rerouted : Nat)
  /-- CHANNEL_WORD_ARRIVAL (R141) -/
  | channelWordArrival (c : Nat) (ch : Nat)
  /-- CREDIT_GRANT (R138) -/
  | creditGrant (c : Nat) (ch : Nat)
  /-- GATHER (R146) -/
  | gather (c : Nat) (id : Nat)
  /-- SCATTERADD (R146) -/
  | scatteradd (c : Nat) (id : Nat)
  /-- TOPK (R146) -/
  | topk (c : Nat) (id : Nat)
  /-- HIST (R146) -/
  | hist (c : Nat) (id : Nat)
  /-- BLOCKQ (R147) -/
  | blockq (c : Nat) (id : Nat)
  /-- REQ (R148) -/
  | req (c : Nat) (id : Nat)
  /-- TRANS (R148) -/
  | trans (c : Nat) (id : Nat)
  /-- VERTICAL_WINDOW (R149) -/
  | verticalWindow (c : Nat) (askers : Nat)
  /-- VERTICAL_WIRE_FAILURE (R151) -/
  | verticalWireFailure (d : Nat) (spareLeft : Nat)
  /-- REWRITE_WINDOW_TIMEOUT (R327) -/
  | rewriteWindowTimeout (c : Nat) (b : Nat)
  /-- SEGMENT_FETCH_COMPLETE (R216) -/
  | segmentFetchComplete (c : Nat) (slot : Nat)
  /-- DEFERRED_FETCH_START (R216) -/
  | deferredFetchStart (c : Nat) (slot : Nat)
  /-- PAGE_WALK_COMPLETE (R391) -/
  | pageWalkComplete (d : Nat) (t : Nat) (va : Nat) (write : Nat) (agent : Nat) (core : Nat) (l : Nat)
  /-- FAULT_RESPONSE (R394) -/
  | faultResponse (t : Nat)
  /-- XINV_GO (R395) -/
  | xinvGo (d : Nat)
  /-- XINV_COMPLETE (R395) -/
  | xinvComplete (d : Nat)
  /-- PREEMPT_GO (R397) -/
  | preemptGo
  /-- PREEMPT_DEADLINE (R397) -/
  | preemptDeadline (t : Nat)
  /-- RESUME (R398) -/
  | resume (t : Nat)
  /-- PWSTEP_WRITE (R396) -/
  | pwstepWrite (val : Nat)
  /-- DROOP_ALARM (R400) -/
  | droopAlarm (r : Nat)
  /-- DROOP_RECOVERY (R400) -/
  | droopRecovery (r : Nat)
  /-- IMBALANCE_SAMPLE (R402) -/
  | imbalanceSample (pair : Nat)
  /-- FORCEFB (R403) -/
  | forcefb (r : Nat)
  /-- RESTACK (R403) -/
  | restack (r : Nat)
  /-- DRAINING_END (R401) -/
  | drainingEnd (r : Nat)
  /-- SWITCHING_END (R401) -/
  | switchingEnd (r : Nat)
  /-- REGION_TRIP (R401) -/
  | regionTrip (r : Nat)
  /-- TRIPPED_END (R401) -/
  | trippedEnd (r : Nat)
  /-- RESTARTING_END (R401) -/
  | restartingEnd (r : Nat) (pass : Nat)
  /-- DOMAIN_LOSS (R120) -/
  | domainLoss (d : Nat) (cause : Nat)
  /-- OPERATING_POINT_CHANGE (R404) -/
  | operatingPointChange (d : Nat) (tier : Nat) (pt : Nat)
  /-- TIME_REFERENCE_PULSE (R405) -/
  | timeReferencePulse
  /-- CXL_LINK_DOWN (R407) -/
  | cxlLinkDown (p : Nat)
  /-- PEER_ACCESS (R406) -/
  | peerAccess (m : Nat) (vni : Nat) (va : Nat) (size : Nat) (write : Nat) (val : Nat)
  /-- HOST_BAR2_ACCESS (R379) -/
  | hostBar2Access (fn : Nat) (addr : Nat) (payload : List Byte)
  /-- POWER_ON_BOOT (R366) -/
  | powerOnBoot (image : List Byte) (sorter : List Byte)
  /-- SORTER_HEARTBEAT (R364) -/
  | sorterHeartbeat
  /-- SORTER_HEARTBEAT_TIMEOUT (R364) -/
  | sorterHeartbeatTimeout
  /-- SORTER_MAILBOX_WRITE (R364) -/
  | sorterMailboxWrite (off : Nat) (val : Nat)
  /-- TOPOLOGY_REFRESH (R370) -/
  | topologyRefresh
  /-- TENANT_RESET (R377) -/
  | tenantReset (t : Nat)
  /-- FUNCTION_LEVEL_RESET (R378) -/
  | functionLevelReset (vf : Nat)
  /-- LOAD (R340) -/
  | load (t : Nat)
  /-- UNLOAD (R342) -/
  | unload (t : Nat)
  /-- FWSET (R62) -/
  | fwset (t : Nat)
  /-- UNPOISON (R387) -/
  | unpoison (t : Nat)
  /-- LVLFREE (R387) -/
  | lvlfree (t : Nat)
  /-- RULES (R333) -/
  | rules (t : Nat)
  /-- ATTEST (R416) -/
  | attest (t : Nat)
  /-- ADMIT (R388) -/
  | admitTenant
  /-- RETIRE (R388) -/
  | retire
  /-- DRAINCORE (R413) -/
  | draincore
  /-- RETRAIN (R413) -/
  | retrain (ok : Nat)
  /-- RECAL (R413) -/
  | recal
  /-- DRAIN_DEADLINE (R413) -/
  | drainDeadline
  /-- FWUPDATE (R414) -/
  | fwupdate
  /-- SORTERLOAD (R415) -/
  | sorterload (ok : Nat)
  /-- ADMIN_ATTEST (R416) -/
  | adminAttest
  /-- MIGSET (R417) -/
  | migset
  /-- ERROR_COUNTER_CLEAR (R409) -/
  | errorCounterClear (d : Nat) (word : Nat)
  /-- REGISTER_WRITE (R11) -/
  | registerWrite (fn : Nat) (off : Nat) (val : Nat)
  /-- MEMORY_ERROR (R68) -/
  | memoryError (level : Nat) (loc : Nat) (correctable : Nat)
  /-- COURIER_LINK_DOWN (R406) -/
  | courierLinkDown (port : Nat)
  /-- HOST_MAILBOX_IMAGE (R366) -/
  | hostMailboxImage (image : List Byte)
  /-- RING_TAIL_WRITE (R381) -/
  | ringTailWrite (fn : Nat) (off : Nat) (val : Nat)
  deriving DecidableEq, Repr

end Sys2Proof
end

