-- ==== Sys2Proof/Machine/State.lean ====
section
/-! DEFINITION. The state of a CQW64-A module: plain data for every piece of state the spec names, the reasons a step
can stop, and the state after reset. Sparse maps are lists sorted by key; a map of words lists no zero. -/
namespace Sys2Proof.Machine
open Sys2Proof

/-- A map from numbers to records, sorted by key, without repeats. -/
abbrev KMap (α : Type) := List (Nat × α)
/-- A map from numbers to words, sorted by key, without repeats and without zeros: an unlisted key reads zero. -/
abbrev ZMap (w : Nat) := List (Nat × BitVec w)

/-- Why the machine stops. Every trap the spec describes is taken, as a next state, and is none of these. -/
inductive Fault where
  /-- Raised by a group instruction when the agent whose turn it is (`cur`) is no live group with a selectable entry: a
  state no run of `step` reaches, which no instruction of the spec describes. Safe: the machine only stops. -/
  | noAgent
  deriving DecidableEq, Repr

/-- Why an instruction has no meaning. -/
inductive Refusal where
  /-- An instruction the model has not reached, by its mnemonic. Safe. -/
  | notModelled (mnemonic : String)
  deriving DecidableEq, Repr

/-- A code address (R201): overlay segment and byte offset in it. -/
structure Pc where
  seg : Nat
  off : Nat
  deriving DecidableEq, Repr

/-- A group trap: its code and detail (R225). -/
structure Trap where
  code : BitVec 8
  info : W64
  deriving DecidableEq, Repr

/-- A trap raised and not yet delivered (R52, R224, R279, R320): the address for %xpc where it is fixed at the raise, the
lane whose entry takes it, and whether it was raised inside a handler. -/
structure Late where
  trap : Trap
  xpc : Option Pc
  lane : Option Nat
  inHandler : Bool
  deriving DecidableEq, Repr

/-- An armed monitor (R129): the word's physical address or scratchpad offset, and the address it was armed with. -/
structure Monitor where
  addr : Nat
  spad : Bool
  va : Nat
  deriving DecidableEq, Repr

/-- What a frontier entry waits for (R21, R101, R110, R129) and where it goes on. `d` is the uniform register, or the
channel when `ch`, that takes the status; `step` of a superstep's wait. -/
inductive Wait where
  | reconv (lanes : Lanes) (next : Pc)
  | bar (lvl n : Nat) (gen : BitVec 16) (ch : Bool) (d : Nat) (next : Pc) (step : Bool)
  | mon (m : Nat) (on : Monitor) (v : W64) (scope : BitVec 4) (ch : Bool) (d : Nat) (next : Pc)
  deriving DecidableEq, Repr

/-- A frontier entry (R15), with its wait count and promotion (R19), demotion (R20) and wait; `slot`: the overlay slot it has been in
since its segment landed in a lower one, while it takes no target (R209). -/
structure Entry where
  pc : Pc
  prio : BitVec 14
  mask : Lanes
  count : Nat
  promoted : Bool
  demoted : Bool
  wait : Option Wait
  slot : Option Nat := none
  deriving DecidableEq, Repr

/-- A result on its way to its destination (R183, R319): a vector register of some lanes, a uniform register, a uniform
predicate, or words for a channel whose space is reserved (R140). -/
inductive WriteBack where
  | vec (r : Nat) (pair : Bool) (vals : List (Nat × W64))
  | uni (r : Nat) (v : W64)
  | upred (r : Nat) (v : Bool)
  | push (ch : Nat) (words : List W32)
  | nothing
  deriving DecidableEq, Repr

/-- An outstanding class V result (R319) and the flags it raises when it returns (R223). -/
structure Pend where
  wb : WriteBack
  flags : BitVec 5
  deriving DecidableEq, Repr

/-- A scoreboard slot of a class A instruction (R260): the lanes still at a home, and the lowest counter that met
SBFAULT (R279). -/
structure BoardSlot where
  id : Nat
  wb : WriteBack
  left : Nat
  fault : Option (Nat × W64)
  deriving DecidableEq, Repr

/-- An outstanding special-function instruction (R255), in queue order. -/
structure Token where
  r : Nat
  vals : List (Nat × W32)
  flags : BitVec 5
  order : Nat
  deriving DecidableEq, Repr

/-- Why a group is parked (R318). A fault park lists domain, fault identifier and address of each pending fault. -/
inductive Park where
  | switchPoint
  | fault (waits : List (Nat × Nat × Nat))
  | channel (ch : Nat)
  | full
  | scoreboard
  | token
  | barrier
  | sfwait
  | preack
  deriving DecidableEq, Repr

/-- A set-aside frontier and the handler's kind (R224, R227): the trapped entry for a synchronous trap, none for
PREEMPT. -/
structure Handler where
  saved : List Entry
  trapped : Option Entry
  resumed : Bool
  deriving DecidableEq, Repr

/-- A restart point of an idempotent region (R286). -/
structure Restart where
  pc : Pc
  prio : BitVec 14
  mask : Lanes
  s17 : List W64
  deriving DecidableEq, Repr

/-- A hardware barrier (R97, R101, R104): generation, expected count, whether BARCFG set it, arrived members. -/
structure Bar where
  gen : BitVec 16
  exp : Nat
  custom : Bool
  arrived : List Nat
  deriving DecidableEq, Repr

/-- An agent as scopes see it (R71, R72): tenant, launch, block index, cluster, domain, quadrant, and for a thread its
group and lane; an engine has none; the host is marked. -/
structure Who where
  tenant : Nat
  launch : Nat
  block : Nat
  clus : Nat
  domain : Nat
  quad : Nat
  thread : Option (Nat × Nat)
  host : Bool
  deriving DecidableEq, Repr

/-- The last release recorded for a synchronisation variable (R86), the write it made and the step it was made in; `size` is
0 once another write has replaced that write. -/
structure Rel where
  who : Who
  scope : BitVec 4
  addr : Nat
  size : Nat
  tick : Nat
  deriving DecidableEq, Repr

/-- A strong read a group has made (R75, R272): lane, address, size, scope, and the recorded release whose value
it returned (R81). -/
structure ReadNote where
  lane : Nat
  addr : Nat
  size : Nat
  scope : BitVec 4
  rel : Option Rel
  deriving DecidableEq, Repr

/-- A SIMT group (R14, R50, R223). `fenceRel` holds, for each lane, the widest scope of the releasing FENCEs it has executed (R75). -/
structure Group where
  v : ZMap 32
  s : ZMap 64
  p : ZMap 64
  q : BitVec 7
  fflags : BitVec 5
  scopeMiss : Bool
  xpc : W64
  xprio : W32
  xcode : W32
  xinfo : W64
  xmask : W64
  frontier : List Entry
  exited : Lanes
  handler : Option Handler
  tokens : KMap Token
  pend : KMap Pend
  board : List BoardSlot
  park : Option Park
  sinceSwitch : Nat
  forced : Bool
  monitors : KMap Monitor
  restart : Option Restart
  resident : Bool
  slot : Nat
  fenceRel : KMap (BitVec 4)
  reads : List ReadNote
  late : List Late
  preempt : Bool
  preacked : Bool
  lastIssue : Nat
  parked : Option Nat
  ready : Option Nat
  deriving DecidableEq, Repr

/-- A kernel's attributes, from its kernel-table entry (R192, R339). Offsets are code addresses. -/
structure Kernel where
  entry : Pc
  width : Nat
  lanes : Nat
  regs : Nat
  uregs : Nat
  scratch : Nat
  l1 : Nat
  idem : Bool
  trap : Option Pc
  tile : Option Pc
  order : Bool
  round : Bool
  prio0 : BitVec 14
  hmode : BitVec 2
  hint : W64
  deriving DecidableEq, Repr

/-- A tile descriptor (R295). -/
structure Desc where
  ty : BitVec 4
  colMajor : Bool
  spad : Bool
  addr : Nat
  rows : Nat
  cols : Nat
  pitch : Nat
  step : BitVec 2
  deriving DecidableEq, Repr

/-- A tile instruction past decode (R325, R331): its address, XOP and fields, the values captured for A and B, and the second
factor of an internal operation. -/
structure TileOp where
  pc : Pc
  xop : BitVec 10
  x : Ext
  va : W64
  vb : W64
  vc : W32
  deriving DecidableEq, Repr

/-- An entry of the rewrite window (R327-R329): one instruction, or a rule's replacement group and the instructions it stands
for; the permission in force at the instruction (ORDER, ROUND); whether it may still be matched. -/
structure WinEntry where
  rule : Option Nat
  ops : List TileOp
  orig : List TileOp
  perm : Bool × Bool
  matched : Bool
  deriving DecidableEq, Repr

/-- A tile stream (R288-R291, R327, R334): its PC, accumulators by 64·i + j and their flags, descriptors, x registers, rewrite
permission, window and rule table; whether it is parked, the barrier generation it waits for, whether its constants have been
read, whether it met TILLOP behind pending instructions, whether it has ended, and whether pre-emption has saved it. -/
structure Tile where
  pc : Pc
  acc : KMap (ZMap 32)
  flags : ZMap 5
  d : KMap Desc
  x : ZMap 64
  order : Bool
  round : Bool
  window : List WinEntry
  rules : List (List W64)
  park : Option Park
  bar : Option (Nat × BitVec 16)
  ready : Bool
  ill : Bool
  ended : Bool
  saved : Bool
  deriving DecidableEq, Repr

/-- A superstep arrival held until these operations and channel words are delivered (R110); `pends` are the results, by group and number,
whose words are yet to be pushed. -/
structure Held where
  lvl : Nat
  n : Nat
  member : Nat
  ops : List Nat
  words : List Nat
  pends : List (Nat × Nat)
  deriving DecidableEq, Repr

/-- A block on a core (R25-R29); `share`: the 64 KiB pages of the SRAM that its scratchpad share takes, in order (R53), and `zeros`
those of its pages that held zero when it was given them (R56); `orphan`: its core was retired while it was released (R398);
`lost`: the numbers of the words it pushed that will never be delivered (R111). -/
structure Block where
  tenant : Nat
  launch : Nat
  index : Nat
  record : List W64
  image : Nat
  home : Option Nat
  kern : Kernel
  nGroups : Nat
  groups : KMap Group
  bars : KMap Bar
  arr : ZMap 64
  held : List Held
  lost : List Nat
  scratch : KMap Byte
  share : List Nat
  zeros : List Nat
  epoch : Nat
  rc : ZMap 16
  sig : BitVec 1024
  tile : Option Tile
  relaunches : Nat
  orphan : Bool
  started : Bool
  draining : Bool
  deriving DecidableEq, Repr

/-- An overlay slot (R209). -/
structure Slot where
  state : BitVec 2
  seg : Nat
  words : List W32
  starts : List Bool
  pending : Option Nat
  deriving DecidableEq, Repr

/-- A 128-byte L1 line (R57): bytes by offset, and the hint it was allocated with. -/
structure L1Line where
  bytes : List Byte
  hint : BitVec 2
  deriving DecidableEq, Repr

/-- A channel entry (R138, R142, R362). A mesh-in buffer's words lie in the owner's scratchpad share, a ring of DEPTH words
at BUFW; `head` and `count` place them. -/
structure Chan where
  word : W64
  owner : Option Nat
  head : Nat
  count : Nat
  credits : Nat
  reserved : Nat
  outstanding : Nat
  kept : Nat
  peerDepth : Option Nat
  broken : Bool
  frozen : Bool
  deriving DecidableEq, Repr

/-- A word on its way to a mesh-in entry (R141), and the block that sent it while it is on its core. -/
structure FlightWord where
  id : Nat
  ch : Nat
  dst : Nat
  dstCh : Nat
  vni : Nat
  word : W32
  block : Option Nat
  deriving DecidableEq, Repr

/-- A chain slot (R126): 0 IDLE, 1 RUN, 2 WAIT, 3 ERROR; the fault, by domain and identifier, that its next record waits for (R134). -/
structure ChainSlot where
  state : BitVec 2
  owner : Nat
  cur : Nat
  tail : Nat
  fault : Option (Nat × Nat)
  deriving DecidableEq, Repr

/-- Where an engine operation stands: not started, started, waiting for deliveries, waiting to postmark, or paused on a fault
before or after its payload moved. -/
inductive OpStage where
  | waiting
  | payload
  | acks
  | done
  | faulted (domain fid : Nat) (moved : Bool)
  deriving DecidableEq, Repr

/-- An engine operation in flight (R121, R144): engine 0 copy unit, 1 TVE, 2 FXE; its record's words; issuing block and
group; chain slot and record address; `todo` and `acks` are a multicast's ranks still to be delivered to and to acknowledge (R130); the
progress word `prog` counts the elements committed (R132), of an order that `seed` names, and `olds` holds, by address, the bytes that an
overlapping copy has replaced (R124). -/
structure Op where
  id : Nat
  eng : Nat
  w : List W64
  block : Nat
  tenant : Nat
  grp : Nat
  chain : Option (Nat × Nat)
  sig : BitVec 1024
  stage : OpStage
  todo : List Nat
  acks : List Nat
  seed : Nat
  prog : Nat
  olds : KMap Byte
  deriving DecidableEq, Repr

/-- A range-lock entry (R137): operation, block, scratchpad or global, destination or source, byte range. -/
structure RangeLock where
  op : Nat
  block : Nat
  spad : Bool
  dst : Bool
  lo : Nat
  hi : Nat
  deriving DecidableEq, Repr

/-- A strong operation that a thread has issued and that has not yet been performed at its home (R79, R261, R266-R271): its address, size
and value, with the type and code of a read-modify-write or the value a compare-and-swap compares with; its agent, and its block while
that is on its core; its scope, whether it is a release, the scope and signature it publishes with (R85), and the scoreboard slot that
its old value goes to (R260). -/
structure StrongW where
  pa : Nat
  n : Nat
  v : Nat
  op : Option (BitVec 4 × BitVec 4)
  cmp : Option Nat
  who : Who
  block : Option Nat
  scope : BitVec 4
  rel : Bool
  pub : Option (BitVec 4)
  sig : BitVec 1024
  ret : Option Nat
  deriving DecidableEq, Repr

/-- A core (R14, R26, R53); `retired`: it takes no new block (R109, R413). `l1Order` lists the L1's lines, the next victims first (R57);
`strong` the strong operations on their way, oldest first; `clear` the 64 KiB pages of the SRAM that no block has had since they were
cleared (R56). -/
structure Core where
  retired : Bool
  tenant : Option Nat
  code : Option (Nat × Nat)
  launch : Option (Nat × Nat)
  slots : KMap Slot
  l1 : KMap L1Line
  l1Order : List Nat
  strong : List StrongW
  clear : List Nat
  wc : KMap (List (Nat × Byte))
  consts : KMap (List Byte)
  chans : KMap Chan
  flight : List FlightWord
  chains : KMap ChainSlot
  ops : List Op
  locks : List RangeLock
  asm : KMap (List W32)
  rates : BitVec 6
  windowAsk : BitVec 3
  blocks : KMap Block
  kept : KMap Block
  keptChans : KMap Chan
  deriving DecidableEq, Repr

/-- A guest line (R58, R70, R89): its bytes, which are dirty, the VNI it was filled for, and whether it is a copy of a poisoned line. -/
structure Guest where
  bytes : List Byte
  dirty : BitVec 128
  vni : Nat
  bad : Bool
  deriving DecidableEq, Repr

/-- A directory entry's state (R89). -/
inductive DirState where
  | none | shared | owned | multi
  deriving DecidableEq, Repr

/-- A directory entry (R88): state, presence vector and the tick of its last use. -/
structure DirEntry where
  st : DirState
  present : BitVec 64
  used : Nat
  deriving DecidableEq, Repr

/-- A coherence object of R90. -/
structure CObj where
  tenant : Nat
  base : Nat
  lines : List Nat
  dir : DirEntry
  deriving DecidableEq, Repr

/-- The scales attached to a line in an L2 (R65): the window (home domain times 16 and number) and its format, where the scales were
copied from, the block scales and the band scale, a line of them that was poisoned, and whether a store has removed them since. -/
structure Att where
  win : Nat
  fmt : Nat
  scaleAt : Nat
  bandAt : Nat
  blocks : List Byte
  band : List Byte
  bad : Option Nat
  stale : Bool
  deriving DecidableEq, Repr

/-- A synchronisation-variable table entry (R86), with the tick of its last use. -/
structure SvEntry where
  part : BitVec 64
  sig : BitVec 1024
  rel : Option Rel
  flushed : BitVec 64
  used : Nat
  deriving DecidableEq, Repr

/-- A home's record of an open stamp-book counter (R114, R116): per domain with a book its cap, its recorded amount, and
whether Vh and P count it. -/
structure SbHome where
  books : KMap (Nat × Nat × Bool)
  tenant : Nat
  deriving DecidableEq, Repr

/-- A stamp-book request on its way to its home (R113, R115). -/
structure SbReq where
  op : Nat
  pa : Nat
  n : Nat
  domain : Nat
  core : Nat
  block : Nat
  grp : Nat
  slot : Nat
  lane : Nat
  va : W64
  deriving DecidableEq, Repr

/-- A fault-table entry (R392): tenant, 64 KiB page, WRITE, cause, and the accesses that wait on it. -/
structure FaultEntry where
  tenant : Nat
  page : Nat
  write : Bool
  cause : Nat
  deriving DecidableEq, Repr

/-- A cached translation (R391): tenant, first 64 KiB page, pages, physical page, writable. -/
structure TlbEntry where
  tenant : Nat
  vpage : Nat
  npages : Nat
  ppage : Nat
  write : Bool
  deriving DecidableEq, Repr

/-- The counters of a domain's error block (R409); `frozen` holds SPARES, SHORTBAYS and DRAIN of a lost domain as they stood at its loss. -/
structure ErrBlock where
  ceSram : Nat
  ceReg : Nat
  ceDram : Nat
  ceL2 : Nat
  imemPar : Nat
  poison : Nat
  ueSram : Nat
  ueReg : Nat
  vniDrops : Nat
  reroutes : Nat
  replays : Nat
  retired : Nat
  vwHalf : Nat
  vwSpare : Nat
  tstamp : Nat
  frozen : Option (Nat × Nat × Bool)
  deriving DecidableEq, Repr

/-- A block waiting at a domain dispatcher (R42): tenant, launch, linear index (first of a cluster), cluster size, its
record's words, image and kernel, for a restart or relaunch the relaunch count, the groups' restart points and the core
it must not return to, its home (R40), and the grid barriers' generations that its block's old arrivals count in, which complete
first (R359). -/
structure Waiting where
  tenant : Nat
  launch : Nat
  first : Nat
  size : Nat
  w : List W64
  image : Nat
  kern : Kernel
  relaunches : Nat
  restarts : Option (KMap Restart)
  avoid : Option Nat
  home : Option Nat
  after : List (Nat × BitVec 16)
  deriving DecidableEq, Repr

/-- A domain (R58, R369); `l2` lists the lines that its L2 holds, home and guest, the least recently used first, `hdirty` the home lines
of them written since they came in (R68), `att` the scales attached to its lines (R65), and `vnis` the VNIs permitted on its router's
ports (R375); `pins` lists the lines that the tile fetch of the instruction now running has pinned, the oldest first (R59, R297);
`xinvFor`: the tenant that its last GO named (R395); `wiped`: its memory has lost its power since boot, and these lines of it have been
written since (R401). -/
structure Domain where
  lost : Bool
  drain : Bool
  queue : List Waiting
  guest : KMap Guest
  dir : KMap DirEntry
  objs : KMap CObj
  svt : KMap SvEntry
  books : ZMap 48
  counters : KMap SbHome
  sbReqs : List SbReq
  faults : KMap FaultEntry
  nextFid : Nat
  tlb : List TlbEntry
  xinva : W64
  xinvn : W64
  xinvBusy : Bool
  xinvErr : Bool
  xinvSeq : W32
  xinvFor : Nat
  fw : KMap (List W64)
  ueFirst : Bool
  cpt : BitVec 8
  bpt : BitVec 8
  skew : Int
  timeoff : W64
  err : ErrBlock
  handles : KMap Bool
  l2 : List Nat
  hdirty : List Nat
  att : KMap Att
  pins : List Nat
  vnis : List Nat
  links : KMap (List Nat)
  retained : KMap (List (List Nat))
  wiped : Option (List Nat)
  deriving DecidableEq, Repr

/-- A power region (R400-R403); `throttledAt`: when its throttle to 7/8 began (R402). -/
structure Region where
  st : BitVec 3
  droop : Nat
  lastAlarm : Nat
  since : Nat
  toStack : Bool
  ballast : Bool
  throttle : Nat
  heavySince : Option Nat
  throttledAt : Option Nat
  lightSince : Option Nat
  shunts : Nat
  trips : Nat
  droops : Nat
  current : Nat
  imb : Int
  deriving DecidableEq, Repr

/-- A ring's registers (R380, R381); `seen` is how far a device-produced ring's HEAD has been taken into account. -/
structure Ring where
  base : Nat
  en : Bool
  err : Bool
  log2n : Nat
  tail : W32
  head : W32
  seen : W32
  deriving DecidableEq, Repr

/-- A completion counter (R31, R221): state 0 FREE, 1 OPEN, 2 DONE, 3 CANCELLED; `parent` is the enclosing counter's
identifier. -/
structure Counter where
  st : BitVec 2
  value : Nat
  closed : Bool
  alrDone : Bool
  discards : Nat
  parent : Nat
  deriving DecidableEq, Repr

/-- A variant of a schedule set (R43): the largest size it covers, its code pointer and grid words, and the image and kernel
the pointer names. -/
structure Variant where
  cls : W64
  code : W64
  grid : W64
  image : Nat
  kern : Kernel
  deriving DecidableEq, Repr

/-- An accepted continuation record (R34) with its origin (R384): its words, or the chosen variant's in their place (R43); source, launch
ring and core; when it entered its queue (R39); the image and kernel its code pointer named when it was accepted (R342); the size word's
address and the variants while a schedule-set selection is due; the linear indices still to place; and the bytes of its hint table from
the first of its blocks (R40). -/
structure Record where
  w : List W64
  source : Nat
  ring : Nat
  core : Nat
  since : Nat
  image : Nat
  kern : Kernel
  sel : Option (Nat × List Variant)
  next : Nat
  left : Nat
  homes : List Byte
  deriving DecidableEq, Repr

/-- An OPEN launch (R31, R36): the grid word it runs and the number of its blocks, the order in which it was accepted, since
when each block that waits for its home does, by its index (R41), the power regions it was admitted to
and those it waits for (R44, R399), the domain and size of a unit so held back (R45, R107), its grid and cluster barriers (R97), the
core of each placed block, the completed blocks (R98), receipts held for blocks that have not started (R130), and whether it failed (R385). -/
structure Launch where
  gridWord : W64
  grid : Nat
  order : Nat
  patience : KMap Nat
  held : Option (Nat × Nat)
  admitted : List Nat
  starts : List Nat
  gridBars : KMap Bar
  clusBars : KMap Bar
  places : KMap Nat
  completed : List Nat
  heldAcks : KMap (List Nat)
  failed : Bool
  deriving DecidableEq, Repr

/-- A residency handle (R60): range, priority, lines. -/
structure Handle where
  base : Nat
  len : Nat
  prio : Nat
  lines : List Nat
  order : Nat
  deriving DecidableEq, Repr

/-- A tenant (R375-R380, R30-R39). `sealPas` holds the physical pages of each sealed range, by its base (R91). `fqWait` lists
the XFAULT records that wait for room in the fault ring (R383), `fqPosted` the domain and FID of those in it that await an answer, by
ring index (R394). `clean`: nothing has been done for the tenant since its last reset completed (R376, R388). -/
structure Tenant where
  st : BitVec 2
  vni : Nat
  placement : List Nat
  root : Nat
  pthome : Nat
  port : Nat
  vf : Nat
  rstDone : Bool
  clean : Bool
  wd : BitVec 16
  wq : BitVec 16
  topopa : Nat
  apbase : Nat
  rings : KMap Ring
  fqDrops : Nat
  fqWait : List (List W64)
  fqPosted : KMap (Nat × Nat)
  dqDrops : Nat
  levels : KMap Counter
  phase : Nat
  queues : KMap (List Record)
  hold : List Record
  launches : KMap Launch
  codes : KMap Nat
  seals : List (Nat × Nat)
  sealPas : KMap (List Nat)
  handles : KMap Handle
  esum : BitVec 7
  exc : ZMap 48
  migGen : W64
  archWords : List W64
  rules : Option (List (List W64))
  again : List Waiting
  pstat : BitVec 3
  perr : Bool
  pdeadline : Nat
  pstyle : BitVec 2
  pctx : Nat
  deriving DecidableEq, Repr

/-- A stored native image (R340): hash, references, segments, kernels. -/
structure Image where
  hash : BitVec 256
  refs : Nat
  segs : KMap (List W32)
  kernels : List Kernel
  nseg : Nat
  portable : Bool
  deriving DecidableEq, Repr

/-- An AND-tree node's slot for a launch (R105, R107): node, tenant, launch, participation and per-barrier reports. -/
structure TreeSlot where
  node : Nat
  tenant : Nat
  launch : Nat
  part : BitVec 16
  reports : ZMap 16
  deriving DecidableEq, Repr

/-- An entry of the violation log (R364, R369, R375). -/
structure Violation where
  kind : Nat
  loc : Nat
  val : Nat
  deriving DecidableEq, Repr

/-- A repair under way (R413): command, core or domain, deadline. -/
structure Drain where
  op : Nat
  target : Nat
  deadline : Nat
  deriving DecidableEq, Repr

/-- The module's firmware and registers outside the domains (R363-R366, R396, R411); the weights that the Sorter has set (R39) and
the lines it gives tenants for residency in a domain, by 64 · domain + tenant (R61); the tenant its round-robin serves, with the units
left to it (R39); the wafer time of the last region admission step (R44, R399), and that of the last reference pulse
(R405); until when a Postmaster that failed its check waits for an image in the mailbox (R414); the boot's attestation key pair, by number
(R416); what the last host access through BAR2 was completed with: the bytes read, or nothing, an Unsupported Request (R379, R393). -/
structure Module where
  bootStep : BitVec 4
  bootErr : BitVec 8
  ready : Bool
  mailbox : Option (List Byte)
  flash : List Byte
  running : List Byte
  sorter : List Byte
  svnMin : BitVec 8
  pmSvn : BitVec 8
  sorterSvn : BitVec 8
  beats : Nat
  lastBeat : Nat
  sorterUp : Bool
  limits : KMap (Nat × Nat)
  violations : List Violation
  attests : Nat
  deadFields : List Nat
  deadCores : List (Nat × Nat × Nat)
  fieldOf : List Nat
  bays : KMap (List Nat)
  topoGen : W64
  topoVer : BitVec 16
  pubTime : Nat
  freeFigs : KMap Nat
  queuedFigs : KMap Nat
  latNs : List Nat
  pctl : W64
  pwMax : BitVec 12
  pwLimit : BitVec 12
  hostHome : List Nat
  peers : KMap (BitVec 16 × Bool × Bool × W32)
  apbase : Nat
  rings : KMap Ring
  evDrops : Nat
  spareMin : BitVec 8
  svc : BitVec 6
  msix : List (Nat × Nat)
  cxl : KMap (Bool × Bool × Nat × Nat)
  drains : List Drain
  weights : KMap Nat
  budgets : KMap Nat
  rr : Nat × Nat
  admitAt : Option Nat
  refusals : Nat
  numVfs : List Nat
  msixTab : KMap (W64 × W64)
  pba : List (Nat × Nat)
  badStitches : List (Nat × Nat)
  routes : KMap (Bool × List Nat)
  hostUp : List Bool
  pfPage : Option Nat
  lastPulse : Nat
  fwFetch : Option Nat
  attestKey : Nat
  completion : Option (List Byte)
  deriving DecidableEq, Repr

/-- A state a tile stream saved (R312): its number, the image its code comes from, and the stream. -/
structure Save where
  id : Nat
  image : Nat
  tile : Tile
  deriving DecidableEq, Repr

/-- The agent whose turn it is: a group of a block of a core, or its tile stream when `grp` is none. -/
structure Agent where
  core : Nat
  block : Nat
  grp : Option Nat
  deriving DecidableEq, Repr

/-- A step of an agent of the device other than a stream, or of its surroundings: the event rows of the opcode table (spec/95), as the
schedule names them. -/
inductive Event where
  | entryPromotion (c : Nat) (b : Nat) (g : Nat)
  | reconvDeadlockRelease (c : Nat) (b : Nat) (g : Nat)
  | launchRecord (t : Nat) (ring : Nat)
  | queuePromotion (t : Nat)
  | blockDispatch (t : Nat)
  | patienceExpiry (t : Nat) (l : Nat)
  | regionAdmissionStep
  | blockStart (d : Nat)
  | blockComplete (c : Nat) (b : Nat)
  | scheduleSetSelection (t : Nat) (l : Nat)
  | variableLatencyReturn (c : Nat) (b : Nat) (g : Nat) (i : Nat)
  | scoreboardReturn (c : Nat) (b : Nat) (g : Nat) (i : Nat)
  | tokenComplete (c : Nat) (b : Nat) (g : Nat) (k : Nat)
  | forcedSwitch (c : Nat) (b : Nat) (g : Nat)
  | groupDemotion (c : Nat) (b : Nat) (g : Nat)
  | groupRecall (c : Nat) (b : Nat) (g : Nat)
  | trapDelivery (c : Nat) (b : Nat) (g : Nat)
  | writeCombiningDrain (c : Nat) (line : Nat)
  | directoryRequest (e : Nat) (line : Nat) (write : Nat)
  | guestDropReport (e : Nat) (line : Nat)
  | scratchpadEccError (c : Nat) (b : Nat)
  | holdEccError (c : Nat) (b : Nat) (g : Nat) (key : Nat)
  | barrierRelease (c : Nat) (b : Nat) (lvl : Nat) (n : Nat)
  | andTreeArrival (t : Nat) (l : Nat) (n : Nat) (node : Nat)
  | andTreeRelease (t : Nat) (l : Nat) (n : Nat)
  | coreFailure (c : Nat)
  | stampBookHomeRequest (d : Nat)
  | chainRecordFetch (c : Nat) (slot : Nat)
  | xferNop (c : Nat) (id : Nat)
  | copy (c : Nat) (id : Nat)
  | reduce (c : Nat) (id : Nat)
  | mcast (c : Nat) (id : Nat)
  | multicastDeliveryAck (c : Nat) (id : Nat) (rank : Nat)
  | copyOperationComplete (c : Nat) (id : Nat)
  | monitorWake (c : Nat) (b : Nat) (g : Nat) (m : Nat)
  | monitorPoll (c : Nat) (b : Nat) (g : Nat) (m : Nat)
  | linkPacketReceive (d : Nat) (unit : Nat) (seqno : Nat) (crcOk : Nat) (vni : Nat) (red : Nat) (pa : Nat) (payload : List Byte)
  | linkReplay (d : Nat) (unit : Nat) (rerouted : Nat)
  | channelWordArrival (c : Nat) (ch : Nat)
  | creditGrant (c : Nat) (ch : Nat)
  | gather (c : Nat) (id : Nat)
  | scatteradd (c : Nat) (id : Nat)
  | topk (c : Nat) (id : Nat)
  | hist (c : Nat) (id : Nat)
  | blockq (c : Nat) (id : Nat)
  | req (c : Nat) (id : Nat)
  | trans (c : Nat) (id : Nat)
  | verticalWindow (c : Nat) (askers : Nat)
  | verticalWireFailure (d : Nat) (spareLeft : Nat)
  | rewriteWindowTimeout (c : Nat) (b : Nat)
  | segmentFetchComplete (c : Nat) (slot : Nat)
  | deferredFetchStart (c : Nat) (slot : Nat)
  | pageWalkComplete (d : Nat) (t : Nat) (va : Nat) (write : Nat) (agent : Nat) (core : Nat) (l : Nat)
  | faultResponse (t : Nat)
  | xinvGo (d : Nat)
  | xinvComplete (d : Nat)
  | preemptGo
  | preemptDeadline (t : Nat)
  | resume (t : Nat)
  | pwstepWrite (val : Nat)
  | droopAlarm (r : Nat)
  | droopRecovery (r : Nat)
  | imbalanceSample (pair : Nat)
  | forcefb (r : Nat)
  | restack (r : Nat)
  | drainingEnd (r : Nat)
  | switchingEnd (r : Nat)
  | regionTrip (r : Nat)
  | trippedEnd (r : Nat)
  | restartingEnd (r : Nat) (pass : Nat)
  | domainLoss (d : Nat) (cause : Nat)
  | operatingPointChange (d : Nat) (tier : Nat) (pt : Nat)
  | timeReferencePulse
  | cxlLinkDown (p : Nat)
  | peerAccess (m : Nat) (vni : Nat) (va : Nat) (size : Nat) (write : Nat) (val : Nat)
  | hostBar2Access (fn : Nat) (addr : Nat) (payload : List Byte)
  | powerOnBoot (image : List Byte) (sorter : List Byte)
  | sorterHeartbeat
  | sorterHeartbeatTimeout
  | sorterMailboxWrite (off : Nat) (val : Nat)
  | topologyRefresh
  | tenantReset (t : Nat)
  | functionLevelReset (vf : Nat)
  | load (t : Nat)
  | unload (t : Nat)
  | fwset (t : Nat)
  | unpoison (t : Nat)
  | lvlfree (t : Nat)
  | rules (t : Nat)
  | attest (t : Nat)
  | admitTenant
  | retire
  | draincore
  | retrain (ok : Nat)
  | recal
  | drainDeadline
  | fwupdate
  | sorterload (ok : Nat)
  | adminAttest
  | migset
  | errorCounterClear (d : Nat) (word : Nat)
  | registerWrite (fn : Nat) (off : Nat) (val : Nat)
  | memoryError (level : Nat) (loc : Nat) (correctable : Nat)
  | courierLinkDown (port : Nat)
  | hostMailboxImage (image : List Byte)
  | ringTailWrite (fn : Nat) (off : Nat) (val : Nat)
  deriving DecidableEq, Repr

/-- A turn of the schedule (log 3): a group's or tile stream's next instruction, a step of another agent, or time. -/
inductive Turn where
  | agent (a : Agent)
  | event (e : Event)
  | elapse (ns : Nat)
  deriving DecidableEq, Repr

/-- The whole module. `past` is the model's own: the signature of every line that a tenant's agents have ever written, which a release
publishes with its own (R76, R87; log 137). -/
structure State where
  mem : ZMap 8
  poison : List Nat
  cores : KMap Core
  domains : KMap Domain
  regions : KMap Region
  tenants : KMap Tenant
  images : KMap Image
  tree : List TreeSlot
  saves : List Save
  past : ZMap 1024
  mod : Module
  now : Nat
  turns : List Turn
  cur : Agent
  tick : Nat
  deriving DecidableEq, Repr

/-- A core that holds nothing. -/
def Core.fresh : Core :=
  { retired := false, tenant := none, code := none, launch := none, slots := [], l1 := [], l1Order := [], strong := [], clear := [], wc := [], consts := []
    chans := [], flight := [], chains := [], ops := [], locks := [], asm := [], rates := 0, windowAsk := 0
    blocks := [], kept := [], keptChans := [] }

/-- An error block with every counter zero (R409). -/
def ErrBlock.fresh : ErrBlock := ⟨0, 0, 0, 0, 0, 0, 0, 0, 0, 0, 0, 0, 0, 0, 0, none⟩

/-- A domain at reset. -/
def Domain.fresh : Domain :=
  { lost := false, drain := false, queue := [], guest := [], dir := [], objs := [], svt := [], books := []
    counters := [], sbReqs := [], faults := [], nextFid := 0, tlb := [], xinva := 0, xinvn := 0, xinvBusy := false
    xinvErr := false, xinvSeq := 0, xinvFor := 0, fw := [], ueFirst := false, cpt := 0, bpt := 0, skew := 0, timeoff := 0
    err := ErrBlock.fresh, handles := [], l2 := [], hdirty := [], att := [], pins := [], vnis := [0], links := [], retained := [], wiped := none }

/-- A power region at reset: STACKED at the nominal clock (R401, R403). -/
def Region.fresh : Region :=
  { st := 0, droop := 0, lastAlarm := 0, since := 0, toStack := false, ballast := false, throttle := 0
    heavySince := none, throttledAt := none, lightSince := none, shunts := 0, trips := 0, droops := 0, current := 0, imb := 0 }

/-- A ring at reset (R380): disabled, LOG2N 4. -/
def Ring.fresh : Ring := ⟨0, false, false, 4, 0, 0, 0⟩

/-- A counter that is FREE (R31). -/
def Counter.fresh : Counter := ⟨0, 0, false, false, 0, 0⟩

/-- A tenant that is FREE, its window at the reset values of R380. -/
def Tenant.fresh : Tenant :=
  { st := 0, vni := 0, placement := [], root := 0, pthome := 0, port := 0, vf := 0, rstDone := false, clean := false, wd := 1
    wq := 200, topopa := 0, apbase := 0, rings := [], fqDrops := 0, fqWait := [], fqPosted := [], dqDrops := 0, levels := [], phase := 0
    queues := [], hold := [], launches := [], codes := [], seals := [], sealPas := [], handles := [], esum := 0, exc := []
    migGen := 0, archWords := [], rules := none, again := [], pstat := 0, perr := false, pdeadline := 0, pstyle := 0, pctx := 0 }

/-- The module at power-on, before boot step 1 (R366). -/
def Module.fresh : Module :=
  { bootStep := 0, bootErr := 0, ready := false, mailbox := none, flash := [], running := [], sorter := [], svnMin := 0, pmSvn := 0
    sorterSvn := 0, beats := 0, lastBeat := 0, sorterUp := false, limits := [], violations := [], attests := 0
    deadFields := [], deadCores := [], fieldOf := [], bays := [], topoGen := 0, topoVer := 0, pubTime := 0
    freeFigs := [], queuedFigs := [], latNs := [8, 25, 60, 90, 140, 220, 600, 2000], pctl := 0, pwMax := 0xFFF
    pwLimit := 0, hostHome := [0, 0, 0, 0], peers := [], apbase := 0, rings := [], evDrops := 0, spareMin := 2
    svc := 0, msix := [], cxl := [], drains := [], weights := [], budgets := [], rr := (64, 0), admitAt := none, refusals := 0
    numVfs := [0, 0, 0, 0], msixTab := [], pba := [], badStitches := [], routes := [], hostUp := [false, false, false, false]
    pfPage := none, lastPulse := 0, fwFetch := none, attestKey := 0, completion := some [] }

/-- The machine right after reset: a module at power-on. Nothing is admitted, placed or loaded. -/
def State.reset : State :=
  { mem := [], poison := [], cores := [], domains := [], regions := [], tenants := [], images := [], tree := [], saves := [], past := []
    mod := Module.fresh, now := 0, turns := [], cur := ⟨0, 0, none⟩, tick := 0 }

end Sys2Proof.Machine
end

