-- ==== Sys2Proof/Machine/Maps.lean ====
section
/-! DEFINITION. The operations on sorted maps, on bytes of memory and on sets of lanes. -/
namespace Sys2Proof.Machine
open Sys2Proof

/-- The record at a key. -/
def kget {α : Type} (m : KMap α) (k : Nat) : Option α :=
  match m with
  | [] => none
  | (j, v) :: r => if j = k then some v else kget r k

/-- The map with a record at a key. -/
def kset {α : Type} (m : KMap α) (k : Nat) (v : α) : KMap α :=
  match m with
  | [] => [(k, v)]
  | (j, w) :: r => if k < j then (k, v) :: (j, w) :: r else if k = j then (k, v) :: r else (j, w) :: kset r k v

/-- The map without a key. -/
def kdel {α : Type} (m : KMap α) (k : Nat) : KMap α :=
  match m with
  | [] => []
  | (j, w) :: r => if k = j then kdel r k else (j, w) :: kdel r k

/-- The map with the record at a key, if there is one, changed. -/
def kupd {α : Type} (m : KMap α) (k : Nat) (f : α → α) : KMap α :=
  match m with
  | [] => []
  | (j, w) :: r => if k = j then (j, f w) :: r else (j, w) :: kupd r k f

/-- Every record changed. -/
def kmap {α : Type} (m : KMap α) (f : Nat → α → α) : KMap α := m.map fun (k, v) => (k, f k v)

/-- A core's blocks, kept ones too, each changed alike. -/
def Core.mapBlocks (k : Core) (f : Nat → Block → Block) : Core := { k with blocks := kmap k.blocks f, kept := kmap k.kept f }

/-- The word at a key: an unlisted key reads zero. -/
def zget {w : Nat} (m : ZMap w) (k : Nat) : BitVec w := (kget m k).getD 0

/-- The map with a word at a key: writing zero removes the entry. -/
def zset {w : Nat} (m : ZMap w) (k : Nat) (v : BitVec w) : ZMap w := if v = 0 then kdel m k else kset m k v

/-- Keys rise strictly, from above `lo`. -/
def keysAbove {α : Type} (lo : Nat) (m : KMap α) : Bool :=
  match m with
  | [] => true
  | (k, _) :: r => decide (lo ≤ k) && keysAbove (k + 1) r

/-- The canonical form of a word map: keys rise strictly and no word is zero. -/
def zwf {w : Nat} (m : ZMap w) : Bool := keysAbove 0 m && m.all fun (_, v) => v != 0

/-- The canonical form of memory. -/
def Memory.wf (m : ZMap 8) : Bool := zwf m

/-- `n` bytes of memory from `a`. -/
def readBytes (m : ZMap 8) (a n : Nat) : List Byte :=
  match n with
  | 0 => []
  | n + 1 => zget m a :: readBytes m (a + 1) n

/-- Memory with bytes stored from `a`. -/
def writeBytes (m : ZMap 8) (a : Nat) (bs : List Byte) : ZMap 8 :=
  match bs with
  | [] => m
  | b :: r => writeBytes (zset m a b) (a + 1) r

/-- A little-endian value of bytes (R8). -/
def leNat (bs : List Byte) : Nat :=
  match bs with
  | [] => 0
  | b :: r => b.toNat + 256 * leNat r

/-- The `n` low bytes of a value, least significant first (R8). -/
def leBytes (n v : Nat) : List Byte :=
  match n with
  | 0 => []
  | n + 1 => BitVec.ofNat 8 v :: leBytes n (v / 256)

/-- A 64-bit little-endian word of memory. -/
def readW64 (m : ZMap 8) (a : Nat) : W64 := BitVec.ofNat 64 (leNat (readBytes m a 8))

/-- Memory with a 64-bit little-endian word. -/
def writeW64 (m : ZMap 8) (a : Nat) (v : W64) : ZMap 8 := writeBytes m a (leBytes 8 v.toNat)

/-- `n` consecutive 64-bit words. -/
def readWords (m : ZMap 8) (a n : Nat) : List W64 :=
  match n with
  | 0 => []
  | n + 1 => readW64 m a :: readWords m (a + 8) n

/-- Memory with consecutive 64-bit words. -/
def writeWords (m : ZMap 8) (a : Nat) (ws : List W64) : ZMap 8 :=
  match ws with
  | [] => m
  | w :: r => writeWords (writeW64 m a w) (a + 8) r

/-- A bit field of a word, as a number: bits [lo+n-1:lo]. -/
def bits (w : W64) (lo n : Nat) : Nat := w.toNat / 2 ^ lo % 2 ^ n

/-- One bit of a word. -/
def bit (w : W64) (i : Nat) : Bool := w.getLsbD i

/-- Word `k` of a record. -/
def word (ws : List W64) (k : Nat) : W64 := ws.getD k 0

/-- The bits named hold zero. -/
def zeroBits (w : W64) (lo n : Nat) : Bool := decide (bits w lo n = 0)

/-- A signed reading of the low `n` bits of a number. -/
def signedNat (n v : Nat) : Int := if v % 2 ^ n < 2 ^ (n - 1) then (v % 2 ^ n : Nat) else ((v % 2 ^ n : Nat) : Int) - 2 ^ n

/-- The lanes below a width. -/
def lanesBelow (w : Nat) : Lanes := BitVec.ofNat 64 (2 ^ w - 1)

/-- The lanes of a set, below `w`, in increasing order. -/
def laneList (w : Nat) (m : Lanes) : List Nat := (List.range w).filter fun l => m.getLsbD l

/-- One lane's bit. -/
def laneBit (l : Nat) : Lanes := BitVec.ofNat 64 (2 ^ l)

/-- The number of lanes of a set. -/
def laneCount (m : Lanes) : Nat := (laneList 64 m).length

/-- The set of listed lanes. -/
def lanesOf (ls : List Nat) : Lanes := ls.foldl (fun m l => m ||| laneBit l) 0

/-- The members of a list of numbers without repeats: a member is added once. -/
def addMember (ls : List Nat) (k : Nat) : List Nat := if ls.contains k then ls else ls ++ [k]

/-- Replace an element of a list by position. -/
def setAt {α : Type} (l : List α) (i : Nat) (v : α) : List α :=
  match l, i with
  | [], _ => []
  | _ :: r, 0 => v :: r
  | x :: r, i + 1 => x :: setAt r i v

/-- Ceiling division. -/
def ceilDiv (a b : Nat) : Nat := (a + b - 1) / b

/-- CRC-32C of one byte, reflected polynomial 0x82F6_3B78. -/
def crcByte (crc : Nat) (b : Byte) : Nat :=
  (List.range 8).foldl (fun c _ => if c % 2 = 1 then (c / 2) ^^^ 0x82F63B78 else c / 2) (crc ^^^ b.toNat)

/-- CRC-32C of bytes (R312, R330). -/
def crc32c (bs : List Byte) : Nat := (bs.foldl crcByte 0xFFFFFFFF) ^^^ 0xFFFFFFFF

end Sys2Proof.Machine
end

