-- ==== Sys2Proof/Machine/Hash.lean ====
section
/-! DEFINITION. SHA-256, and the LMS verification of RFC 8554 with the parameter sets of R365. Both are written from the definitions
that the spec cites by name (R340, R365, R416). -/
namespace Sys2Proof.Machine
open Sys2Proof

/-- The primes below 312, which are the first 64, in order. -/
def shaPrimes : List Nat := (List.range 312).filter fun n => decide (2 ≤ n) && (List.range 18).all fun d => d < 2 || n ≤ d || n % d != 0
/-- The largest number below 2^k, added to `r`, whose `e`-th power does not exceed `v`. -/
def rootBelow (e v : Nat) : Nat → Nat → Nat
  | 0, r => r
  | k + 1, r => rootBelow e v k (if (r + 2 ^ k) ^ e ≤ v then r + 2 ^ k else r)
/-- The first 32 bits of the fraction of a prime's `e`-th root. -/
def rootBits (e p : Nat) : W32 := BitVec.ofNat 32 (rootBelow e (p * 2 ^ (32 * e)) 37 0)
/-- SHA-256's round constants: the cube roots of the first 64 primes. -/
def shaK : List W32 := shaPrimes.map (rootBits 3)
/-- SHA-256's first chaining value: the square roots of the first 8 primes. -/
def shaInit : List W32 := (shaPrimes.take 8).map (rootBits 2)

/-- A number's `n` bytes, most significant first. -/
def bigBytes (n v : Nat) : List Byte := (leBytes n v).reverse
/-- The number of big-endian bytes. -/
def bigNat (bs : List Byte) : Nat := leNat bs.reverse

/-- Message words past the first 16; the list runs backwards, the newest first. -/
def shaExtend : Nat → List W32 → List W32
  | 0, ws => ws
  | n + 1, ws =>
    let at_ (i : Nat) : W32 := ws.getD i 0
    let s1 (x : W32) : W32 := x.rotateRight 17 ^^^ x.rotateRight 19 ^^^ (x >>> 10)
    let s0 (x : W32) : W32 := x.rotateRight 7 ^^^ x.rotateRight 18 ^^^ (x >>> 3)
    shaExtend n ((s1 (at_ 1) + at_ 6 + s0 (at_ 14) + at_ 15) :: ws)
/-- One round over the eight working variables. -/
def shaRound (v : List W32) (kw : W32 × W32) : List W32 :=
  match v with
  | [a, b, c, d, e, f, g, h] =>
    let t1 := h + (e.rotateRight 6 ^^^ e.rotateRight 11 ^^^ e.rotateRight 25) + ((e &&& f) ^^^ (~~~e &&& g)) + kw.1 + kw.2
    let t2 := (a.rotateRight 2 ^^^ a.rotateRight 13 ^^^ a.rotateRight 22) + ((a &&& b) ^^^ (a &&& c) ^^^ (b &&& c))
    [t1 + t2, a, b, c, d + t1, e, f, g]
  | _ => v
/-- One 64-byte block folded into the chaining value. -/
def shaBlock (h : List W32) (bs : List Byte) : List W32 :=
  let ws := (List.range 16).map fun i => BitVec.ofNat 32 (bigNat ((bs.drop (4 * i)).take 4))
  let v := (shaK.zip (shaExtend 48 ws.reverse).reverse).foldl shaRound h
  List.zipWith (· + ·) h v
/-- The padded message's blocks in order. -/
def shaBlocks : Nat → List W32 → List Byte → List W32
  | 0, h, _ => h
  | n + 1, h, bs => shaBlocks n (shaBlock h (bs.take 64)) (bs.drop 64)
/-- SHA-256 of some bytes, as its 32 bytes in order. -/
def shaBytes (bs : List Byte) : List Byte :=
  let pad := (119 - bs.length % 64) % 64
  let msg := bs ++ [0x80] ++ List.replicate pad 0 ++ bigBytes 8 (8 * bs.length)
  ((shaBlocks (msg.length / 64) shaInit msg).map fun w => bigBytes 4 w.toNat).flatten
/-- SHA-256 as one value, its first byte lowest as memory holds it (R8). -/
def sha256 (bs : List Byte) : BitVec 256 := BitVec.ofNat 256 (leNat (shaBytes bs))

/-- Element `i` of a string of `w`-bit numbers, the most significant first (RFC 8554, section 3.1.3). -/
def otsCoef (bs : List Byte) (i w : Nat) : Nat := (bs.getD (i * w / 8) 0).toNat / 2 ^ (8 - (i % (8 / w) + 1) * w) % 2 ^ w
/-- The digest with its checksum (RFC 8554, section 4.4). -/
def otsChecked (q : List Byte) (w ls : Nat) : List Byte :=
  let sum := ((List.range (256 / w)).map fun i => 2 ^ w - 1 - otsCoef q i w).sum
  q ++ bigBytes 2 (sum * 2 ^ ls)
/-- One chain of a one-time signature, from element `a` on. -/
def otsChain (pre : List Byte) (i : Nat) : Nat → Nat → List Byte → List Byte
  | 0, _, t => t
  | n + 1, j, t => otsChain pre i n (j + 1) (shaBytes (pre ++ bigBytes 2 i ++ bigBytes 1 j ++ t))
/-- The root of an LMS tree from a leaf and its path. -/
def lmsRoot (key : List Byte) : Nat → Nat → List (List Byte) → List Byte → List Byte
  | 0, _, _, t => t
  | n + 1, node, path, t =>
    let p := path.headD []
    let pre := key ++ bigBytes 4 (node / 2) ++ bigBytes 2 0x8383
    lmsRoot key n (node / 2) (path.drop 1) (shaBytes (if node % 2 = 1 then pre ++ p ++ t else pre ++ t ++ p))
/-- The one-time parameters of a type code: w, p and ls; nothing for a set that R365 does not name. -/
def otsSet (c : Nat) : Option (Nat × Nat × Nat) := match c with | 3 => some (4, 67, 4) | 4 => some (8, 34, 0) | _ => none
/-- The tree heights that R365 names. -/
def lmsHeight (c : Nat) : Option Nat := match c with | 6 => some 10 | 7 => some 15 | _ => none
/-- Bytes `o` on of a string. -/
def piece (bs : List Byte) (o n : Nat) : List Byte := (bs.drop o).take n

/-- RFC 8554's verification of a message under an LMS public key, for the parameter sets of R365. -/
def lmsVerifies (msg key sig : List Byte) : Bool :=
  match lmsHeight (bigNat (piece key 0 4)), otsSet (bigNat (piece key 4 4)) with
  | some h, some (w, p, ls) =>
    let id := piece key 8 16
    let leaf := bigNat (piece sig 0 4)
    let pre := id ++ bigBytes 4 leaf
    let digest := shaBytes (pre ++ bigBytes 2 0x8181 ++ piece sig 8 32 ++ msg)
    let ends := (List.range p).map fun i =>
      let a := otsCoef (otsChecked digest w ls) i w
      otsChain pre i (2 ^ w - 1 - a) a (piece sig (40 + 32 * i) 32)
    let after := 40 + 32 * p
    let top := lmsRoot id h (2 ^ h + leaf) ((List.range h).map fun i => piece sig (after + 4 + 32 * i) 32)
      (shaBytes (id ++ bigBytes 4 (2 ^ h + leaf) ++ bigBytes 2 0x8282 ++ shaBytes (pre ++ bigBytes 2 0x8080 ++ ends.flatten)))
    key.length == 56 && sig.length == after + 4 + 32 * h && piece sig 4 4 == piece key 4 4 &&
      piece sig after 4 == piece key 0 4 && decide (leaf < 2 ^ h) && top == piece key 24 32
  | _, _ => false

end Sys2Proof.Machine
end

