-- ==== Sys2Proof/Config.lean ====
section
/-! DEFINITION. What one CQW64-A fixes, and the free values: what the spec leaves open has no body here, so no
proof can learn a number for it. -/
namespace Sys2Proof.Config

/-- CAPQ word ARCH (R222). -/
def arch : W64 := 0x100#64
/-- CAPQ word FEAT (R222). -/
def feat : W64 := 0x7F#64
/-- CAPQ word LIMITS (R222). -/
def limits : W64 := 0x05090F07#64
/-- CAPQ words SAVEVER and RULEVER (R222, R312, R330). -/
def saveVer : W64 := 1#64
def ruleVer : W64 := 1#64

/-- FREE VALUE: a special function's result on an input its special-input tables do not list (R169, R170).
The argument is the function's XOP and the operand. -/
opaque sfApprox : Nat → W32 → W32
/-- FREE VALUE: whether an unchecked read, or a second write, meets the newer value (R322, R258):
tick, register, lane. -/
opaque takesNew : Nat → Nat → Nat → Bool
/-- FREE VALUE: a scratchpad byte no one has written since the share was given or restored (R56, R362):
epoch, offset. -/
opaque scratchByte : Nat → Nat → Byte
/-- FREE VALUE: a register that an uncorrectable hold-tier error touched (R52): tick, key. -/
opaque eccWord : Nat → Nat → W64
/-- FREE VALUE: whether a cached translation is still held when it is looked up (R391): tick, page. -/
opaque tlbHolds : Nat → Nat → Bool
/-- FREE VALUES: the L1's ways beyond two, and a line's set before reduction (R57): the spec gives neither. -/
opaque l1Ways : Nat
opaque l1Set : Nat → Nat
/-- FREE VALUES: a line's slice and set in an L2 before reduction (R58): the hash is not published. -/
opaque l2Slice : Nat → Nat
opaque l2Set : Nat → Nat
/-- FREE VALUE: whether the constant cache still holds a unit (R49): tick, unit. -/
opaque constHolds : Nat → Nat → Bool
/-- FREE VALUE: the order in which a transfer's elements move (R124): operation, elements left. -/
opaque moveOrder : Nat → Nat → Nat
/-- FREE VALUE: the order in which a multicast's elements are written in a rank's share (R124): operation, rank, elements left. -/
opaque castOrder : Nat → Nat → Nat → Nat
/-- FREE VALUE: an element of an overlapping copy that takes the source's newer value (R124): operation, element. -/
opaque copyTakesNew : Nat → Nat → Bool
/-- FREE VALUE: the distance within ±4 ns of the wafer reference that a pulse leaves (R405), read modulo 9. -/
opaque pulseError : Nat → Nat
/-- FREE VALUES: whether a domain misses a reference pulse, and how far its oscillator runs from the reference in that millisecond
(R405), read modulo 21. -/
opaque pulseMissed : Nat → Bool
opaque pulseDrift : Nat → Nat
/-- FREE VALUE: whether the host completes a request with an error (R406): tick, line. -/
opaque hostFails : Nat → Nat → Bool
/-- FREE VALUE: the bytes of a save image past its first 16 (R312): the state's arrangement is not published.
It is drawn from an identity of the saved state and a byte index. -/
opaque saveByte : Nat → Nat → Byte
/-- FREE VALUE: how the bytes of a save image that tell its state are coded (R312, R313): what is added to the state's number. -/
opaque saveMask : Nat
/-- FREE VALUE: the bytes of a core's slot of a context area after a release (R396, R397): the time, a byte index. -/
opaque contextByte : Nat → Nat → Byte
/-- FREE VALUES of attestation (R416): a byte of the public key of a boot's key pair, by the pair's number; of the signature of some bytes under
the pair, by the number of signatures before it; and of the identity key's signature of a public key. -/
opaque attestKeyByte : Nat → Nat → Byte
opaque attestSignByte : Nat → Nat → List Byte → Nat → Byte
opaque certByte : List Byte → Nat → Byte
/-- FREE VALUE: the choices that the loader's translator makes where R347 leaves it some (order, base forms): the portable file, the
choice's number. -/
opaque translatorPick : List Byte → Nat → Nat
/-- FREE VALUE: the native words that end a cross-lane round at width 128, computing R249 to R253 over both halves (R351): XOP, REGS,
the instruction's words. -/
opaque roundTail : Nat → Nat → List W32 → List W32
/-- FREE VALUE: how a load report's contents are arranged as bytes (R340): the status, index and hash; the warnings, each a kind and an
address; and each kernel's width and NGRP. -/
opaque reportBytes : Nat → Nat → BitVec 256 → List (Nat × W64) → List (Nat × Nat) → List Byte
/-- FREE VALUE: a byte of a line whose poison mark a command clears: what an error or a loss of power has left there (R70,
R401): tick, offset. -/
opaque dramByte : Nat → Nat → Byte
/-- FREE VALUE: the root public key whose hash is fused at manufacture (R365). -/
opaque rootKey : List Byte
/-- FREE VALUE: the identity public key fused at manufacture (R416). -/
opaque identityKey : List Byte
/-- FREE VALUE: how the fuse and remap tables are arranged as bytes (R416): dead fields, dead cores, stitches that do not work, the live
fields in order, the bay maps. -/
opaque tableBytes : List Nat → List (Nat × Nat × Nat) → List (Nat × Nat) → List Nat → List (Nat × List Nat) → List Byte
/-- FREE VALUE: a new Postmaster image passes its check of the running device (R414 step 3). -/
opaque imageStarts : List Byte → Nat → Bool
/-- FREE VALUES that self-test and training find at boot (R366): a dead field, a dead physical core (field, bay, core), a stitch of two
fields that does not work, a field whose memory fails its training, and a host port that comes up. -/
opaque fieldDead : Nat → Bool
opaque coreDead : Nat → Nat → Nat → Bool
opaque stitchDead : Nat → Nat → Bool
opaque dramDead : Nat → Bool
opaque hostPortUp : Nat → Bool
/-- FREE VALUES that a boot finds or sets (R366, R374, R396, R406, R407): an edge port (link up, device, home, capacity in
MiB), a peer (identity, valid, ports that reach it), a host port's home, PWMAX, and a band's measured latency in ns. -/
opaque edgeAtBoot : Nat → Bool × Bool × Nat × Nat
opaque peerAtBoot : Nat → BitVec 16 × Bool × BitVec 32
opaque hostHomeAt : Nat → Nat
opaque pwMaxSet : BitVec 12
opaque latencyNs : Nat → Nat
/-- FREE VALUE: the Postmaster's limits for a Sorter control (R364): lowest and highest value. -/
opaque sorterLimit : Nat → Nat × Nat
/-- FREE VALUE: a region's measured current in 16 A units, at a sample (R402, R403). -/
opaque regionCurrent : Nat → Nat → Nat
/-- FREE VALUE: a Sorter policy: the weighted-round-robin weight of a tenant (R39, R373). -/
opaque sorterWeight : Nat → Nat
/-- FREE VALUE: what a peer's import table answers for a VNI and a module (R406): the table's contents are not given. -/
opaque peerAdmits : Nat → Nat → Bool
/-- FREE VALUE: an island's fused frequency in MHz at an operating point from 1 to 7 (R404): domain, tier, point. -/
opaque islandFreq : Nat → Nat → Nat → Nat
/-- FREE VALUE: the 64 KiB page of physical memory that the Postmaster gives a tenant's topology table (R370, R380
TOPOPA). -/
opaque topoPage : Nat → Nat
/-- FREE VALUE: the FP4 code of an element of a block whose block scale is zero (R147 divides by it): operation, row,
column. -/
opaque zeroBlockCode : Nat → Nat → Nat → BitVec 4
/-- FREE VALUE: the value of a race the spec leaves to the order of agents: tick. -/
opaque choice : Nat → Nat

end Sys2Proof.Config
end

