-- ==== Sys2Proof/Machine/Access.lean ====
section
/-! DEFINITION. Reading and updating the parts of the state, names of cores, the topology's derived facts, and where
the tenants' placements lie. -/
namespace Sys2Proof.Machine
open Sys2Proof

/-- A core's record; a core not listed is fresh. -/
def State.core (s : State) (c : Nat) : Core := (kget s.cores c).getD Core.fresh
def State.updCore (s : State) (c : Nat) (f : Core → Core) : State := { s with cores := kset s.cores c (f (s.core c)) }
/-- A domain's record. -/
def State.dom (s : State) (d : Nat) : Domain := (kget s.domains d).getD Domain.fresh
def State.updDom (s : State) (d : Nat) (f : Domain → Domain) : State :=
  { s with domains := kset s.domains d (f (s.dom d)) }
/-- A tenant's record; a tenant not listed is FREE. -/
def State.ten (s : State) (t : Nat) : Tenant := (kget s.tenants t).getD Tenant.fresh
def State.updTen (s : State) (t : Nat) (f : Tenant → Tenant) : State :=
  { s with tenants := kset s.tenants t (f (s.ten t)) }
/-- A power region's record. -/
def State.region (s : State) (r : Nat) : Region := (kget s.regions r).getD Region.fresh
def State.updRegion (s : State) (r : Nat) (f : Region → Region) : State :=
  { s with regions := kset s.regions r (f (s.region r)) }
/-- The module's firmware and registers. -/
def State.updMod (s : State) (f : Module → Module) : State := { s with mod := f s.mod }
/-- A block, if the core holds it. -/
def State.block (s : State) (c b : Nat) : Option Block := kget (s.core c).blocks b
def State.updBlock (s : State) (c b : Nat) (f : Block → Block) : State :=
  s.updCore c fun k => { k with blocks := kupd k.blocks b f }
/-- A block's tile stream. -/
def State.tile (s : State) (c b : Nat) : Option Tile := (s.block c b).bind fun k => k.tile
def State.updTile (s : State) (c b : Nat) (f : Tile → Tile) : State := s.updBlock c b fun k => { k with tile := k.tile.map f }
/-- A group of a block. -/
def State.group (s : State) (c b g : Nat) : Option Group := (s.block c b).bind fun k => kget k.groups g
def State.updGroup (s : State) (c b g : Nat) (f : Group → Group) : State :=
  s.updBlock c b fun k => { k with groups := kupd k.groups g f }
/-- A counter of `w` bits raised by one, staying at its top (R409). -/
def satAdd (w n : Nat) : Nat := min (n + 1) (2 ^ w - 1)
/-- An error block's counters change, with TSTAMP; those of a lost domain are frozen (R409). -/
def State.countErr (s : State) (d : Nat) (f : ErrBlock → ErrBlock) : State :=
  if (s.dom d).lost then s else s.updDom d fun k => { k with err := { f k.err with tstamp := s.now } }
/-- A launch of a tenant. -/
def State.launch (s : State) (t l : Nat) : Option Launch := kget (s.ten t).launches l
def State.updLaunch (s : State) (t l : Nat) (f : Launch → Launch) : State :=
  s.updTen t fun n => { n with launches := kupd n.launches l f }
/-- A channel entry of a core. -/
def State.updChan (s : State) (c ch : Nat) (f : Chan → Chan) : State :=
  s.updCore c fun k => { k with chans := kupd k.chans ch f }

/-- %core packs domain [13:8], bay [7:4] and core [3:0] (R29). -/
def coreDomain (c : Nat) : Nat := c / 256 % 64
def coreBay (c : Nat) : Nat := c / 16 % 16
def coreName (d b n : Nat) : Nat := d * 256 + b * 16 + n

/-- The live domains of the module (R2). -/
def State.nlive (s : State) : Nat := s.mod.fieldOf.length
/-- A domain's field position, 8·py + px (R2). -/
def State.fieldPos (s : State) (d : Nat) : Nat := s.mod.fieldOf.getD d 0
def State.px (s : State) (d : Nat) : Nat := s.fieldPos d % 8
def State.py (s : State) (d : Nat) : Nat := s.fieldPos d / 8
/-- The power region of a domain (R6). -/
def State.prg (s : State) (d : Nat) : Nat := s.py d / 2 * 4 + s.px d / 2
/-- The quadrant of a domain (R71). -/
def State.quad (s : State) (d : Nat) : Nat := s.py d / 4 * 2 + s.px d / 4
/-- The live domains of a power region. -/
def State.regionDomains (s : State) (r : Nat) : List Nat := (List.range s.nlive).filter fun d => s.prg d == r
/-- The number of cores a bay advertises (R3, R369): the length of its map. -/
def State.bayCount (s : State) (d b : Nat) : Nat := ((kget s.mod.bays (d * 16 + b)).getD []).length
/-- The bays of a domain. -/
def bayList : List Nat := List.range 9

/-- Two fields are adjacent in px or py. -/
def adjacentFields (f g : Nat) : Bool :=
  decide (max (f / 8) (g / 8) - min (f / 8) (g / 8) + (max (f % 8) (g % 8) - min (f % 8) (g % 8)) = 1)
/-- Two fields are joined by a working stitch (R368). -/
def Module.stitched (m : Module) (f g : Nat) : Bool := adjacentFields f g && !m.badStitches.contains (min f g, max f g)
/-- The band of two live domains (R374). -/
def State.band (s : State) (d e : Nat) : Nat :=
  if d = e then 1
  else
    if s.mod.stitched (s.fieldPos d) (s.fieldPos e) then 2 else if s.prg d = s.prg e then 3 else if s.quad d = s.quad e then 4 else 5

/-- The published latency of the band of two domains in ns (R374). -/
def State.bandNs (s : State) (d e : Nat) : Nat := s.mod.latNs.getD (s.band d e) 0

/-- First physical addresses of R66 and R406. -/
def edgeBase : Nat := 0x040000000000
def hostBase : Nat := 0x440000000000
def peerBase : Nat := 0x800000000000
/-- Domain memory of one domain: 64 GiB. -/
def domBytes : Nat := 2 ^ 36

/-- The edge port of a physical address (R406). -/
def edgePort (pa : Nat) : Nat := (pa - edgeBase) / 2 ^ 41
/-- The peer module of a physical address (R406). -/
def peerOf (pa : Nat) : Nat := (pa - peerBase) / 2 ^ 42
/-- A physical address in a peer aperture. -/
def isPeer (pa : Nat) : Bool := decide (peerBase ≤ pa)
/-- A physical address in domain memory. -/
def isDomainMem (s : State) (pa : Nat) : Bool := decide (pa < domBytes * s.nlive)

/-- CXL port p: link up, device present, home, capacity in MiB (R373). -/
def State.cxlPort (s : State) (p : Nat) : Bool × Bool × Nat × Nat := (kget s.mod.cxl p).getD (false, false, 0, 0)

/-- HomeDomain(pa) (R66, R373, R406); the host window's home is that of the tenant's root port. -/
def State.home (s : State) (t pa : Nat) : Nat :=
  if pa < edgeBase then pa / domBytes
  else if pa < hostBase then (s.cxlPort (edgePort pa)).2.2.1
  else s.mod.hostHome.getD (s.ten t).port 0

/-- Peer module m: identity, valid, up, ports (R396). -/
def State.peer (s : State) (m : Nat) : BitVec 16 × Bool × Bool × W32 := (kget s.mod.peers m).getD (0, false, false, 0)

/-- A leaf's physical address lies in memory (R391 NOMEM). -/
def State.memoryAt (s : State) (pa : Nat) : Bool :=
  if pa < edgeBase then isDomainMem s pa
  else if pa < hostBase then
    let p := s.cxlPort (edgePort pa)
    p.2.1 && decide ((pa - edgeBase) % 2 ^ 41 < p.2.2.2 * 2 ^ 20)
  else if pa < peerBase then true
  else (s.peer (peerOf pa)).2.1

/-- A domain whose accesses fail as reads of poisoned lines: lost, or its region tripped or restarting (R401, R408). -/
def State.domDown (s : State) (d : Nat) : Bool :=
  (s.dom d).lost || [4#3, 5#3].contains (s.region (s.prg d)).st

/-- A line whose every access fails as a poisoned line: down domain, an edge port whose link is down (R407), a host request that completes
with an error (R406), which is free, or a peer that no port reaches, where its translation has not told so before. -/
def State.homeDown (s : State) (t pa : Nat) : Bool :=
  if pa < edgeBase then s.domDown (pa / domBytes)
  else if pa < hostBase then !(s.cxlPort (edgePort pa)).1 || s.domDown (s.home t pa)
  else if pa < peerBase then s.domDown (s.home t pa) || Config.hostFails s.tick (pa / 128)
  else !(s.peer (peerOf pa)).2.2.1

/-- A line carries a poison mark (R70), or lies in memory that lost its power and has not been written since (R401). -/
def State.poisoned (s : State) (line : Nat) : Bool :=
  s.poison.contains line ||
    (decide (line * 128 < edgeBase) && match (s.dom (line * 128 / domBytes)).wiped with
      | some w => !w.contains line
      | none => false)
/-- A line's poison is cleared (R70). -/
def State.unpoison (s : State) (line : Nat) : State :=
  let s := { s with poison := s.poison.filter fun l => l != line }
  match (s.dom (line * 128 / domBytes)).wiped with
  | some w => if line * 128 < edgeBase then s.updDom (line * 128 / domBytes) fun d => { d with wiped := some (addMember w line) } else s
  | none => s

/-- A core's tenant (R26, R375). -/
def State.coreTenant (s : State) (c : Nat) : Nat := ((s.core c).tenant).getD 0

/-- A tenant's weighted-round-robin weight (R39, R373): as the Sorter has set it, else its policy's. -/
def Module.weightOf (m : Module) (t : Nat) : Nat := ((kget m.weights t).getD (Config.sorterWeight t)) % 2 ^ 16

/-- A placement holds a core. -/
def Tenant.holds (t : Tenant) (c : Nat) : Bool := t.placement.contains c
/-- The domains of a placement, in increasing order (R41, R222). -/
def Tenant.domains (t : Tenant) : List Nat := (List.range 64).filter fun d => t.placement.any fun c => coreDomain c == d

/-- Level-counter keys: level 0 launch, 1 graph, 2 phase, 3 job (R199), and identifier. -/
def lvlKey (lvl id : Nat) : Nat := lvl * 4096 + id
def Tenant.counter (t : Tenant) (lvl id : Nat) : Counter := (kget t.levels (lvlKey lvl id)).getD Counter.fresh
def Tenant.setCounter (t : Tenant) (lvl id : Nat) (c : Counter) : Tenant :=
  { t with levels := kset t.levels (lvlKey lvl id) c }
/-- Counter states (R31). -/
def lvFree : BitVec 2 := 0
def lvOpen : BitVec 2 := 1
def lvDone : BitVec 2 := 2
def lvCancelled : BitVec 2 := 3

/-- Fields of a continuation record (R34). -/
def recKind (w : List W64) : Nat := bits (word w 0) 0 4
def recQprio (w : List W64) : Nat := bits (word w 0) 4 3
def recSset (w : List W64) : Bool := bit (word w 0) 7
def recHmode (w : List W64) : Nat := bits (word w 0) 8 2
def recLaunch (w : List W64) : Nat := bits (word w 0) 10 12
def recGraph (w : List W64) : Nat := bits (word w 0) 22 8
def recPhase (w : List W64) : Nat := bits (word w 0) 30 4
def recNgrp (w : List W64) : Nat := bits (word w 0) 37 6 + 1
def recPatience (w : List W64) : Nat := bits (word w 1) 44 20
def recEntry (w : List W64) : Nat := bits (word w 1) 20 24
def recCode (w : List W64) : Nat := bits (word w 1) 0 20
def recFrame (w : List W64) : Nat := bits (word w 2) 0 56
def recJoin (w : List W64) : Nat := bits (word w 3) 0 56
def recGx (w : List W64) : Nat := bits (word w 4) 0 24
def recGy (w : List W64) : Nat := bits (word w 4) 24 16
def recGz (w : List W64) : Nat := bits (word w 4) 40 16
def recClus (w : List W64) : Nat := max 1 (bits (word w 4) 56 4)
def recGrid (w : List W64) : Nat := recGx w * recGy w * recGz w
def recFirst (w : List W64) : Nat := bits (word w 5) 0 32
def recCount (w : List W64) : Nat := bits (word w 5) 32 32

/-- A code address in the R201 target layout: segment in [43:32], byte offset in [13:0]. -/
def Pc.toTarget (p : Pc) : W64 := BitVec.ofNat 64 (p.seg * 2 ^ 32 + p.off)
/-- The address a target word names (R201). -/
def Pc.ofTarget (w : W64) : Pc := ⟨bits w 32 12, bits w 0 14⟩
/-- Order of code addresses: segment, then offset. -/
def Pc.lt (a b : Pc) : Bool := decide (a.seg < b.seg) || (a.seg == b.seg && decide (a.off < b.off))

/-- An overlay slot state (R209). -/
def slotEmpty : BitVec 2 := 0
def slotFetching : BitVec 2 := 1
def slotLoaded : BitVec 2 := 2
def slotDeferred : BitVec 2 := 3

/-- A slot whose segment is usable: LOADED or DEFERRED (R209, R210). -/
def Slot.usable (k : Slot) : Bool := k.state == slotLoaded || k.state == slotDeferred

/-- The lowest-numbered usable slot that holds a segment (R209). -/
def Core.slotOf (k : Core) (seg : Nat) : Option Slot :=
  match k.slots.find? fun (_, w) => w.usable && w.seg == seg with
  | some (_, w) => some w
  | none => none

/-- The words of a segment from a byte offset, and whether the offset carries a start bit (R210). -/
def Core.wordsAt (k : Core) (p : Pc) : Option (Bool × List W32) :=
  (k.slotOf p.seg).map fun w => ((p.off % 4 == 0) && (w.starts.getD (p.off / 4) false), w.words.drop (p.off / 4))

/-- The lowest-numbered usable slot's number (R209). -/
def Core.slotNo (k : Core) (seg : Nat) : Option Nat := (k.slots.find? fun (_, w) => w.usable && w.seg == seg).map (·.1)
/-- The entries of a group that hold lanes, set-aside entries included (R209, R224). -/
def Group.allEntries (g : Group) : List Entry :=
  g.frontier ++ (match g.handler with | some h => h.saved | none => [])

/-- A group has ended when all its lanes have exited (R22): no entry is left, set aside or not. -/
def Group.ended (g : Group) : Bool := g.allEntries.isEmpty

/-- The block's cluster and rank (R28, R29). -/
def Block.clus (b : Block) : Nat := recClus b.record
def Block.rank (b : Block) : Nat := b.index % b.clus

/-- The core and block number at which a launch's block is, if it is on a core. -/
def State.findBlock (s : State) (t l i : Nat) : Option (Nat × Nat) :=
  s.cores.findSome? fun (c, k) =>
    k.blocks.findSome? fun (b, x) => if x.tenant == t && x.launch == l && x.index == i then some (c, b) else none

/-- Every block of a tenant's launch that is on a core, with its core and number. Blocks that drain belong to a cancelled launch, whose
identifier a new one may have taken (R31). -/
def State.launchBlocks (s : State) (t l : Nat) : List (Nat × Nat) :=
  (s.cores.map fun (c, k) => (k.blocks.filter fun (_, x) => x.tenant == t && x.launch == l && !x.draining).map fun (b, _) => (c, b)).flatten

/-- A core holds no block, kept blocks included: free for a new one (R41, R398). -/
def Core.isFree (k : Core) : Bool := !k.retired && k.blocks.isEmpty && k.kept.isEmpty

end Sys2Proof.Machine
end

