-- ==== Sys2Proof/Machine/Cache.lean ====
section
/-! DEFINITION. The caches as storage: lines and their bytes, the L1's replacement (R57), memory at its home (R70, R81), the attachments
of format windows (R65), the directory's entries (R88), and what an L2 holds and gives up (R58-R61). Lines are numbered by physical
address divided by 128. -/
namespace Sys2Proof.Machine
open Sys2Proof

def lineOf (pa : Nat) : Nat := pa / 128
def lineBase (line : Nat) : Nat := line * 128

/-- Bytes of a line replaced at offsets. -/
def patchBytes (bs : List Byte) (ps : List (Nat × Byte)) : List Byte := ps.foldl (fun l (o, b) => setAt l o b) bs
/-- The dirty bits of patched offsets. -/
def patchMask (m : BitVec 128) (ps : List (Nat × Byte)) : BitVec 128 :=
  ps.foldl (fun m (o, _) => m ||| BitVec.ofNat 128 (2 ^ o)) m
/-- Memory with bytes of a line stored. -/
def patchMem (m : ZMap 8) (line : Nat) (ps : List (Nat × Byte)) : ZMap 8 :=
  ps.foldl (fun m (o, b) => zset m (lineBase line + o) b) m
/-- Byte patches of consecutive bytes from an offset. -/
def patchesAt (off : Nat) (bs : List Byte) : List (Nat × Byte) :=
  match bs with
  | [] => []
  | b :: r => (off, b) :: patchesAt (off + 1) r

/-- The L1 of a core in bytes: the launch's `.l1` (R53). -/
def Core.l1Size (k : Core) : Nat := match k.blocks with | (_, b) :: _ => b.kern.l1 | [] => 65536
/-- The ways of a set of the L1, and whether two lines share a set (R57); the spec gives neither (free values, logs 26, 154). -/
def Core.l1Ways (k : Core) : Nat := min (k.l1Size / 128) (2 + Config.l1Ways)
def Core.l1Same (k : Core) (a b : Nat) : Bool :=
  let sets := max 1 (k.l1Size / 128 / k.l1Ways)
  Config.l1Set a % sets == Config.l1Set b % sets
/-- The hint a line of the L1 was allocated with. -/
def Core.l1Hint (k : Core) (line : Nat) : BitVec 2 := ((kget k.l1 line).map fun l => l.hint).getD 0
/-- The lines of an L1 other than one, the next victims first. -/
def Core.l1Others (k : Core) (line : Nat) : List Nat := k.l1Order.filter fun l => l != line && (kget k.l1 l).isSome
/-- A line of the L1 has been used (R57). -/
def Core.l1Use (k : Core) (line : Nat) : Core := { k with l1Order := k.l1Others line ++ [line] }
/-- The line that a full set of an L1 gives up for another (R57): the least recently used, a keep line only among keep lines. -/
def Core.l1Victim (k : Core) (line : Nat) : Option Nat :=
  match k.l1Others line with
  | a :: b :: r =>
    let set := (a :: b :: r).filter fun l => k.l1Same l line
    if k.l1Ways ≤ set.length then (set.find? fun l => k.l1Hint l != 2).or set.head? else none
  | _ => none
/-- The oldest keep line of a set loses its hint when keep lines fill more than half of the ways (R57). -/
def Core.l1Demote (k : Core) (line : Nat) : Core :=
  match k.l1Others line with
  | [] => k
  | others =>
    let keep := ((others ++ [line]).filter fun l => k.l1Same l line && k.l1Hint l == 2)
    if k.l1Ways / 2 < keep.length then
      match keep with
      | l :: _ => { k with l1 := kupd k.l1 l fun x => { x with hint := 0 } }
      | [] => k
    else k
/-- A line brought into an L1 with a hint (R57). An evict-first line is the next victim of its set. -/
def Core.l1Fill (k : Core) (line : Nat) (bytes : List Byte) (hint : BitVec 2) : Core :=
  let k := match k.l1Victim line with
    | some v => { k with l1 := kdel k.l1 v }
    | none => k
  let others := k.l1Others line
  let k := { k with l1 := kset k.l1 line ⟨bytes, hint⟩, l1Order := if hint == 1 then line :: others else others ++ [line] }
  if hint == 2 then k.l1Demote line else k

/-- A scale that a write of bytes of a line changes (R65). -/
def Att.touched (a : Att) (line : Nat) (ps : List (Nat × Byte)) : Bool :=
  ps.any fun (o, _) =>
    let p := lineBase line + o
    (decide (a.scaleAt ≤ p) && decide (p < a.scaleAt + a.blocks.length)) ||
      (a.bandAt != 0 && decide (a.bandAt ≤ p) && decide (p < a.bandAt + 2))
/-- A store to bytes of scale arrays removes the attachments copied from them, in every L2 (R65). -/
def dropScales (s : State) (line : Nat) (ps : List (Nat × Byte)) : State :=
  if s.domains.any fun (_, d) => d.att.any fun (_, a) => a.touched line ps then
    { s with domains := kmap s.domains fun _ (d : Domain) =>
        { d with att := kmap d.att fun _ a => if a.touched line ps then { a with stale := true } else a } }
  else s

/-- A write performed at its home: memory takes the bytes, a write of all 128 bytes clears poison (R70), a recorded release whose
write it replaces no longer is what a read returns (R81), and scales copied from the bytes are removed (R65). -/
def putHome (s : State) (t line : Nat) (ps : List (Nat × Byte)) : State :=
  let h := s.home t (lineBase line)
  let s := dropScales s line ps
  let s := { s with mem := patchMem s.mem line ps }
  let s := if 128 ≤ ps.length then s.unpoison line else s
  if (kget (s.dom h).svt line).isSome then
    s.updDom h fun d => { d with svt := kupd d.svt line fun e =>
      { e with rel := e.rel.map fun r =>
          if ps.any fun (o, _) => decide (r.addr ≤ lineBase line + o) && decide (lineBase line + o < r.addr + r.size)
          then { r with size := 0 } else r } }
  else s

/-- The object of a home domain that holds a line (R88). -/
def objOf (s : State) (h line : Nat) : Option (Nat × CObj) := (s.dom h).objs.find? fun (_, o) => o.lines.contains line
/-- The lines a line's directory entry covers: its object's, or those of its 4 KiB granule that no object's entry tracks (R88). -/
def entryLines (s : State) (h line : Nat) : List Nat :=
  match objOf s h line with
  | some (_, o) => o.lines
  | none => ((List.range 32).map fun i => line / 32 * 32 + i).filter fun l => (objOf s h l).isNone
def DirEntry.empty : DirEntry := ⟨.none, 0, 0⟩
/-- The directory entry that covers a line. -/
def dirOf (s : State) (h line : Nat) : DirEntry :=
  match objOf s h line with
  | some (_, o) => o.dir
  | none => (kget (s.dom h).dir (line / 32)).getD .empty

/-- A dirty guest line written back to its home, and kept clean (R89 "recall"). -/
def writeBack (s : State) (t d line : Nat) : State :=
  match kget (s.dom d).guest line with
  | some g =>
    if g.dirty == 0 then s
    else
      let ps := (List.range 128).filterMap fun o => if g.dirty.getLsbD o then some (o, g.bytes.getD o 0) else none
      let s := putHome s t line ps
      s.updDom d fun k => { k with guest := kset k.guest line { g with dirty := 0 } }
  | none => s
/-- Recall of a guest domain's dirty lines of an entry (R89). -/
def recallLine (s : State) (t h line d : Nat) : State :=
  (entryLines s h line).foldl (fun s l => writeBack s t d l) s
/-- What a domain's L2 holds of a line goes. -/
def Domain.without (x : Domain) (line : Nat) : Domain :=
  { x with guest := kdel x.guest line, l2 := x.l2.filter (· != line), hdirty := x.hdirty.filter (· != line), att := kdel x.att line }
/-- A line leaves a domain's L2: a guest line's dirty bytes are written back first, so no store is lost. -/
def dropGuest (s : State) (t d line : Nat) : State := (writeBack s t d line).updDom d fun x => x.without line
/-- The domains of a presence vector. -/
def presentList (p : BitVec 64) : List Nat := laneList 64 p

/-- EVICT (R88, R89): the least recently used granule entry is recalled, its guest copies invalidated, and freed. Lines that an
object's entry tracks are not the granule's. -/
def evictGranule (s : State) (t h : Nat) : State :=
  match (s.dom h).dir with
  | [] => s
  | (k0, e0) :: r =>
    let (k, e) := r.foldl (fun (k, e) (j, f) => if f.used < e.used then (j, f) else (k, e)) (k0, e0)
    let lines := ((List.range 32).map fun i => 32 * k + i).filter fun l => (objOf s h l).isNone
    let s := (presentList e.present).foldl (fun s d => lines.foldl (fun s l => dropGuest s t d l) s) s
    s.updDom h fun d => { d with dir := kdel d.dir k }

/-- The directory entry of a line set; with P empty it is NONE and freed (R89). A full directory evicts first (R88). -/
def setDir (s : State) (t h line : Nat) (st : DirState) (p : BitVec 64) : State :=
  match objOf s h line with
  | some (k, _) =>
    s.updDom h fun d => { d with objs := kupd d.objs k fun o =>
      { o with dir := if p == 0 then .empty else ⟨st, p, s.tick⟩ } }
  | none =>
    if p == 0 then s.updDom h fun d => { d with dir := kdel d.dir (line / 32) }
    else
      let full := (kget (s.dom h).dir (line / 32)).isNone && decide (524288 ≤ (s.dom h).dir.length)
      let s := if full then evictGranule s t h else s
      s.updDom h fun d => { d with dir := kset d.dir (line / 32) ⟨st, p, s.tick⟩ }
/-- One domain's bit of a presence vector or participant mask. -/
def domBit (d : Nat) : BitVec 64 := BitVec.ofNat 64 (2 ^ d)
/-- A domain's presence in the entry of a line ends; with P empty the entry goes to NONE (R89, R356). -/
def absent (s : State) (h line d : Nat) : State :=
  let e := dirOf s h line
  setDir s 0 h line e.st (e.present &&& ~~~domBit d)
/-- A domain's L2 holds no line of the entry that covers a line. -/
def noneHeld (s : State) (h line d : Nat) : Bool := (entryLines s h line).all fun l => (kget (s.dom d).guest l).isNone
/-- A domain that has dropped its last line of an entry reports it to the home (R356). -/
def reportDrop (s : State) (h line d : Nat) : State :=
  if (dirOf s h line).present.getLsbD d && noneHeld s h line d then absent s h line d else s
/-- A line's directory entry is used (R88). -/
def useDir (s : State) (h line : Nat) : State :=
  match objOf s h line with
  | some (k, _) => s.updDom h fun d => { d with objs := kupd d.objs k fun o => { o with dir := { o.dir with used := s.tick } } }
  | none => s.updDom h fun d => { d with dir := kupd d.dir (line / 32) fun e => { e with used := s.tick } }

/-- The tenants whose placement includes a domain. -/
def tenantsOf (s : State) (d : Nat) : List Nat :=
  s.tenants.filterMap fun (t, n) => if n.st != 0 && n.placement.any fun c => coreDomain c == d then some t else none
/-- The active handles of a domain (R60): tenant, number and handle. -/
def activeIn (s : State) (d : Nat) : List (Nat × Nat × Handle) :=
  (s.tenants.map fun (t, n) => n.handles.filterMap fun (h, k) =>
    if (kget (s.dom d).handles (t * 256 + h)).getD false then some (t, h, k) else none).flatten
/-- The active handles that cover a line of a domain's L2. -/
def covering (s : State) (d line : Nat) : List (Nat × Nat × Handle) := (activeIn s d).filter fun x => x.2.2.lines.contains line
/-- The lines of a tenant's active handles of priority 1 to 7 in a domain's L2 (R61). -/
def budgetUse (s : State) (d t : Nat) : Nat :=
  ((s.dom d).l2.filter fun l => (covering s d l).any fun x => x.1 == t && decide (1 ≤ x.2.2.prio)).length
/-- The lines of a domain's 96 MiB that the Sorter has given to tenants other than one (R61). -/
def budgetsGiven (s : State) (d t : Nat) : Nat :=
  ((s.mod.budgets.filter fun (k, _) => k / 64 == d && k % 64 != t).map (·.2)).sum
/-- A tenant's part of the 96 MiB that a domain has for them, in lines (R61): as the Sorter has set it, else what the Sorter has given to
none, evenly among the tenants whose placements include the domain and that have no part set (DEDUCED, log 192). -/
def budgetOf (s : State) (d t : Nat) : Nat :=
  match kget s.mod.budgets (d * 64 + t) with
  | some n => n
  | none =>
    let rest := (tenantsOf s d).filter fun u => (kget s.mod.budgets (d * 64 + u)).isNone
    if rest.contains t then (786432 - budgetsGiven s d t) / rest.length else 0
/-- How far over its budget a tenant is. -/
def overBudget (s : State) (d t : Nat) : Int := (budgetUse s d t : Int) - budgetOf s d t
/-- Whether R61 displaces a handle before another: lower priority, then the tenant further over its budget, then the later declaration. -/
def firstOut (s : State) (d : Nat) (a b : Nat × Nat × Handle) : Bool :=
  decide (a.2.2.prio < b.2.2.prio) || (a.2.2.prio == b.2.2.prio && (decide (overBudget s d b.1 < overBudget s d a.1) ||
    (overBudget s d a.1 == overBudget s d b.1 && decide (b.2.2.order < a.2.2.order))))
/-- The handle of some that R61 displaces. -/
def outOf (s : State) (d : Nat) : List (Nat × Nat × Handle) → Option (Nat × Nat × Handle)
  | [] => none
  | x :: r => some (r.foldl (fun m y => if firstOut s d y m then y else m) x)
/-- Handle `h` of a tenant displaced in a domain: priority 0 evicted, the others demoted (R61). -/
def displace (s : State) (d t h : Nat) : State :=
  match kget (s.ten t).handles h with
  | some k =>
    let s := s.updDom d fun x => { x with handles := kset x.handles (t * 256 + h) false }
    if k.prio = 0 then k.lines.foldl (fun s l => if (s.dom d).l2.contains l then dropGuest s t d l else s) s else s
  | none => s
/-- A tenant's lines brought back into its budget in a domain: handles with lines there are displaced one after another (R61). -/
def fitBudget (s : State) (d t : Nat) : Nat → State
  | 0 => s
  | n + 1 =>
    if budgetOf s d t < budgetUse s d t then
      match outOf s d ((activeIn s d).filter fun x => x.2.2.lines.any fun l => (s.dom d).l2.contains l) with
      | some (u, h, _) => fitBudget (displace s d u h) d t n
      | none => s
    else s

/-- Two lines share a set of an L2 (R58): 16 slices of 4,096 sets by a hash that is not published (free values, log 27). -/
def sameSet (a b : Nat) : Bool :=
  Config.l2Slice a % 16 == Config.l2Slice b % 16 && Config.l2Set a % 4096 == Config.l2Set b % 4096
/-- Room for a line in its set of a domain's L2 (R59): of 16 full ways the least recently used line that is not pinned and that no active
handle covers goes; where all are covered, the handle that R61 displaces among them is, and the choice is made again. -/
def roomIn (s : State) (t d line : Nat) : Nat → State
  | 0 => s
  | n + 1 =>
    if (s.dom d).l2.length < 16 then s
    else
      let set := (s.dom d).l2.filter fun l => sameSet l line
      if set.length < 16 then s
      else
        match set.find? fun l => !(s.dom d).pins.contains l && (covering s d l).isEmpty with
        | some v => dropGuest s t d v
        | none =>
          match outOf s d ((activeIn s d).filter fun x => set.any fun l => x.2.2.lines.contains l) with
          | some (u, h, _) => roomIn (displace s d u h) t d line n
          | none => s

/-- The row and the line within it of a window that covers a line (R62, R64). -/
def windowRow (w : List W64) (line : Nat) : Option (Nat × Nat) :=
  let o := line - bits (word w 1) 7 45
  let pitch := max 1 (bits (word w 2) 20 20)
  if bit (word w 0) 0 && decide (bits (word w 1) 7 45 ≤ line) && decide (o < bits (word w 2) 40 24 * pitch) &&
      decide (o % pitch < bits (word w 2) 0 20) then some (o / pitch, o % pitch) else none
/-- The lowest-numbered window that governs a line of domain memory (R65): its number and registers, the row and the line in it. -/
def windowOf (s : State) (line : Nat) : Option (Nat × List W64 × Nat × Nat) :=
  if isDomainMem s (lineBase line) then
    (s.dom (lineBase line / domBytes)).fw.findSome? fun (n, w) => (windowRow w line).map fun (r, j) => (n, w, r, j)
  else none
/-- The newest bytes at some addresses are at their home: guests that own the lines have written them back. -/
def gather (s : State) (t pa n : Nat) : State :=
  ((List.range (lineOf (pa + n - 1) - lineOf pa + 1)).map fun i => lineOf pa + i).foldl (fun s l =>
    (presentList (dirOf s (s.home t (lineBase l)) l).present).foldl (fun s d => writeBack s t d l) s) s
/-- The scales of a line, read by the memory controller for its window (R64, R65). -/
def readScales (s : State) (t line : Nat) (x : Nat × List W64 × Nat × Nat) : State × Att :=
  let (n, w, r, j) := x
  let fp4 := bits (word w 0) 4 4 = 1
  let bandAt := if bits (word w 4) 0 52 = 0 then 0 else bits (word w 4) 0 52 + 2 * (r / 64)
  let scaleAt := bits (word w 3) 0 52 + 32 * bits (word w 2) 0 20 * r + 32 * j
  let s := if bandAt = 0 then s else gather s t bandAt 2
  let s := if fp4 then gather s t scaleAt 32 else s
  let lines := (if bandAt = 0 then [] else [lineOf bandAt]) ++ if fp4 then [lineOf scaleAt] else []
  (s, { win := lineBase line / domBytes * 16 + n, fmt := bits (word w 0) 4 4, scaleAt := scaleAt, bandAt := bandAt
        blocks := if fp4 then readBytes s.mem scaleAt 32 else []
        band := if bandAt = 0 then [0x80, 0x3F] else readBytes s.mem bandAt 2
        bad := lines.find? fun l => s.poisoned l, stale := false })
/-- A line filled into a domain's L2 by an access of the window's VNI has its scales attached; filled by another's, it has those of its
home's copy (R65). -/
def attachLine (s : State) (t d line : Nat) : State :=
  match windowOf s line with
  | none => s
  | some x =>
    if bits (word x.2.1 0) 16 12 = (s.ten t).vni then
      let (s, a) := readScales s t line x
      s.updDom d fun k => { k with att := kset k.att line a }
    else
      match kget (s.dom (s.home t (lineBase line))).att line with
      | some a => s.updDom d fun k => { k with att := kset k.att line a }
      | none => s

/-- The attachments made from a window are removed in every L2 (R63). -/
def dropWindow (s : State) (d n : Nat) : State :=
  { s with domains := kmap s.domains fun _ (x : Domain) => { x with att := x.att.filter fun (_, a) => a.win != d * 16 + n } }

/-- Every tenant with active handles in a domain within its budget there (R61). -/
def fitAll (s : State) (d : Nat) : State :=
  (((activeIn s d).map fun x => x.1).eraseDups).foldl (fun s u => fitBudget s d u 1025) s
/-- A line used in a domain's L2, or brought into it (R58-R61, R65), by an access of a tenant. -/
def fillL2 (s : State) (t d line : Nat) : State :=
  if (s.dom d).l2.contains line then s.updDom d fun k => { k with l2 := k.l2.filter (· != line) ++ [line] }
  else
    let s := (roomIn s t d line 1025).updDom d fun k => { k with l2 := k.l2 ++ [line] }
    let s := attachLine s t d line
    if (covering s d line).isEmpty then s else fitAll s d

end Sys2Proof.Machine
end

