-- ==== Sys2Proof/Machine/Coherence.lean ====
section
/-! DEFINITION. The memory system below the cores: home and guest lines and the directory (R88, R89, R91), strong writes at the home (R83),
releases and acquires (R85-R87). -/
namespace Sys2Proof.Machine
open Sys2Proof

/-- A line is used at its home: in the home's L2, and in its directory entry (R58, R88). -/
def touchHome (s : State) (t line : Nat) : State :=
  let h := s.home t (lineBase line)
  useDir (fillL2 s t h line) h line

/-- A write performed in the home's L2. -/
def homeWrite (s : State) (t line : Nat) (ps : List (Nat × Byte)) : State :=
  if isPeer (lineBase line) then putHome s t line ps
  else
    let s := (touchHome s t line).updDom (s.home t (lineBase line)) fun d => { d with hdirty := addMember d.hdirty line }
    putHome s t line ps

/-- A read or write by the home domain, strong operations included: an OWNED entry is recalled (R89). -/
def homeAccess (s : State) (t line : Nat) (write : Bool) : State :=
  if isPeer (lineBase line) then s
  else
    let h := s.home t (lineBase line)
    let s := touchHome s t line
    let e := dirOf s h line
    match e.st with
    | .owned =>
      let s := (presentList e.present).foldl (fun s d => recallLine s t h line d) s
      setDir s t h line (if write then .multi else .shared) e.present
    | _ => s

/-- The 128 bytes of a line of memory. -/
def lineBytes (s : State) (line : Nat) : List Byte := readBytes s.mem (lineBase line) 128

/-- A guest line created in a domain (R89 "supply"), with the tenant's VNI and the poison mark of its home (R70). -/
def supply (s : State) (t d line : Nat) : State :=
  let g : Guest := { bytes := lineBytes s line, dirty := 0, vni := (s.ten t).vni, bad := s.poisoned line }
  fillL2 (s.updDom d fun k => { k with guest := kset k.guest line g }) t d line

/-- A line of a sealed range: it is cached without directory tracking (R91). -/
def sealedLine (s : State) (line : Nat) : Bool :=
  s.tenants.any fun (_, n) => n.sealPas.any fun (_, ps) => ps.contains (lineBase line / 65536 * 65536)
/-- The bytes of a line as a domain's L2 would serve them now (R89): its guest copy, else memory with the bytes that another domain's copy
holds dirty. -/
def lineSeen (s : State) (d line : Nat) : List Byte :=
  match kget (s.dom d).guest line with
  | some g => g.bytes
  | none => s.domains.foldl (fun bs (_, x) =>
      match kget x.guest line with
      | some g => ((List.range 128).zip (bs.zip g.bytes)).map fun (o, old, new) => if g.dirty.getLsbD o then new else old
      | none => bs) (lineBytes s line)

/-- The dirty lines that other guests own are recalled before a line is served to domain `d` (R89). -/
def recallOthers (s : State) (t d line : Nat) : State :=
  let h := s.home t (lineBase line)
  let e := dirOf s h line
  if e.st = .owned && e.present != domBit d then (presentList e.present).foldl (fun s x => recallLine s t h line x) s else s
/-- A guest read miss served by the directory (R89); a domain that owns the entry goes on owning it. -/
def guestRead (s : State) (t d line : Nat) : State :=
  let h := s.home t (lineBase line)
  let e := dirOf s h line
  let s := recallOthers s t d line
  if sealedLine s line || (e.st = .owned && e.present == domBit d) then supply (useDir s h line) t d line
  else supply (setDir s t h line (if e.st = .multi then .multi else .shared) (e.present ||| domBit d)) t d line

/-- The line as a domain's L2 serves it, or nothing where the line is poisoned or its home is down (R58, R70, R89, R401). -/
def l2Read (s : State) (t d line : Nat) : State × Option (List Byte) :=
  let bad := s.homeDown t (lineBase line)
  if isPeer (lineBase line) then (s, if bad then none else some (lineBytes s line))
  else if s.home t (lineBase line) = d then
    let s := homeAccess s t line false
    (s, if bad || s.poisoned line then none else some (lineBytes s line))
  else
    match kget (s.dom d).guest line with
    | some g => (fillL2 s t d line, if g.bad then none else some g.bytes)
    | none =>
      if bad then (s, none)
      else
        let s := recallOthers s t d line
        if s.poisoned line then (s, none)
        else (guestRead s t d line, some (lineBytes s line))

/-- The two signature bits of a line (R85). -/
def sigOf (line : Nat) : BitVec 1024 :=
  let a := line % 1024
  let b := line / 2 ^ 10 % 1024
  let c := line / 2 ^ 20 % 1024
  let d := line / 2 ^ 30 % 2 ^ 15
  BitVec.ofNat 1024 (2 ^ ((a ^^^ b) ^^^ c)) ||| BitVec.ofNat 1024 (2 ^ ((a + 3 * b + 7 * c + d) % 1024))
/-- A signature may hold a line: both of its bits are set. -/
def sigHolds (g : BitVec 1024) (line : Nat) : Bool := (g &&& sigOf line) == sigOf line

/-- A line has been written by an agent of a tenant (R85; log 137). -/
def wrote (s : State) (t line : Nat) : State := { s with past := zset s.past t (zget s.past t ||| sigOf line) }

/-- Bytes written into a guest line; once they are all written, a copy of a poisoned line is good (R70). -/
def Guest.patch (g : Guest) (ps : List (Nat × Byte)) : Guest :=
  { g with bytes := patchBytes g.bytes ps, bad := g.bad && decide (ps.length < 128) }
/-- Bytes of a line put into a domain's L2 (R89), where its home is up. -/
def l2Put (s : State) (t d line : Nat) (ps : List (Nat × Byte)) : State :=
  let h := s.home t (lineBase line)
  if s.homeDown t (lineBase line) then s
  else if isPeer (lineBase line) then homeWrite s t line ps
  else if h = d then homeWrite (homeAccess s t line true) t line ps
  else
    let e := dirOf s h line
    let patchOwn (s : State) : State :=
      s.updDom d fun k => { k with guest := kupd k.guest line fun g => g.patch ps }
    let own (s : State) : State :=
      let s := setDir s t h line .owned (domBit d)
      let s := if (kget (s.dom d).guest line).isNone then supply s t d line else fillL2 s t d line
      if (kget (s.dom d).guest line).isNone then putHome s t line ps
      else (dropScales s line ps).updDom d fun k => { k with guest := kupd k.guest line fun g =>
        let dirty := patchMask g.dirty ps
        { g.patch ps with dirty := dirty, bad := g.bad && dirty != BitVec.allOnes 128 } }
    match e.st with
    | .none => own s
    | .shared =>
      if e.present &&& ~~~domBit d == 0 then own s
      else setDir (patchOwn (homeWrite s t line ps)) t h line .multi e.present
    | .owned =>
      if e.present == domBit d then own s
      else
        let s := (presentList e.present).foldl (fun s x => recallLine s t h line x) s
        setDir (patchOwn (homeWrite s t line ps)) t h line .multi e.present
    | .multi => patchOwn (homeWrite s t line ps)

/-- Bytes of a line written into a domain's L2 (R89) by an agent of a tenant. -/
def l2Write (s : State) (t d line : Nat) (ps : List (Nat × Byte)) : State := l2Put (wrote s t line) t d line ps

/-- The value at the home (R83). -/
def homeValue (s : State) (pa n : Nat) : Nat := leNat (readBytes s.mem pa n)

/-- A strong write of `n` bytes at the home; the copy in the writer's own L2 takes them too (R89). -/
def strongWrite (s : State) (t d pa n v : Nat) : State :=
  let line := lineOf pa
  let ps := patchesAt (pa % 128) (leBytes n v)
  let s := homeWrite (wrote s t line) t line ps
  s.updDom d fun k => { k with guest := kupd k.guest line fun g => g.patch ps }

/-- A read at the home by an agent that is no core (the dispatchers, walkers and rings read with acquires at their home):
the newest bytes. -/
def homeRead (s : State) (t pa n : Nat) : State × List Byte :=
  let lines := (List.range (lineOf (pa + n - 1) - lineOf pa + 1)).map fun i => lineOf pa + i
  let s := lines.foldl (fun s l => homeAccess s t l false) s
  (s, readBytes s.mem pa n)
/-- A write at the home by an agent that is no core. -/
def homeStore (s : State) (t pa : Nat) (bs : List Byte) : State :=
  match bs with
  | [] => s
  | _ =>
    let lines := (List.range (lineOf (pa + bs.length - 1) - lineOf pa + 1)).map fun i => lineOf pa + i
    lines.foldl (fun s l =>
      let ps := (patchesAt pa bs).filterMap fun (a, b) => if lineOf a = l then some (a % 128, b) else none
      homeWrite (homeAccess s t l true) t l ps) s

/-- Whether two agents lie in one instance of a scope, an engine's narrow scope read as block and the host's as node
(R71, R72). -/
def inScope (a b : Who) (scope : BitVec 4) : Bool :=
  let sc := if a.host then max 7 scope.toNat else if a.thread.isNone then max 2 scope.toNat else scope.toNat
  let sameBlock := a.tenant == b.tenant && a.launch == b.launch && a.block == b.block && !a.host && !b.host
  match sc with
  | 0 => sameBlock && a.thread == b.thread
  | 1 => sameBlock && (match a.thread, b.thread with | some (g, _), some (h, _) => g == h | _, _ => false)
  | 2 => sameBlock
  | 3 => a.tenant == b.tenant && a.launch == b.launch && a.clus == b.clus && !b.host
  | 4 => a.domain == b.domain && !b.host
  | 5 => a.quad == b.quad && !b.host
  | 6 => !b.host
  | _ => true
/-- Mutually in scope (R74). -/
def mutualScope (a : Who) (sa : BitVec 4) (b : Who) (sb : BitVec 4) : Bool := inScope a b sa && inScope b a sb

/-- The synchronisation-variable table entry of a line (R86). -/
def svtOf (s : State) (h line : Nat) : Option SvEntry := kget (s.dom h).svt line
def SvEntry.fresh : SvEntry := ⟨0, 0, none, 0, 0⟩
/-- A table with room for a line: of 4,096 entries of its slice the least recently used goes (R86). -/
def svRoom (m : KMap SvEntry) (line : Nat) : KMap SvEntry :=
  if m.length < 4096 || (kget m line).isSome then m
  else
    match m.filter fun (l, _) => Config.l2Slice l % 16 == Config.l2Slice line % 16 with
    | [] => m
    | x :: r =>
      if r.length + 1 < 4096 then m
      else kdel m (r.foldl (fun (b : Nat × SvEntry) y => if y.2.used < b.2.used then y else b) x).1
/-- The table entry of a line, created or used (R86). -/
def svPut (s : State) (h line : Nat) (e : SvEntry) : State :=
  s.updDom h fun d => { d with svt := kset (svRoom d.svt line) line { e with used := s.tick } }

/-- The lines of host memory among numbers of lines. -/
def isHostLine (line : Nat) : Bool := decide (hostBase ≤ lineBase line) && !isPeer (lineBase line)
/-- Guest lines of a domain that a test names are written back and invalidated. -/
def flushGuests (s : State) (t d : Nat) (p : Nat → Guest → Bool) : State :=
  ((s.dom d).guest.filterMap fun (l, g) => if p l g then some l else none).foldl (fun s l => dropGuest s t d l) s
/-- A tenant's cached lines of host memory are written back, in every domain (R87). -/
def writeBackHost (s : State) (t : Nat) : State :=
  (s.domains.map (·.1)).foldl (fun s d =>
    ((s.dom d).guest.filterMap fun (l, g) => if isHostLine l && g.vni == (s.ten t).vni then some l else none).foldl
      (fun s l => writeBack s t d l) s) s

/-- A release at block scope or wider (R85): the core's entries have reached the L2, the signature and the release are
published to the variable's entry at its home, and the agent's signature is cleared by the caller. Happens-before is transitive, so
the lines that the agent released before or acquired go with it (R76, R87; log 137). A node-scope release writes back cached lines of
host memory (R87). -/
def publish (s : State) (who : Who) (sig : BitVec 1024) (scope : BitVec 4) (pa n : Nat) : State :=
  let t := who.tenant
  let h := s.home t pa
  let line := lineOf pa
  let e := (svtOf s h line).getD .fresh
  let e := { e with part := e.part ||| domBit who.domain, sig := e.sig ||| sig ||| zget s.past t
                    rel := some { who := who, scope := scope, addr := pa, size := n, tick := s.tick } }
  let s := svPut s h line e
  if 7 ≤ scope.toNat then writeBackHost s t else s

/-- The invalidations of an acquire at a scope (R86, R87): the core `c`'s L1 and the domain's guest lines. At node scope cached lines of
host memory go in every domain. -/
def acquireAt (s : State) (c : Option Nat) (who : Who) (scope : BitVec 4) (pa : Nat) : State :=
  if scope.toNat < 2 then s
  else
    let t := who.tenant
    let h := s.home t pa
    let line := lineOf pa
    let d := who.domain
    let wide := decide (5 ≤ scope.toNat)
    let dropL1 (s : State) (p : Nat → Bool) : State :=
      match c with
      | some c => s.updCore c fun k => { k with l1 := k.l1.filter fun (l, _) => !p l }
      | none => s
    let mine (_ : Nat) (g : Guest) : Bool := g.vni == (s.ten t).vni
    let join (e : SvEntry) (fl : Bool) (s : State) : State :=
      svPut s h line { e with part := e.part ||| domBit d, flushed := if fl then e.flushed ||| domBit d else e.flushed }
    let s := match svtOf s h line with
      | none =>
        let s := dropL1 s fun _ => true
        join SvEntry.fresh wide (if wide then flushGuests s t d mine else s)
      | some e =>
        match e.rel with
        | none =>
          let s := dropL1 s fun _ => true
          let go := wide && !(e.flushed.getLsbD d)
          join e go (if go then flushGuests s t d mine else s)
        | some _ =>
          let s := if e.part.getLsbD d then s else
            (presentList e.part).foldl (fun s x =>
              ((s.dom x).guest.filterMap fun (l, _) => if sigHolds e.sig l then some l else none).foldl
                (fun s l => writeBack s t x l) s) s
          let s := dropL1 s fun l => sigHolds e.sig l
          let local_ := (e.part ||| domBit d) == domBit d
          join e false (if wide && !local_ then flushGuests s t d fun l _ => sigHolds e.sig l else s)
    if 7 ≤ scope.toNat then
      (s.domains.map (·.1)).foldl (fun s x => flushGuests s t x fun l g => isHostLine l && (x == d || mine l g)) (dropL1 s isHostLine)
    else s

/-- The conservative path of an acquire at wafer scope without a usable table entry (R86): the core's L1 and the tenant's
guest lines of its domain. -/
def acquireAll (s : State) (c t : Nat) : State :=
  let s := s.updCore c fun k => { k with l1 := [] }
  flushGuests s t (coreDomain c) fun _ g => g.vni == (s.ten t).vni

/-- The recorded release whose value a read of a variable returns (R81): its write still is the line's. A read of other bytes than the
write's, or of a part of them, is not judged (DESIGN CHOICE, log 148). -/
def readRelease (s : State) (t pa n : Nat) : Option Rel :=
  (svtOf s (s.home t pa) (lineOf pa)).bind fun e => e.rel.bind fun r =>
    if r.size != 0 && r.addr == pa && r.size == n then some r else none

/-- An acquire reads a recorded release with which it is not mutually in scope (R81). -/
def scopeMiss (s : State) (who : Who) (scope : BitVec 4) (pa n : Nat) : Bool :=
  match readRelease s who.tenant pa n with
  | some r => !mutualScope r.who r.scope who scope
  | none => false

end Sys2Proof.Machine
end

