-- ==== Sys2Proof/Machine/Books.lean ====
section
/-! DEFINITION. Stamp-book counters at their homes (R112-R119, R279). A counter's object lies in memory at its home, which lists the open
counters; each domain's book content is kept under the object's address. Takes and gives that a domain's own book does not serve wait at
the home. -/
namespace Sys2Proof.Machine
open Sys2Proof

/-- The open stamp-book counter of an address's line, if it holds one (R112). -/
def openCounter (s : State) (t pa : Nat) : Option Nat :=
  ((s.dom (s.home t pa)).counters.find? fun (a, _) => lineOf a == lineOf pa).map (·.1)

/-- The largest value of a counter (R113). -/
def sbMax : Nat := 2 ^ 48 - 1
/-- The operations, in the order of their XOPs. -/
def sbInit : Nat := 0
def sbTake : Nat := 1
def sbGive : Nat := 2
def sbRead : Nat := 3
def sbClose : Nat := 4

/-- The home's record of the open counter at an address. -/
def sbOpen (s : State) (t pa : Nat) : Option SbHome := kget (s.dom (s.home t pa)).counters pa
/-- RESERVE of a counter's object. -/
def sbReserve (s : State) (pa : Nat) : Nat := bits (readW64 s.mem pa) 0 48
/-- A word of a counter's object stored at its home. -/
def sbStore (s : State) (t pa i : Nat) (v : W64) : State := homeStore s t (pa + 8 * i) (leBytes 8 v.toNat)
def sbSetReserve (s : State) (t pa n : Nat) : State := sbStore s t pa 0 (BitVec.ofNat 64 n)
/-- The home's record changed, and BOOKMASK with it (R112). -/
def sbSetBooks (s : State) (t pa : Nat) (k : SbHome) : State :=
  let s := s.updDom (s.home t pa) fun d => { d with counters := kset d.counters pa k }
  sbStore s t pa 1 (k.books.foldl (fun (m : W64) (d, _) => m ||| domBit d) 0)
/-- The content of a domain's book. -/
def sbBook (s : State) (d pa : Nat) : Nat := (zget (s.dom d).books pa).toNat
def sbSetBook (s : State) (d pa n : Nat) : State := s.updDom d fun x => { x with books := zset x.books pa (BitVec.ofNat 48 n) }
/-- A domain's table of 2,048 books has room (R114). -/
def sbRoom (s : State) (d : Nat) : Bool :=
  decide (((s.domains.map fun (_, x) => (x.counters.filter fun (_, k) => (kget k.books d).isSome).length).sum) < 2048)

/-- A recall (R116): every book's content moves into RESERVE. -/
def sbRecall (s : State) (t pa : Nat) (k : SbHome) : State :=
  let total := (k.books.map fun (d, _) => sbBook s d pa).sum
  let s := k.books.foldl (fun s (d, _) => sbSetBook s d pa 0) s
  let s := sbSetBooks s t pa { k with books := kmap k.books fun _ (b : Nat × Nat × Bool) => (b.1, 0, false) }
  sbSetReserve s t pa (sbReserve s pa + total)

/-- Cap of R114 for a domain that requests a book. -/
def sbCap (s : State) (pa d : Nat) (k : SbHome) : Nat :=
  let vh := sbReserve s pa + (k.books.map fun (_, b) => b.2.1).sum
  let p := (k.books.filter fun (e, b) => b.2.2 || e == d).length + (if (kget k.books d).isSome then 0 else 1)
  max 64 (vh / (4 * p))
/-- The recorded caps of the domains but one. -/
def sbCaps (k : SbHome) (d : Nat) : Nat := (k.books.map fun (e, b) => if e = d then 0 else b.1).sum

/-- A take at the home (R115 steps 3 to 5): a grant, else a recall and the reserve. -/
def sbTakeHome (s : State) (t pa d n : Nat) (k : SbHome) : State × Bool :=
  let r := sbReserve s pa
  let b := sbBook s d pa
  let has := (kget k.books d).isSome
  let cap := sbCap s pa d k
  let g := min r (max n cap - b)
  let fromReserve (s : State) : State × Bool :=
    let r := sbReserve s pa
    if n ≤ r then (sbSetReserve s t pa (r - n), true) else (s, false)
  if has || sbRoom s d then
    if n ≤ b + g && decide (r - g + sbCaps k d + cap ≤ sbMax) then
      let s := sbSetReserve s t pa (r - g)
      let s := sbSetBooks s t pa { k with books := kset k.books d (cap, g, true) }
      (sbSetBook s d pa (b + g - n), true)
    else fromReserve (sbRecall s t pa k)
  else fromReserve (if n ≤ r then s else sbRecall s t pa k)

/-- OVF is set (R117, R279). -/
def sbOverflow (s : State) (t pa : Nat) : State := sbStore s t pa 2 (readW64 s.mem (pa + 16) ||| 2)

/-- A give at the home (R117). The cap of a book that the give creates is taken before the recall that the give itself causes
(DESIGN CHOICE, log 149). -/
def sbGiveHome (s : State) (t pa d n : Nat) (k : SbHome) : State × Bool :=
  let old := kget k.books d
  let room := old.isSome || sbRoom s d
  let cap := match old with | some b => b.1 | none => if room then sbCap s pa d k else 0
  let add (s : State) (k : SbHome) (fit : Nat) : State :=
    let s := if room then
        let k := if old.isSome then k else { k with books := kset k.books d (cap, 0, true) }
        sbSetBook (sbSetBooks s t pa k) d pa (sbBook s d pa + fit)
      else s
    sbSetReserve s t pa (sbReserve s pa + (n - fit))
  let fit := if room then min n (cap - sbBook s d pa) else 0
  if sbReserve s pa + (n - fit) + sbCaps k d + cap ≤ sbMax then (add s k fit, true)
  else
    let s := sbRecall s t pa k
    let k := (sbOpen s t pa).getD k
    if sbReserve s pa + n ≤ sbMax then
      if old.isSome || sbReserve s pa + n + sbCaps k d + cap ≤ sbMax then (add s k (if room then min n cap else 0), true)
      else (sbSetReserve s t pa (sbReserve s pa + n), true)
    else (sbOverflow s t pa, false)

/-- SBINIT at the home (R113, R279). -/
def sbInitHome (s : State) (t pa n : Nat) : State × Bool :=
  let h := s.home t pa
  if (openCounter s t pa).isSome || 1024 ≤ (s.dom h).counters.length || sbMax < n then (s, false)
  else
    let s := homeStore s t pa (leBytes 64 0)
    let s := sbSetBooks s t pa { books := [], tenant := t }
    (sbStore (sbSetReserve s t pa n) t pa 2 1, true)

/-- SBREAD and SBCLOSE at the home (R118): the exact value. -/
def sbReadHome (s : State) (t pa : Nat) (k : SbHome) : State × Nat :=
  let s := sbRecall s t pa k
  (s, sbReserve s pa)
def sbCloseHome (s : State) (t pa : Nat) (k : SbHome) : State × Nat :=
  let s := sbRecall s t pa k
  let s := sbSetBooks s t pa { k with books := [] }
  let s := s.updDom (s.home t pa) fun d => { d with counters := kdel d.counters pa }
  (sbStore s t pa 2 (readW64 s.mem (pa + 16) &&& ~~~1#64), sbReserve s pa)

/-- An operation performed at the home: its result, or nothing where the line holds no such open counter (R113). -/
def sbAtHome (s : State) (t op pa d n : Nat) : State × Option Nat :=
  if op = sbInit then
    let r := sbInitHome s t pa n
    (r.1, some r.2.toNat)
  else
    match sbOpen s t pa with
    | none => (s, none)
    | some k =>
      if op = sbRead then let r := sbReadHome s t pa k; (r.1, some r.2)
      else if op = sbClose then let r := sbCloseHome s t pa k; (r.1, some r.2)
      else if op = sbTake && n = 0 then (s, some 1)
      else if sbMax < n then (if op = sbGive then sbOverflow s t pa else s, some 0)
      else
        let r := if op = sbTake then sbTakeHome s t pa d n k else sbGiveHome s t pa d n k
        (r.1, some r.2.toNat)

/-- A lane's result reaches its scoreboard slot (R260); the lowest lane that met SBFAULT, which has no result, is kept (R279). -/
def deliverSlot (s : State) (c b g slot lane : Nat) (va : W64) (res : Option Nat) : State :=
  let put (k : BoardSlot) : BoardSlot :=
    let v := BitVec.ofNat 64 (res.getD 0)
    let wb := match k.wb with
      | .vec d p vals => WriteBack.vec d p (vals.map fun (l, o) => if l = lane then (l, v) else (l, o))
      | w => w
    let fault := if res.isSome then k.fault else match k.fault with
      | some (l, a) => if lane < l then some (lane, va) else some (l, a)
      | none => some (lane, va)
    { k with wb := wb, left := k.left - 1, fault := fault }
  s.updGroup c b g fun g => { g with board := g.board.map fun k => if k.id = slot then put k else k }
/-- The result of a stamp-book operation. -/
def sbDeliver (s : State) (r : SbReq) (res : Option Nat) : State := deliverSlot s r.core r.block r.grp r.slot r.lane r.va res

/-- A take or give that waits for its home is served there (R115-R117); its core's L1 copy of the line goes before (R261). -/
def sbServe (s : State) (t : Nat) (r : SbReq) : State :=
  let s := s.updCore r.core fun k => { k with l1 := kdel k.l1 (lineOf r.pa) }
  let o := sbAtHome s t r.op r.pa r.domain r.n
  sbDeliver o.1 r o.2

/-- The requests of a counter that reached its home before are served first (R96, R118). -/
def sbFlush (s : State) (t pa : Nat) : State :=
  let h := s.home t pa
  let mine := (s.dom h).sbReqs.filter fun r => r.pa == pa
  let s := s.updDom h fun d => { d with sbReqs := d.sbReqs.filter fun r => r.pa != pa }
  mine.foldl (fun s r => sbServe s t r) s

/-- A home serves its waiting requests, in the order of their arrival (R116), up to the last that a test names. -/
def serveUntil (d : Nat) (p : SbReq → Bool) : Nat → State → State
  | 0, s => s
  | n + 1, s =>
    match (s.dom d).sbReqs with
    | r :: rest =>
      if (r :: rest).any p then
        serveUntil d p n (sbServe (s.updDom d fun x => { x with sbReqs := rest }) (s.coreTenant r.core) r)
      else s
    | [] => s
/-- The requests of a core on a line are served: what its threads do next with the line follows them (R77, R78, R261). -/
def serveLine (s : State) (c line : Nat) : State :=
  let d := s.home (s.coreTenant c) (lineBase line)
  serveUntil d (fun r => r.core == c && lineOf r.pa == line) (s.dom d).sbReqs.length s
/-- The requests of a group are served: a release or a FENCE of it follows them (R261, R272). -/
def serveGroup (s : State) (c b g : Nat) : State :=
  (s.domains.map (·.1)).foldl (fun s d =>
    serveUntil d (fun r => r.core == c && r.block == b && r.grp == g) (s.dom d).sbReqs.length s) s

end Sys2Proof.Machine
end

