-- ==== Sys2Proof/WellFormed.lean ====
section
/-! DEFINITION. When an instruction's words are well formed: the encoding checks of R185 step 1, from the rows of
R195-R198 and R202 and the codes of R199, with R180, R182, R183, R186 and R203. -/
namespace Sys2Proof

/-- The TY codes (R181). -/
def tyF32 : BitVec 4 := 0x0
def tyF16 : BitVec 4 := 0x1
def tyBf16 : BitVec 4 := 0x2
def tyE4m3 : BitVec 4 := 0x3
def tyE5m2 : BitVec 4 := 0x4
def tyE2m1 : BitVec 4 := 0x5
def tyS8 : BitVec 4 := 0x6
def tyU8 : BitVec 4 := 0x7
def tyS16 : BitVec 4 := 0x8
def tyU16 : BitVec 4 := 0x9
def tyS32 : BitVec 4 := 0xA
def tyU32 : BitVec 4 := 0xB
def tyS64 : BitVec 4 := 0xC
def tyU64 : BitVec 4 := 0xD
def tyB1 : BitVec 4 := 0xE
def tyB32 : BitVec 4 := 0xF

/-- The types a row accepts (R195-R198, R200). -/
def tysU : List (BitVec 4) := [tyS64, tyU64, tyS32, tyU32]
def tysI : List (BitVec 4) := [tyS32, tyU32]
def tysH : List (BitVec 4) := [tyF16, tyBf16]
def tysMem : List (BitVec 4) := [tyS8, tyU8, tyS16, tyU16, tyS32, tyU32, tyB32, tyS64, tyU64]
def tysCvt : List (BitVec 4) := [tyF32, tyF16, tyBf16, tyE4m3, tyE5m2, tyS8, tyU8, tyS16, tyU16, tyS32, tyU32]
def tysRed : List (BitVec 4) := [tyS32, tyU32, tyF32]
def tysAtom : List (BitVec 4) := [tyS32, tyU32, tyS64, tyU64, tyF32]
def tysSync : List (BitVec 4) := [tyS32, tyU32, tyB32, tyS64, tyU64]
def tysDesc : List (BitVec 4) := [tyBf16, tyE4m3, tyE5m2, tyE2m1, tyS8, tyB1, tyF32, tyS32]
def tysMma : List (BitVec 4) := [tyBf16, tyE4m3, tyE5m2, tyE2m1, tyS8]
def tysTcvt : List (BitVec 4) := [tyF16, tyBf16, tyE4m3, tyE5m2, tyS8]
def tysTst : List (BitVec 4) := [tyF16, tyBf16, tyE4m3, tyE5m2, tyS8, tyF32, tyS32]

/-- Whether TY names a 64-bit type (R200). -/
def isTy64 (t : BitVec 4) : Bool := t == tyS64 || t == tyU64

/-- The register file of an operand field (R194): vector, vector pair, pair when TY has 64 bits, pair by MOD6[0] or
MOD6[2], uniform, uniform octet, predicates, PLOP's, VOTE's and RDSR's choices, tile files, and an address (R184). -/
inductive Opk where
  | none | v | v2 | vt | vp0 | vp2 | s | so | p | q | pq | vote | rdsr | tileA | tileD | tileX | mem
  deriving DecidableEq, Repr

/-- Which operand a literal replaces (the Lit column of R195-R198); `req` means the literal is required. -/
inductive LitUse where
  | no | a | b | off | req
  deriving DecidableEq, Repr

/-- A special register of R223: its number, whether it is per lane, writable, and readable only in a handler. -/
structure SpecialReg where
  num : BitVec 8
  lane : Bool
  writable : Bool
  handler : Bool
  deriving DecidableEq, Repr

/-- The special registers of R223. -/
def specialRegs : List SpecialReg :=
  ([0x00#8].map fun n => ⟨n, true, false, false⟩) ++
  ([0x01#8, 0x02#8, 0x03#8, 0x04#8, 0x05#8, 0x06#8, 0x07#8, 0x08#8, 0x09#8, 0x0A#8, 0x0B#8, 0x0C#8, 0x10#8, 0x11#8].map
    fun n => ⟨n, false, false, false⟩) ++
  ([0x18#8, 0x19#8].map fun n => ⟨n, false, true, false⟩) ++
  ([0x20#8, 0x21#8].map fun n => ⟨n, false, true, true⟩) ++
  ([0x22#8, 0x23#8, 0x24#8].map fun n => ⟨n, false, false, true⟩)

/-- The special register of a number, if it is not reserved. -/
def specialReg (n : BitVec 8) : Option SpecialReg := specialRegs.find? fun r => r.num == n

/-- A row of the opcode map (R195-R198): its XOP, stream, guard file, operand files, which operands may be channels
(R183), types, and the bits of MOD6 and AUX8 it uses. `extra` holds the checks that are the row's own. -/
structure Row where
  xop : BitVec 10
  tile : Bool := false
  gq : Bool := false
  d : Opk := .none
  a : Opk := .none
  b : Opk := .none
  c : Opk := .none
  e : Opk := .none
  dch : Bool := false
  ach : Bool := false
  bch : Bool := false
  cch : Bool := false
  tys : List (BitVec 4) := [tyF32]
  rm : Bool := false
  sat : Bool := false
  hint : Bool := false
  mod6 : BitVec 6 := 0
  aux8 : BitVec 8 := 0
  lit : LitUse := .no
  extra : Ext → Bool := fun _ => true

/-- A literal's upper word is zero where its operand has 32 bits (R186). -/
def litHighZero (x : Ext) : Bool := x.lit.all fun l => l.extractLsb' 32 32 == 0#32

/-- HINT must be zero for the scratchpad (R208). -/
def hintScratch (x : Ext) : Bool := x.hint == 0#2 || x.mod6.extractLsb' 0 2 != 1#2

/-- The reserved bits of a target literal are zero (R201); the offset's alignment is checked when the branch is. -/
def litTarget (x : Ext) : Bool :=
  x.lit.all fun l => l.extractLsb' 44 20 == 0#20 && l.extractLsb' 14 18 == 0#18

/-- A scope code is one of R71's. -/
def scopeOk (n : BitVec 4) : Bool := decide (n ≤ 8#4)

/-- The barrier number is below its level's count (R199). -/
def barOk (x : Ext) : Bool :=
  let n := x.aux8.extractLsb' 0 4
  match x.mod6.extractLsb' 0 2 with
  | 0#2 => decide (n < 4#4)
  | 1#2 => true
  | 2#2 => decide (n < 8#4)
  | _ => decide (n < 4#4)

/-- The atomic operation is allowed for the type (R199, R266). -/
def atomOpOk (x : Ext) : Bool :=
  let op := x.aux8.extractLsb' 4 4
  if x.ty == tyF32 then [0#4, 1#4, 2#4, 6#4].contains op
  else if op == 7#4 || op == 8#4 then x.ty == tyU32 || x.ty == tyU64
  else decide (op ≤ 6#4)

/-- The group operation is allowed for the type, and RM is used only by the f32 add (R199, R251). -/
def groupOpOk (x : Ext) : Bool :=
  let op := x.mod6.extractLsb' 0 3
  if x.ty == tyF32 then decide (op ≤ 2#3) && (op == 0#3 || x.rm == 0#3) else decide (op ≤ 5#3) && x.rm == 0#3

/-- Width in bits of a narrow type of CVT, or none (R241). -/
def narrowBits (t : BitVec 4) : Option Nat :=
  if [tyE4m3, tyE5m2, tyS8, tyU8].contains t then some 8
  else if [tyF16, tyBf16, tyS16, tyU16].contains t then some 16 else none

/-- An integer type of CVT. -/
def isIntTy (t : BitVec 4) : Bool := [tyS8, tyU8, tyS16, tyU16, tyS32, tyU32].contains t

/-- CVT's types differ and are allowed, its sub-element fits, and an integer conversion is rne (R241). -/
def cvtOk (x : Ext) : Bool :=
  let sty := x.aux8.extractLsb' 0 4
  let n := (x.mod6.extractLsb' 0 2).toNat
  let w := max ((narrowBits sty).getD 0) ((narrowBits x.ty).getD 0)
  tysCvt.contains sty && sty != x.ty && (if w = 0 then n = 0 else n ≤ 32 / w - 1) &&
    (!(isIntTy sty && isIntTy x.ty) || x.rm == 0#3)

/-- The type of B in a TMMA (R302). -/
def tmmaOk (x : Ext) : Bool :=
  if x.ty == tyE4m3 || x.ty == tyE5m2 then x.aux8 == 3#8 || x.aux8 == 4#8 else x.aux8 == 0#8

namespace Rows

/-- UADD -/
def uadd : Row :=
  { xop := 0x000, gq := true, d := .s, dch := true, a := .s, ach := true, b := .s, bch := true, tys := tysU, lit := .b }
/-- USUB -/
def usub : Row :=
  { xop := 0x001, gq := true, d := .s, dch := true, a := .s, ach := true, b := .s, bch := true, tys := tysU, lit := .b }
/-- UMUL -/
def umul : Row :=
  { xop := 0x002, gq := true, d := .s, dch := true, a := .s, ach := true, b := .s, bch := true, tys := tysU, lit := .b }
/-- UMULH -/
def umulh : Row :=
  { xop := 0x003, gq := true, d := .s, dch := true, a := .s, ach := true, b := .s, bch := true, tys := tysU, lit := .b }
/-- UMAD -/
def umad : Row :=
  { xop := 0x004, gq := true, d := .s, dch := true, a := .s, ach := true, b := .s, bch := true, c := .s, cch := true, tys := tysU, lit := .b }
/-- UAND -/
def uand : Row :=
  { xop := 0x005, gq := true, d := .s, dch := true, a := .s, ach := true, b := .s, bch := true, lit := .b }
/-- UOR -/
def uor : Row :=
  { xop := 0x006, gq := true, d := .s, dch := true, a := .s, ach := true, b := .s, bch := true, lit := .b }
/-- UXOR -/
def uxor : Row :=
  { xop := 0x007, gq := true, d := .s, dch := true, a := .s, ach := true, b := .s, bch := true, lit := .b }
/-- USHL -/
def ushl : Row :=
  { xop := 0x008, gq := true, d := .s, dch := true, a := .s, ach := true, b := .s, bch := true, lit := .b }
/-- USHR -/
def ushr : Row :=
  { xop := 0x009, gq := true, d := .s, dch := true, a := .s, ach := true, b := .s, bch := true, lit := .b }
/-- USRA -/
def usra : Row :=
  { xop := 0x00A, gq := true, d := .s, dch := true, a := .s, ach := true, b := .s, bch := true, lit := .b }
/-- UMIN -/
def umin : Row :=
  { xop := 0x00B, gq := true, d := .s, dch := true, a := .s, ach := true, b := .s, bch := true, tys := tysU, lit := .b }
/-- UMAX -/
def umax : Row :=
  { xop := 0x00C, gq := true, d := .s, dch := true, a := .s, ach := true, b := .s, bch := true, tys := tysU, lit := .b }
/-- UCLZ -/
def uclz : Row :=
  { xop := 0x00D, gq := true, d := .s, dch := true, a := .s, ach := true }
/-- UPOPC -/
def upopc : Row :=
  { xop := 0x00E, gq := true, d := .s, dch := true, a := .s, ach := true }
/-- ULEA -/
def ulea : Row :=
  { xop := 0x00F, gq := true, d := .s, dch := true, a := .s, ach := true, b := .s, bch := true, mod6 := 0x03, lit := .b }
/-- USEL -/
def usel : Row :=
  { xop := 0x010, gq := true, d := .s, dch := true, a := .s, ach := true, b := .s, bch := true, c := .q, lit := .b }
/-- UCMP -/
def ucmp : Row :=
  { xop := 0x011, gq := true, d := .q, a := .s, ach := true, b := .s, bch := true, tys := tysU, mod6 := 0x07, lit := .b, extra := fun x => decide (x.mod6 < 6#6) }
/-- UMOV -/
def umov : Row :=
  { xop := 0x012, gq := true, d := .s, dch := true, b := .s, bch := true, lit := .b }
/-- ULD -/
def uld : Row :=
  { xop := 0x018, gq := true, d := .s, dch := true, a := .mem, tys := tysMem, hint := true, mod6 := 0x3F, aux8 := 0xFF, lit := .off, extra := fun x => hintScratch x && x.mod6.extractLsb' 2 4 == 0x8#4 && x.mod6.extractLsb' 0 2 != 3#2 }
/-- UST -/
def ust : Row :=
  { xop := 0x019, gq := true, a := .mem, c := .s, cch := true, tys := tysMem, hint := true, mod6 := 0x3F, aux8 := 0xFF, lit := .off, extra := fun x => hintScratch x && x.mod6.extractLsb' 2 4 == 0x8#4 && x.mod6.extractLsb' 1 1 == 0#1 }
/-- BRA -/
def bra : Row :=
  { xop := 0x020, mod6 := 0x3F, aux8 := 0xFF, lit := .req }
/-- BRX -/
def brx : Row :=
  { xop := 0x021, a := .v, mod6 := 0x3F, aux8 := 0xFF }
/-- CALL -/
def call : Row :=
  { xop := 0x022, d := .v2, mod6 := 0x3F, aux8 := 0xFF, lit := .req, extra := litTarget }
/-- RET -/
def ret : Row :=
  { xop := 0x023, a := .v2 }
/-- JFENCE -/
def jfence : Row :=
  { xop := 0x024, mod6 := 0x3F, aux8 := 0xFF, lit := .req, extra := litTarget }
/-- CFETCH -/
def cfetch : Row :=
  { xop := 0x025, gq := true, a := .s, ach := true, aux8 := 0x07, lit := .a }
/-- EXIT -/
def exit : Row :=
  { xop := 0x026 }
/-- YLD -/
def yld : Row :=
  { xop := 0x027 }
/-- RECONV -/
def reconv : Row :=
  { xop := 0x028, a := .s, ach := true, lit := .a }
/-- NOP -/
def nop : Row :=
  { xop := 0x029 }
/-- SPAWN -/
def spawn : Row :=
  { xop := 0x030, gq := true, a := .so }
/-- JOIN -/
def join : Row :=
  { xop := 0x031, gq := true, a := .s, ach := true, lit := .a }
/-- CANCEL -/
def cancel : Row :=
  { xop := 0x032, gq := true, a := .s, ach := true, aux8 := 0x03, lit := .a }
/-- LVLRD -/
def lvlrd : Row :=
  { xop := 0x033, gq := true, d := .s, dch := true, a := .s, ach := true, aux8 := 0x03, lit := .a }
/-- CAPQ -/
def capq : Row :=
  { xop := 0x034, gq := true, d := .s, dch := true, a := .s, ach := true, lit := .a }
/-- RDSR -/
def rdsr : Row :=
  { xop := 0x038, gq := true, d := .rdsr, dch := true, mod6 := 0x01, aux8 := 0xFF, extra := fun x => (specialReg x.aux8).any fun r => !r.lane || x.mod6.getLsbD 0 }
/-- WRSR -/
def wrsr : Row :=
  { xop := 0x039, gq := true, a := .s, ach := true, aux8 := 0xFF, lit := .a, extra := fun x => (specialReg x.aux8).any fun r => r.writable }
/-- TRAP -/
def trap : Row :=
  { xop := 0x03A, gq := true, aux8 := 0xFF }
/-- ERET -/
def eret : Row :=
  { xop := 0x03B, gq := true }
/-- PREACK -/
def preack : Row :=
  { xop := 0x03C, gq := true }
/-- IADD -/
def iadd : Row :=
  { xop := 0x100, d := .v, dch := true, a := .v, ach := true, b := .v, bch := true, tys := tysI, sat := true, lit := .b }
/-- ISUB -/
def isub : Row :=
  { xop := 0x101, d := .v, dch := true, a := .v, ach := true, b := .v, bch := true, tys := tysI, sat := true, lit := .b }
/-- IMUL -/
def imul : Row :=
  { xop := 0x102, d := .v, dch := true, a := .v, ach := true, b := .v, bch := true, tys := tysI, lit := .b }
/-- IMULH -/
def imulh : Row :=
  { xop := 0x103, d := .v, dch := true, a := .v, ach := true, b := .v, bch := true, tys := tysI, lit := .b }
/-- IMAD -/
def imad : Row :=
  { xop := 0x104, d := .v, dch := true, a := .v, ach := true, b := .v, bch := true, c := .v, cch := true, tys := tysI, lit := .b }
/-- IMIN -/
def imin : Row :=
  { xop := 0x105, d := .v, dch := true, a := .v, ach := true, b := .v, bch := true, tys := tysI, lit := .b }
/-- IMAX -/
def imax : Row :=
  { xop := 0x106, d := .v, dch := true, a := .v, ach := true, b := .v, bch := true, tys := tysI, lit := .b }
/-- IABS -/
def iabs : Row :=
  { xop := 0x107, d := .v, dch := true, a := .v, ach := true, tys := [tyS32], sat := true }
/-- IAND -/
def iand : Row :=
  { xop := 0x108, d := .v, dch := true, a := .v, ach := true, b := .v, bch := true, lit := .b }
/-- IOR -/
def ior : Row :=
  { xop := 0x109, d := .v, dch := true, a := .v, ach := true, b := .v, bch := true, lit := .b }
/-- IXOR -/
def ixor : Row :=
  { xop := 0x10A, d := .v, dch := true, a := .v, ach := true, b := .v, bch := true, lit := .b }
/-- ISHL -/
def ishl : Row :=
  { xop := 0x10B, d := .v, dch := true, a := .v, ach := true, b := .v, bch := true, lit := .b }
/-- ISHR -/
def ishr : Row :=
  { xop := 0x10C, d := .v, dch := true, a := .v, ach := true, b := .v, bch := true, lit := .b }
/-- ISRA -/
def isra : Row :=
  { xop := 0x10D, d := .v, dch := true, a := .v, ach := true, b := .v, bch := true, lit := .b }
/-- ICLZ -/
def iclz : Row :=
  { xop := 0x10E, d := .v, dch := true, a := .v, ach := true }
/-- IPOPC -/
def ipopc : Row :=
  { xop := 0x10F, d := .v, dch := true, a := .v, ach := true }
/-- IBFX -/
def ibfx : Row :=
  { xop := 0x110, d := .v, dch := true, a := .v, ach := true, tys := tysI, mod6 := 0x3F, aux8 := 0x1F, extra := fun x => decide (1#6 ≤ x.mod6) && decide (x.mod6 ≤ 32#6) }
/-- IBFI -/
def ibfi : Row :=
  { xop := 0x111, d := .v, dch := true, a := .v, ach := true, b := .v, bch := true, mod6 := 0x3F, aux8 := 0x1F, lit := .b, extra := fun x => decide (1#6 ≤ x.mod6) && decide (x.mod6 ≤ 32#6) }
/-- ISET -/
def iset : Row :=
  { xop := 0x112, d := .p, a := .v, ach := true, b := .v, bch := true, tys := tysI, mod6 := 0x07, lit := .b, extra := fun x => decide (x.mod6 < 6#6) }
/-- ISEL -/
def isel : Row :=
  { xop := 0x113, d := .v, dch := true, a := .v, ach := true, b := .v, bch := true, c := .p, lit := .b }
/-- FADD -/
def fadd : Row :=
  { xop := 0x120, d := .v, dch := true, a := .v, ach := true, b := .v, bch := true, rm := true, lit := .b }
/-- FSUB -/
def fsub : Row :=
  { xop := 0x121, d := .v, dch := true, a := .v, ach := true, b := .v, bch := true, rm := true, lit := .b }
/-- FMUL -/
def fmul : Row :=
  { xop := 0x122, d := .v, dch := true, a := .v, ach := true, b := .v, bch := true, rm := true, lit := .b }
/-- FFMA -/
def ffma : Row :=
  { xop := 0x123, d := .v, dch := true, a := .v, ach := true, b := .v, bch := true, c := .v, cch := true, rm := true, lit := .b }
/-- FMIN -/
def fmin : Row :=
  { xop := 0x124, d := .v, dch := true, a := .v, ach := true, b := .v, bch := true, lit := .b }
/-- FMAX -/
def fmax : Row :=
  { xop := 0x125, d := .v, dch := true, a := .v, ach := true, b := .v, bch := true, lit := .b }
/-- FSET -/
def fset : Row :=
  { xop := 0x126, d := .p, a := .v, ach := true, b := .v, bch := true, mod6 := 0x07, lit := .b }
/-- FCLASS -/
def fclass : Row :=
  { xop := 0x127, d := .p, a := .v, ach := true, mod6 := 0x01, aux8 := 0xFF }
/-- HADD2 -/
def hadd2 : Row :=
  { xop := 0x128, d := .v, dch := true, a := .v, ach := true, b := .v, bch := true, tys := tysH, rm := true, lit := .b }
/-- HMUL2 -/
def hmul2 : Row :=
  { xop := 0x129, d := .v, dch := true, a := .v, ach := true, b := .v, bch := true, tys := tysH, rm := true, lit := .b }
/-- HFMA2 -/
def hfma2 : Row :=
  { xop := 0x12A, d := .v, dch := true, a := .v, ach := true, b := .v, bch := true, c := .v, cch := true, tys := tysH, rm := true, lit := .b }
/-- HMIN2 -/
def hmin2 : Row :=
  { xop := 0x12B, d := .v, dch := true, a := .v, ach := true, b := .v, bch := true, tys := tysH, lit := .b }
/-- HMAX2 -/
def hmax2 : Row :=
  { xop := 0x12C, d := .v, dch := true, a := .v, ach := true, b := .v, bch := true, tys := tysH, lit := .b }
/-- CVT -/
def cvt : Row :=
  { xop := 0x130, d := .v, dch := true, a := .v, ach := true, tys := tysCvt, rm := true, sat := true, mod6 := 0x03, aux8 := 0x0F, extra := cvtOk }
/-- PACK4 -/
def pack4 : Row :=
  { xop := 0x131, d := .v, dch := true, a := .v, ach := true, b := .v, bch := true, tys := [tyE2m1], rm := true, mod6 := 0x07, aux8 := 0x0F, extra := fun x => [tyF32, tyF16, tyBf16].contains (x.aux8.extractLsb' 0 4) }
/-- UNPK4 -/
def unpk4 : Row :=
  { xop := 0x132, d := .v, dch := true, a := .v, ach := true, tys := [tyF32, tyF16, tyBf16], mod6 := 0x07 }
/-- PLOP -/
def plop : Row :=
  { xop := 0x138, d := .pq, a := .pq, b := .pq, c := .pq, mod6 := 0x01, aux8 := 0xFF }
/-- MOV -/
def mov : Row :=
  { xop := 0x139, d := .vp0, dch := true, b := .vp0, bch := true, mod6 := 0x01, lit := .b }
/-- S2V -/
def s2v : Row :=
  { xop := 0x13A, d := .vp0, dch := true, b := .s, bch := true, mod6 := 0x01, lit := .b, extra := fun x => x.mod6.getLsbD 0 || litHighZero x }
/-- V2S -/
def v2s : Row :=
  { xop := 0x13B, d := .s, dch := true, a := .vp0, b := .s, bch := true, mod6 := 0x01, lit := .b }
/-- SHFL -/
def shfl : Row :=
  { xop := 0x140, d := .vp2, dch := true, a := .vp2, ach := true, b := .v, bch := true, mod6 := 0x07, lit := .b }
/-- VOTE -/
def vote : Row :=
  { xop := 0x141, d := .vote, dch := true, a := .p, mod6 := 0x03 }
/-- REDG -/
def redg : Row :=
  { xop := 0x142, d := .s, dch := true, a := .v, ach := true, tys := tysRed, rm := true, mod6 := 0x07, extra := fun x => groupOpOk x }
/-- SCANG -/
def scang : Row :=
  { xop := 0x143, d := .v, dch := true, a := .v, ach := true, tys := tysRed, rm := true, mod6 := 0x0F, extra := fun x => groupOpOk x }
/-- MATCH -/
def matchLanes : Row :=
  { xop := 0x144, d := .v2, dch := true, a := .vp0, ach := true, mod6 := 0x01 }
/-- EXP2 -/
def exp2 : Row :=
  { xop := 0x150, d := .v, a := .v, ach := true, aux8 := 0x07 }
/-- LOG2 -/
def log2 : Row :=
  { xop := 0x151, d := .v, a := .v, ach := true, aux8 := 0x07 }
/-- RCP -/
def rcp : Row :=
  { xop := 0x152, d := .v, a := .v, ach := true, aux8 := 0x07 }
/-- RSQ -/
def rsq : Row :=
  { xop := 0x153, d := .v, a := .v, ach := true, aux8 := 0x07 }
/-- SQRT -/
def sqrt : Row :=
  { xop := 0x154, d := .v, a := .v, ach := true, aux8 := 0x07 }
/-- TANH -/
def tanh : Row :=
  { xop := 0x155, d := .v, a := .v, ach := true, aux8 := 0x07 }
/-- LGST -/
def lgst : Row :=
  { xop := 0x156, d := .v, a := .v, ach := true, aux8 := 0x07 }
/-- SINP -/
def sinp : Row :=
  { xop := 0x157, d := .v, a := .v, ach := true, aux8 := 0x07 }
/-- COSP -/
def cosp : Row :=
  { xop := 0x158, d := .v, a := .v, ach := true, aux8 := 0x07 }
/-- SFWAIT -/
def sfwait : Row :=
  { xop := 0x15F, aux8 := 0xFF, extra := fun x => x.aux8 != 0#8 }
/-- LDG -/
def ldg : Row :=
  { xop := 0x200, d := .vt, dch := true, a := .mem, tys := tysMem, hint := true, mod6 := 0x3C, aux8 := 0xFF, lit := .off }
/-- STG -/
def stg : Row :=
  { xop := 0x201, a := .mem, c := .vt, cch := true, tys := tysMem, hint := true, mod6 := 0x3C, aux8 := 0xFF, lit := .off }
/-- LDS -/
def lds : Row :=
  { xop := 0x202, d := .vt, dch := true, a := .mem, tys := tysMem, mod6 := 0x3C, aux8 := 0xFF, lit := .off }
/-- STS -/
def sts : Row :=
  { xop := 0x203, a := .mem, c := .vt, cch := true, tys := tysMem, mod6 := 0x3C, aux8 := 0xFF, lit := .off }
/-- LDL -/
def ldl : Row :=
  { xop := 0x204, d := .vt, dch := true, a := .mem, tys := tysMem, hint := true, mod6 := 0x3C, aux8 := 0xFF, lit := .off }
/-- STL -/
def stl : Row :=
  { xop := 0x205, a := .mem, c := .vt, cch := true, tys := tysMem, hint := true, mod6 := 0x3C, aux8 := 0xFF, lit := .off }
/-- LDC -/
def ldc : Row :=
  { xop := 0x206, d := .vt, dch := true, a := .mem, tys := tysMem, hint := true, mod6 := 0x3C, aux8 := 0xFF, lit := .off }
/-- PFCH -/
def pfch : Row :=
  { xop := 0x207, a := .mem, hint := true, mod6 := 0x3C, aux8 := 0xFF, lit := .off }
/-- ATOM -/
def atom : Row :=
  { xop := 0x210, d := .vt, a := .mem, c := .vt, tys := tysAtom, mod6 := 0x3F, aux8 := 0xFF, lit := .off, extra := fun x => scopeOk (x.aux8.extractLsb' 0 4) && atomOpOk x }
/-- ATOMC -/
def atomc : Row :=
  { xop := 0x211, d := .vt, a := .mem, c := .vt, e := .vt, tys := tysU, mod6 := 0x3F, aux8 := 0x0F, lit := .off, extra := fun x => scopeOk (x.aux8.extractLsb' 0 4) }
/-- RED -/
def red : Row :=
  { xop := 0x212, a := .mem, c := .vt, tys := tysAtom, mod6 := 0x3F, aux8 := 0xFF, lit := .off, extra := fun x => scopeOk (x.aux8.extractLsb' 0 4) && atomOpOk x && !x.mod6.getLsbD 0 }
/-- ATOMS -/
def atoms : Row :=
  { xop := 0x213, d := .vt, a := .mem, c := .vt, tys := tysAtom, mod6 := 0x3F, aux8 := 0xFF, lit := .off, extra := fun x => x.mod6.extractLsb' 0 2 == 0#2 && x.aux8.extractLsb' 0 4 == 0#4 && atomOpOk x }
/-- LDA -/
def lda : Row :=
  { xop := 0x214, d := .vt, a := .mem, tys := tysSync, mod6 := 0x3C, aux8 := 0x0F, lit := .off, extra := fun x => scopeOk (x.aux8.extractLsb' 0 4) }
/-- STRL -/
def strl : Row :=
  { xop := 0x215, a := .mem, c := .vt, tys := tysSync, mod6 := 0x3C, aux8 := 0x0F, lit := .off, extra := fun x => scopeOk (x.aux8.extractLsb' 0 4) }
/-- FENCE -/
def fence : Row :=
  { xop := 0x216, mod6 := 0x03, aux8 := 0x0F, extra := fun x => x.mod6 != 0#6 && scopeOk (x.aux8.extractLsb' 0 4) }
/-- OBJDECL -/
def objdecl : Row :=
  { xop := 0x220, gq := true, d := .s, dch := true, a := .s, ach := true, lit := .a }
/-- OBJDROP -/
def objdrop : Row :=
  { xop := 0x221, gq := true, a := .s, ach := true, lit := .a }
/-- SEAL -/
def sealRange : Row :=
  { xop := 0x222, gq := true, d := .s, dch := true, a := .s, ach := true, b := .s, bch := true, lit := .b }
/-- UNSEAL -/
def unsealRange : Row :=
  { xop := 0x223, gq := true, d := .s, dch := true, a := .s, ach := true, b := .s, bch := true, lit := .b }
/-- RSDECL -/
def rsdecl : Row :=
  { xop := 0x224, gq := true, d := .s, dch := true, a := .s, ach := true, b := .s, bch := true, mod6 := 0x07, aux8 := 0xFF, lit := .b }
/-- RSSET -/
def rsset : Row :=
  { xop := 0x225, gq := true, d := .s, dch := true, mod6 := 0x07, aux8 := 0xFF }
/-- RSEVICT -/
def rsevict : Row :=
  { xop := 0x226, gq := true, d := .s, dch := true, aux8 := 0xFF }
/-- BARA -/
def bara : Row :=
  { xop := 0x230, d := .s, dch := true, mod6 := 0x03, aux8 := 0x0F, extra := barOk }
/-- BARW -/
def barw : Row :=
  { xop := 0x231, d := .s, dch := true, a := .s, ach := true, mod6 := 0x03, aux8 := 0x0F, lit := .a, extra := barOk }
/-- BARS -/
def bars : Row :=
  { xop := 0x232, d := .s, dch := true, mod6 := 0x03, aux8 := 0x0F, extra := barOk }
/-- BARGEN -/
def bargen : Row :=
  { xop := 0x233, gq := true, d := .s, dch := true, mod6 := 0x03, aux8 := 0x0F, extra := barOk }
/-- BARCFG -/
def barcfg : Row :=
  { xop := 0x234, gq := true, a := .s, ach := true, mod6 := 0x03, aux8 := 0x0F, lit := .a, extra := fun x => barOk x && x.mod6 == 1#6 }
/-- SSTEP -/
def sstep : Row :=
  { xop := 0x235, d := .s, dch := true, mod6 := 0x03, aux8 := 0x0F, extra := fun x => barOk x && x.mod6 != 0#6 }
/-- SBINIT -/
def sbinit : Row :=
  { xop := 0x240, d := .v, a := .mem, c := .v2, mod6 := 0x3C, aux8 := 0xFF, lit := .off }
/-- SBTAKE -/
def sbtake : Row :=
  { xop := 0x241, d := .v, a := .mem, c := .v2, mod6 := 0x3C, aux8 := 0xFF, lit := .off }
/-- SBGIVE -/
def sbgive : Row :=
  { xop := 0x242, d := .v, a := .mem, c := .v2, mod6 := 0x3C, aux8 := 0xFF, lit := .off }
/-- SBREAD -/
def sbread : Row :=
  { xop := 0x243, d := .v2, a := .mem, mod6 := 0x3C, aux8 := 0xFF, lit := .off }
/-- SBCLOSE -/
def sbclose : Row :=
  { xop := 0x244, d := .v2, a := .mem, mod6 := 0x3C, aux8 := 0xFF, lit := .off }
/-- CPY -/
def cpy : Row :=
  { xop := 0x250, gq := true, a := .so }
/-- CPYR -/
def cpyr : Row :=
  { xop := 0x251, gq := true, a := .so }
/-- CPYM -/
def cpym : Row :=
  { xop := 0x252, gq := true, a := .so }
/-- MACK -/
def mack : Row :=
  { xop := 0x253, gq := true, a := .s, ach := true, aux8 := 0x03, lit := .a }
/-- CHAIN -/
def chain : Row :=
  { xop := 0x254, gq := true, a := .s, ach := true, aux8 := 0x03, lit := .a }
/-- MARM -/
def marm : Row :=
  { xop := 0x255, gq := true, a := .s, ach := true, mod6 := 0x01, aux8 := 0x03, lit := .a }
/-- MWAIT -/
def mwait : Row :=
  { xop := 0x256, gq := true, d := .s, dch := true, a := .s, ach := true, aux8 := 0xF3, lit := .a, extra := fun x => scopeOk (x.aux8.extractLsb' 4 4) }
/-- CHCFG -/
def chcfg : Row :=
  { xop := 0x260, gq := true, a := .s, ach := true, aux8 := 0x3F, lit := .a }
/-- CHSTAT -/
def chstat : Row :=
  { xop := 0x261, gq := true, d := .s, dch := true, aux8 := 0x3F }
/-- VQSEND -/
def vqsend : Row :=
  { xop := 0x262, gq := true, a := .so }
/-- IDMB -/
def idmb : Row :=
  { xop := 0x270, gq := true }
/-- IDME -/
def idme : Row :=
  { xop := 0x271, gq := true }
/-- TSET -/
def tset : Row :=
  { xop := 0x300, tile := true, d := .tileX, b := .tileX, lit := .b }
/-- TDESC -/
def tdesc : Row :=
  { xop := 0x301, tile := true, d := .tileD, a := .tileX, b := .tileX, tys := tysDesc, aux8 := 0x0F, lit := .b, extra := fun x => decide (x.aux8 < 2#8) }
/-- TZERO -/
def tzero : Row :=
  { xop := 0x302, tile := true, d := .tileA }
/-- TLDACC -/
def tldacc : Row :=
  { xop := 0x303, tile := true, d := .tileA, a := .tileD, tys := [tyF32, tyS32] }
/-- TMMA -/
def tmma : Row :=
  { xop := 0x304, tile := true, d := .tileA, a := .tileD, b := .tileD, tys := tysMma, mod6 := 0x01, aux8 := 0x0F, extra := tmmaOk }
/-- TMMAB -/
def tmmab : Row :=
  { xop := 0x305, tile := true, d := .tileA, a := .tileD, b := .tileD, tys := [tyB1], mod6 := 0x01 }
/-- TSCALE -/
def tscale : Row :=
  { xop := 0x306, tile := true, d := .tileA, a := .tileA, b := .tileX, rm := true, lit := .b, extra := litHighZero }
/-- TTRANS -/
def ttrans : Row :=
  { xop := 0x307, tile := true, d := .tileA, a := .tileA }
/-- TADD -/
def tadd : Row :=
  { xop := 0x308, tile := true, d := .tileA, a := .tileA, b := .tileA, tys := [tyF32, tyS32], rm := true, extra := fun x => x.ty == tyF32 || x.rm == 0#3 }
/-- TCVT -/
def tcvt : Row :=
  { xop := 0x309, tile := true, d := .tileA, a := .tileA, tys := tysTcvt, rm := true, sat := true, extra := fun x => x.ty != tyS8 || x.rm == 0#3 }
/-- TSTORE -/
def tstore : Row :=
  { xop := 0x30A, tile := true, a := .tileA, b := .tileD, tys := tysTst }
/-- TBAR -/
def tbar : Row :=
  { xop := 0x30B, tile := true, aux8 := 0x0F, extra := fun x => x.aux8.getLsbD 3 }
/-- TLOOP -/
def tloop : Row :=
  { xop := 0x30C, tile := true, a := .tileX, lit := .req }
/-- TEND -/
def tend : Row :=
  { xop := 0x30D, tile := true }
/-- TFENCE -/
def tfence : Row :=
  { xop := 0x30E, tile := true }
/-- RWPERM -/
def rwperm : Row :=
  { xop := 0x30F, tile := true, aux8 := 0x03 }
/-- TSAVE -/
def tsave : Row :=
  { xop := 0x310, tile := true, a := .tileX }
/-- TRSTR -/
def trstr : Row :=
  { xop := 0x311, tile := true, a := .tileX }
/-- TNOP -/
def tnop : Row :=
  { xop := 0x312, tile := true }
/-- TEXIT -/
def texit : Row :=
  { xop := 0x313, tile := true }

end Rows

/-- How a base opcode uses its B field (R177, R202). -/
inductive BaseB where
  | reg | imm | off
  deriving DecidableEq, Repr

/-- A base opcode's mapping (R202): its extended row and the fields the mapping fixes. -/
structure BaseRow where
  bop : BitVec 8
  row : Row
  ty : BitVec 4 := 0
  mod6 : BitVec 6 := 0
  b : BaseB := .reg
  lit : Bool := false

namespace BaseRows

/-- NOP_BASE -/
def nopBase : BaseRow := { bop := 0x00, row := Rows.nop }
/-- MOV_BASE -/
def movBase : BaseRow := { bop := 0x01, row := Rows.mov, lit := true }
/-- IADD_S32_BASE -/
def iaddS32Base : BaseRow := { bop := 0x02, row := Rows.iadd, ty := 0xA, lit := true }
/-- IADD_S32_IMM_BASE -/
def iaddS32ImmBase : BaseRow := { bop := 0x03, row := Rows.iadd, ty := 0xA, b := .imm }
/-- ISUB_S32_BASE -/
def isubS32Base : BaseRow := { bop := 0x04, row := Rows.isub, ty := 0xA, lit := true }
/-- IMUL_S32_BASE -/
def imulS32Base : BaseRow := { bop := 0x05, row := Rows.imul, ty := 0xA, lit := true }
/-- IMUL_S32_IMM_BASE -/
def imulS32ImmBase : BaseRow := { bop := 0x06, row := Rows.imul, ty := 0xA, b := .imm }
/-- IMULH_S32_BASE -/
def imulhS32Base : BaseRow := { bop := 0x07, row := Rows.imulh, ty := 0xA }
/-- IMIN_S32_BASE -/
def iminS32Base : BaseRow := { bop := 0x08, row := Rows.imin, ty := 0xA, lit := true }
/-- IMAX_S32_BASE -/
def imaxS32Base : BaseRow := { bop := 0x09, row := Rows.imax, ty := 0xA, lit := true }
/-- IMIN_U32_BASE -/
def iminU32Base : BaseRow := { bop := 0x0A, row := Rows.imin, ty := 0xB, lit := true }
/-- IMAX_U32_BASE -/
def imaxU32Base : BaseRow := { bop := 0x0B, row := Rows.imax, ty := 0xB, lit := true }
/-- IAND_BASE -/
def iandBase : BaseRow := { bop := 0x0C, row := Rows.iand, lit := true }
/-- IOR_BASE -/
def iorBase : BaseRow := { bop := 0x0D, row := Rows.ior, lit := true }
/-- IXOR_BASE -/
def ixorBase : BaseRow := { bop := 0x0E, row := Rows.ixor, lit := true }
/-- ISHL_BASE -/
def ishlBase : BaseRow := { bop := 0x0F, row := Rows.ishl }
/-- ISHL_IMM_BASE -/
def ishlImmBase : BaseRow := { bop := 0x10, row := Rows.ishl, b := .imm }
/-- ISHR_BASE -/
def ishrBase : BaseRow := { bop := 0x11, row := Rows.ishr }
/-- ISHR_IMM_BASE -/
def ishrImmBase : BaseRow := { bop := 0x12, row := Rows.ishr, b := .imm }
/-- ISRA_BASE -/
def israBase : BaseRow := { bop := 0x13, row := Rows.isra }
/-- ISRA_IMM_BASE -/
def israImmBase : BaseRow := { bop := 0x14, row := Rows.isra, b := .imm }
/-- IAND_IMM_BASE -/
def iandImmBase : BaseRow := { bop := 0x15, row := Rows.iand, b := .imm }
/-- FADD_BASE -/
def faddBase : BaseRow := { bop := 0x16, row := Rows.fadd, lit := true }
/-- FSUB_BASE -/
def fsubBase : BaseRow := { bop := 0x17, row := Rows.fsub, lit := true }
/-- FMUL_BASE -/
def fmulBase : BaseRow := { bop := 0x18, row := Rows.fmul, lit := true }
/-- FMIN_BASE -/
def fminBase : BaseRow := { bop := 0x19, row := Rows.fmin, lit := true }
/-- FMAX_BASE -/
def fmaxBase : BaseRow := { bop := 0x1A, row := Rows.fmax, lit := true }
/-- HADD2_F16_BASE -/
def hadd2F16Base : BaseRow := { bop := 0x1B, row := Rows.hadd2, ty := 0x1, lit := true }
/-- HMUL2_F16_BASE -/
def hmul2F16Base : BaseRow := { bop := 0x1C, row := Rows.hmul2, ty := 0x1, lit := true }
/-- HADD2_BF16_BASE -/
def hadd2Bf16Base : BaseRow := { bop := 0x1D, row := Rows.hadd2, ty := 0x2, lit := true }
/-- HMUL2_BF16_BASE -/
def hmul2Bf16Base : BaseRow := { bop := 0x1E, row := Rows.hmul2, ty := 0x2, lit := true }
/-- S2V_BASE -/
def s2vBase : BaseRow := { bop := 0x1F, row := Rows.s2v, lit := true }
/-- V2S_BASE -/
def v2sBase : BaseRow := { bop := 0x20, row := Rows.v2s, lit := true }
/-- UADD_S64_BASE -/
def uaddS64Base : BaseRow := { bop := 0x21, row := Rows.uadd, ty := 0xC, lit := true }
/-- UADD_S64_IMM_BASE -/
def uaddS64ImmBase : BaseRow := { bop := 0x22, row := Rows.uadd, ty := 0xC, b := .imm }
/-- USUB_S64_BASE -/
def usubS64Base : BaseRow := { bop := 0x23, row := Rows.usub, ty := 0xC, lit := true }
/-- UMUL_S64_BASE -/
def umulS64Base : BaseRow := { bop := 0x24, row := Rows.umul, ty := 0xC, lit := true }
/-- UAND_BASE -/
def uandBase : BaseRow := { bop := 0x25, row := Rows.uand, lit := true }
/-- UOR_BASE -/
def uorBase : BaseRow := { bop := 0x26, row := Rows.uor, lit := true }
/-- UXOR_BASE -/
def uxorBase : BaseRow := { bop := 0x27, row := Rows.uxor, lit := true }
/-- USHL_IMM_BASE -/
def ushlImmBase : BaseRow := { bop := 0x28, row := Rows.ushl, b := .imm }
/-- USHR_IMM_BASE -/
def ushrImmBase : BaseRow := { bop := 0x29, row := Rows.ushr, b := .imm }
/-- UMIN_S64_BASE -/
def uminS64Base : BaseRow := { bop := 0x2A, row := Rows.umin, ty := 0xC, lit := true }
/-- UMAX_S64_BASE -/
def umaxS64Base : BaseRow := { bop := 0x2B, row := Rows.umax, ty := 0xC, lit := true }
/-- UMOV_BASE -/
def umovBase : BaseRow := { bop := 0x2C, row := Rows.umov, lit := true }
/-- LDS_B32_BASE -/
def ldsB32Base : BaseRow := { bop := 0x2D, row := Rows.lds, ty := 0xF, b := .off }
/-- LDG_B32_BASE -/
def ldgB32Base : BaseRow := { bop := 0x2E, row := Rows.ldg, ty := 0xF, b := .off }
/-- LDG_U64_BASE -/
def ldgU64Base : BaseRow := { bop := 0x2F, row := Rows.ldg, ty := 0xD, b := .off }
/-- ULD_U64_BASE -/
def uldU64Base : BaseRow := { bop := 0x30, row := Rows.uld, ty := 0xD, mod6 := 0x20, b := .off }
/-- ISET_LT_S32_BASE -/
def isetLtS32Base : BaseRow := { bop := 0x31, row := Rows.iset, ty := 0xA, mod6 := 0x02, lit := true }
/-- ISET_GE_S32_BASE -/
def isetGeS32Base : BaseRow := { bop := 0x32, row := Rows.iset, ty := 0xA, mod6 := 0x05, lit := true }
/-- ISET_EQ_S32_BASE -/
def isetEqS32Base : BaseRow := { bop := 0x33, row := Rows.iset, ty := 0xA, lit := true }
/-- ISET_NE_S32_BASE -/
def isetNeS32Base : BaseRow := { bop := 0x34, row := Rows.iset, ty := 0xA, mod6 := 0x01, lit := true }
/-- UCMP_LT_S64_BASE -/
def ucmpLtS64Base : BaseRow := { bop := 0x35, row := Rows.ucmp, ty := 0xC, mod6 := 0x02, lit := true }
/-- UCMP_EQ_S64_BASE -/
def ucmpEqS64Base : BaseRow := { bop := 0x36, row := Rows.ucmp, ty := 0xC, lit := true }
/-- UCMP_LT_S64_IMM_BASE -/
def ucmpLtS64ImmBase : BaseRow := { bop := 0x37, row := Rows.ucmp, ty := 0xC, mod6 := 0x02, b := .imm }
/-- EXIT_BASE -/
def exitBase : BaseRow := { bop := 0x38, row := Rows.exit }
/-- YLD_BASE -/
def yldBase : BaseRow := { bop := 0x39, row := Rows.yld }
/-- RET_BASE -/
def retBase : BaseRow := { bop := 0x3A, row := Rows.ret }
/-- UMOV_IMM_BASE -/
def umovImmBase : BaseRow := { bop := 0x3B, row := Rows.umov, b := .imm }
/-- MOV_IMM_BASE -/
def movImmBase : BaseRow := { bop := 0x3C, row := Rows.mov, b := .imm }
/-- LDC_B32_BASE -/
def ldcB32Base : BaseRow := { bop := 0x3D, row := Rows.ldc, ty := 0xF, b := .off }
/-- USRA_IMM_BASE -/
def usraImmBase : BaseRow := { bop := 0x3E, row := Rows.usra, b := .imm }
/-- UPOPC_BASE -/
def upopcBase : BaseRow := { bop := 0x3F, row := Rows.upopc }

end BaseRows

/-- The extended fields of a base instruction (R177): guards always, an immediate as the sign-extended literal, an
offset in AUX8. -/
def Base.toExt (r : BaseRow) (x : Base) : Ext :=
  { s := x.s, g0 := 7, g0n := false, g1 := 7, g1n := false, gc := false, hint := 0
    d := x.d.setWidth 8, dcl := false, a := x.a.setWidth 8, acl := false, apop := false
    b := if r.b = .reg then x.b.setWidth 8 else 0, bcl := false, bpop := false
    c := 0, ccl := false, cpop := false, e := 0, ecl := false, epop := false
    ty := r.ty, rm := 0, sat := false, mod6 := r.mod6
    aux8 := if r.b = .off then x.b.signExtend 8 else 0
    lit := if r.b = .imm then some (x.b.signExtend 64) else x.lit }

/-- What an instruction is encoded as: extended words, a base word, or no words at all. -/
inductive Form where
  | ext (r : Row) (x : Ext)
  | base (r : BaseRow) (x : Base)
  | event

/-- The form of each constructor. -/
def Instr.form : Instr → Form
  | .uadd x => .ext Rows.uadd x
  | .usub x => .ext Rows.usub x
  | .umul x => .ext Rows.umul x
  | .umulh x => .ext Rows.umulh x
  | .umad x => .ext Rows.umad x
  | .uand x => .ext Rows.uand x
  | .uor x => .ext Rows.uor x
  | .uxor x => .ext Rows.uxor x
  | .ushl x => .ext Rows.ushl x
  | .ushr x => .ext Rows.ushr x
  | .usra x => .ext Rows.usra x
  | .umin x => .ext Rows.umin x
  | .umax x => .ext Rows.umax x
  | .uclz x => .ext Rows.uclz x
  | .upopc x => .ext Rows.upopc x
  | .ulea x => .ext Rows.ulea x
  | .usel x => .ext Rows.usel x
  | .ucmp x => .ext Rows.ucmp x
  | .umov x => .ext Rows.umov x
  | .uld x => .ext Rows.uld x
  | .ust x => .ext Rows.ust x
  | .bra x => .ext Rows.bra x
  | .brx x => .ext Rows.brx x
  | .call x => .ext Rows.call x
  | .ret x => .ext Rows.ret x
  | .jfence x => .ext Rows.jfence x
  | .cfetch x => .ext Rows.cfetch x
  | .exit x => .ext Rows.exit x
  | .yld x => .ext Rows.yld x
  | .reconv x => .ext Rows.reconv x
  | .nop x => .ext Rows.nop x
  | .spawn x => .ext Rows.spawn x
  | .join x => .ext Rows.join x
  | .cancel x => .ext Rows.cancel x
  | .lvlrd x => .ext Rows.lvlrd x
  | .capq x => .ext Rows.capq x
  | .rdsr x => .ext Rows.rdsr x
  | .wrsr x => .ext Rows.wrsr x
  | .trap x => .ext Rows.trap x
  | .eret x => .ext Rows.eret x
  | .preack x => .ext Rows.preack x
  | .iadd x => .ext Rows.iadd x
  | .isub x => .ext Rows.isub x
  | .imul x => .ext Rows.imul x
  | .imulh x => .ext Rows.imulh x
  | .imad x => .ext Rows.imad x
  | .imin x => .ext Rows.imin x
  | .imax x => .ext Rows.imax x
  | .iabs x => .ext Rows.iabs x
  | .iand x => .ext Rows.iand x
  | .ior x => .ext Rows.ior x
  | .ixor x => .ext Rows.ixor x
  | .ishl x => .ext Rows.ishl x
  | .ishr x => .ext Rows.ishr x
  | .isra x => .ext Rows.isra x
  | .iclz x => .ext Rows.iclz x
  | .ipopc x => .ext Rows.ipopc x
  | .ibfx x => .ext Rows.ibfx x
  | .ibfi x => .ext Rows.ibfi x
  | .iset x => .ext Rows.iset x
  | .isel x => .ext Rows.isel x
  | .fadd x => .ext Rows.fadd x
  | .fsub x => .ext Rows.fsub x
  | .fmul x => .ext Rows.fmul x
  | .ffma x => .ext Rows.ffma x
  | .fmin x => .ext Rows.fmin x
  | .fmax x => .ext Rows.fmax x
  | .fset x => .ext Rows.fset x
  | .fclass x => .ext Rows.fclass x
  | .hadd2 x => .ext Rows.hadd2 x
  | .hmul2 x => .ext Rows.hmul2 x
  | .hfma2 x => .ext Rows.hfma2 x
  | .hmin2 x => .ext Rows.hmin2 x
  | .hmax2 x => .ext Rows.hmax2 x
  | .cvt x => .ext Rows.cvt x
  | .pack4 x => .ext Rows.pack4 x
  | .unpk4 x => .ext Rows.unpk4 x
  | .plop x => .ext Rows.plop x
  | .mov x => .ext Rows.mov x
  | .s2v x => .ext Rows.s2v x
  | .v2s x => .ext Rows.v2s x
  | .shfl x => .ext Rows.shfl x
  | .vote x => .ext Rows.vote x
  | .redg x => .ext Rows.redg x
  | .scang x => .ext Rows.scang x
  | .matchLanes x => .ext Rows.matchLanes x
  | .exp2 x => .ext Rows.exp2 x
  | .log2 x => .ext Rows.log2 x
  | .rcp x => .ext Rows.rcp x
  | .rsq x => .ext Rows.rsq x
  | .sqrt x => .ext Rows.sqrt x
  | .tanh x => .ext Rows.tanh x
  | .lgst x => .ext Rows.lgst x
  | .sinp x => .ext Rows.sinp x
  | .cosp x => .ext Rows.cosp x
  | .sfwait x => .ext Rows.sfwait x
  | .ldg x => .ext Rows.ldg x
  | .stg x => .ext Rows.stg x
  | .lds x => .ext Rows.lds x
  | .sts x => .ext Rows.sts x
  | .ldl x => .ext Rows.ldl x
  | .stl x => .ext Rows.stl x
  | .ldc x => .ext Rows.ldc x
  | .pfch x => .ext Rows.pfch x
  | .atom x => .ext Rows.atom x
  | .atomc x => .ext Rows.atomc x
  | .red x => .ext Rows.red x
  | .atoms x => .ext Rows.atoms x
  | .lda x => .ext Rows.lda x
  | .strl x => .ext Rows.strl x
  | .fence x => .ext Rows.fence x
  | .objdecl x => .ext Rows.objdecl x
  | .objdrop x => .ext Rows.objdrop x
  | .sealRange x => .ext Rows.sealRange x
  | .unsealRange x => .ext Rows.unsealRange x
  | .rsdecl x => .ext Rows.rsdecl x
  | .rsset x => .ext Rows.rsset x
  | .rsevict x => .ext Rows.rsevict x
  | .bara x => .ext Rows.bara x
  | .barw x => .ext Rows.barw x
  | .bars x => .ext Rows.bars x
  | .bargen x => .ext Rows.bargen x
  | .barcfg x => .ext Rows.barcfg x
  | .sstep x => .ext Rows.sstep x
  | .sbinit x => .ext Rows.sbinit x
  | .sbtake x => .ext Rows.sbtake x
  | .sbgive x => .ext Rows.sbgive x
  | .sbread x => .ext Rows.sbread x
  | .sbclose x => .ext Rows.sbclose x
  | .cpy x => .ext Rows.cpy x
  | .cpyr x => .ext Rows.cpyr x
  | .cpym x => .ext Rows.cpym x
  | .mack x => .ext Rows.mack x
  | .chain x => .ext Rows.chain x
  | .marm x => .ext Rows.marm x
  | .mwait x => .ext Rows.mwait x
  | .chcfg x => .ext Rows.chcfg x
  | .chstat x => .ext Rows.chstat x
  | .vqsend x => .ext Rows.vqsend x
  | .idmb x => .ext Rows.idmb x
  | .idme x => .ext Rows.idme x
  | .tset x => .ext Rows.tset x
  | .tdesc x => .ext Rows.tdesc x
  | .tzero x => .ext Rows.tzero x
  | .tldacc x => .ext Rows.tldacc x
  | .tmma x => .ext Rows.tmma x
  | .tmmab x => .ext Rows.tmmab x
  | .tscale x => .ext Rows.tscale x
  | .ttrans x => .ext Rows.ttrans x
  | .tadd x => .ext Rows.tadd x
  | .tcvt x => .ext Rows.tcvt x
  | .tstore x => .ext Rows.tstore x
  | .tbar x => .ext Rows.tbar x
  | .tloop x => .ext Rows.tloop x
  | .tend x => .ext Rows.tend x
  | .tfence x => .ext Rows.tfence x
  | .rwperm x => .ext Rows.rwperm x
  | .tsave x => .ext Rows.tsave x
  | .trstr x => .ext Rows.trstr x
  | .tnop x => .ext Rows.tnop x
  | .texit x => .ext Rows.texit x
  | .nopBase x => .base BaseRows.nopBase x
  | .movBase x => .base BaseRows.movBase x
  | .iaddS32Base x => .base BaseRows.iaddS32Base x
  | .iaddS32ImmBase x => .base BaseRows.iaddS32ImmBase x
  | .isubS32Base x => .base BaseRows.isubS32Base x
  | .imulS32Base x => .base BaseRows.imulS32Base x
  | .imulS32ImmBase x => .base BaseRows.imulS32ImmBase x
  | .imulhS32Base x => .base BaseRows.imulhS32Base x
  | .iminS32Base x => .base BaseRows.iminS32Base x
  | .imaxS32Base x => .base BaseRows.imaxS32Base x
  | .iminU32Base x => .base BaseRows.iminU32Base x
  | .imaxU32Base x => .base BaseRows.imaxU32Base x
  | .iandBase x => .base BaseRows.iandBase x
  | .iorBase x => .base BaseRows.iorBase x
  | .ixorBase x => .base BaseRows.ixorBase x
  | .ishlBase x => .base BaseRows.ishlBase x
  | .ishlImmBase x => .base BaseRows.ishlImmBase x
  | .ishrBase x => .base BaseRows.ishrBase x
  | .ishrImmBase x => .base BaseRows.ishrImmBase x
  | .israBase x => .base BaseRows.israBase x
  | .israImmBase x => .base BaseRows.israImmBase x
  | .iandImmBase x => .base BaseRows.iandImmBase x
  | .faddBase x => .base BaseRows.faddBase x
  | .fsubBase x => .base BaseRows.fsubBase x
  | .fmulBase x => .base BaseRows.fmulBase x
  | .fminBase x => .base BaseRows.fminBase x
  | .fmaxBase x => .base BaseRows.fmaxBase x
  | .hadd2F16Base x => .base BaseRows.hadd2F16Base x
  | .hmul2F16Base x => .base BaseRows.hmul2F16Base x
  | .hadd2Bf16Base x => .base BaseRows.hadd2Bf16Base x
  | .hmul2Bf16Base x => .base BaseRows.hmul2Bf16Base x
  | .s2vBase x => .base BaseRows.s2vBase x
  | .v2sBase x => .base BaseRows.v2sBase x
  | .uaddS64Base x => .base BaseRows.uaddS64Base x
  | .uaddS64ImmBase x => .base BaseRows.uaddS64ImmBase x
  | .usubS64Base x => .base BaseRows.usubS64Base x
  | .umulS64Base x => .base BaseRows.umulS64Base x
  | .uandBase x => .base BaseRows.uandBase x
  | .uorBase x => .base BaseRows.uorBase x
  | .uxorBase x => .base BaseRows.uxorBase x
  | .ushlImmBase x => .base BaseRows.ushlImmBase x
  | .ushrImmBase x => .base BaseRows.ushrImmBase x
  | .uminS64Base x => .base BaseRows.uminS64Base x
  | .umaxS64Base x => .base BaseRows.umaxS64Base x
  | .umovBase x => .base BaseRows.umovBase x
  | .ldsB32Base x => .base BaseRows.ldsB32Base x
  | .ldgB32Base x => .base BaseRows.ldgB32Base x
  | .ldgU64Base x => .base BaseRows.ldgU64Base x
  | .uldU64Base x => .base BaseRows.uldU64Base x
  | .isetLtS32Base x => .base BaseRows.isetLtS32Base x
  | .isetGeS32Base x => .base BaseRows.isetGeS32Base x
  | .isetEqS32Base x => .base BaseRows.isetEqS32Base x
  | .isetNeS32Base x => .base BaseRows.isetNeS32Base x
  | .ucmpLtS64Base x => .base BaseRows.ucmpLtS64Base x
  | .ucmpEqS64Base x => .base BaseRows.ucmpEqS64Base x
  | .ucmpLtS64ImmBase x => .base BaseRows.ucmpLtS64ImmBase x
  | .exitBase x => .base BaseRows.exitBase x
  | .yldBase x => .base BaseRows.yldBase x
  | .retBase x => .base BaseRows.retBase x
  | .umovImmBase x => .base BaseRows.umovImmBase x
  | .movImmBase x => .base BaseRows.movImmBase x
  | .ldcB32Base x => .base BaseRows.ldcB32Base x
  | .usraImmBase x => .base BaseRows.usraImmBase x
  | .upopcBase x => .base BaseRows.upopcBase x
  | .entryPromotion _ _ _ => .event
  | .reconvDeadlockRelease _ _ _ => .event
  | .launchRecord _ _ => .event
  | .queuePromotion _ => .event
  | .blockDispatch _ => .event
  | .patienceExpiry _ _ => .event
  | .regionAdmissionStep => .event
  | .blockStart _ => .event
  | .blockComplete _ _ => .event
  | .scheduleSetSelection _ _ => .event
  | .variableLatencyReturn _ _ _ _ => .event
  | .scoreboardReturn _ _ _ _ => .event
  | .tokenComplete _ _ _ _ => .event
  | .forcedSwitch _ _ _ => .event
  | .groupDemotion _ _ _ => .event
  | .groupRecall _ _ _ => .event
  | .trapDelivery _ _ _ => .event
  | .writeCombiningDrain _ _ => .event
  | .directoryRequest _ _ _ => .event
  | .guestDropReport _ _ => .event
  | .scratchpadEccError _ _ => .event
  | .holdEccError _ _ _ _ => .event
  | .barrierRelease _ _ _ _ => .event
  | .andTreeArrival _ _ _ _ => .event
  | .andTreeRelease _ _ _ => .event
  | .coreFailure _ => .event
  | .stampBookHomeRequest _ => .event
  | .chainRecordFetch _ _ => .event
  | .xferNop _ _ => .event
  | .copy _ _ => .event
  | .reduce _ _ => .event
  | .mcast _ _ => .event
  | .multicastDeliveryAck _ _ _ => .event
  | .copyOperationComplete _ _ => .event
  | .monitorWake _ _ _ _ => .event
  | .monitorPoll _ _ _ _ => .event
  | .linkPacketReceive _ _ _ _ _ _ _ _ => .event
  | .linkReplay _ _ _ => .event
  | .channelWordArrival _ _ => .event
  | .creditGrant _ _ => .event
  | .gather _ _ => .event
  | .scatteradd _ _ => .event
  | .topk _ _ => .event
  | .hist _ _ => .event
  | .blockq _ _ => .event
  | .req _ _ => .event
  | .trans _ _ => .event
  | .verticalWindow _ _ => .event
  | .verticalWireFailure _ _ => .event
  | .rewriteWindowTimeout _ _ => .event
  | .segmentFetchComplete _ _ => .event
  | .deferredFetchStart _ _ => .event
  | .pageWalkComplete _ _ _ _ _ _ _ => .event
  | .faultResponse _ => .event
  | .xinvGo _ => .event
  | .xinvComplete _ => .event
  | .preemptGo => .event
  | .preemptDeadline _ => .event
  | .resume _ => .event
  | .pwstepWrite _ => .event
  | .droopAlarm _ => .event
  | .droopRecovery _ => .event
  | .imbalanceSample _ => .event
  | .forcefb _ => .event
  | .restack _ => .event
  | .drainingEnd _ => .event
  | .switchingEnd _ => .event
  | .regionTrip _ => .event
  | .trippedEnd _ => .event
  | .restartingEnd _ _ => .event
  | .domainLoss _ _ => .event
  | .operatingPointChange _ _ _ => .event
  | .timeReferencePulse => .event
  | .cxlLinkDown _ => .event
  | .peerAccess _ _ _ _ _ _ => .event
  | .hostBar2Access _ _ _ => .event
  | .powerOnBoot _ _ => .event
  | .sorterHeartbeat => .event
  | .sorterHeartbeatTimeout => .event
  | .sorterMailboxWrite _ _ => .event
  | .topologyRefresh => .event
  | .tenantReset _ => .event
  | .functionLevelReset _ => .event
  | .load _ => .event
  | .unload _ => .event
  | .fwset _ => .event
  | .unpoison _ => .event
  | .lvlfree _ => .event
  | .rules _ => .event
  | .attest _ => .event
  | .admitTenant => .event
  | .retire => .event
  | .draincore => .event
  | .retrain _ => .event
  | .recal => .event
  | .drainDeadline => .event
  | .fwupdate => .event
  | .sorterload _ => .event
  | .adminAttest => .event
  | .migset => .event
  | .errorCounterClear _ _ => .event
  | .registerWrite _ _ _ => .event
  | .memoryError _ _ _ => .event
  | .courierLinkDown _ => .event
  | .hostMailboxImage _ => .event
  | .ringTailWrite _ _ _ => .event

/-- One operand field's check (R183, R50): `cl` and `pop` are its class and pop bits, `ch` whether a channel may stand
there, `used` whether the instruction uses the field as its kind says. -/
def operandOk (k : Opk) (x : Ext) (idx : BitVec 8) (cl pop ch : Bool) : Bool :=
  if cl then ch && decide (idx < 64#8) && (k != .vote || x.mod6 == 2#6) else
  !pop && match k with
  | .none => idx == 0#8
  | .v | .v2 | .vt | .vp0 | .vp2 => true
  | .s => decide (idx < 128#8)
  | .so => decide (idx < 128#8) && idx.extractLsb' 0 3 == 0#3
  | .p | .q | .pq | .tileA => decide (idx < 8#8)
  | .vote => if x.mod6 == 2#6 then decide (idx < 128#8) else decide (idx < 8#8)
  | .rdsr => x.mod6.getLsbD 0 || decide (idx < 128#8)
  | .tileD => decide (idx < 16#8)
  | .tileX => decide (idx < 32#8)
  | .mem => !x.mod6.getLsbD 5 || decide (idx < 128#8)

/-- A field that the instruction does not use is zero (R183). -/
def fieldZero (idx : BitVec 8) (cl pop : Bool) : Bool := idx == 0#8 && !cl && !pop

/-- The index field of an address (R184): used only with MOD6[4]. -/
def indexOk (x : Ext) : Bool :=
  if x.mod6.getLsbD 4 then !x.bcl && !x.bpop else fieldZero x.b x.bcl x.bpop

/-- The literal's place and width (R186, R194). -/
def literalOk (r : Row) (x : Ext) : Bool :=
  match r.lit, x.lit with
  | .no, l => l.isNone
  | .req, l => l.isSome
  | _, none => true
  | .a, some _ => fieldZero x.a x.acl x.apop
  | .b, some l => fieldZero x.b x.bcl x.bpop &&
      (match r.b with
       | .v => l.extractLsb' 32 32 == 0#32
       | .vp0 => x.mod6.getLsbD 0 || l.extractLsb' 32 32 == 0#32
       | .s => !(r.tys.length == 4 && (x.ty == tyS32 || x.ty == tyU32)) || l.extractLsb' 32 32 == 0#32
       | _ => true)
  | .off, some _ => r.aux8 != 0xFF#8 || !(r.mod6 == 0x3C#6 || r.gq) || x.aux8 == 0#8

/-- The guard fields a tile instruction must carry (R180). -/
def Ext.always (x : Ext) : Bool := x.g0 == 7#3 && x.g1 == 7#3 && !x.g0n && !x.g1n && !x.gc

/-- R185 step 1 for an extended instruction of row `r`. -/
def Ext.wellFormed (r : Row) (x : Ext) : Bool :=
  (!r.tile || x.always) &&
  r.tys.contains x.ty && (if r.rm then decide (x.rm ≤ 4#3) else x.rm == 0#3) && (r.sat || !x.sat) &&
  (r.hint || x.hint == 0#2) && (x.mod6 &&& ~~~r.mod6) == 0#6 && (x.aux8 &&& ~~~r.aux8) == 0#8 &&
  operandOk r.d x x.d x.dcl false r.dch && operandOk r.a x x.a x.acl x.apop r.ach &&
  (if r.a = .mem then indexOk x else operandOk r.b x x.b x.bcl x.bpop r.bch) &&
  operandOk r.c x x.c x.ccl x.cpop r.cch && operandOk r.e x x.e x.ecl x.epop false &&
  literalOk r x && r.extra x

/-- R185 step 1 for a base instruction: unused fields are zero, a predicate index is below 8, and a literal is allowed
takes B's place, and keeps the row's own checks (R176, R177, R186, R202). -/
def Base.wellFormed (r : BaseRow) (x : Base) : Bool :=
  operandOk r.row.d (x.toExt r) (x.toExt r).d false false false &&
  operandOk r.row.a (x.toExt r) (x.toExt r).a false false false &&
  (r.b != .reg || operandOk r.row.b (x.toExt r) (x.toExt r).b false false false) &&
  (x.lit.isNone || (r.lit && x.b == 0#7 && literalOk r.row (x.toExt r))) && r.row.extra (x.toExt r)

/-- An instruction is well formed when its words pass R185 step 1. A step of another agent has no words. -/
def Instr.WellFormed (i : Instr) : Bool :=
  match i.form with
  | .ext r x => x.wellFormed r
  | .base r x => x.wellFormed r
  | .event => true

end Sys2Proof
end

