-- ==== Sys2Proof/Machine/Numbers.lean ====
section
/-! DEFINITION. Number formats, rounding and exact arithmetic (spec/06 R152-R173). A finite value is an exact fraction;
every operation is exact and rounds once. -/
namespace Sys2Proof.Machine
open Sys2Proof

/-- A floating-point format (R152): mantissa width, bias, exponent width, whether it has infinities, its NaN codes'
canonical one, the largest finite code, and whether it has a sign. -/
structure Fmt where
  m : Nat
  e : Nat
  bias : Nat
  inf : Bool
  nan : Option Nat
  maxCode : Nat
  signed : Bool
  deriving DecidableEq, Repr

def fmtF32 : Fmt := ⟨23, 8, 127, true, some 0x7FC00000, 0x7F7FFFFF, true⟩
def fmtF16 : Fmt := ⟨10, 5, 15, true, some 0x7E00, 0x7BFF, true⟩
def fmtBf16 : Fmt := ⟨7, 8, 127, true, some 0x7FC0, 0x7F7F, true⟩
def fmtE4m3 : Fmt := ⟨3, 4, 7, false, some 0x7F, 0x7E, true⟩
def fmtE5m2 : Fmt := ⟨2, 5, 15, true, some 0x7E, 0x7B, true⟩
def fmtE2m1 : Fmt := ⟨1, 2, 1, false, none, 0x7, true⟩
def fmtE3m5 : Fmt := ⟨5, 3, 3, false, none, 0xFF, false⟩

/-- The format of a TY code; FP32 for the others. -/
def fmtOf (t : BitVec 4) : Fmt :=
  if t == tyF16 then fmtF16 else if t == tyBf16 then fmtBf16 else if t == tyE4m3 then fmtE4m3
  else if t == tyE5m2 then fmtE5m2 else if t == tyE2m1 then fmtE2m1 else fmtF32

/-- emin of a format (R152). -/
def Fmt.emin (f : Fmt) : Int := 1 - (f.bias : Int)

/-- The sign bit's weight. -/
def Fmt.signBit (f : Fmt) : Nat := if f.signed then 2 ^ (f.e + f.m) else 0

/-- A decoded value (R153): a NaN, an infinity, or the exact fraction ±n/d. -/
inductive Val where
  | nan
  | inf (neg : Bool)
  | fin (neg : Bool) (n d : Nat)
  deriving DecidableEq, Repr

/-- Flags (R162): bit 0 IV, 1 DZ, 2 OF, 3 UF, 4 IX. -/
abbrev Flags := BitVec 5
def flagIV : Flags := 1
def flagDZ : Flags := 2
def flagOF : Flags := 4
def flagUF : Flags := 8
def flagIX : Flags := 16

/-- 2^k as a fraction's numerator and denominator. -/
def pow2Num (k : Int) : Nat := if 0 ≤ k then 2 ^ k.toNat else 1
def pow2Den (k : Int) : Nat := if 0 ≤ k then 1 else 2 ^ (-k).toNat

/-- Decode(c, f) (R153, R173). -/
def decodeFp (f : Fmt) (c : Nat) : Val :=
  let neg := f.signed && decide (c / 2 ^ (f.e + f.m) % 2 = 1)
  let ex := c / 2 ^ f.m % 2 ^ f.e
  let fr := c % 2 ^ f.m
  let top := decide (ex = 2 ^ f.e - 1)
  if f.inf && top then (if fr = 0 then .inf neg else .nan)
  else if f.nan == some 0x7F && top && decide (fr = 2 ^ f.m - 1) then .nan
  else
    let k : Int := (max ex 1 : Nat) - (f.bias : Int) - (f.m : Int)
    .fin neg ((if ex = 0 then fr else fr + 2 ^ f.m) * pow2Num k) (pow2Den k)

/-- ⌊log2 (n/d)⌋ for n, d > 0. -/
def log2Frac (n d : Nat) : Int :=
  let l : Int := (n.log2 : Int) - (d.log2 : Int)
  if d * pow2Num l ≤ n * pow2Den l then l else l - 1

/-- The multiple of the spacing that R157 chooses: k or k+1, from the remainder of N/D. -/
def roundStep (rm : BitVec 3) (neg : Bool) (n d : Nat) : Nat :=
  let k := n / d
  let r := n % d
  let up : Bool :=
    if r = 0 then false
    else match rm with
      | 0#3 => decide (2 * r > d) || (decide (2 * r = d) && decide (k % 2 = 1))
      | 1#3 => false
      | 2#3 => neg
      | 3#3 => !neg
      | _ => decide (2 * r ≥ d)
  if up then k + 1 else k

/-- NaNResult(f) (R158). -/
def nanResult (f : Fmt) : Nat × Flags :=
  match f.nan with
  | some c => (c, 0)
  | none => (0, flagIV)

/-- InfResult(f, s, sat) (R158). -/
def infResult (f : Fmt) (neg sat : Bool) : Nat × Flags :=
  let sg := if neg then f.signBit else 0
  if f.inf then (sg + f.maxCode + 1, 0)
  else match f.nan with
    | some c => (if sat then sg + f.maxCode else c, flagIV)
    | none => (if !f.signed && neg then 0 else sg + f.maxCode, flagIV)

/-- OverflowValue(f, s, rm, sat) (R158). -/
def overflowValue (f : Fmt) (neg : Bool) (rm : BitVec 3) (sat : Bool) : Nat :=
  let sg := if neg then f.signBit else 0
  if sat then sg + f.maxCode
  else match f.nan with
    | none => sg + f.maxCode
    | some c =>
      if !f.inf then c
      else match rm with
        | 1#3 => sg + f.maxCode
        | 2#3 => if neg then sg + f.maxCode + 1 else f.maxCode
        | 3#3 => if neg then sg + f.maxCode else f.maxCode + 1
        | _ => sg + f.maxCode + 1

/-- RoundFmt(x, f, rm, sat) (R158): the code and the flags raised. -/
def roundFmt (x : Val) (f : Fmt) (rm : BitVec 3) (sat : Bool) : Nat × Flags :=
  match x with
  | .nan => nanResult f
  | .inf neg => infResult f neg sat
  | .fin neg n d =>
    let sg := if neg then f.signBit else 0
    if n = 0 then (sg, 0)
    else if neg && !f.signed then (0, flagIV)
    else
      let e := max (log2Frac n d) f.emin
      let q := e - (f.m : Int)
      let num := n * pow2Den q
      let den := d * pow2Num q
      let k := roundStep rm neg num den
      let code := (e - f.emin).toNat * 2 ^ f.m + k
      if code > f.maxCode then (overflowValue f neg rm sat, flagOF ||| flagIX)
      else
        let inexact := decide (num % den ≠ 0)
        let tiny := decide (n * pow2Den f.emin < d * pow2Num f.emin)
        (sg + code, if inexact then (if tiny then flagIX ||| flagUF else flagIX) else 0)

/-- The sign of a value; a NaN has none. -/
def Val.neg : Val → Bool
  | .nan => false
  | .inf s => s
  | .fin s _ _ => s

/-- A value is zero. -/
def Val.isZero : Val → Bool
  | .fin _ 0 _ => true
  | _ => false

/-- −x. -/
def Val.negate : Val → Val
  | .nan => .nan
  | .inf s => .inf (!s)
  | .fin s n d => .fin (!s) n d

/-- A signed fraction's numerator over a denominator that both divide where one divides the other. -/
def addFrac (a : Int) (da : Nat) (b : Int) (db : Nat) : Int × Nat :=
  if da = db then (a + b, da)
  else if db % da = 0 then (a * (db / da : Nat) + b, db)
  else if da % db = 0 then (a + b * (da / db : Nat), da)
  else (a * db + b * da, da * db)

/-- The product of two values and the flags it raises (R159). -/
def mulVal (a b : Val) : Val × Flags :=
  match a, b with
  | .nan, _ => (.nan, 0)
  | _, .nan => (.nan, 0)
  | .inf s, .inf t => (.inf (s != t), 0)
  | .inf s, .fin t n _ => if n = 0 then (.nan, flagIV) else (.inf (s != t), 0)
  | .fin s n _, .inf t => if n = 0 then (.nan, flagIV) else (.inf (s != t), 0)
  | .fin s n d, .fin t m e => (.fin (s != t) (n * m) (d * e), 0)

/-- The exact sum of finite terms as a signed fraction. -/
def sumFrac (ts : List Val) : Int × Nat :=
  ts.foldl (fun acc t => match t with
    | .fin s n d => addFrac acc.1 acc.2 (if s then -(n : Int) else n) d
    | _ => acc) (0, 1)

/-- The exact sum of the terms, with R236's sign for a zero, and IV for opposite infinities (R159), but no flag beside a NaN
(R165; DEDUCED, log 187). -/
def sumVals (ts : List Val) (rm : BitVec 3) : Val × Flags :=
  if ts.contains .nan then (.nan, 0)
  else
    match ts.contains (.inf false), ts.contains (.inf true) with
    | true, true => (.nan, flagIV)
    | true, false => (.inf false, 0)
    | false, true => (.inf true, 0)
    | false, false =>
      let (n, d) := sumFrac ts
      if n = 0 then
        let neg :=
          if ts.isEmpty then false
          else if ts.all fun t => t.isZero && t.neg then true
          else if ts.all fun t => t.isZero && !t.neg then false
          else rm == 2#3
        (.fin neg 0 1, 0)
      else (.fin (decide (n < 0)) n.natAbs d, 0)

/-- A code of a format as a value. -/
def fpVal (t : BitVec 4) (c : Nat) : Val := decodeFp (fmtOf t) c

/-- a + b (R159, R236), rounded once. -/
def fpAdd (t : BitVec 4) (rm : BitVec 3) (a b : Nat) : Nat × Flags :=
  let (v, f) := sumVals [fpVal t a, fpVal t b] rm
  let (c, g) := roundFmt v (fmtOf t) rm false
  (c, f ||| g)

/-- a − b, as a + (−b) (R236). -/
def fpSub (t : BitVec 4) (rm : BitVec 3) (a b : Nat) : Nat × Flags :=
  let (v, f) := sumVals [fpVal t a, (fpVal t b).negate] rm
  let (c, g) := roundFmt v (fmtOf t) rm false
  (c, f ||| g)

/-- a × b, rounded once. -/
def fpMul (t : BitVec 4) (rm : BitVec 3) (a b : Nat) : Nat × Flags :=
  let (v, f) := mulVal (fpVal t a) (fpVal t b)
  let (c, g) := roundFmt v (fmtOf t) rm false
  (c, f ||| g)

/-- a × b + c with one rounding; 0 × inf raises IV even when the addend is a NaN (R159, R235). -/
def fpFma (t : BitVec 4) (rm : BitVec 3) (a b c : Nat) : Nat × Flags :=
  let (p, f) := mulVal (fpVal t a) (fpVal t b)
  let (v, g) := sumVals [p, fpVal t c] rm
  let (r, h) := roundFmt v (fmtOf t) rm false
  (r, f ||| g ||| h)

/-- Exact order of two values that are no NaN, −0 below +0 (R237). -/
def ltVal (a b : Val) : Bool :=
  match a, b with
  | .inf s, .inf t => s && !t
  | .inf s, .fin _ _ _ => s
  | .fin _ _ _, .inf t => !t
  | .fin s n d, .fin t m e =>
    let x : Int := (if s then -(n : Int) else n) * e
    let y : Int := (if t then -(m : Int) else m) * d
    if x = y then (decide (n = 0) && s && !t) else decide (x < y)
  | _, _ => false

/-- FMIN and FMAX of two codes (R237). -/
def fpMinMax (t : BitVec 4) (wantMax : Bool) (a b : Nat) : Nat :=
  match fpVal t a, fpVal t b with
  | .nan, .nan => ((fmtOf t).nan).getD 0
  | .nan, _ => b
  | _, .nan => a
  | x, y => if wantMax then (if ltVal x y then b else a) else (if ltVal y x then b else a)

/-- Equality of values, −0 equal to +0 and a NaN to nothing (R153, R238). -/
def eqVal (a b : Val) : Bool :=
  match a, b with
  | .nan, _ => false
  | _, .nan => false
  | .inf s, .inf t => s == t
  | .fin s n d, .fin t m e => decide (n * e = m * d) && (s == t || decide (n = 0))
  | _, _ => false

/-- The FSET comparisons (R199, R238). -/
def fpCompare (cc : BitVec 3) (a b : Val) : Bool :=
  let un := a == .nan || b == .nan
  let lt := !un && ltVal a b && !eqVal a b
  let eq := eqVal a b
  match cc with
  | 0#3 => eq
  | 1#3 => !eq
  | 2#3 => lt
  | 3#3 => lt || eq
  | 4#3 => !un && !lt && !eq
  | 5#3 => !un && !lt
  | 6#3 => !un
  | _ => un

/-- FCLASS's class bit of a code (R196): −inf, −normal, −subnormal, −0, +0, +subnormal, +normal, +inf; none for a NaN. -/
def fpClass (f : Fmt) (c : Nat) : Option Nat :=
  match decodeFp f c with
  | .nan => none
  | .inf neg => some (if neg then 0 else 7)
  | .fin neg n _ =>
    let ex := c / 2 ^ f.m % 2 ^ f.e
    some (if n = 0 then (if neg then 3 else 4) else if ex = 0 then (if neg then 2 else 5) else (if neg then 1 else 6))

/-- The bounds of an integer type of CVT. -/
def intBits (t : BitVec 4) : Nat := if t == tyS8 || t == tyU8 then 8 else if t == tyS16 || t == tyU16 then 16 else 32
def intSigned (t : BitVec 4) : Bool := t == tyS8 || t == tyS16 || t == tyS32
def intMin (t : BitVec 4) : Int := if intSigned t then -(2 ^ (intBits t - 1) : Int) else 0
def intMax (t : BitVec 4) : Int := if intSigned t then 2 ^ (intBits t - 1) - 1 else 2 ^ intBits t - 1

/-- The low bits of an integer in a type. -/
def intCode (t : BitVec 4) (i : Int) : Nat := (i % 2 ^ intBits t).toNat

/-- The integer that a code of an integer type holds. -/
def intVal (t : BitVec 4) (c : Nat) : Int := if intSigned t then signedNat (intBits t) c else (c % 2 ^ intBits t : Nat)

/-- An integer as an exact value. -/
def valOfInt (i : Int) : Val := .fin (decide (i < 0)) i.natAbs 1

/-- A conversion to an integer type (R160). -/
def toIntFmt (t : BitVec 4) (rm : BitVec 3) (v : Val) : Nat × Flags :=
  match v with
  | .nan => (0, flagIV)
  | .inf neg => (intCode t (if neg then intMin t else intMax t), flagIV)
  | .fin neg n d =>
    let k := roundStep rm neg n d
    let i : Int := if neg then -(k : Int) else k
    if i < intMin t then (intCode t (intMin t), flagIV)
    else if intMax t < i then (intCode t (intMax t), flagIV)
    else (intCode t i, if n % d = 0 then 0 else flagIX)

/-- A conversion between integer types: wrap, or clamp with SAT (R160). -/
def intToInt (dst : BitVec 4) (sat : Bool) (i : Int) : Nat :=
  intCode dst (if sat then max (intMin dst) (min (intMax dst) i) else i)

/-- One value converted as CVT converts it (R242). -/
def convert (src dst : BitVec 4) (rm : BitVec 3) (sat : Bool) (c : Nat) : Nat × Flags :=
  match isIntTy src, isIntTy dst with
  | true, true => (intToInt dst sat (intVal src c), 0)
  | true, false => roundFmt (valOfInt (intVal src c)) (fmtOf dst) rm sat
  | false, true => toIntFmt dst rm (fpVal src c)
  | false, false => roundFmt (fpVal src c) (fmtOf dst) rm sat

end Sys2Proof.Machine
end

