-- ==== Sys2Proof/Machine/Stores.lean ====
section
/-! DEFINITION. A core's accesses to global memory: write-combining entries, strong operations on their way to their homes (R79, R84,
R261, R266), weak accesses through the L1 (R57). -/
namespace Sys2Proof.Machine
open Sys2Proof

/-- A write-combining entry of a core goes to its domain's L2 (R84). -/
def drainEntry (s : State) (c line : Nat) : State :=
  match kget (s.core c).wc line with
  | some ps =>
    let s := s.updCore c fun k => { k with wc := kdel k.wc line }
    l2Write s (s.coreTenant c) (coreDomain c) line ps
  | none => s
/-- Every write-combining entry of a core goes to the L2 (R85). -/
def drainEntries (s : State) (c : Nat) : State := ((s.core c).wc.map (·.1)).foldl (fun s l => drainEntry s c l) s

/-- The size of a memory type (R200). -/
def tySize (t : BitVec 4) : Nat :=
  if t == tyS8 || t == tyU8 then 1 else if t == tyS16 || t == tyU16 then 2 else if isTy64 t then 8 else 4
/-- Whether a type orders signed (R266). -/
def tySigned (t : BitVec 4) : Bool := t == tyS32 || t == tyS64
/-- The new value of an atomic (R266, R270). -/
def atomNew (t : BitVec 4) (op : BitVec 4) (old c : Nat) : Nat :=
  let n := 8 * tySize t
  let c := c % 2 ^ n
  let lt (a b : Nat) : Bool := if tySigned t then decide (signedNat n a < signedNat n b) else decide (a < b)
  let f := t == tyF32
  match op with
  | 0#4 => if f then (fpAdd tyF32 0 old c).1 else (old + c) % 2 ^ n
  | 1#4 => if f then fpMinMax tyF32 false old c else if lt c old then c else old
  | 2#4 => if f then fpMinMax tyF32 true old c else if lt old c then c else old
  | 3#4 => old &&& c
  | 4#4 => old ||| c
  | 5#4 => old ^^^ c
  | 6#4 => c
  | 7#4 => if c ≤ old then 0 else old + 1
  | _ => if old = 0 ∨ c < old then c else old - 1

/-- What a strong operation writes over an old value (R266, R269, R271): nothing where its comparison fails. -/
def strongResult (op : Option (BitVec 4 × BitVec 4)) (cmp : Option Nat) (v old : Nat) : Option Nat :=
  match cmp with
  | some e => if old = e then some v else none
  | none => some (match op with | some (ty, code) => atomNew ty code old v | none => v)
/-- A strong read of a lane is noted for every acquiring FENCE after it (R75, R272), with the release whose value it returned. -/
def noteReadOf (s : State) (c b g t l : Nat) (scope : BitVec 4) (pa n : Nat) : State :=
  let note : ReadNote := ⟨l, pa, n, scope, readRelease s t pa n⟩
  s.updGroup c b g fun g => { g with reads := if g.reads.contains note then g.reads else g.reads ++ [note] }
/-- What a strong operation tells its group: its read is noted, and its old value goes to its slot (R260, R272). -/
def tellStrong (s : State) (c : Nat) (w : StrongW) (old : Nat) : State :=
  match w.block, w.who.thread with
  | some b, some (g, l) =>
    let s := if w.op.isSome || w.cmp.isSome then noteReadOf s c b g w.who.tenant l w.scope w.pa w.n else s
    match w.ret with
    | some k => deliverSlot s c b g k l 0 (some old)
    | none => s
  | _, _ => s
/-- A strong operation of a core performed at its home (R83, R85, R261, R267): the write-combining entries of its line drain before it,
all of them before a release, the L1's copy of the line goes, and a release that writes publishes. It is a write by the home domain only
where it writes. -/
def performStrong (s : State) (c : Nat) (w : StrongW) : State :=
  let t := w.who.tenant
  let line := lineOf w.pa
  let s := (if w.rel then drainEntries s c else drainEntry s c line).updCore c fun k => { k with l1 := kdel k.l1 line }
  if s.homeDown t (lineBase line) then tellStrong s c w (homeValue s w.pa w.n)
  else
    let old := homeValue (homeAccess s t line false) w.pa w.n
    let new := strongResult w.op w.cmp w.v old
    let s := tellStrong (homeAccess s t line new.isSome) c w old
    match new with
    | none => s
    | some v =>
      let s := strongWrite s t w.who.domain w.pa w.n v
      match w.pub with
      | some sc => publish s w.who w.sig sc w.pa w.n
      | none => s
/-- The strong operations that are performed for those that a test names (R79): with a release among those, every one before it; else
those alone. -/
def dueStrong (p : StrongW → Bool) (ws : List StrongW) : List StrongW :=
  if ws.any fun w => w.rel && p w then (ws.reverse.dropWhile fun w => !p w).reverse else ws.filter p
/-- Strong operations of a core that a test names are performed, oldest first. -/
def flushStrong (c : Nat) (p : StrongW → Bool) (s : State) : State :=
  (dueStrong p (s.core c).strong).foldl (fun s w =>
    performStrong (s.updCore c fun k => { k with strong := k.strong.erase w }) c w) s
/-- The strong operations of a core on a line are performed: what its own agents do there next follows them (R77, R78). -/
def flushLineOf (s : State) (c line : Nat) : State := serveLine (flushStrong c (fun w => lineOf w.pa == line) s) c line

/-- A core's stores to a line reach the L2, or their home (R84). -/
def drainLine (s : State) (c line : Nat) : State := drainEntry (flushLineOf s c line) c line
/-- Every store of a core has reached the L2, or its home (R85, R261). -/
def drainCore (s : State) (c : Nat) : State := drainEntries (flushStrong c (fun _ => true) s) c

/-- A core's write-combining bytes of a line laid over it: a thread sees its own stores (R77). -/
def overlayWc (k : Core) (line : Nat) (bs : List Byte) : List Byte :=
  match kget k.wc line with
  | some ps => patchBytes bs ps
  | none => bs

/-- A weak read of `n` bytes inside one line by a core, or nothing on poison (R57, R70, R77). HINT 3 bypasses the L1. -/
def weakRead (s : State) (c pa n : Nat) (hint : BitVec 2) : State × Option (List Byte) :=
  let line := lineOf pa
  let s := flushLineOf s c line
  let k := s.core c
  let cut (bs : List Byte) := (bs.drop (pa % 128)).take n
  let below (s : State) (keep : Bool) : State × Option (List Byte) :=
    let (s, r) := l2Read s (s.coreTenant c) (coreDomain c) line
    let s := if keep then
        match r with
        | some bs => s.updCore c fun k => k.l1Fill line (overlayWc k line bs) hint
        | none => s.updCore c fun k => { k with l1 := kdel k.l1 line }
      else s
    (s, r.map fun bs => cut (overlayWc (s.core c) line bs))
  if isPeer pa then below s false
  else
    match kget k.l1 line with
    | some l => if hint != 3 then (s.updCore c fun k => k.l1Use line, some (cut l.bytes)) else below s false
    | none => below s (hint != 3)

/-- A weak write of bytes inside one line by a block of a core (R84, R85): the L1 line takes them if present, and they
wait in a write-combining entry. -/
def weakWrite (s : State) (c b pa : Nat) (bs : List Byte) : State :=
  let line := lineOf pa
  let ps := patchesAt (pa % 128) bs
  let s := (flushLineOf s c line).updCore c fun k =>
    let k := if (kget k.l1 line).isSome then k.l1Use line else k
    { k with l1 := kupd k.l1 line fun l => { l with bytes := patchBytes l.bytes ps }
             wc := kset k.wc line (ps.foldl (fun m (o, v) => kset m o v) ((kget k.wc line).getD [])) }
  s.updBlock c b fun k => { k with sig := k.sig ||| sigOf line }

/-- Before a strong operation on global memory: the core's stores to the line have gone on, its L1 copy goes, and the home has the newest
bytes (R83, R261). -/
def strongPrep (s : State) (c pa : Nat) (write : Bool) : State :=
  let line := lineOf pa
  let s := drainLine s c line
  let s := s.updCore c fun k => { k with l1 := kdel k.l1 line }
  homeAccess s (s.coreTenant c) line write

end Sys2Proof.Machine
end

