-- ==== Sys2Proof/Machine/Translate.lean ====
section
/-! DEFINITION. Page walks, translation buffers and fault causes (R389-R391), the rings the device writes (R380-R384, R410)
and the fault table (R392, R393). -/
namespace Sys2Proof.Machine
open Sys2Proof

/-- How a translation ends (R391): the physical address and the leaf's span, or the cause, level and failing entry; cause 0
is a table's entry on a line that cannot be read (R70, R401). -/
inductive Walk where
  | ok (pa shift : Nat) (w : Bool)
  | fail (cause level ptepa : Nat) (pte : W64)
  deriving DecidableEq, Repr

/-- Causes (R391). -/
def causeNotValid : Nat := 1
def causeWriteProt : Nat := 2
def causeBadEntry : Nat := 3
def causeNoMem : Nat := 4
def causeHighBits : Nat := 5
def causePeerDeny : Nat := 6
def causePeerDown : Nat := 7
/-- Only NOTVALID and WRITEPROT are replayable (R391). -/
def replayable (cause : Nat) : Bool := cause == 1 || cause == 2

/-- The levels of R389: level, low VA bit, index bits, whether a leaf is allowed, log2 of the next table's alignment. -/
def walkLevels : List (Nat × Nat × Nat × Bool × Nat) :=
  [(0, 48, 8, false, 12), (1, 39, 9, false, 12), (2, 30, 9, true, 12), (3, 21, 9, true, 8), (4, 16, 5, true, 0)]

/-- A physical address is one that a tenant's accesses reach (R391, R406): memory lies there, and of a peer's a port is up and the peer admits
the tenant. -/
def reached (s : State) (t pa : Nat) : Bool :=
  s.memoryAt pa && (!isPeer pa || ((s.peer (peerOf pa)).2.2.1 && Config.peerAdmits (s.ten t).vni (peerOf pa)))
/-- The physical address of a leaf's byte is one the tenant's accesses reach (R391, R406). -/
def leafCheck (s : State) (t pa level ptepa : Nat) (pte : W64) (ok : Walk) : Walk :=
  if !s.memoryAt pa then .fail causeNoMem level ptepa pte
  else if isPeer pa then
    if !(s.peer (peerOf pa)).2.2.1 then .fail causePeerDown level ptepa pte
    else if !Config.peerAdmits (s.ten t).vni (peerOf pa) then .fail causePeerDeny level ptepa pte
    else ok
  else ok

/-- A walk from a table at some level (R389-R391): each entry is read with a strong read at its home. -/
def walkFrom (s : State) (t va : Nat) (write : Bool) (table : Nat) :
    List (Nat × Nat × Nat × Bool × Nat) → State × Walk
  | [] => (s, .fail causeBadEntry 4 0 0)
  | (level, lo, n, leafOk, align) :: rest =>
    let a := table + 8 * (va / 2 ^ lo % 2 ^ n)
    let (s, bs) := homeRead s t a 8
    if s.poisoned (lineOf a) || s.homeDown t a then (s, .fail 0 level a 0)
    else
      let pte : W64 := BitVec.ofNat 64 (leNat bs)
      let addr := bits pte 8 44 * 256
      let leaf := bit pte 1
      if !bit pte 0 then (s, .fail causeNotValid level a pte)
      else if bits pte 52 12 != 0 || bits pte 3 5 != 0 then (s, .fail causeBadEntry level a pte)
      else if leaf then
        if !leafOk || addr % 2 ^ lo != 0 then (s, .fail causeBadEntry level a pte)
        else if write && !bit pte 2 then (s, .fail causeWriteProt level a pte)
        else
          let pa := addr + va % 2 ^ lo
          (s, leafCheck s t pa level a pte (.ok pa lo (bit pte 2)))
      else if level = 4 || bit pte 2 || addr % 2 ^ align != 0 || addr / domBytes != (s.ten t).pthome || !isDomainMem s addr then
        (s, .fail causeBadEntry level a pte)
      else walkFrom s t va write addr rest

/-- The walk of an address by a tenant (R389), bits [63:56] checked first (R47). A root that is misaligned or lies outside the
page-table home is a bad table address (DEDUCED, log 173). -/
def walk (s : State) (t va : Nat) (write : Bool) : State × Walk :=
  let root := (s.ten t).root
  if 2 ^ 56 ≤ va then (s, .fail causeHighBits 0 0 0)
  else if root % 2048 != 0 || root / domBytes != (s.ten t).pthome || !isDomainMem s root then
    (s, .fail causeBadEntry 0 (root + 8 * (va / 2 ^ 48)) 0)
  else walkFrom s t va write root walkLevels

/-- The physical address of a byte under a cached translation. -/
def TlbEntry.addr (e : TlbEntry) (va : Nat) : Nat := (e.ppage + (va / 65536 - e.vpage)) * 65536 + va % 65536
/-- A cached translation of an address that is still held, permits the access and leads where the tenant's accesses reach (R391, R406): a
leaf's other bytes may lie in no memory, and a peer may be out of reach by now. -/
def tlbFind (s : State) (d t va : Nat) (write : Bool) : Option TlbEntry :=
  (s.dom d).tlb.find? fun e => e.tenant == t && decide (e.vpage ≤ va / 65536) && decide (va / 65536 < e.vpage + e.npages) &&
    (e.write || !write) && Config.tlbHolds s.tick (va / 65536) && reached s t (e.addr va)

/-- Translation in a domain: a cached translation, or a walk whose success is cached; a WRITEPROT fault first removes the
read-only translation (R391). -/
def translate (s : State) (d t va : Nat) (write : Bool) : State × Walk :=
  match tlbFind s d t va write with
  | some e => (s, .ok (e.addr va) 16 e.write)
  | none =>
    match walk s t va write with
    | (s, .ok pa sh w) =>
      let n := 2 ^ (sh - 16)
      let e : TlbEntry := ⟨t, va / 65536 / n * n, n, (pa / 65536 - va / 65536 % n), w⟩
      (s.updDom d fun k => { k with tlb := e :: k.tlb.filter fun x => !(x.tenant == t && x.vpage == e.vpage) }, .ok pa sh w)
    | (s, .fail c l a p) =>
      (if c = causeWriteProt then s.updDom d fun k => { k with tlb := k.tlb.filter fun x =>
          !(x.tenant == t && decide (x.vpage ≤ va / 65536) && decide (va / 65536 < x.vpage + x.npages)) } else s,
        .fail c l a p)

/-- The ring numbers of a tenant window (R380): RL0-RL3 are 0 to 3. -/
def ringCQ : Nat := 4
def ringFQ : Nat := 5
def ringDQ : Nat := 6
def Tenant.ring (t : Tenant) (q : Nat) : Ring := (kget t.rings q).getD Ring.fresh
def State.updRing (s : State) (t q : Nat) (f : Ring → Ring) : State :=
  s.updTen t fun n => { n with rings := kset n.rings q (f (n.ring q)) }
/-- The PF's rings: the admin command ring is ring 4, the event log ring 5 (R388, R410). -/
def Module.ring (m : Module) (q : Nat) : Ring := (kget m.rings q).getD Ring.fresh
def State.updPfRing (s : State) (q : Nat) (f : Ring → Ring) : State :=
  s.updMod fun m => { m with rings := kset m.rings q (f (m.ring q)) }
/-- Entries a ring holds (R381). -/
def Ring.count (r : Ring) : Nat := (r.tail - r.head).toNat
def Ring.size (r : Ring) : Nat := 2 ^ r.log2n
/-- The address of a ring's entry at an index (R381). -/
def Ring.slot (r : Ring) (i : W32) (bytes : Nat) : Nat := r.base + bytes * (i.toNat % r.size)

/-- A VF by its number over all four ports, 64 to a port (R378), and a function's number: 0 a PF, v + 1 the VF v (DESIGN CHOICE, log 164). -/
def Tenant.vfNum (n : Tenant) : Nat := n.port * 64 + n.vf
def Tenant.fn (n : Tenant) : Nat := n.vfNum + 1
/-- An entry of a function's MSI-X table (R379): address, then data with the mask bit at [32]; masked at reset (PRESUMED, log 164). -/
def Module.vector (m : Module) (fn vec : Nat) : W64 × W64 := (kget m.msixTab (fn * 4 + vec)).getD (0, 0x100000000)
/-- The functions that a vector of one goes out by: the PF's by each port's physical function, whose numbers are 0 and 65 to 67 (R378; log
164). -/
def vectorFns (fn : Nat) : List Nat := if fn = 0 then [0, 65, 66, 67] else [fn]
/-- A vector is raised (R381): its message is sent, or it is pending in the PBA while its entry is masked. -/
def State.msix (s : State) (fn vec : Nat) : State :=
  s.updMod fun m => (vectorFns fn).foldl (fun m fn =>
    if bit (m.vector fn vec).2 32 then { m with pba := if m.pba.contains (fn, vec) then m.pba else m.pba ++ [(fn, vec)] }
    else { m with msix := m.msix ++ [(fn, vec)] }) m

/-- Words stored at a tenant's address by the device; nothing where the address does not translate for a write. -/
def deviceStore (s : State) (t va : Nat) (ws : List W64) : Option State :=
  match walk s t va true with
  | (s, .ok pa _ _) => some (homeStore s t pa (ws.foldr (fun w r => leBytes 8 w.toNat ++ r) []))
  | _ => none
/-- Words of a tenant's address read by the device with an acquire; nothing where it does not translate. -/
def deviceLoad (s : State) (t va n : Nat) : State × Option (List W64) :=
  match walk s t va false with
  | (s, .ok pa _ _) =>
    let s := (homeRead s t pa (8 * n)).1
    (s, some (readWords s.mem pa n))
  | (s, _) => (s, none)

/-- The device appends an entry to a ring of a tenant and sends the vector when the ring was empty (R381); no entry where
the ring is off, full, or its address does not translate. A fault record's place is free once its response has been read (R394). -/
def ringPush (s : State) (t q vec : Nat) (ws : List W64) : Option State :=
  let r := (s.ten t).ring q
  if !r.en || r.size ≤ (if q = ringFQ then (r.tail - r.seen).toNat else r.count) then none
  else
    match deviceStore s t (r.slot r.tail (8 * ws.length)) ws with
    | some s' =>
      let s' := s'.updRing t q fun r => { r with tail := r.tail + 1 }
      some (if r.count = 0 then s'.msix (s.ten t).fn vec else s')
    | none => none

/-- Error-summary bits (R380 ESUM). -/
def esScopeMiss : BitVec 7 := 1
def esJoinUnder : BitVec 7 := 2
def esSbLost : BitVec 7 := 4
def esRcptOvf : BitVec 7 := 8
def esLfail : BitVec 7 := 16
def esFqOvf : BitVec 7 := 32
def esDqOvf : BitVec 7 := 64
def State.setEsum (s : State) (t : Nat) (b : BitVec 7) : State := s.updTen t fun n => { n with esum := n.esum ||| b }

/-- A counter of 32 bits stays at its top (R380). -/
def sat32 (n : Nat) : Nat := min (n + 1) (2 ^ 32 - 1)

/-- Words 0 and 1 of a fault record (R383). -/
def recordHead (s : State) (kind core launch : Nat) : List W64 :=
  [BitVec.ofNat 64 (kind + core % 16384 * 2 ^ 16 + launch % 4096 * 2 ^ 34), BitVec.ofNat 64 s.now]

/-- A fault record posted to a tenant; dropped and counted when the ring has no room (R383). -/
def postFault (s : State) (t kind core launch : Nat) (ws : List W64) : State :=
  match ringPush s t ringFQ 0 (recordHead s kind core launch ++ ws) with
  | some s => s
  | none => (s.updTen t fun n => { n with fqDrops := sat32 n.fqDrops }).setEsum t esFqOvf

/-- XFAULT records that waited are posted, oldest first, while the fault ring has room (R383); of one that awaits an answer the ring index is
kept with its fault-table entry (R394). -/
def postWaiting (s : State) (t : Nat) : Nat → State
  | 0 => s
  | n + 1 =>
    match (s.ten t).fqWait with
    | [] => s
    | w :: r =>
      let at_ := ((s.ten t).ring ringFQ).tail.toNat
      match ringPush s t ringFQ 0 w with
      | some s =>
        let note (m : KMap (Nat × Nat)) := if bit (word w 3) 43 then kset m at_ (bits (word w 3) 44 6, bits (word w 3) 0 32) else m
        postWaiting (s.updTen t fun n => { n with fqWait := r, fqPosted := note n.fqPosted }) t n
      | none => s

/-- A record posted to the PF event log (R410), whose ring lies at physical addresses. -/
def postEvent (s : State) (kind core : Nat) (ws : List W64) : State :=
  let r := s.mod.ring ringFQ
  if !r.en || r.size ≤ r.count then s.updMod fun m => { m with evDrops := sat32 m.evDrops }
  else
    let bs := (recordHead s kind core 0 ++ ws).foldr (fun w r => leBytes 8 w.toNat ++ r) []
    let s := homeStore s 0 (r.slot r.tail 64) bs
    let s := s.updPfRing ringFQ fun r => { r with tail := r.tail + 1 }
    if r.count = 0 then s.msix 0 1 else s

/-- A record of R34 that failed goes to the dead-letter ring (R35, R384). `source` is 0 ring, 1 SPAWN, 2 parked slot, and
`org` the record's own origin where SOURCE is 3. -/
def deadLetter (s : State) (t : Nat) (w : List W64) (reason source org ring core : Nat) : State :=
  let fromRing := if source = 3 then org = 0 else source = 0
  let w8 := reason + source * 2 ^ 8 + (if fromRing then ring else 0) * 2 ^ 16 + (if source = 3 then org else 0) * 2 ^ 20
  let ws := w ++ [BitVec.ofNat 64 w8, BitVec.ofNat 64 s.now, BitVec.ofNat 64 (if fromRing then 0 else core), 0, 0, 0, 0, 0]
  match ringPush s t ringDQ 1 ws with
  | some s => s
  | none => (s.updTen t fun n => { n with dqDrops := sat32 n.dqDrops }).setEsum t esDqOvf

/-- Zero words. -/
def zeros (n : Nat) : List W64 := List.replicate n 0

/-- The fault a walk ended in, as words 2 to 7 of an XFAULT (R393). -/
def xfaultWords (d va cause level ptepa agent fid : Nat) (pte : W64) (write replay : Bool) : List W64 :=
  [BitVec.ofNat 64 (va % 2 ^ 56),
   BitVec.ofNat 64 (d * 2 ^ 44 + replay.toNat * 2 ^ 43 + agent * 2 ^ 40 + write.toNat * 2 ^ 39 + level * 2 ^ 36 +
     cause * 2 ^ 32 + fid % 2 ^ 32),
   BitVec.ofNat 64 ptepa, pte, 0, 0]

/-- How an access stands after translation: an address, a pending replayable fault (its FID), no room for a record or an
entry yet, a fault that cannot be resolved (R392, R393), or a page-table line that cannot be read (R70). -/
inductive Xlat where
  | ok (pa : Nat)
  | pending (fid : Nat)
  | wait
  | dead (cause : Nat)
  | down (line : Nat)
  deriving DecidableEq, Repr

/-- The entry of a domain's fault table with an access's key (R392). -/
def pendingFault (s : State) (d t va : Nat) (write : Bool) : Option Nat :=
  ((s.dom d).faults.find? fun (_, f) => f.tenant == t && f.page == va / 65536 && f.write == write).map (·.1)
/-- An access's translation with the fault table (R392, R393): search, attach, walk, post. `agent` is R393's AGENT. With the fault
ring full a replayable record waits (R383), and a non-replayable one is asked for again. -/
def accessPage (s : State) (d t va : Nat) (write : Bool) (agent core launch : Nat) : State × Xlat :=
  match (if va < 2 ^ 56 then tlbFind s d t va write else none) with
  | some _ =>
    match translate s d t va write with
    | (s, .ok pa _ _) => (s, .ok pa)
    | (s, .fail c _ a _) => (s, if c = 0 then .down (lineOf a) else .dead c)
  | none =>
  match pendingFault s d t va write with
  | some fid => (s, .pending fid)
  | none =>
    match translate s d t va write with
    | (s, .ok pa _ _) => (s, .ok pa)
    | (s, .fail cause level ptepa pte) =>
      let fid := (s.dom d).nextFid
      let rep := replayable cause
      if cause = 0 then (s, .down (lineOf ptepa))
      else if rep && 1024 ≤ (s.dom d).faults.length then (s, .wait)
      else
        let ws := recordHead s 1 core launch ++ xfaultWords d va cause level ptepa agent fid pte write rep
        if rep then
          let s := s.updTen t fun n => { n with fqWait := n.fqWait ++ [ws] }
          let s := postWaiting s t (s.ten t).fqWait.length
          (s.updDom d fun k => { k with nextFid := (k.nextFid + 1) % 2 ^ 32
                                        faults := kset k.faults fid ⟨t, va / 65536, write, cause⟩ }, .pending fid)
        else
          match ringPush s t ringFQ 0 ws with
          | none => (s, .wait)
          | some s => (s.updDom d fun k => { k with nextFid := (k.nextFid + 1) % 2 ^ 32 }, .dead cause)

/-- A store to the range is refused: it lies in a sealed range (R91). -/
def sealed (s : State) (t va n : Nat) : Bool :=
  (s.ten t).seals.any fun (b, len) => decide (va < b + len) && decide (b < va + n)

/-- A range-lock entry forbids the access (R94): any access of its block over its destination, any write over its source. -/
def rangeLocked (s : State) (c b : Nat) (spad : Bool) (a n : Nat) (write : Bool) : Bool :=
  (s.core c).locks.any fun k => k.block == b && k.spad == spad && (k.dst || write) && decide (a < k.hi) && decide (k.lo < a + n)

end Sys2Proof.Machine
end

