-- ==== Sys2Proof/Machine/Barriers.lean ====
section
/-! DEFINITION. Hardware barriers (R97-R104, R109, R110): members, arrivals, excusals and the completion of a generation.
Levels: 0 group, 1 block, 2 cluster, 3 grid (R276). The tile stream is member 64 of its block's barriers 8 to 15. -/
namespace Sys2Proof.Machine
open Sys2Proof

/-- Lanes of a group that have not exited. -/
def Group.live (g : Group) (w : Nat) : Lanes := lanesBelow w &&& ~~~g.exited

/-- The key of a group's accumulated arrivals at a barrier; the superstep mark of the same arrival stands 2^20 above. -/
def arrKey (lvl n g : Nat) : Nat := (lvl * 16 + n) * 64 + g
/-- The key of a barrier in its block: block barriers are 0 to 15, group barriers follow. -/
def barKey (lvl n g : Nat) : Nat := if lvl = 0 then 64 + g * 4 + n else n

/-- A barrier as its level creates it (R97): generation 0 and the default count. -/
def Bar.fresh (e : Nat) : Bar := ⟨0, e, false, []⟩
/-- The default expected count (R97). -/
def defaultCount (k : Block) (lvl n : Nat) : Nat :=
  match lvl with
  | 0 => k.kern.width
  | 1 => k.nGroups + (if 8 ≤ n ∧ k.kern.tile.isSome then 1 else 0)
  | 2 => k.clus
  | _ => recGrid k.record
/-- A grid barrier's members are the blocks of the grid the launch runs (R43, R97). -/
def State.gridCount (s : State) (k : Block) : Nat :=
  match s.launch k.tenant k.launch with
  | some l => l.grid
  | none => recGrid k.record

/-- The barrier a member of a block names. -/
def getBar (s : State) (k : Block) (g lvl n : Nat) : Bar :=
  let dflt := Bar.fresh (if lvl = 3 then s.gridCount k else defaultCount k lvl n)
  if lvl < 2 then (kget k.bars (barKey lvl n g)).getD dflt
  else
    match s.launch k.tenant k.launch with
    | some l => (if lvl = 2 then kget l.clusBars (k.index / k.clus * 8 + n) else kget l.gridBars n).getD dflt
    | none => dflt
/-- A barrier stored where its level keeps it. A block that drains has no part in its launch's barriers any more (R33, R103). -/
def setBar (s : State) (c b : Nat) (k : Block) (g lvl n : Nat) (v : Bar) : State :=
  if lvl < 2 then s.updBlock c b fun k => { k with bars := kset k.bars (barKey lvl n g) v }
  else if k.draining then s
  else s.updLaunch k.tenant k.launch fun l =>
    if lvl = 2 then { l with clusBars := kset l.clusBars (k.index / k.clus * 8 + n) v }
    else { l with gridBars := kset l.gridBars n v }

/-- Done(t) (R101). -/
def barDone (gen t : BitVec 16) : Bool := decide (1 ≤ (gen - t).toNat) && decide ((gen - t).toNat ≤ 32768)

/-- The number of members excused and not arrived (R98, R99). -/
def excusedCount (s : State) (k : Block) (g lvl n : Nat) (bar : Bar) : Nat :=
  match lvl with
  | 0 =>
    match kget k.groups g with
    | some x => ((laneList k.kern.width x.exited).filter fun l => !bar.arrived.contains l).length
    | none => 0
  | 1 =>
    let ended := if bar.custom then 0 else
      (k.groups.filter fun (i, x) => x.ended && !bar.arrived.contains i).length
    let stream := match k.tile with
      | some t => if t.ended && 8 ≤ n && !bar.arrived.contains 64 then 1 else 0
      | none => 0
    ended + stream
  | _ =>
    match s.launch k.tenant k.launch with
    | some l =>
      if lvl = 2 then
        (l.completed.filter fun i => i / k.clus == k.index / k.clus && !bar.arrived.contains (i % k.clus)).length
      else (l.completed.filter fun i => !bar.arrived.contains i).length
    | none => 0

/-- A generation completes: someone arrived, and arrived with excused reach E (R98). -/
def barFull (s : State) (k : Block) (g lvl n : Nat) (bar : Bar) : Bool :=
  !bar.arrived.isEmpty && decide (bar.exp ≤ bar.arrived.length + excusedCount s k g lvl n bar)

/-- A waiting entry of a superstep whose arrival is held goes on to wait for the next generation, in which it will count (R100, R104,
R110). -/
def Entry.passGen (e : Entry) (lvl n : Nat) (gen : BitVec 16) : Entry :=
  match e.wait with
  | some (.bar l m t ch d next true) =>
    if l = lvl ∧ m = n ∧ t = gen then { e with wait := some (.bar l m (t + 1) ch d next true) } else e
  | _ => e
/-- A block at a barrier's completion: the arrivals it has accumulated are cleared, but those of a held superstep arrival (R98, R110). -/
def Block.passBar (k : Block) (lvl n : Nat) (gen : BitVec 16) : Block :=
  let held (g : Nat) : Bool := k.held.any fun h => h.lvl == lvl && h.n == n && (lvl != 1 || h.member == g)
  { k with
    arr := k.arr.filter fun (key, _) => key % 2 ^ 20 / 64 != lvl * 16 + n || held (key % 64)
    groups := if k.held.isEmpty then k.groups else kmap k.groups fun g x =>
      if held g then
        { x with frontier := x.frontier.map fun e => e.passGen lvl n gen
                 handler := x.handler.map fun h => { h with saved := h.saved.map fun e => e.passGen lvl n gen } }
      else x }

/-- Two blocks share a barrier of cluster or grid level. -/
def Block.shares (k j : Block) (lvl : Nat) : Bool :=
  !k.draining && !j.draining && j.tenant == k.tenant && j.launch == k.launch && (lvl == 3 || j.index / j.clus == k.index / k.clus)
/-- Every block that shares a barrier with a block is changed, kept blocks too (R98, R362). -/
def updSharers (s : State) (c b : Nat) (k : Block) (lvl : Nat) (f : Block → Block) : State :=
  if lvl < 2 then s.updBlock c b f
  else
    let each (m : KMap Block) : KMap Block := kmap m fun _ j => if k.shares j lvl then f j else j
    { s with cores := kmap s.cores fun _ (x : Core) => { x with blocks := each x.blocks, kept := each x.kept } }

/-- The union of a stream's tile flags (R292). -/
def Block.tileFlags (k : Block) : BitVec 5 :=
  match k.tile with
  | some t => (List.range 8).foldl (fun f a => f ||| zget t.flags a) 0
  | none => 0
/-- A waiting entry waits for a generation of a barrier. -/
def Entry.waitsBar (e : Entry) (lvl n : Nat) (gen : BitVec 16) : Bool :=
  match e.wait with
  | some (.bar l m t _ _ _ _) => l == lvl && m == n && t == gen
  | _ => false
/-- A completion at which the tile stream arrived ORs the tiles' flags into every group that it releases (R292). -/
def Block.takeTileFlags (k : Block) (n : Nat) (gen : BitVec 16) : Block :=
  let f := k.tileFlags
  { k with groups := kmap k.groups fun _ g =>
      if g.allEntries.any fun e => e.waitsBar 1 n gen then { g with fflags := g.fflags ||| f } else g }

/-- The generation advances by one, modulo 2^16, and nobody has arrived in the new one (R101). -/
def completeBar (s : State) (c b : Nat) (k : Block) (g lvl n : Nat) : State :=
  let bar := getBar s k g lvl n
  let s := setBar s c b k g lvl n { bar with gen := bar.gen + 1, arrived := [] }
  let s := if lvl = 1 && bar.arrived.contains 64 then s.updBlock c b fun k => k.takeTileFlags n bar.gen else s
  if lvl = 0 then s
  else updSharers s c b k lvl fun j => j.passBar lvl n bar.gen

/-- The same of a launch's grid barrier where no block is on a core to name it by: its members may be kept or to be relaunched (R109,
R362). -/
def completeGrid (s : State) (t l n : Nat) : State :=
  match s.launch t l with
  | none => s
  | some y =>
    let bar := (kget y.gridBars n).getD (Bar.fresh y.grid)
    let s := s.updLaunch t l fun y => { y with gridBars := kset y.gridBars n { bar with gen := bar.gen + 1, arrived := [] } }
    let pass (m : KMap Block) : KMap Block := kmap m fun _ j =>
      if j.tenant == t && j.launch == l && !j.draining then j.passBar 3 n bar.gen else j
    { s with cores := kmap s.cores fun _ (x : Core) => { x with blocks := pass x.blocks, kept := pass x.kept } }

/-- A grid barrier runs on the AND-tree when the launch's placement has cores in more than one domain (R105). -/
def onTree (s : State) (t : Nat) : Bool := decide (1 < (s.ten t).domains.length)

/-- A barrier whose generation is full completes; a grid barrier on the AND-tree completes at the tree's apex instead
(R98, R105). -/
def tryComplete (s : State) (c b g lvl n : Nat) : State :=
  match s.block c b with
  | some k =>
    if lvl = 3 && onTree s k.tenant then s
    else if barFull s k g lvl n (getBar s k g lvl n) then completeBar s c b k g lvl n else s
  | none => s

/-- The grid barriers of a launch that its completed blocks complete (R98); on the AND-tree its apex does (R105). -/
def recheckGrid (s : State) (t l : Nat) : State :=
  if onTree s t then s
  else (List.range 4).foldl (fun s n => match s.launch t l with
    | some y =>
      match kget y.gridBars n with
      | some bar =>
        let excused := (y.completed.filter fun i => !bar.arrived.contains i).length
        if !bar.arrived.isEmpty && decide (bar.exp ≤ bar.arrived.length + excused) then completeGrid s t l n else s
      | none => s
    | none => s) s

/-- A member arrives. -/
def memberArrive (s : State) (c b g lvl n member : Nat) : State :=
  match s.block c b with
  | some k =>
    let bar := getBar s k g lvl n
    tryComplete (setBar s c b k g lvl n { bar with arrived := addMember bar.arrived member }) c b g lvl n
  | none => s

/-- A group's non-exited lanes have all arrived at a barrier (R98). -/
def groupArrived (k : Block) (lvl n g : Nat) : Bool :=
  match kget k.groups g with
  | some x =>
    let m := zget k.arr (arrKey lvl n g)
    x.live k.kern.width != 0 && (x.live k.kern.width &&& ~~~m) == 0
  | none => false

/-- The results of a block's groups whose words are yet to be pushed to a mesh-out channel (R140), by group and number. -/
def pendingPushes (k : Core) (x : Block) : List (Nat × Nat) :=
  (x.groups.map fun (g, y) => y.pend.filterMap fun (i, p) => match p.wb with
    | .push ch _ => if (kget k.chans ch).any fun e => bits e.word 62 2 == 2 then some (g, i) else none
    | _ => none).flatten
/-- The words that a block has pushed and that are not delivered: in flight, or lost (R110, R111). -/
def sentWords (k : Core) (b : Nat) : List Nat :=
  (k.flight.filter fun w => w.block == some b).map (·.id) ++ ((kget k.blocks b).map fun x => x.lost).getD []
/-- What a block has not yet delivered (R110), for which a superstep arrival waits. -/
def undelivered (s : State) (c b lvl n member : Nat) : Held :=
  let k := s.core c
  { lvl := lvl, n := n, member := member
    ops := (k.ops.filter fun o => o.block == b && o.eng == 0).map (·.id)
    words := sentWords k b
    pends := ((kget k.blocks b).map (pendingPushes k)).getD [] }
/-- Everything that a held arrival waits for has been delivered. -/
def Held.due (h : Held) : Bool := h.ops.isEmpty && h.words.isEmpty && h.pends.isEmpty

/-- The arrivals of a barrier that follow from its groups' accumulated arrivals: groups at a block barrier, the block at a
cluster or grid barrier; a superstep's arrival is held until what the block issued is delivered (R98, R110). -/
def deriveArrivals (s : State) (c b lvl n : Nat) : State :=
  match s.block c b with
  | none => s
  | some k =>
    let sst (g : Nat) : Bool := zget k.arr (arrKey lvl n g + 2 ^ 20) != 0
    let arrive (s : State) (member : Nat) (step : Bool) : State :=
      match s.block c b with
      | some k =>
        let bar := getBar s k 0 lvl n
        if bar.arrived.contains member || k.held.any fun h => h.lvl == lvl && h.n == n && h.member == member then s
        else
          let h := undelivered s c b lvl n member
          if step && !h.due then s.updBlock c b fun k => { k with held := k.held ++ [h] }
          else memberArrive s c b 0 lvl n member
      | none => s
    let gs := k.groups.map (·.1)
    if lvl = 1 then gs.foldl (fun s g =>
      if (match s.block c b with | some k => groupArrived k lvl n g | none => false) then arrive s g (sst g) else s) s
    else
      let alive := gs.filter fun g => match kget k.groups g with | some x => !x.ended | none => false
      if !alive.isEmpty && alive.all (groupArrived k lvl n) then
        arrive s (if lvl = 2 then k.rank else k.index) (alive.any sst)
      else s

/-- The operations that a core's held arrivals wait for and that have left it are struck out, in kept blocks too; words are when
they land. -/
def Core.trimHeld (k : Core) : Core :=
  k.mapBlocks fun _ x => if x.held.isEmpty then x else
    { x with held := x.held.map fun h => { h with ops := h.ops.filter fun i => k.ops.any fun o => o.id == i } }
/-- Held superstep arrivals whose deliveries are all done become arrivals (R110). -/
def settleHeld (s : State) (c b : Nat) : State :=
  let s := s.updCore c Core.trimHeld
  match s.block c b with
  | none => s
  | some k =>
    (k.held.filter Held.due).foldl (fun s h =>
      let s := s.updBlock c b fun k => { k with held := k.held.filter fun x => x != h }
      memberArrive s c b 0 h.lvl h.n h.member) s
/-- A result's words have been pushed (R110, R140): the arrivals held for the result are held for the words. -/
def heldPushed (s : State) (c b g i : Nat) (words : List Nat) : State :=
  let swap (h : Held) : Held := if h.pends.contains (g, i) then
    { h with pends := h.pends.filter fun p => p != (g, i), words := h.words ++ words } else h
  settleHeld (s.updBlock c b fun k => { k with held := k.held.map swap }) c b

/-- After lanes exit, groups end or a block completes, excusals may complete a generation (R98). -/
def recheckBlock (s : State) (c b : Nat) : State :=
  match s.block c b with
  | none => s
  | some k =>
    let s := (k.groups.map (·.1)).foldl (fun s g =>
      (List.range 4).foldl (fun s n => tryComplete s c b g 0 n) s) s
    let lv (lvl cnt : Nat) (s : State) : State :=
      (List.range cnt).foldl (fun s n => tryComplete (deriveArrivals s c b lvl n) c b 0 lvl n) s
    lv 3 4 (lv 2 8 (lv 1 16 s))

/-- Lanes of a group arrive at a barrier (R98): the generation they arrive in, or nothing where one of them, or the block before it was
discarded (R287), has arrived in it already, so that the arriving instruction parks (R100). -/
def arriveLanes (s : State) (c b g lvl n : Nat) (lanes : Lanes) (step : Bool) : Option (State × BitVec 16) :=
  match s.block c b with
  | none => none
  | some k =>
    let bar := getBar s k g lvl n
    if lvl = 0 then
      let ls := laneList k.kern.width lanes
      if ls.any fun l => bar.arrived.contains l then none
      else
        let s := setBar s c b k g lvl n { bar with arrived := bar.arrived ++ ls }
        some (tryComplete s c b g lvl n, bar.gen)
    else
      let key := arrKey lvl n g
      let m := zget k.arr key
      if (m &&& lanes) != 0 || bar.arrived.contains (match lvl with | 1 => g | 2 => k.rank | _ => k.index) then none
      else
        let s := s.updBlock c b fun k =>
          let a := zset k.arr key (m ||| lanes)
          { k with arr := if step then zset a (key + 2 ^ 20) 1 else a }
        some (deriveArrivals s c b lvl n, bar.gen)

end Sys2Proof.Machine
end

