-- ==== Sys2Proof/Machine/Tree.lean ====
section
/-! DEFINITION. The AND-tree of grid barriers (R105-R108, R358, R359): its nodes, participation bits and slots. A leaf is
named by its core; bay, domain and region nodes and the root by the numbers below. -/
namespace Sys2Proof.Machine
open Sys2Proof

def bayNode (c : Nat) : Nat := 0x10000 + c / 16
def domNode (d : Nat) : Nat := 0x20000 + d
def regNode (r : Nat) : Nat := 0x30000 + r
def rootNode : Nat := 0x40000

/-- The path of nodes from a core's bay node to the root. -/
def treePath (s : State) (c : Nat) : List Nat :=
  let d := coreDomain c
  [bayNode c, domNode d, regNode (s.prg d), rootNode]
/-- The parent of a node or leaf, and its child number there (R358). -/
def treeParent (s : State) (node : Nat) : Option (Nat × Nat) :=
  if node < 0x10000 then
    let phys := ((kget s.mod.bays (node / 16)).getD []).getD (node % 16) (node % 16)
    some (bayNode node, phys)
  else if node < 0x20000 then some (domNode ((node - 0x10000) / 16), (node - 0x10000) % 16)
  else if node < 0x30000 then
    let d := node - 0x20000
    some (regNode (s.prg d), 2 * (s.py d % 2) + s.px d % 2)
  else if node < 0x40000 then some (rootNode, node - 0x30000)
  else none

/-- The apex of a tenant's launches (R105): the region node of a placement within one region, else the root. -/
def treeApex (s : State) (t : Nat) : Nat :=
  match (s.ten t).domains with
  | d :: r => if r.all fun e => s.prg e == s.prg d then regNode (s.prg d) else rootNode
  | [] => rootNode
/-- Every node between the leaves of a placement and its apex (R107). -/
def treeNodes (s : State) (t : Nat) : List Nat :=
  let apex := treeApex s t
  (s.ten t).placement.foldl (fun l c =>
    ((treePath s c).filter fun x => decide (x ≤ apex)).foldl (fun l x => if l.contains x then l else l ++ [x]) l) []
/-- Every node of a launch has one of its 64 slots for it (R107). -/
def treeRoom (s : State) (t l : Nat) : Bool :=
  s.tree.any (fun x => x.tenant == t && x.launch == l) ||
    (treeNodes s t).all fun n => decide ((s.tree.filter fun x => x.node == n).length < 64)
def takeSlots (s : State) (t l : Nat) : State :=
  if s.tree.any fun x => x.tenant == t && x.launch == l then s
  else { s with tree := s.tree ++ (treeNodes s t).map fun n => ⟨n, t, l, 0, []⟩ }

/-- A generation that an old arrival of a killed block counts in is still to be completed (R109, R359). -/
def Waiting.stands (u : Waiting) (y : Launch) : Bool :=
  u.after.any fun (n, g) => ((kget y.gridBars n).map fun b => b.gen).getD 0 == g
/-- A kept block whose core was retired has arrived at a grid barrier of its launch (R109, R398). -/
def Block.stands (k : Block) (y : Launch) : Bool := k.orphan && y.gridBars.any fun (_, b) => b.arrived.contains k.index
/-- A core that was retired keeps its arrival for the generations that blocks killed there have arrived in (R109). -/
def coreStands (s : State) (t l c : Nat) : Bool :=
  match s.launch t l with
  | none => false
  | some y => ((s.ten t).again.any fun u => u.launch == l && u.avoid == some c && u.stands y) ||
      (s.core c).kept.any fun (_, x) => x.tenant == t && x.launch == l && x.stands y

/-- The cores that hold a block of a launch, kept blocks included (R358). The bit of a retired core stays until the generations that its
arrival counts in are complete (R109, R359). -/
def launchCores (s : State) (t l : Nat) : List Nat :=
  s.cores.filterMap fun (c, k) =>
    if ((k.blocks ++ k.kept).any fun (_, x) => x.tenant == t && x.launch == l && !x.orphan && !x.draining) || coreStands s t l c then some c
    else none
/-- A set of children as bits. -/
def childBit (n : Nat) : BitVec 16 := BitVec.ofNat 16 (2 ^ n)
/-- The participation bits of a node (R106, R358): the children under which a core holds a block of the launch. -/
def treePart (s : State) (cores : List Nat) (node : Nat) : BitVec 16 :=
  cores.foldl (fun m c => (c :: treePath s c).foldl (fun m x => match treeParent s x with
    | some (p, i) => if p = node then m ||| childBit i else m
    | none => m) m) 0
/-- Reports of some children alone. -/
def maskReports (r : ZMap 16) (m : BitVec 16) : ZMap 16 := (r.map fun (n, v) => (n, v &&& m)).filter fun (_, v) => v != 0
/-- Participation follows where the launch's blocks are (R106, R109, R359). -/
def treeSync (s : State) (t l : Nat) : State :=
  let cores := launchCores s t l
  { s with tree := s.tree.map fun x =>
      if x.tenant = t ∧ x.launch = l then
        let p := treePart s cores x.node
        { x with part := p, reports := maskReports x.reports p }
      else x }
/-- A block placed on a core: what its leaf and the nodes above had reported is reported anew. -/
def treePlace (s : State) (t l c : Nat) : State :=
  let s := treeSync s t l
  let path := c :: treePath s c
  { s with tree := s.tree.map fun x =>
      if x.tenant = t ∧ x.launch = l then
        let m := path.foldl (fun (m : BitVec 16) y => match treeParent s y with
          | some (p, i) => if p = x.node then m ||| childBit i else m
          | none => m) 0
        { x with reports := maskReports x.reports (~~~m) }
      else x }

/-- A node's slot of a launch. -/
def treeSlot (s : State) (t l node : Nat) : Option TreeSlot :=
  s.tree.find? fun x => x.node == node && x.tenant == t && x.launch == l
/-- Every participating child of a node has reported for barrier `n` (R105). -/
def slotFull (x : TreeSlot) (n : Nat) : Bool := x.part != 0 && (zget x.reports n &&& x.part) == x.part

/-- A leaf has its launch's arrivals (R106): every block of it on the core has arrived; one that was retired keeps its arrival (R109). -/
def leafArrived (s : State) (t l n c : Nat) : Bool :=
  let mine := ((s.core c).blocks ++ (s.core c).kept).filter fun (_, x) => x.tenant == t && x.launch == l && !x.orphan && !x.draining
  (!mine.isEmpty && mine.all fun (_, k) => (getBar s k 0 3 n).arrived.contains k.index) ||
    (mine.isEmpty && match s.launch t l with
      | some y =>
        let bar := (kget y.gridBars n).getD (Bar.fresh y.grid)
        ((s.ten t).again.any fun u => u.launch == l && u.avoid == some c && u.after.contains (n, bar.gen)) ||
          (s.core c).kept.any fun (_, x) => x.tenant == t && x.launch == l && x.orphan && bar.arrived.contains x.index
      | none => false)

/-- AND_TREE_ARRIVAL: a node below the apex reports upward when its participating children have (R105). -/
def treeArrive (s : State) (t l n node : Nat) : State :=
  let ok := if node < 0x10000 then leafArrived s t l n node
    else match treeSlot s t l node with | some x => slotFull x n | none => false
  match treeParent s node with
  | some (p, i) =>
    if ok && decide (node < treeApex s t) then
      { s with tree := s.tree.map fun x => if x.node = p ∧ x.tenant = t ∧ x.launch = l then
          { x with reports := zset x.reports n (zget x.reports n ||| (childBit i &&& x.part)) } else x }
    else s
  | none => s

/-- The apex's count of dispatched blocks (R106, R359): placed, or arrived in this generation before a failure. -/
def apexCount (x : Launch) (n : Nat) : Nat :=
  let arrived := ((kget x.gridBars n).map fun b => b.arrived).getD []
  x.places.length + (arrived.filter fun i => (kget x.places i).isNone).length

/-- AND_TREE_RELEASE: the apex releases the generation when all blocks are dispatched and its participating children have
reported (R106); the launch's reports begin anew, and the bits of retired cores that had arrived in it clear (R109, R359). -/
def treeRelease (s : State) (t l n : Nat) : State :=
  match treeSlot s t l (treeApex s t), s.launch t l with
  | some x, some y =>
    if slotFull x n && apexCount y n = y.grid && (kget y.gridBars n).any fun b => !b.arrived.isEmpty then
      let s := treeSync (completeGrid s t l n) t l
      { s with tree := s.tree.map fun x => if x.tenant = t ∧ x.launch = l then { x with reports := kdel x.reports n } else x }
    else s
  | _, _ => s

end Sys2Proof.Machine
end

