-- ==== Sys2Proof/Machine/Levels.lean ====
section
/-! DEFINITION. The completion counters of a tenant (R30-R33), ending, completing and killing blocks (R27, R135), and the
failure of a launch (R385). -/
namespace Sys2Proof.Machine
open Sys2Proof

/-- The queue of a QPRIO value. -/
def Tenant.queue (t : Tenant) (q : Nat) : List Record := (kget t.queues q).getD []
/-- A record's launch counter, or its graph, phase or job, is CANCELLED. -/
def cancelledKeys (t : Tenant) (w : List W64) : List (Nat × Nat) :=
  ([(0, recLaunch w), (1, recGraph w), (2, recPhase w), (3, 0)] : List (Nat × Nat)).filter fun (l, i) =>
    (t.counter l i).st == lvCancelled

/-- A counter set FREE: its value, discards and marks go (R31, R221). The job's also clears the error summary and the
exception counters (R164, R380). -/
def freeCounter (t : Tenant) (lvl id : Nat) : Tenant :=
  let t := { t with levels := kdel t.levels (lvlKey lvl id) }
  if lvl = 3 then { t with esum := 0, exc := [] } else t

/-- Whether a counter of a lower level is enclosed in a given one (R33): directly, or through its parents. -/
def enclosedIn (t : Tenant) (lvl id : Nat) (l i : Nat) : Bool :=
  let p := (t.counter l i).parent
  if lvl ≤ l then false
  else if l + 1 = lvl then (lvl = 3 || p == id)
  else
    let q := (t.counter (l + 1) p).parent
    if l + 2 = lvl then (lvl = 3 || q == id) else true

/-- The counters a tenant lists, as level and identifier. -/
def Tenant.counters (t : Tenant) : List (Nat × Nat) := t.levels.map fun (k, _) => (k / 4096, k % 4096)

/-- CANCELLED counters enclosed in a counter that has become DONE or FREE are released to FREE (R31). -/
def releaseCancelled (t : Tenant) (lvl id : Nat) : Tenant :=
  (t.counters.filter fun (l, i) => enclosedIn t lvl id l i && (t.counter l i).st == lvCancelled).foldl
    (fun t (l, i) => freeCounter t l i) t

/-- The launch counter's AND-tree slots are freed when it leaves OPEN (R107). -/
def freeSlots (s : State) (t l : Nat) : State := { s with tree := s.tree.filter fun x => !(x.tenant == t && x.launch == l) }

/-- Held records of the dispatching phase move into their queues while these have room (R32, R39). -/
def refill (s : State) (t : Nat) : State :=
  s.updTen t fun n =>
    let (qs, hold) := n.hold.foldl (fun (qs, hold) r =>
      let q := (kget qs (recQprio r.w)).getD []
      if recPhase r.w = n.phase && q.length < 1024 then (kset qs (recQprio r.w) (q ++ [{ r with since := s.now }]), hold)
      else (qs, hold ++ [r])) (n.queues, [])
    { n with queues := qs, hold := hold }

/-- The next phase opens when the dispatching one ends (R32). A phase that is already DONE or CANCELLED when its turn comes is the
dispatching phase nevertheless, until it is reopened and ends in its turn (DESIGN CHOICE, log 176). -/
def openNext (s : State) (t p : Nat) : State :=
  if (s.ten t).phase = p then refill (s.updTen t fun n => { n with phase := (p + 1) % 16 }) t else s

/-- A counter falls by one; closed and at zero it is DONE, which releases its CANCELLED children and lowers its parent
(R31). The number is the levels left above. -/
def lowerCounter (s : State) (t lvl id : Nat) : Nat → State
  | 0 => s
  | n + 1 =>
    let c := (s.ten t).counter lvl id
    if c.st != lvOpen then s
    else
      let v := c.value - 1
      if c.closed && v = 0 then
        let s := s.updTen t fun x => releaseCancelled (x.setCounter lvl id { c with st := lvDone, value := 0 }) lvl id
        let s := if lvl = 0 then freeSlots s t id else s
        let s := if lvl = 2 then openNext s t id else s
        if lvl < 3 then lowerCounter s t (lvl + 1) (if lvl = 2 then 0 else c.parent) n else s
      else s.updTen t fun x => x.setCounter lvl id { c with value := v }

/-- A record is discarded: each CANCELLED counter it names counts it (R33, R221). -/
def countDiscard (n : Tenant) (w : List W64) : Tenant :=
  (cancelledKeys n w).foldl (fun n (lvl, id) =>
    n.setCounter lvl id { n.counter lvl id with discards := min 8191 ((n.counter lvl id).discards + 1) }) n
/-- The discards of a level's cancelled records: gone from every queue and the phase hold (R33), and counted there (DEDUCED, log 177). -/
def dropRecords (s : State) (t : Nat) : State :=
  refill (s.updTen t fun n =>
    let keep (r : Record) : Bool := (cancelledKeys n r.w).isEmpty
    let gone := ((n.queues.map (·.2)).flatten ++ n.hold).filter fun r => !keep r
    let n := gone.foldl (fun n r => countDiscard n r.w) n
    { n with queues := n.queues.map fun (q, rs) => (q, rs.filter keep), hold := n.hold.filter keep }) t

/-- An entry joins a frontier (R15): at a PC that an entry already holds the two merge, with the union of the masks and the
higher priority; an entry without lanes is none. Merging with a waiting entry joins its wait (DEDUCED, log 12); the merged
entry is demoted only if both were, and promoted if either was (DESIGN CHOICE, log 143). -/
def addEntry (es : List Entry) (e : Entry) : List Entry :=
  if e.mask == 0 then es
  else match es with
  | [] => [e]
  | x :: r =>
    if x.pc = e.pc then
      { x with mask := x.mask ||| e.mask, prio := if x.prio.toNat < e.prio.toNat then e.prio else x.prio
               count := max x.count e.count, promoted := x.promoted || e.promoted, demoted := x.demoted && e.demoted
               wait := match x.wait with | some w => some w | none => e.wait } :: r
    else x :: addEntry r e

/-- RECONV's condition (R21): every lane of K that has not exited is in the entry. -/
def reconvMet (g : Group) (w : Nat) (e : Entry) : Option Pc :=
  match e.wait with
  | some (.reconv k next) => if k &&& g.live w &&& ~~~e.mask == 0 then some next else none
  | _ => none

/-- Entries whose RECONV is met proceed, one after another (R21). -/
def settleReconv (w : Nat) : Nat → Group → Group
  | 0, g => g
  | n + 1, g =>
    match g.frontier.find? fun e => (reconvMet g w e).isSome with
    | some e =>
      match reconvMet g w e with
      | some next =>
        let rest := g.frontier.filter fun x => x.pc != e.pc
        settleReconv w n { g with frontier := addEntry rest { e with pc := next, wait := none } }
      | none => g
    | none => g

/-- A uniform register written by a class F or W instruction. -/
def Group.putS (g : Group) (tick r : Nat) (v : W64) : Group :=
  match g.pend.findSome? fun (_, p) => match p.wb with | .uni i w => if i = r then some w else none | _ => none with
  | some w =>
    { g with s := zset g.s r (if Config.takesNew tick (256 + r) 0 then v else w)
             pend := kmap g.pend fun _ p => match p.wb with
               | .uni i _ => if i = r then { p with wb := .nothing } else p
               | _ => p }
  | none => { g with s := zset g.s r v }
/-- A wait's status goes into its uniform register, or to its channel as a result on its way into the space held for it (R140). -/
def Group.putStatus (g : Group) (tick : Nat) (ch : Bool) (d : Nat) (v : W64) : Group :=
  if ch then
    let id := g.pend.foldl (fun m (k, _) => max m (k + 1)) 0
    { g with pend := kset g.pend id ⟨.push d [v.extractLsb' 0 32, v.extractLsb' 32 32], 0⟩ }
  else g.putS tick d v
/-- A waiting entry proceeds with a status (R101, R129). RECONVs that its arrival meets proceed (R21). -/
def Group.proceed (g : Group) (w tick : Nat) (e : Entry) (ch : Bool) (d : Nat) (v : W64) (next : Pc) : Group :=
  let g := g.putStatus tick ch d v
  let fr := addEntry (g.frontier.filter fun x => x.pc != e.pc) { e with pc := next, wait := none }
  settleReconv w fr.length { g with frontier := fr }
/-- The status with which a wait ends, its destination and the PC that follows: what releases an entry. -/
abbrev Release := W64 × Bool × Nat × Pc
/-- Every waiting entry that has a release proceeds, one after another: one that joins another's wait at its next PC proceeds with it
(R15). -/
def Group.releaseAll (w tick : Nat) (f : Entry → Option Release) : Nat → Group → Group
  | 0, g => g
  | n + 1, g =>
    match g.frontier.findSome? fun e => (f e).map fun r => (e, r) with
    | some (e, v, ch, d, next) => Group.releaseAll w tick f n (g.proceed w tick e ch d v next)
    | none => g
/-- The same of the entries that a handler has set aside (R224), which stay set aside past their wait. -/
def Group.releaseSaved (tick : Nat) (f : Entry → Option Release) (g : Group) : Group :=
  match g.handler with
  | none => g
  | some hd =>
    let g := hd.saved.foldl (fun g e => match f e with | some (v, ch, d, _) => g.putStatus tick ch d v | none => g) g
    let after := hd.saved.foldl (fun es e => addEntry es (match f e with
      | some (_, _, _, next) => { e with pc := next, wait := none }
      | none => e)) []
    { g with handler := some { hd with saved := after } }

/-- The release's half of the edge of R95: at cluster scope and below the L1, at wafer scope the tenant's guest lines too. -/
def barAcquire (s : State) (c t lvl : Nat) : State :=
  if lvl = 0 then s else if lvl = 3 then acquireAll s c t else s.updCore c fun k => { k with l1 := [] }

/-- Waiters of a completed generation are released (R95, R101, R307): a group's entries with status 0, and the tile stream. -/
def releaseBarrier (s : State) (c b lvl n : Nat) : State :=
  match s.block c b with
  | none => s
  | some k =>
    let met (g : Nat) (e : Entry) : Bool := match e.wait with
      | some (.bar l m gen _ _ _ _) => l == lvl && m == n && barDone (getBar s k g lvl n).gen gen
      | _ => false
    let any := k.groups.any fun (g, x) => x.frontier.any (met g)
    let s := if any then barAcquire s c k.tenant lvl else s
    let release (g : Nat) (e : Entry) : Option Release := match e.wait with
      | some (.bar _ _ _ ch d next _) => if met g e then some (0, ch, d, next) else none
      | _ => none
    let s := k.groups.foldl (fun s (g, _) => s.updGroup c b g fun x =>
      x.releaseAll k.kern.width s.tick (release g) x.frontier.length) s
    s.updTile c b fun t => match t.bar with
      | some (m, gen) => if lvl = 1 && m == n && barDone (getBar s k 0 1 n).gen gen then { t with bar := none } else t
      | none => t
/-- The waiters of a block whose generations completed before a cancel are released as those completions release them (R103). -/
def releaseDone (s : State) (c b : Nat) : State :=
  match s.block c b with
  | some k =>
    let waits := (k.groups.map fun (_, x) => x.frontier.filterMap fun e => match e.wait with
      | some (.bar lvl n _ _ _ _ _) => some (lvl, n)
      | _ => none).flatten
    let s := waits.eraseDups.foldl (fun s (lvl, n) => releaseBarrier s c b lvl n) s
    match k.tile.bind fun t => t.bar with
    | some (n, _) => releaseBarrier s c b 1 n
    | none => s
  | none => s

/-- The entries of a cancelled block's groups that wait at a barrier or monitor, set-aside ones too, are released with the cancelled
status: 1 at a barrier, all ones at a monitor (R103, R129, R283). -/
def releaseWaits (w tick : Nat) (g : Group) : Group :=
  let f (e : Entry) : Option Release := match e.wait with
    | some (.bar _ _ _ ch d next _) => some (1, ch, d, next)
    | some (.mon _ _ _ _ ch d next) => some (BitVec.ofNat 64 (2 ^ 64 - 1), ch, d, next)
    | _ => none
  (g.releaseAll w tick f g.frontier.length).releaseSaved tick f

/-- A tile stream that has ended (R310): nothing of it is pending. -/
def Tile.over (t : Tile) : Tile := { t with ended := true, window := [], park := none, bar := none, ill := false }

/-- A cancelled launch's running blocks are marked: each group ends at its next switch point, the tile stream at its next flush point, and
waiters are released, those of a generation that is complete by its completion (R33, R103). Kept blocks are dropped and count as complete
(R398). -/
def cancelBlocks (s : State) (t l : Nat) : State :=
  let s := (s.launchBlocks t l).foldl (fun s (c, b) =>
    (releaseDone s c b).updBlock c b fun x =>
      { x with draining := true
               groups := kmap x.groups fun _ g => releaseWaits x.kern.width s.tick g
               tile := x.tile.map fun t => if t.bar.isSome || t.park.isSome then t.over else t }) s
  let s := { s with cores := kmap s.cores fun _ (k : Core) =>
    let gone := k.kept.filter fun (q : Nat × Block) => q.2.tenant == t && q.2.launch == l
    { k with kept := k.kept.filter fun (q : Nat × Block) => !(q.2.tenant == t && q.2.launch == l)
             keptChans := if gone.isEmpty then k.keptChans else k.keptChans.filter fun (_, h) =>
               !(gone.any fun (b, _) => h.owner == some b) } }
  let w := fun (x : Waiting) => !(x.tenant == t && x.launch == l)
  let s := { s with domains := kmap s.domains fun _ (d : Domain) => { d with queue := d.queue.filter w } }
  let s := s.updTen t fun n => { n with again := n.again.filter w }
  freeSlots (s.updLaunch t l fun x => { x with held := none, patience := [] }) t l

/-- Cancellation of a counter (R33): the counter and every counter enclosed in it move to CANCELLED, their records are
discarded and their blocks ended. Only the named counter lowers its parent. "Already complete" is reported on the counter that the CANCEL
names, not on DONE counters enclosed in it (DESIGN CHOICE, log 178). -/
def cancelLevel (s : State) (t lvl id : Nat) : State :=
  let n := s.ten t
  let c := n.counter lvl id
  if c.st == lvDone then s.updTen t fun n => n.setCounter lvl id { c with alrDone := true }
  else if c.st != lvOpen then s
  else
    let inner := n.counters.filter fun (l, i) => enclosedIn n lvl id l i && (n.counter l i).st == lvOpen
    let s := ((lvl, id) :: inner).foldl (fun s (l, i) =>
      s.updTen t fun n => n.setCounter l i { n.counter l i with st := lvCancelled }) s
    let s := ((lvl, id) :: inner).foldl (fun s (l, i) => if l = 0 then cancelBlocks s t i else s) s
    let s := dropRecords s t
    let s := if lvl = 2 then openNext s t id else s
    let phases := inner.filterMap fun (l, i) => if l = 2 then some i else none
    let s := phases.foldl (fun s i => openNext s t i) s
    if lvl < 3 then lowerCounter s t (lvl + 1) (if lvl = 2 then 0 else c.parent) (3 - lvl) else s

/-- A channel entry that is free (R138). -/
def Chan.fresh : Chan := ⟨0, none, 0, 0, 0, 0, 0, 0, none, false, false⟩

/-- What a block's departure frees on its core: channel entries (words it sent fly on), chain slots, record assemblies and the
slots it waited for (R126, R138, R143). Engine operations go only when the block is killed. -/
def freeBlockState (k : Core) (b : Nat) (killed : Bool) : Core :=
  let mine := k.chans.filter fun (_, h) => h.owner == some b
  { k with
    blocks := kdel k.blocks b
    chans := k.chans.filter fun (_, h) => h.owner != some b
    asm := k.asm.filter fun (ch, _) => !(mine.any fun (i, _) => i == ch)
    flight := k.flight.map fun w => if w.block == some b then { w with block := none } else w
    strong := k.strong.map fun w => if w.block == some b then { w with block := none } else w
    chains := kmap k.chains fun _ c => if c.owner == b then { c with state := 0, fault := none } else c
    ops := if killed then k.ops.filter fun o => o.block != b else k.ops
    locks := if killed then k.locks.filter fun l => l.block != b else k.locks }

/-- A core that has lost its last block of a launch serves no launch until the next is placed on it (R26). -/
def settleCore (k : Core) : Core :=
  if k.blocks.isEmpty && k.kept.isEmpty then { k with launch := none, consts := [] } else k

/-- Credits a mesh-out entry holds and has not used return to the mesh-in it names when the entry is freed (R138). -/
def returnCredits (s : State) (c b : Nat) : State :=
  ((s.core c).chans.filter fun (_, h) => h.owner == some b && bits h.word 62 2 == 2).foldl (fun s (ch, h) =>
    let p := bits h.word 48 14
    let pc := bits h.word 42 6
    s.updChan p pc fun m =>
      if bits m.word 62 2 == 1 && bits m.word 48 14 == c && bits m.word 42 6 == ch then { m with kept := m.kept + h.credits } else m) s

/-- A tenant with no block resident while it is being pre-empted becomes PREEMPTED, and PF vector 0 is sent (R397). -/
def settlePreempt (s : State) (t : Nat) : State :=
  if (s.ten t).pstat == 1 && !(s.cores.any fun (_, k) => k.blocks.any fun (_, x) => x.tenant == t) then
    (s.updTen t fun n => { n with pstat := 2 }).msix 0 0
  else s

/-- A block has left its core: its launch counts it, and barriers above the block excuse it (R31, R98). A block that drained counts
nowhere: its launch was cancelled, and the identifier may name another by now. -/
def blockGone (s : State) (k : Block) (c : Nat) : State :=
  let t := k.tenant
  let l := k.launch
  let s := s.updCore c settleCore
  if k.draining then settlePreempt s t
  else
    let s := s.updLaunch t l fun x => { x with completed := addMember x.completed k.index }
    let s := treeSync (lowerCounter s t 0 l 4) t l
    settlePreempt (recheckGrid ((s.launchBlocks t l).foldl (fun s (x, y) => recheckBlock s x y) s) t l) t

/-- A block is killed (R27, R135): complete at that moment, its operations stopped without postmark. -/
def killBlock (s : State) (c b : Nat) : State :=
  match s.block c b with
  | none => s
  | some k =>
    let s := returnCredits s c b
    let s := s.updCore c fun x => freeBlockState x b true
    let s := { s with domains := kmap s.domains fun _ (d : Domain) =>
      { d with sbReqs := d.sbReqs.filter fun r => !(r.core == c && r.block == b) } }
    blockGone s k c

/-- A launch fails with a code (R385): one LAUNCHFAIL record, LFAIL, and the cancellation of R33. -/
def failLaunch (s : State) (t l code c idx : Nat) (more : List W64) : State :=
  match s.launch t l with
  | none => s
  | some x =>
    if x.failed then s
    else
      let s := s.updLaunch t l fun x => { x with failed := true }
      let s := postFault s t 2 c l ([BitVec.ofNat 64 code, BitVec.ofNat 64 idx] ++ more)
      cancelLevel (s.setEsum t esLfail) t 0 l

/-- A block is killed and its launch fails with a code; the words are 4 to 7 of the record (R385, R408). -/
def killAndFail (s : State) (c b code : Nat) (more : List W64) : State :=
  match s.block c b with
  | none => s
  | some k =>
    let s := failLaunch s k.tenant k.launch code c k.index more
    killBlock s c b

/-- MEMPOISON (R70): the reading block is killed and its launch fails; the record gives the line's address. -/
def poisonKill (s : State) (c b line : Nat) : State :=
  killAndFail s c b 0x42 [0, BitVec.ofNat 64 (lineBase line), 0, 0]

/-- Everything a complete block needs (R27): groups ended, tile stream ended, operations postmarked, pushes
made. A chain slot in RUN still has records to consume (DEDUCED from R126, log 19), but of a cancelled block, whose slots accept no more
(R135). -/
def blockDone (s : State) (c b : Nat) : Bool :=
  match s.block c b with
  | none => false
  | some k =>
    k.started && k.groups.all (fun (_, g) => g.ended && g.pend.all fun (_, w) => match w.wb with | .push _ _ => false | _ => true) &&
    (match k.tile with | some t => t.ended | none => true) &&
    ((s.core c).ops.all fun o => o.block != b) && (k.draining || (s.core c).chains.all fun (_, x) => x.owner != b || x.state != 1)

/-- A complete block leaves (R27); its stores have reached the L2, which the release of R38 needs. -/
def completeBlock (s : State) (c b : Nat) : State :=
  match s.block c b with
  | none => s
  | some k =>
    if blockDone s c b then
      let s := returnCredits (drainCore s c) c b
      let s := s.updCore c fun x => freeBlockState x b false
      blockGone s k c
    else s

end Sys2Proof.Machine
end

