-- ==== Sys2Proof/Machine/Flags.lean ====
section
/-! DEFINITION. The sticky flags, the exception counters and the group status bit (R81, R162-R164, R223). -/
namespace Sys2Proof.Machine
open Sys2Proof

/-- One exception counter raised by one, staying at its top (R164). -/
def bumpCounter (m : ZMap 48) (f : Nat) : ZMap 48 :=
  if zget m f = BitVec.allOnes 48 then m else zset m f (zget m f + 1)

/-- One issue raises flags (R164): each flag's counter of the job rises by one. -/
def countFlags (s : State) (t : Nat) (f : Flags) : State :=
  if f == 0 then s
  else s.updTen t fun n => { n with exc := (List.range 5).foldl (fun m i => if f.getLsbD i then bumpCounter m i else m) n.exc }

/-- Raise(f) for a group (R162): ORed into its %fflags, and counted. -/
def raiseFlags (s : State) (c b g t : Nat) (f : Flags) : State :=
  if f == 0 then s else countFlags (s.updGroup c b g fun k => { k with fflags := k.fflags ||| f }) t f

/-- The home reports SCOPEMISS to a group and to the job's error summary (R81). -/
def raiseScopeMiss (s : State) (c b g t : Nat) : State :=
  (s.updGroup c b g fun k => { k with scopeMiss := true }).setEsum t esScopeMiss

end Sys2Proof.Machine
end

