-- ==== Sys2Proof/Machine/Operands.lean ====
section
/-! DEFINITION. Operands: registers with their outstanding writes (R50, R183, R322), literals (R186), channels (R139,
R140), guards (R179, R180), addresses (R184) and destinations. -/
namespace Sys2Proof.Machine
open Sys2Proof

/-- A group whose turn it is, and the entry it issues for. -/
structure Here where
  c : Nat
  b : Nat
  g : Nat
  blk : Block
  grp : Group
  ent : Entry
  tick : Nat
  deriving DecidableEq, Repr

def Here.width (h : Here) : Nat := h.blk.kern.width
def Here.ten (h : Here) : Nat := h.blk.tenant
def Here.dom (h : Here) : Nat := coreDomain h.c

/-- A vector register of a lane is stored at 64·r + l. -/
def vKey (r l : Nat) : Nat := r * 64 + l

/-- The value an outstanding write brings to a register of a lane (R319, R322). -/
def WriteBack.vecAt (w : WriteBack) (r l : Nat) : Option W32 :=
  match w with
  | .vec r0 pair vals =>
    if r = r0 then (vals.find? fun (k, _) => k == l).map fun (_, v) => v.extractLsb' 0 32
    else if pair && r = r0 + 1 then (vals.find? fun (k, _) => k == l).map fun (_, v) => v.extractLsb' 32 32
    else none
  | _ => none
/-- The same for a special-function result (R258). -/
def Token.vecAt (k : Token) (r l : Nat) : Option W32 :=
  if r = k.r then (k.vals.find? fun (i, _) => i == l).map (·.2) else none

/-- The values that class V and T writes still hold back for a register of a lane. -/
def Group.coming (g : Group) (r l : Nat) : List W32 :=
  (g.pend.filterMap fun (_, p) => p.wb.vecAt r l) ++ (g.tokens.filterMap fun (_, k) => k.vecAt r l)
/-- The values among which a further write to a register of a lane decides (R322, R258): of several outstanding special-function results
the latest of their queue stands. -/
def Group.rivals (g : Group) (r l : Nat) : List W32 :=
  (g.pend.filterMap fun (_, p) => p.wb.vecAt r l) ++
    (g.tokens.filterMap fun (_, k) => if g.tokens.any fun (_, j) => (j.vecAt r l).isSome && decide (k.order < j.order) then none else k.vecAt r l)
/-- One of a value and those that may stand in its place, chosen free (R322, R258). -/
def pickNew (tick r l : Nat) (v : W32) (vs : List W32) : W32 :=
  ((List.range vs.length).zip vs).foldl (fun o (i, n) => if Config.takesNew tick r (64 * i + l) then n else o) v

/-- A vector register of a lane as an instruction reads it: with a write outstanding, the old or the new value (R322). -/
def Group.rv (g : Group) (tick r l : Nat) : W32 := pickNew tick r l (zget g.v (vKey r l)) (g.coming r l)
/-- Pair(n): low half in v(n) (R50). -/
def Group.rv2 (g : Group) (tick r l : Nat) : W64 := (g.rv tick (r + 1) l) ++ (g.rv tick r l)
/-- A uniform register; with a class V write outstanding, the old or the new value (R322). -/
def Group.rs (g : Group) (tick r : Nat) : W64 :=
  match g.pend.findSome? fun (_, p) => match p.wb with | .uni i v => if i = r then some v else none | _ => none with
  | some v => if Config.takesNew tick (256 + r) 0 then v else zget g.s r
  | none => zget g.s r
/-- A uniform predicate: q7 is true (R50). -/
def Group.rq (g : Group) (tick i : Nat) : Bool :=
  if i = 7 then true
  else
    match g.pend.findSome? fun (_, p) => match p.wb with | .upred j v => if i = j then some v else none | _ => none with
    | some v => if Config.takesNew tick (512 + i) 0 then v else g.q.getLsbD i
    | none => g.q.getLsbD i
/-- A lane predicate: p7 is true (R50). -/
def Group.rp (g : Group) (i l : Nat) : Bool := if i = 7 then true else (zget g.p i).getLsbD l

/-- An outstanding class V write loses a register of a lane; class V pairs are held as two writes. -/
def WriteBack.loseVec (w : WriteBack) (r l : Nat) : WriteBack :=
  match w with
  | .vec r0 pair vals => if r = r0 then .vec r0 pair (vals.filter fun (k, _) => k != l) else w
  | _ => w

/-- A pair's outstanding write is split into its halves, so that each register stands for itself (R322). -/
def splitPair (vals : List (Nat × W64)) (r : Nat) : WriteBack × WriteBack :=
  (.vec r false (vals.map fun (l, v) => (l, v &&& 0xFFFFFFFF)), .vec (r + 1) false (vals.map fun (l, v) => (l, v >>> 32)))

/-- A second write to a register of a lane while a V or T write to it is outstanding: either value remains, for every
later read (R322, R258). The register takes the value that remains and the outstanding write loses the lane. -/
def Group.putV (g : Group) (tick r l : Nat) (v : W32) : Group :=
  match g.rivals r l with
  | [] => { g with v := zset g.v (vKey r l) v }
  | ws =>
    { g with v := zset g.v (vKey r l) (pickNew tick r l v ws)
             pend := kmap g.pend fun _ p => { p with wb := p.wb.loseVec r l }
             tokens := kmap g.tokens fun _ k => if k.r = r then { k with vals := k.vals.filter fun (i, _) => i != l } else k }
/-- A pair written, low half first. -/
def Group.putV2 (g : Group) (tick r l : Nat) (v : W64) : Group :=
  (g.putV tick r l (v.extractLsb' 0 32)).putV tick (r + 1) l (v.extractLsb' 32 32)
/-- A uniform predicate written; q7 discards (R50). -/
def setBit7 (q : BitVec 7) (i : Nat) (v : Bool) : BitVec 7 :=
  let m := BitVec.ofNat 7 (2 ^ i)
  if v then q ||| m else q &&& ~~~m
def Group.putQ (g : Group) (tick i : Nat) (v : Bool) : Group :=
  if i = 7 then g
  else
    match g.pend.findSome? fun (_, p) => match p.wb with | .upred j w => if i = j then some w else none | _ => none with
    | some w =>
      { g with q := setBit7 g.q i (if Config.takesNew tick (512 + i) 0 then v else w)
               pend := kmap g.pend fun _ p => match p.wb with
                 | .upred j _ => if i = j then { p with wb := .nothing } else p
                 | _ => p }
    | none => { g with q := setBit7 g.q i v }
/-- A lane predicate written; p7 discards (R50). -/
def Group.putP (g : Group) (i l : Nat) (v : Bool) : Group :=
  if i = 7 then g
  else { g with p := zset g.p i (if v then zget g.p i ||| laneBit l else zget g.p i &&& ~~~laneBit l) }

/-- The guard of one lane or of the group (R179). -/
def guardOf (x : Ext) (rd : Nat → Bool) : Bool :=
  let g0 := rd x.g0.toNat != x.g0n
  let g1 := rd x.g1.toNat != x.g1n
  if x.gc then g0 || g1 else g0 && g1
/-- Squashed() (R180). -/
def squashed (x : Ext) : Bool :=
  let n0 := x.g0 == 7 && x.g0n
  let n1 := x.g1 == 7 && x.g1n
  if x.gc then n0 && n1 else n0 || n1

/-- ActiveLanes() of a p-guarded instruction (R180, R204). -/
def Here.active (h : Here) (x : Ext) : Lanes :=
  lanesOf ((laneList h.width h.ent.mask).filter fun l => guardOf x fun i => h.grp.rp i l)
/-- Guard of a q-guarded instruction. -/
def Here.guardQ (h : Here) (x : Ext) : Bool := guardOf x fun i => h.grp.rq h.tick i

/-- Whether an operand is a register pair (R194). -/
def pairOf (k : Opk) (x : Ext) : Bool :=
  match k with
  | .v2 => true
  | .vt => isTy64 x.ty
  | .vp0 => x.mod6.getLsbD 0
  | .vp2 => x.mod6.getLsbD 2
  | .rdsr => false
  | _ => false
/-- An operand in the vector file, this instruction's choice applied. -/
def isVec (k : Opk) (x : Ext) : Bool :=
  match k with
  | .v | .v2 | .vt | .vp0 | .vp2 => true
  | .rdsr => x.mod6.getLsbD 0
  | _ => false
/-- An operand in the uniform file. -/
def isUni (k : Opk) (x : Ext) : Bool :=
  match k with
  | .s | .so => true
  | .rdsr => !x.mod6.getLsbD 0
  | .vote => x.mod6.extractLsb' 0 2 == 2#2
  | _ => false
/-- An operand in a predicate file, by choice of MOD6: uniform? -/
def isPred (k : Opk) (x : Ext) : Option Bool :=
  match k with
  | .p => some false
  | .q => some true
  | .pq => some (x.mod6.getLsbD 0)
  | .vote => if x.mod6.extractLsb' 0 2 == 2#2 then none else some true
  | _ => none

/-- A uniform operand of 32 bits moves one channel word, of 64 bits two (R139): the type's bits where the row has types, and 64 where it is
untyped, but for S2V without a pair, which takes 32 (DEDUCED, log 13). -/
def uniWords (r : Row) (x : Ext) : Nat :=
  if r.tys != [tyF32] && !isTy64 x.ty then 1
  else if r.xop == 0x13A && !x.mod6.getLsbD 0 then 1 else 2

/-- The literal stands for an operand (R186). -/
def litFor (r : Row) (x : Ext) (u : LitUse) : Option W64 := if r.lit = u then x.lit else none

/-- The operands of an instruction that are read from fields: kind, index, class, pop and literal use. -/
def fieldsOf (r : Row) (x : Ext) : List (Opk × Nat × Bool × Bool × Option W64) :=
  [(if r.a = .mem then .none else r.a, x.a.toNat, x.acl, x.apop, litFor r x .a),
   (if r.a = .mem then .none else r.b, x.b.toNat, x.bcl, x.bpop, litFor r x .b),
   (r.c, x.c.toNat, x.ccl, x.cpop, none), (r.e, x.e.toNat, x.ecl, x.epop, none)]

/-- R185 step 3: a register at or above the allocated count, or an odd pair, raises ILLOP (R50). -/
def regOk (h : Here) (k : Opk) (x : Ext) (i : Nat) (cl : Bool) : Bool :=
  if cl then true
  else if isVec k x then
    let a := 8 * ceilDiv h.blk.kern.regs 8
    if pairOf k x then i % 2 == 0 && decide (i + 1 < a) else decide (i < a)
  else if isUni k x then decide ((if k = .so then i + 7 else i) < h.blk.kern.uregs)
  else true
/-- The registers of an address operand (R184): `glob` when a vector base is a pair. -/
def addrRegsOk (h : Here) (x : Ext) (glob : Bool) : Bool :=
  (if x.mod6.getLsbD 5 then decide (x.a.toNat < h.blk.kern.uregs)
   else regOk h (if glob then .v2 else .v) x x.a.toNat false) &&
  (!x.mod6.getLsbD 4 || regOk h .v x x.b.toNat false)
/-- Every register operand is within the group's allocation. -/
def regsOk (h : Here) (r : Row) (x : Ext) (glob : Bool) : Bool :=
  regOk h r.d x x.d.toNat x.dcl &&
  (fieldsOf r x).all (fun (k, i, cl, _, lit) => lit.isSome || regOk h k x i cl) &&
  (r.a != .mem || addrRegsOk h x glob)

/-- The vector registers an instruction names, for the scoreboard (R260); an operand that a literal replaces names none. -/
def vecRegs (r : Row) (x : Ext) (glob : Bool) : List Nat :=
  let one (k : Opk) (i : Nat) (cl : Bool) : List Nat :=
    if cl || !isVec k x then [] else if pairOf k x then [i, i + 1] else [i]
  one r.d x.d.toNat x.dcl ++ ((fieldsOf r x).map fun (k, i, cl, _, lit) => if lit.isSome then [] else one k i cl).flatten ++
  (if r.a = .mem then
    (if x.mod6.getLsbD 5 then [] else if glob then [x.a.toNat, x.a.toNat + 1] else [x.a.toNat]) ++
    (if x.mod6.getLsbD 4 then [x.b.toNat] else []) else [])
/-- A scoreboard slot holds a register (R260). -/
def heldRegs (g : Group) : List Nat :=
  (g.board.map fun b => match b.wb with | .vec r p _ => if p then [r, r + 1] else [r] | _ => []).flatten

/-- A channel's kind: 0 free, 1 mesh-in, 2 mesh-out, 3 vertical queue (R138). -/
def Chan.kind (h : Chan) : Nat := bits h.word 62 2
def Chan.peer (h : Chan) : Nat := bits h.word 48 14
def Chan.peerCh (h : Chan) : Nat := bits h.word 42 6
def Chan.bufw (h : Chan) : Nat := bits h.word 25 17
def Chan.depth (h : Chan) : Nat := bits h.word 12 13
def Core.chan (k : Core) (ch : Nat) : Chan := (kget k.chans ch).getD Chan.fresh

/-- Records waiting in a core's vertical queue, both engines (R143): the commands not yet taken up. -/
def Core.vqCount (k : Core) : Nat := (k.ops.filter fun o => o.eng != 0 && o.stage == .waiting).length
/-- Free 32-bit words of queue space (R140, R142): what the records waiting, those being assembled and the space held for
pushes leave. -/
def Core.vqFree (k : Core) : Nat :=
  16 * (32 - k.vqCount) - (k.asm.map fun (_, ws) => ws.length).sum - ((k.chans.filter fun (_, h) => h.kind == 3).map fun (_, h) => h.reserved).sum

/-- A channel operand's words: one per lane, two for a pair; a uniform operand's by its width (R139). -/
def chanWords (r : Row) (x : Ext) (k : Opk) (lanes : Nat) : Nat :=
  if isVec k x then (if pairOf k x then 2 * lanes else lanes) else uniWords r x

/-- The class-1 sources in operand order: channel, pop, words. -/
def chanSrcs (r : Row) (x : Ext) (lanes : Nat) : List (Nat × Bool × Nat) :=
  (fieldsOf r x).filterMap fun (k, i, cl, pop, lit) =>
    if cl && lit.isNone && k != .none then some (i, pop, chanWords r x k lanes) else none

/-- The amount of an instruction for one mesh-in entry (R140), and the words it pops from it. -/
def srcAmount (ops : List (Nat × Bool × Nat)) (ch : Nat) : Nat × Nat :=
  ops.foldl (fun (need, popped) (c, pop, n) =>
    if c = ch then (max need (popped + n), if pop then popped + n else popped) else (need, popped)) (0, 0)

/-- A mesh-in entry is frozen against the words of a core's entry owned by `own` (R362): the entry on its core, and, from the release
until the resumption, the one the device keeps for its block. -/
def frozenTo (s : State) (c : Nat) (own : Option Nat) (dst ch : Nat) : Bool :=
  let k := s.core dst
  let e := k.chan ch
  (e.frozen && !(dst == c && e.owner == own)) ||
    k.keptChans.any fun (i, h) => i % 64 == ch && h.frozen && (h.owner.bind (kget k.kept)).any fun b => b.tenant == s.coreTenant c
/-- The peer mesh-in entry of a mesh-out entry is frozen against the pushes of other blocks (R362). -/
def peerFrozen (s : State) (c b : Nat) (h : Chan) : Bool := frozenTo s c (some b) h.peer h.peerCh

/-- How an instruction's channels stand (R140): it may issue, it parks, or CHANERR with the channel's number. -/
inductive ChanCheck where
  | ok
  | wait (ch : Nat)
  | err (ch : Nat)
  deriving DecidableEq, Repr

/-- R140 over the sources and the destination: `push` is the destination channel and its words. -/
def chanCheck (s : State) (h : Here) (srcs : List (Nat × Bool × Nat)) (push : Option (Nat × Nat)) : ChanCheck :=
  let k := s.core h.c
  let badSrc := srcs.find? fun (ch, _, _) =>
    let e := k.chan ch
    e.kind != 1 || e.owner != some h.b || e.broken || decide (e.depth < (srcAmount srcs ch).1)
  match badSrc with
  | some (ch, _, _) => .err ch
  | none =>
    let badDst := match push with
      | some (ch, n) =>
        let e := k.chan ch
        if (e.kind != 2 && e.kind != 3) || e.owner != some h.b || e.broken then true
        else e.kind == 2 && (match e.peerDepth with | some d => decide (d < n) | none => false)
      | none => false
    if badDst then .err ((push.map (·.1)).getD 0)
    else
      match srcs.find? fun (ch, _, _) => decide ((k.chan ch).count < (srcAmount srcs ch).1) with
      | some (ch, _, _) => .wait ch
      | none =>
        match push with
        | some (ch, n) =>
          let e := k.chan ch
          if e.kind == 2 then (if e.credits < n || peerFrozen s h.c h.b e then .wait ch else .ok)
          else if k.vqFree < n then .wait ch else .ok
        | none => .ok

/-- Credits of the mesh-in's pops: kept, and granted to the mesh-out entry that names it in return (R138). -/
def popWords (s : State) (c ch n : Nat) : State :=
  s.updChan c ch fun e =>
    { e with head := (e.head + n) % max 1 e.depth, count := e.count - n, kept := e.kept + n }

/-- A scratchpad byte of a block: one that no one has written since the share was given or restored is zero in a page that has been
cleared (R56), else free (R56, R362). -/
def Block.scratchByte (k : Block) (o : Nat) : Byte :=
  match kget k.scratch o with
  | some b => b
  | none => if k.zeros.contains (k.share.getD (o / 65536) 8) then 0 else Config.scratchByte k.epoch o
/-- `n` scratchpad bytes, little-endian. -/
def Block.scratchNat (k : Block) (o n : Nat) : Nat := leNat ((List.range n).map fun i => k.scratchByte (o + i))
/-- Bytes written into a block's share. -/
def Block.putScratch (k : Block) (o : Nat) (bs : List Byte) : Block :=
  { k with scratch := (patchesAt o bs).foldl (fun m (a, v) => kset m a v) k.scratch }
/-- A mesh-in entry's words from its head: a ring of DEPTH words at BUFW of the owner's share (R362). -/
def Block.chanBuf (k : Block) (e : Chan) : List W32 :=
  (List.range e.count).map fun i => BitVec.ofNat 32 (k.scratchNat (4 * (e.bufw + (e.head + i) % max 1 e.depth)) 4)

/-- Source values of an instruction: each operand's value for a lane. -/
structure Srcs where
  a : Nat → W64
  b : Nat → W64
  c : Nat → W64
  e : Nat → W64

/-- A word list's values for lanes in lane order (R139): word j, or the words 2j and 2j+1 low first. -/
def wordsFor (ws : List W32) (pair : Bool) (lanes : List Nat) (l : Nat) : W64 :=
  let j := (lanes.findIdx? (· == l)).getD 0
  if pair then (ws.getD (2 * j + 1) 0) ++ (ws.getD (2 * j) 0) else (ws.getD j 0).zeroExtend 64

/-- Src(X, l) of every operand (R188), with the channel pops made in operand order. -/
def fetchSrcs (s : State) (h : Here) (r : Row) (x : Ext) (lanes : List Nat) : Srcs × State :=
  let k := s.core h.c
  let srcs := chanSrcs r x lanes.length
  let value (i : Nat) : Nat → W64 :=
    match (fieldsOf r x)[i]? with
    | none => fun _ => 0
    | some (kd, idx, cl, _, lit) =>
      match lit with
      | some w => fun _ => w
      | none =>
        if kd = .none then fun _ => 0
        else if cl then
          let before := (fieldsOf r x).take i
          let skip := (before.filterMap fun (k2, j, cl2, pop, l2) =>
            if cl2 && l2.isNone && k2 != .none && j == idx && pop then some (chanWords r x k2 lanes.length) else none).sum
          let ws := (h.blk.chanBuf (k.chan idx)).drop skip
          if isVec kd x then wordsFor ws (pairOf kd x) lanes
          else fun _ => if uniWords r x = 1 then (ws.getD 0 0).zeroExtend 64 else (ws.getD 1 0) ++ (ws.getD 0 0)
        else if isVec kd x then
          (if pairOf kd x then fun l => h.grp.rv2 h.tick idx l else fun l => (h.grp.rv h.tick idx l).zeroExtend 64)
        else match isPred kd x with
          | some true => fun _ => if h.grp.rq h.tick idx then 1 else 0
          | some false => fun l => if h.grp.rp idx l then 1 else 0
          | none => fun _ => h.grp.rs h.tick idx
  let pops := srcs.filter fun (_, pop, _) => pop
  (⟨value 0, value 1, value 2, value 3⟩, pops.foldl (fun s (ch, _, n) => popWords s h.c ch n) s)

/-- EffAddr(l) (R184), modulo 2^64. AUX8 is the offset where the family gives it no other use. -/
def effAddr (h : Here) (x : Ext) (glob aux : Bool) (l : Nat) : W64 :=
  let base : W64 :=
    if x.mod6.getLsbD 5 then h.grp.rs h.tick x.a.toNat
    else if glob then h.grp.rv2 h.tick x.a.toNat l else (h.grp.rv h.tick x.a.toNat l).zeroExtend 64
  let index : W64 :=
    if x.mod6.getLsbD 4 then (h.grp.rv h.tick x.b.toNat l).signExtend 64 <<< (x.mod6.extractLsb' 2 2).toNat else 0
  let off : W64 := match x.lit with
    | some w => w
    | none => if aux then x.aux8.signExtend 64 else 0
  base + index + off

/-- Words of one lane's value: low word first for a pair (R139). -/
def laneWords (pair : Bool) (v : W64) : List W32 :=
  if pair then [v.extractLsb' 0 32, v.extractLsb' 32 32] else [v.extractLsb' 0 32]

end Sys2Proof.Machine
end

