-- ==== Sys2Proof/Machine/Channels.lean ====
section
/-! DEFINITION. Moving words between channel entries (R138, R140, R141, R362) and into the vertical queue (R143-R148). -/
namespace Sys2Proof.Machine
open Sys2Proof

/-- The mesh-in entry grants the credits it keeps to the mesh-out entry that names it in return, with its DEPTH (R138). -/
def grantCredits (s : State) (c ch : Nat) : State :=
  let e := (s.core c).chan ch
  let o := (s.core e.peer).chan e.peerCh
  if e.kind == 1 && o.kind == 2 && o.peer == c && o.peerCh == ch then
    let s := s.updChan c ch fun e => { e with kept := 0 }
    s.updChan e.peer e.peerCh fun o =>
      { o with credits := o.credits + e.kept, outstanding := o.outstanding - min o.outstanding e.kept
               peerDepth := some e.depth }
  else s

/-- A word has been written into the receiving core's buffer: no arrival of its core waits for it any more (R110). -/
def Core.landed (k : Core) (id : Nat) : Core :=
  k.mapBlocks fun _ x => if x.held.isEmpty then x else
    { x with held := x.held.map fun h => { h with words := h.words.filter fun i => i != id } }
/-- A word of a block will never be delivered: the block's superstep arrivals wait for it for ever (R111). -/
def Core.loseWord (k : Core) (b : Option Nat) (id : Nat) : Core :=
  k.mapBlocks fun i x => if some i == b then { x with lost := x.lost ++ [id] } else x
/-- A number for a core's next word: none in flight, waited for or lost has it. -/
def Core.nextWord (k : Core) : Nat :=
  let used := k.flight.map (·.id) ++ ((k.blocks ++ k.kept).map fun (_, x) => (x.held.map fun h => h.words).flatten ++ x.lost).flatten
  used.foldl (fun m i => max m (i + 1)) 0

/-- A word reaches its mesh-in entry (R141): into the ring, or dropped with its credit, and then it is never delivered (R111). A wrong
VNI is reported (R375). -/
def deliverWord (s : State) (src : Nat) (w : FlightWord) : State :=
  let s := s.updCore src fun k => { k with flight := k.flight.filter fun x => x.id != w.id }
  let e := (s.core w.dst).chan w.dstCh
  let vni := (s.ten (s.coreTenant w.dst)).vni
  if w.vni != vni then
    let t := s.coreTenant src
    let s := s.updCore src fun k => k.loseWord w.block w.id
    let s := s.updMod fun m => { m with violations := m.violations ++ [⟨2, w.dst, w.vni + vni * 4096⟩] }
    let s := s.countErr (coreDomain w.dst) fun e => { e with vniDrops := satAdd 16 e.vniDrops }
    postFault s t 6 w.dst 0 [BitVec.ofNat 64 (w.vni + vni * 4096), BitVec.ofNat 64 w.dst, 0, 0, 0, 0]
  else
    match e.owner with
    | some b =>
      if e.kind == 1 && e.peer == src && e.peerCh == w.ch then
        let o := 4 * (e.bufw + (e.head + e.count) % max 1 e.depth)
        let s := s.updBlock w.dst b fun k => k.putScratch o (leBytes 4 w.word.toNat)
        let s := s.updCore src fun k => k.landed w.id
        s.updChan w.dst w.dstCh fun e => { e with count := e.count + 1 }
      else s.updCore src fun k => k.loseWord w.block w.id
    | none => s.updCore src fun k => k.loseWord w.block w.id

/-- Words pushed through a mesh-out entry whose credits are held for them (R139, R141); where the peer core is retired they are dropped
(R140). -/
def pushMesh (s : State) (c ch : Nat) (ws : List W32) : State :=
  let e := (s.core c).chan ch
  let vni := (s.ten (s.coreTenant c)).vni
  ws.foldl (fun s w =>
    s.updCore c fun k =>
      if e.broken then k.loseWord e.owner k.nextWord
      else { k with flight := k.flight ++ [⟨k.nextWord, ch, e.peer, e.peerCh, vni, w, e.owner⟩] }) s

/-- The size in bytes of a vertical-queue type code, FP4 apart (R145). -/
def engSize (t : Nat) : Nat := if t = 0 || t = 7 || t = 8 then 4 else if t = 1 || t = 2 then 2 else 1
/-- Fields of a command record (R144). -/
def cmdEng (w : List W64) : Nat := bits (word w 0) 60 4
def cmdCmd (w : List W64) : Nat := bits (word w 0) 56 4
def cmdScope (w : List W64) : BitVec 4 := (word w 0).extractLsb' 52 4
def cmdLock (w : List W64) : Bool := bit (word w 0) 51
def cmdSat (w : List W64) : Bool := bit (word w 0) 50
def cmdRm (w : List W64) : BitVec 3 := (word w 0).extractLsb' 47 3
def cmdTin (w : List W64) : Nat := bits (word w 0) 43 4
def cmdTout (w : List W64) : Nat := bits (word w 0) 39 4
def cmdK (w : List W64) : Nat := bits (word w 0) 27 12
def cmdSrc (w : List W64) : Nat := bits (word w 1) 0 56
def cmdDst (w : List W64) : Nat := bits (word w 2) 0 56
def cmdAux (w : List W64) : Nat := bits (word w 3) 0 56
def cmdRows (w : List W64) : Nat := bits (word w 4) 0 32
def cmdCols (w : List W64) : Nat := bits (word w 4) 32 32
def cmdSp (w : List W64) : Nat := bits (word w 5) 0 32
def cmdDp (w : List W64) : Nat := bits (word w 5) 32 32

/-- A command record passes its checks (R144-R148). SAT and RM count for REQ only. -/
def cmdOk (w : List W64) : Bool :=
  let ti := cmdTin w
  let onto := cmdTout w
  let reqs := [0, 1, 2, 3, 4, 6, 7]
  bits (word w 0) 0 27 == 0 && zeroBits (word w 1) 56 8 && zeroBits (word w 2) 56 8 && zeroBits (word w 3) 56 8 &&
  zeroBits (word w 6) 56 8 && bits (word w 6) 0 3 == 0 && word w 7 != BitVec.allOnes 64 && decide ((cmdScope w).toNat ≤ 8) &&
  decide (1 ≤ cmdRows w) && decide (1 ≤ cmdCols w) && decide (ti ≤ 8) && decide (onto ≤ 8) &&
  (cmdEng w != 2 || cmdCmd w != 1 || decide ((cmdRm w).toNat ≤ 4)) &&
  match cmdEng w, cmdCmd w with
  | 1, 0 => ti == onto && ti != 5
  | 1, 1 => ti == onto && [0, 1, 7].contains ti
  | 1, 2 => [0, 1, 2].contains ti && onto == 8 && decide (cmdCols w ≤ 256) && decide (1 ≤ cmdK w) && decide (cmdK w ≤ cmdCols w)
  | 1, 3 => [6, 7, 8].contains ti && onto == 8
  | 2, 0 => [0, 1].contains ti && onto == 5 && cmdCols w % 256 == 0
  | 2, 1 => reqs.contains ti && reqs.contains onto
  | 2, 2 => ti == onto && ti != 5
  | _, _ => false

/-- A fresh operation number on a core. -/
def freshOp (k : Core) : Nat := k.ops.foldl (fun m o => max m (o.id + 1)) 0

/-- The rows of a range in memory: the address of row 0, the pitch, the bytes of a row, and the rows' numbers. -/
structure Rows2 where
  base : Nat
  pitch : Nat
  len : Nat
  rows : List Nat
  deriving DecidableEq, Repr
/-- The byte ranges of rows. -/
def Rows2.ranges (r : Rows2) : List (Nat × Nat) := r.rows.map fun i => (r.base + i * r.pitch, r.base + i * r.pitch + r.len)

/-- A value of `n` bytes at a virtual address as a domain's L2 would serve it now, where every byte translates. -/
def peekValue (s : State) (d t va n : Nat) : Option Nat :=
  let byte (va : Nat) : Option Byte :=
    match (walk s t va false).2 with
    | .ok pa _ _ => some ((lineSeen s d (lineOf pa)).getD (pa % 128) 0)
    | .fail _ _ _ _ => none
  let bs := (List.range n).map fun i => byte (va + i)
  if bs.all Option.isSome then some (leNat (bs.filterMap id)) else none
/-- The indices that a GATHER or SCATTERADD names, as the domain's L2 would serve them now (R143, R146); rows whose index does not translate
are none. -/
def peekIndices (s : State) (d t : Nat) (w : List W64) : List Nat :=
  (List.range (cmdRows w)).filterMap fun r => peekValue s d t (cmdAux w + 4 * r) 4
/-- The rows that a command reads at SRC, and those it writes at DST (R146-R148). -/
def cmdSrcRows (s : State) (d t : Nat) (w : List W64) : Rows2 :=
  { base := cmdSrc w, pitch := cmdSp w, len := cmdCols w * engSize (cmdTin w)
    rows := if cmdEng w = 1 ∧ cmdCmd w = 0 then (peekIndices s d t w).filter (· != 0xFFFFFFFF) else List.range (cmdRows w) }
def cmdDstRows (s : State) (d t : Nat) (w : List W64) : Rows2 :=
  let size := engSize (cmdTin w)
  let at_ (len : Nat) (rows : List Nat) : Rows2 := ⟨cmdDst w, cmdDp w, len, rows⟩
  let all := List.range (cmdRows w)
  match cmdEng w, cmdCmd w with
  | 1, 0 => at_ (cmdCols w * size) all
  | 1, 1 => at_ (cmdCols w * size) (peekIndices s d t w)
  | 1, 2 => at_ (cmdK w * size) all
  | 1, _ => at_ (4 * cmdK w) [0]
  | _, 0 => at_ (cmdCols w / 2) all
  | _, 1 => at_ (cmdCols w * engSize (cmdTout w)) all
  | _, _ => at_ (cmdRows w * size) (List.range (cmdCols w))
/-- The bytes that a command reads at AUX, its indices, or writes there, its columns' numbers or its scales (R146, R147). -/
def cmdAuxRange (w : List W64) : Option (Nat × Nat) :=
  let at_ (n : Nat) : Option (Nat × Nat) := some (cmdAux w, cmdAux w + n)
  match cmdEng w, cmdCmd w with
  | 1, 0 => at_ (4 * cmdRows w)
  | 1, 1 => at_ (4 * cmdRows w)
  | 1, 2 => at_ (4 * cmdRows w * cmdK w)
  | 2, 0 => at_ (cmdRows w * (cmdCols w / 8) + 2 * ceilDiv (cmdRows w) 64)
  | _, _ => none
/-- A command writes what it has at AUX: TOPK's columns and BLOCKQ's scales. -/
def cmdAuxOut (w : List W64) : Bool := (cmdEng w == 1 && cmdCmd w == 2) || cmdEng w == 2
/-- The bounding range of a command's source or destination (R137): its rows, with what it reads or writes at AUX (DEDUCED, log 158). -/
def cmdBound (w : List W64) (out : Bool) (r : Rows2) : Nat × Nat :=
  let rs := (r.ranges ++ (if cmdAuxOut w == out then (cmdAuxRange w).toList else [])).filter fun (lo, hi) => decide (lo < hi)
  match rs with
  | [] => (r.base, r.base)
  | x :: l => (l.foldl (fun m y => min m y.1) x.1, l.foldl (fun m y => max m y.2) x.2)
/-- A LOCK command has its two range-lock entries free (R137). -/
def lockRoom (k : Core) (w : List W64) : Bool := !cmdLock w || decide (k.locks.length ≤ 126)

/-- A checked command enters the vertical queue (R143) after its thread's earlier stores (R93), taking its range locks
(R137), indexed rows as the indices stand (DEDUCED, log 158). -/
def enqueueCmd (s : State) (c b g t : Nat) (w : List W64) : State :=
  let s := drainCore (serveGroup s c b g) c
  let r := cmdBound w false (cmdSrcRows s (coreDomain c) t w)
  let d := cmdBound w true (cmdDstRows s (coreDomain c) t w)
  s.updCore c fun k =>
    let id := freshOp k
    let op : Op := { id := id, eng := cmdEng w, w := w, block := b, tenant := t, grp := g, chain := none, sig := 0
                     stage := .waiting, todo := [], acks := [], seed := s.tick, prog := 0, olds := [] }
    let ls : List RangeLock := if cmdLock w then [⟨id, b, false, false, r.1, r.2⟩, ⟨id, b, false, true, d.1, d.2⟩] else []
    { k with ops := k.ops ++ [op], locks := k.locks ++ ls }

/-- Two 32-bit words as a record word, low first (R143). -/
def pairWords : List W32 → List W64
  | a :: b :: r => (b ++ a) :: pairWords r
  | _ => []

/-- Words pushed through a vertical-queue entry: each sixteenth word makes a record, enqueued when it passes its checks;
the flag says whether every completed record passed (R143). A record that finds no room for its range locks stays assembled (R137). -/
def pushVq (s : State) (c b g t ch : Nat) (ws : List W32) : State × Bool :=
  ws.foldl (fun (s, ok) w =>
    let cur := ((kget (s.core c).asm ch).getD []) ++ [w]
    if cur.length = 16 then
      let r := pairWords cur
      if !cmdOk r then (s.updCore c fun k => { k with asm := kdel k.asm ch }, false)
      else if !lockRoom (s.core c) r then (s.updCore c fun k => { k with asm := kset k.asm ch cur }, ok)
      else (enqueueCmd (s.updCore c fun k => { k with asm := kdel k.asm ch }) c b g t r, ok)
    else (s.updCore c fun k => { k with asm := kset k.asm ch cur }, ok)) (s, true)

/-- A complete record of an entry waits for range locks (R137). -/
def vqStuck (s : State) (c ch : Nat) : Bool := decide (16 ≤ ((kget (s.core c).asm ch).getD []).length)

/-- A push of an instruction whose space is held: mesh-out or vertical queue (R140). -/
def pushWords (s : State) (c b g t ch : Nat) (ws : List W32) : State × Bool :=
  if ((s.core c).chan ch).kind == 3 then
    pushVq (s.updChan c ch fun e => { e with reserved := e.reserved - ws.length }) c b g t ch ws
  else (pushMesh s c ch ws, true)

/-- Credits or queue space of a push taken at issue: no longer free, and not credited back until the receiver pops (R138, R140). -/
def reservePush (s : State) (c ch n : Nat) : State :=
  s.updChan c ch fun e =>
    if e.kind == 2 then { e with credits := e.credits - n, outstanding := e.outstanding + n } else { e with reserved := e.reserved + n }

end Sys2Proof.Machine
end

