-- ==== Sys2Proof/Machine/Ops.lean ====
section
/-! DEFINITION. How a group issues (R16-R22, R179-R187, R204, R229, R259, R317-R323), the frontier, taking a trap and
returning from one (R224-R228), and results on their way (R140, R319). -/
namespace Sys2Proof.Machine
open Sys2Proof

/-- Whether an entry may be selected (R16, R21, R101): it does not wait. -/
def Entry.ready (e : Entry) : Bool := e.wait.isNone
/-- R19's order among promoted entries: higher wait count, then lower PC. -/
def Entry.beforeP (a b : Entry) : Bool := decide (b.count < a.count) || (a.count == b.count && a.pc.lt b.pc)
/-- R16's order: higher priority, then lower PC. -/
def Entry.before (a b : Entry) : Bool := decide (b.prio.toNat < a.prio.toNat) || (a.prio == b.prio && a.pc.lt b.pc)
/-- The first of some entries in an order. -/
def bestEntry (lt : Entry → Entry → Bool) (es : List Entry) : Option Entry :=
  match es with
  | [] => none
  | e :: r => some (r.foldl (fun m x => if lt x m then x else m) e)

/-- The selected entry (R16, R19, R20). -/
def selectEntry (g : Group) : Option Entry :=
  let es := g.frontier.filter Entry.ready
  match bestEntry Entry.beforeP (es.filter fun e => e.promoted) with
  | some e => some e
  | none =>
    match bestEntry Entry.before (es.filter fun e => !e.demoted) with
    | some e => some e
    | none => bestEntry Entry.before es

/-- The group whose turn it is, with its selected entry. -/
def here (s : State) : Option Here :=
  match s.cur.grp with
  | none => none
  | some g =>
    (s.block s.cur.core s.cur.block).bind fun k => (kget k.groups g).bind fun x => (selectEntry x).map fun e =>
      { c := s.cur.core, b := s.cur.block, g := g, blk := k, grp := x, ent := e, tick := s.tick }

/-- Whether the agent whose turn it is is a live tile stream. -/
def tileTurn (s : State) : Bool :=
  s.cur.grp.isNone && match s.block s.cur.core s.cur.block with | some k => k.tile.any (fun t => !t.ended) | none => false

/-- A code address moved forward. -/
def Pc.plus (p : Pc) (n : Nat) : Pc := ⟨p.seg, p.off + n⟩

/-- An issue opportunity taken by an entry (R19, R20): its wait count is zero, the others' rise, a count of 4,096 promotes,
and demotions end. The count of an entry that waits stands still (DESIGN CHOICE, log 142). -/
def countIssue (g : Group) (pc : Pc) : Group :=
  { g with frontier := g.frontier.map fun e =>
      if e.pc = pc then { e with count := 0, promoted := false, demoted := false }
      else if e.wait.isSome then { e with demoted := false }
      else { e with count := e.count + 1, promoted := e.promoted || decide (4096 ≤ e.count + 1), demoted := false } }

/-- An entry replaced by others (R15, R17): the one at `pc` goes, the given ones join. -/
def replaceEntry (g : Group) (w : Nat) (pc : Pc) (es : List Entry) : Group :=
  let rest := g.frontier.filter fun x => x.pc != pc
  let fr := es.foldl addEntry rest
  settleReconv w fr.length { g with frontier := fr }

/-- The entry of a group at an address. -/
def entryAt (g : Group) (pc : Pc) : Option Entry := g.frontier.find? fun e => e.pc == pc

/-- The entry moves to another address with its priority (R13). -/
def moveEntry (g : Group) (w : Nat) (pc next : Pc) : Group :=
  match entryAt g pc with
  | some e => replaceEntry g w pc [{ e with pc := next }]
  | none => g

/-- An issue completed: counted toward the forced switch, and at an S bit or a forced switch the group parks at the switch
point (R187, R320, R321, R323). -/
def finishIssue (s : State) (h : Here) (sbit : Bool) : State :=
  s.updGroup h.c h.b h.g fun g =>
    let sw := sbit || g.forced || decide (4096 ≤ g.sinceSwitch)
    { g with sinceSwitch := g.sinceSwitch + 1, lastIssue := s.tick
             park := if sw then some .switchPoint else none }

/-- Nothing of the group is on its way that a switch point waits for (R320). -/
def Group.quiet (g : Group) : Bool := g.pend.isEmpty && g.board.isEmpty
/-- A handler is entered only at such a point with all token slots empty (R258, R320). -/
def Group.mayEnter (g : Group) : Bool := g.quiet && g.tokens.isEmpty

/-- The handler entry of R224: the frontier set aside and one entry at the `.trap` label. -/
def enterHandler (g : Group) (target : Pc) (mask : Lanes) (trapped : Option Entry) : Group :=
  { g with handler := some { saved := g.frontier, trapped := trapped, resumed := false }
           frontier := [{ pc := target, prio := 0x3FFF, mask := mask, count := 0, promoted := false, demoted := false, wait := none }]
           xmask := mask, park := none, sinceSwitch := 0, forced := false }

/-- Delivery of a synchronous trap (R224, R225) for an entry: into the handler with %xpc, %xprio, %xcode, %xinfo and %xmask
written; without a handler, or inside one, the block is killed and the launch fails with the code. -/
def deliverTrap (s : State) (c b g : Nat) (e : Entry) (t : Trap) (xpc : Pc) : State :=
  match s.block c b, s.group c b g with
  | some k, some x =>
    match k.kern.trap, x.handler with
    | some target, none =>
      s.updGroup c b g fun x =>
        { enterHandler x target e.mask (some e) with
          xpc := xpc.toTarget, xprio := e.prio.setWidth 32, xcode := t.code.setWidth 32, xinfo := t.info }
    | _, _ => killAndFail s c b t.code.toNat [e.pc.toTarget, 0, 0, 0]
  | _, _ => s

/-- A trap raised at an instruction (R185, R224): delivered at once when nothing is outstanding, else held until the
handler may be entered (R258, R320). Without a handler it kills at once. -/
def raiseTrap (s : State) (h : Here) (code : Nat) (info : W64) (xpc : Pc) : State :=
  let t : Trap := ⟨BitVec.ofNat 8 code, info⟩
  if h.grp.mayEnter || h.blk.kern.trap.isNone || h.grp.handler.isSome then deliverTrap s h.c h.b h.g h.ent t xpc
  else
    let lane := (laneList 64 h.ent.mask).head?
    s.updGroup h.c h.b h.g fun g =>
      { g with late := g.late ++ [⟨t, some xpc, lane, g.handler.isSome⟩], park := some .switchPoint }

/-- The channel words in flight toward a block's mesh-in entries are written into their rings, and the entries freeze
(R362). An entry that is frozen already takes none. -/
def freezeChannels (s : State) (c b : Nat) : State :=
  let mine := (s.core c).chans.filter fun (_, h) => h.owner == some b && h.kind == 1 && !h.frozen
  let words := (s.cores.map fun (src, k) => (k.flight.filter fun w => w.dst == c && mine.any fun (ch, _) => ch == w.dstCh).map
    fun w => (src, w)).flatten
  let s := words.foldl (fun s (src, w) => deliverWord s src w) s
  let stop (_ : Nat) (h : Chan) : Chan := if h.owner == some b && h.kind == 1 then { h with frozen := true } else h
  s.updCore c fun k => { k with chans := kmap k.chans stop }

/-- PREEMPT enters its handler (R224, R225, R362): every non-exited lane, %xpc and %xprio left as they were. -/
def deliverPreempt (s : State) (c b g : Nat) : State :=
  match s.block c b with
  | some k =>
    match k.kern.trap with
    | some target =>
      (freezeChannels s c b).updGroup c b g fun x =>
        { enterHandler x target (x.live k.kern.width) none with xcode := 0x20, xinfo := 0, preempt := false }
    | none => s
  | none => s

/-- ERET (R227): the set-aside frontier returns; the trapped entry goes to %xpc with %xprio and the lanes of %xmask that
did not exit in the handler; lanes that exited leave every entry. -/
def returnHandler (g : Group) (w : Nat) (hd : Handler) : Group :=
  let out := g.exited
  let others := hd.saved.filter fun e => match hd.trapped with | some t => e.pc != t.pc | none => true
  let back := match hd.trapped with
    | some t => [{ t with pc := Pc.ofTarget g.xpc, prio := g.xprio.setWidth 14, mask := g.xmask, count := 0, slot := none }]
    | none => []
  let es := (others ++ back).map fun e => { e with mask := e.mask &&& ~~~out }
  let fr := es.foldl addEntry []
  settleReconv w fr.length { g with frontier := fr, handler := none }

/-- A handler entered by PREEMPT: it has no trapped entry (R224, R228). -/
def Handler.isPreempt (h : Handler) : Bool := h.trapped.isNone

/-- An entry waits where it is; waits that are met proceed (R21). -/
def waitAt (s : State) (h : Here) (w : Wait) : State :=
  s.updGroup h.c h.b h.g fun g =>
    settleReconv h.width g.frontier.length
      { g with frontier := g.frontier.map fun e => if e.pc = h.ent.pc then { e with wait := some w } else e }

/-- What an instruction does once it may issue. -/
inductive Out where
  /-- it completes and its entry goes to the next instruction -/
  | fin (s : State)
  /-- it completes and has moved the frontier itself -/
  | went (s : State)
  /-- a precise trap: code and detail, %xpc at the instruction -/
  | trap (s : State) (code : Nat) (info : W64)
  /-- a trap whose %xpc is the next instruction (UTRAP) -/
  | trapNext (s : State) (code : Nat) (info : W64)
  /-- it does not issue: the group parks -/
  | park (s : State) (p : Park)
  /-- the block is killed -/
  | gone (s : State)

/-- Trap codes (R225). -/
def xIllop : Nat := 0x01
def xPriv : Nat := 0x02
def xMisalign : Nat := 0x03
def xXlate : Nat := 0x04
def xRangelock : Nat := 0x05
def xSealed : Nat := 0x06
def xChanerr : Nat := 0x07
def xCodemiss : Nat := 0x08
def xBarbusy : Nat := 0x09
def xSbfault : Nat := 0x0A
def xHoldecc : Nat := 0x0C
def xUtrap : Nat := 0x10

/-- The group parks for a reason; nothing of the instruction has happened. -/
def parkGroup (s : State) (h : Here) (p : Park) : State := s.updGroup h.c h.b h.g fun g => { g with park := some p }

/-- The issue opportunity is not counted where the instruction does not issue (R16, R19). -/
def uncount (s : State) (h : Here) : State := s.updGroup h.c h.b h.g fun g => { g with frontier := h.grp.frontier }

/-- How an issue ends. -/
def settleOut (h : Here) (len : Nat) (sbit : Bool) (o : Out) : State :=
  match o with
  | .fin s => finishIssue (s.updGroup h.c h.b h.g fun g => moveEntry g h.width h.ent.pc (h.ent.pc.plus len)) h sbit
  | .went s => finishIssue s h sbit
  | .trap s code info => raiseTrap (uncount s h) h code info h.ent.pc
  | .trapNext s code info => raiseTrap (uncount s h) h code info (h.ent.pc.plus len)
  | .park s p => parkGroup (uncount s h) h p
  | .gone s => s

/-- The state an instruction's effect starts from: the issue opportunity is counted. -/
def openIssue (s : State) (h : Here) : State := s.updGroup h.c h.b h.g fun g => countIssue g h.ent.pc

/-- TILLOP (R185, R290, R315): the pending instructions come before it; with none, the stream's block is killed. -/
def tileIllop (s : State) : State :=
  match (s.block s.cur.core s.cur.block).bind fun k => k.tile with
  | some t =>
    if t.window.isEmpty then killAndFail s s.cur.core s.cur.block 0x45 [t.pc.toTarget, 0, 0, 0]
    else s.updBlock s.cur.core s.cur.block fun k => { k with tile := k.tile.map fun t => { t with ill := true } }
  | none => s

/-- The issue of a group instruction: the agent is found, and what `body` makes of it is settled. A group opcode in the tile
stream is TILLOP (R185). -/
def issueGroup (s : State) (len : Nat) (sbit : Bool) (body : Here → State → Out) : Host.Outcome State Fault Refusal :=
  match here s with
  | some h => .next (settleOut h len sbit (body h (openIssue s h)))
  | none => if tileTurn s then .next (tileIllop s) else .fault .noAgent

/-- R260's scoreboard check: the instruction names a held register. -/
def scoreboardHolds (h : Here) (r : Row) (x : Ext) (glob : Bool) : Bool :=
  (vecRegs r x glob).any fun i => (heldRegs h.grp).contains i

/-- The words a destination channel takes (R140). -/
def pushAmount (r : Row) (x : Ext) (lanes : Nat) : Option (Nat × Nat) :=
  if x.dcl && r.d != .none then some (x.d.toNat, chanWords r x r.d lanes) else none

/-- R185 steps 3 and 4 and R260's scoreboard, then the rest. -/
def withChecks (h : Here) (s : State) (r : Row) (x : Ext) (glob : Bool) (lanes : Nat) (rest : Out) : Out :=
  if !regsOk h r x glob then .trap s xIllop 0
  else if scoreboardHolds h r x glob then .park s .scoreboard
  else
    match chanCheck s h (chanSrcs r x lanes) (pushAmount r x lanes) with
    | .err ch => .trap s xChanerr (BitVec.ofNat 64 ch)
    | .wait ch => .park s (.channel ch)
    | .ok => rest

/-- The frame of a p-guarded instruction: squashed, it only advances (R180); with no active lane it takes `empty`; else the
checks of R185 and its effect on the active lanes. -/
def vecBody (r : Row) (x : Ext) (glob : Bool) (empty : Here → State → Out) (act : Here → State → Lanes → Out)
    (h : Here) (s : State) : Out :=
  if squashed x then .fin s
  else
    let m := h.active x
    if m == 0 then empty h s
    else withChecks h s r x glob (laneCount m) (act h s m)

/-- The frame of a q-guarded instruction: a false guard leaves only the S bit (R180, R204). PRIV precedes the register and
channel checks (R185). -/
def uniBody (r : Row) (x : Ext) (glob : Bool) (priv : Here → Bool) (act : Here → State → Out) (h : Here) (s : State) : Out :=
  if squashed x || !h.guardQ x then .fin s
  else if !priv h then .trap s xPriv 0
  else withChecks h s r x glob (laneCount h.ent.mask) (act h s)

/-- Nothing happens beyond the advance. -/
def idle (_ : Here) (s : State) : Out := .fin s
/-- Every mode may run it. -/
def anyMode (_ : Here) : Bool := true

/-- A value for D of a class F or W uniform instruction (R183): a register, or a push. -/
def dstUni (s : State) (h : Here) (r : Row) (x : Ext) (v : W64) : State × Bool :=
  if x.dcl then
    let ws := laneWords (uniWords r x = 2) v
    let s := reservePush s h.c x.d.toNat ws.length
    pushWords s h.c h.b h.g h.ten x.d.toNat ws
  else (s.updGroup h.c h.b h.g fun g => g.putS h.tick x.d.toNat v, true)

/-- Values for D of a class F vector instruction (R183, R188): registers or predicates of the lanes, or a push in lane
order. -/
def dstVec (s : State) (h : Here) (r : Row) (x : Ext) (vals : List (Nat × W64)) : State × Bool :=
  if x.dcl then
    let ws := (vals.map fun (_, v) => laneWords (pairOf r.d x) v).flatten
    let s := reservePush s h.c x.d.toNat ws.length
    pushWords s h.c h.b h.g h.ten x.d.toNat ws
  else
    (s.updGroup h.c h.b h.g fun g => vals.foldl (fun g (l, v) =>
      if isVec r.d x then
        (if pairOf r.d x then g.putV2 h.tick x.d.toNat l v else g.putV h.tick x.d.toNat l (v.extractLsb' 0 32))
      else g.putP x.d.toNat l (v != 0)) g, true)

/-- A finished push: CHANERR where a record it completed fails its checks (R143), with no effect (R140); it parks while a record it
completes waits for range locks (R137). -/
def finPush (s0 : State) (x : Ext) (r : State × Bool) : Out :=
  if x.dcl && vqStuck r.1 s0.cur.core x.d.toNat then .park s0 .full
  else if r.2 then .fin r.1 else .trap s0 xChanerr (BitVec.ofNat 64 x.d.toNat)

/-- A class V result goes on its way (R319): lanes a previous outstanding write holds for the same register keep one of the
two values, chosen free (R322). -/
def addPend (g : Group) (tick : Nat) (wb : WriteBack) (f : Flags) : Group :=
  let id := g.pend.foldl (fun m (k, _) => max m (k + 1)) 0
  match wb with
  | .vec r _ vals =>
    let stay := vals.filter fun (l, _) => (g.coming r l).isEmpty || Config.takesNew tick r l
    let lose (w : WriteBack) : WriteBack := stay.foldl (fun w (l, _) => w.loseVec r l) w
    let pend := kmap g.pend fun _ p => { p with wb := lose p.wb }
    let tokens := kmap g.tokens fun _ k => if k.r = r then
      { k with vals := k.vals.filter fun (i, _) => !(stay.any fun (l, _) => l == i) } else k
    { g with pend := kset pend id ⟨.vec r false stay, f⟩, tokens := tokens }
  | .uni r v =>
    let prev := g.pend.any fun (_, p) => match p.wb with | .uni i _ => i == r | _ => false
    if prev && !Config.takesNew tick (256 + r) 0 then { g with pend := kset g.pend id ⟨.nothing, f⟩ }
    else
      let pend := kmap g.pend fun _ p => match p.wb with | .uni i _ => if i = r then { p with wb := .nothing } else p | _ => p
      { g with pend := kset pend id ⟨.uni r v, f⟩ }
  | .upred i v =>
    let prev := g.pend.any fun (_, p) => match p.wb with | .upred j _ => j == i | _ => false
    if i = 7 then { g with pend := kset g.pend id ⟨.nothing, f⟩ }
    else if prev && !Config.takesNew tick (512 + i) 0 then { g with pend := kset g.pend id ⟨.nothing, f⟩ }
    else
      let pend := kmap g.pend fun _ p => match p.wb with | .upred j _ => if i = j then { p with wb := .nothing } else p | _ => p
      { g with pend := kset pend id ⟨.upred i v, f⟩ }
  | w => { g with pend := kset g.pend id ⟨w, f⟩ }

/-- A class V uniform result on its way to D. -/
def pendUni (s : State) (h : Here) (r : Row) (x : Ext) (v : W64) (f : Flags) : State :=
  if x.dcl then
    let ws := laneWords (uniWords r x = 2) v
    let s := reservePush s h.c x.d.toNat ws.length
    s.updGroup h.c h.b h.g fun g => addPend g h.tick (.push x.d.toNat ws) f
  else s.updGroup h.c h.b h.g fun g => addPend g h.tick (.uni x.d.toNat v) f

/-- Class V vector results on their way to D; a pair goes as its two halves (R322). -/
def pendVec (s : State) (h : Here) (r : Row) (x : Ext) (vals : List (Nat × W64)) (f : Flags) : State :=
  let pair := pairOf r.d x
  if x.dcl then
    let ws := (vals.map fun (_, v) => laneWords pair v).flatten
    let s := reservePush s h.c x.d.toNat ws.length
    s.updGroup h.c h.b h.g fun g => addPend g h.tick (.push x.d.toNat ws) f
  else if pair then
    let (lo, hi) := splitPair vals x.d.toNat
    s.updGroup h.c h.b h.g fun g => addPend (addPend g h.tick lo f) h.tick hi 0
  else s.updGroup h.c h.b h.g fun g => addPend g h.tick (.vec x.d.toNat false vals) f

/-- A result reaches its destination. -/
def landWrite (s : State) (c b g : Nat) (wb : WriteBack) : State :=
  match wb with
  | .vec r pair vals => s.updGroup c b g fun x => { x with v := vals.foldl (fun m (l, v) =>
      let m := zset m (vKey r l) (v.extractLsb' 0 32)
      if pair then zset m (vKey (r + 1) l) (v.extractLsb' 32 32) else m) x.v }
  | .uni r v => s.updGroup c b g fun x => { x with s := zset x.s r v }
  | .upred i v => s.updGroup c b g fun x => { x with q := setBit7 x.q i v }
  | .push ch ws =>
    match s.block c b with
    | some k =>
      let (s, ok) := pushWords s c b g k.tenant ch ws
      if ok then s else s.updGroup c b g fun x =>
        { x with late := x.late ++ [⟨⟨BitVec.ofNat 8 xChanerr, BitVec.ofNat 64 ch⟩, none, none, x.handler.isSome⟩] }
    | none => s
  | .nothing => s

/-- The literal length of an instruction in bytes (R174). -/
def extLen (x : Ext) : Nat := if x.lit.isSome then 20 else 12
def baseLen (x : Base) : Nat := if x.lit.isSome then 12 else 4

/-- An extended instruction of a group: its row, its fields and its body. -/
abbrev ExtBody := Ext → Here → State → Out
/-- The meaning of an extended group instruction. -/
def runExt (body : ExtBody) (x : Ext) (s : State) : Host.Outcome State Fault Refusal :=
  issueGroup s (extLen x) x.s (body x)
/-- The meaning of a base instruction: its extended form's (R177), at its own length. -/
def runBase (r : BaseRow) (body : ExtBody) (x : Base) (s : State) : Host.Outcome State Fault Refusal :=
  issueGroup s (baseLen x) x.s (body (x.toExt r))

end Sys2Proof.Machine
end

