-- ==== Sys2Proof/Machine/MemOps.lean ====
section
/-! DEFINITION. The accesses of a group's lanes: spaces (R46-R49, R264), sizes and widening (R200), the memory checks of
R185 step 5 over all lanes (R47, R259), and weak reads and writes (R263). -/
namespace Sys2Proof.Machine
open Sys2Proof

/-- The space of an access (R46). -/
inductive Space where
  | global | scratch | local_ | constant
  deriving DecidableEq, Repr

/-- Widening to 32 bits or a pair for a vector destination (R200). -/
def widenVec (t : BitVec 4) (v : Nat) : W64 :=
  if t == tyS8 then ((BitVec.ofNat 8 v).signExtend 32).zeroExtend 64
  else if t == tyS16 then ((BitVec.ofNat 16 v).signExtend 32).zeroExtend 64
  else BitVec.ofNat 64 (v % 2 ^ (8 * tySize t))
/-- Widening to 64 bits for a uniform destination (R200). -/
def widenUni (t : BitVec 4) (v : Nat) : W64 :=
  if t == tyS8 then (BitVec.ofNat 8 v).signExtend 64
  else if t == tyS16 then (BitVec.ofNat 16 v).signExtend 64
  else if t == tyS32 then (BitVec.ofNat 32 v).signExtend 64
  else BitVec.ofNat 64 (v % 2 ^ (8 * tySize t))

/-- LocalAddr(o) of a thread (R48). -/
def localAddr (h : Here) (l o : Nat) : Nat :=
  recFrame h.blk.record + (h.blk.index * h.blk.nGroups + h.g) * h.width * 65536 + o / 8 * 8 * h.width + 8 * l + o % 8
/-- The global address of a constant offset (R49), as a 64-bit sum. -/
def constAddr (h : Here) (o : Nat) : Nat := (recFrame h.blk.record + (2 ^ 64 - 65536) + o) % 2 ^ 64
/-- Where an access lies: a global virtual address, or a scratchpad offset. -/
def placeOf (h : Here) (sp : Space) (l : Nat) (a : W64) : Nat :=
  match sp with
  | .local_ => localAddr h l a.toNat
  | .constant => constAddr h a.toNat
  | _ => a.toNat

/-- The outcome of the checks: a place and physical address per lane, a trap, a park, or a page-table line that cannot be
read. -/
inductive Checked where
  | ok (ls : List (Nat × Nat × Nat))
  | trap (code : Nat) (info : W64)
  | park (p : Park)
  | down (line : Nat)
  deriving DecidableEq, Repr

/-- The launch identifier in fault records of a group. -/
def Here.launch (h : Here) : Nat := h.blk.launch

/-- The cause of a fault that cannot be resolved, if the translation of an address ends in one: not one whose key the fault table holds
(R392). Nothing is posted. -/
def deadCause (s : State) (h : Here) (va : Nat) (write : Bool) : Option Nat :=
  match (if va < 2 ^ 56 then tlbFind s h.dom h.ten va write else none) with
  | some _ => none
  | none =>
    if (pendingFault s h.dom h.ten va write).isSome then none else
    match (walk s h.ten va write).2 with
    | .fail c _ _ _ => if replayable c then none else some c
    | .ok _ _ _ => none

/-- Translation of every lane's address (R259, R392): one unresolvable fault traps with the lowest such lane, replayable
faults park with a record for each page, and only then are there addresses. -/
def translateLanes (s : State) (h : Here) (write : Bool) (ls : List (Nat × Nat)) : State × Checked :=
  match ls.find? fun (_, va) => (deadCause s h va write).isSome with
  | some (_, va) =>
    match accessPage s h.dom h.ten va write 0 h.c h.launch with
    | (s, .wait) => (s, .park .full)
    | (s, .down line) => (s, .down line)
    | (s, _) => (s, .trap xXlate (BitVec.ofNat 64 va))
  | none =>
    let (s, oks, pend, full) := ls.foldl (fun (s, oks, pend, full) (l, va) =>
      match accessPage s h.dom h.ten va write 0 h.c h.launch with
      | (s, .ok pa) => (s, oks ++ [(l, va, pa)], pend, full)
      | (s, .pending fid) => (s, oks, addMember2 pend (h.dom, fid, va), full)
      | (s, .wait) => (s, oks, pend, true)
      | (s, .dead _) => (s, oks, pend, true)
      | (s, .down _) => (s, oks, pend, true)) (s, [], [], false)
    if !pend.isEmpty then (s, .park (.fault pend)) else if full then (s, .park .full) else (s, .ok oks)
where
  addMember2 (ls : List (Nat × Nat × Nat)) (k : Nat × Nat × Nat) : List (Nat × Nat × Nat) :=
    if ls.any fun x => x.2.1 == k.2.1 && x.1 == k.1 then ls else ls ++ [k]

/-- R185 step 5 for the accesses of an instruction: MISALIGN, XLATE, SEALED, RANGELOCK over all lanes (R47, R259), and
SBFAULT for an ordinary store to an open counter's line (R112). The lowest lane that fails XLATE, by its bound or its translation, gives
%xinfo. `chkSb` marks the ordinary stores. -/
def checkAccess (s : State) (h : Here) (sp : Space) (n align : Nat) (write chkSb : Bool) (ls : List (Nat × W64)) : State × Checked :=
  match ls.find? fun (_, a) => a.toNat % align != 0 with
  | some (_, a) => (s, .trap xMisalign a)
  | none =>
    let limit := match sp with
      | .scratch => h.blk.kern.scratch
      | .local_ | .constant => 65536
      | .global => 2 ^ 64
    let bad := ls.find? fun (l, a) => decide (limit ≤ a.toNat) || (sp != .scratch && (deadCause s h (placeOf h sp l a) write).isSome)
    match bad.bind fun (_, a) => if limit ≤ a.toNat then some a else none with
    | some a => (s, .trap xXlate a)
    | none =>
      let places := ls.map fun (l, a) => (l, placeOf h sp l a)
      let (s, r) := if sp = .scratch then (s, Checked.ok (places.map fun (l, o) => (l, o, 0))) else translateLanes s h write places
      match r with
      | .ok oks =>
        match (if write && sp != .scratch then oks.find? fun (_, va, _) => sealed s h.ten va n else none) with
        | some (_, va, _) => (s, .trap xSealed (BitVec.ofNat 64 va))
        | none =>
          match oks.find? fun (_, p, _) => rangeLocked s h.c h.b (sp == .scratch) p n write with
          | some (_, p, _) => (s, .trap xRangelock (BitVec.ofNat 64 p))
          | none =>
            match (if write && chkSb && sp != .scratch then oks.findSome? fun (_, va, pa) =>
                (openCounter s h.ten pa).map fun k => va - pa % 128 + k % 128 else none) with
            | some a => (s, .trap xSbfault (BitVec.ofNat 64 a))
            | none => (s, .ok oks)
      | r => (s, r)

/-- A constant read through the core's constant cache (R49): a unit it holds, else the memory's, kept from then on. -/
def constRead (s : State) (c va pa n : Nat) (hint : BitVec 2) : State × Option Nat :=
  let u := va / 8
  match kget (s.core c).consts u with
  | some bs =>
    if Config.constHolds s.tick u then (s, some (leNat ((bs.drop (va % 8)).take n)))
    else fill s u
  | none => fill s u
where
  fill (s : State) (u : Nat) : State × Option Nat :=
    match weakRead s c (pa / 8 * 8) 8 hint with
    | (s, some bs) =>
      (s.updCore c fun k => { k with consts := kset k.consts u bs }, some (leNat ((bs.drop (va % 8)).take n)))
    | (s, none) => (s, none)

/-- A weak read of a lane (R263), or nothing on a poisoned line. -/
def readPlace (s : State) (c b : Nat) (sp : Space) (place pa n : Nat) (hint : BitVec 2) : State × Option Nat :=
  match sp with
  | .scratch => (s, (s.block c b).map fun k => k.scratchNat place n)
  | .constant => constRead s c place pa n hint
  | _ =>
    match weakRead s c pa n hint with
    | (s, some bs) => (s, some (leNat bs))
    | (s, none) => (s, none)
/-- A weak write of a lane (R263). -/
def writePlace (s : State) (c b : Nat) (sp : Space) (place pa n v : Nat) : State :=
  match sp with
  | .scratch => s.updBlock c b fun k => k.putScratch place (leBytes n v)
  | _ => weakWrite s c b pa (leBytes n v)

/-- The reads of all lanes: their values, or the poisoned line met first. -/
def readLanes (s : State) (h : Here) (sp : Space) (n : Nat) (hint : BitVec 2) (ls : List (Nat × Nat × Nat)) :
    State × Except Nat (List (Nat × Nat)) :=
  ls.foldl (fun (s, r) (l, p, pa) =>
    match r with
    | .error e => (s, .error e)
    | .ok vs =>
      match readPlace s h.c h.b sp p pa n hint with
      | (s, some v) => (s, .ok (vs ++ [(l, v)]))
      | (s, none) => (s, .error (lineOf pa))) (s, .ok [])

/-- A store homed in memory that is down fails as the read of a poisoned line (R401, R407). -/
def downLine (s : State) (t : Nat) (ls : List (Nat × Nat × Nat)) : Option Nat :=
  (ls.find? fun (_, _, pa) => s.homeDown t pa).map fun (_, _, pa) => lineOf pa

/-- What the checks decide, with the rest on addresses; a line that cannot be read kills the block (R70). -/
def afterCheck (r : State × Checked) (k : State → List (Nat × Nat × Nat) → Out) : Out :=
  match r with
  | (s, .ok ls) => k s ls
  | (s, .trap c i) => .trap s c i
  | (s, .park p) => .park s p
  | (s, .down line) => .gone (poisonKill s s.cur.core s.cur.block line)

/-- A load of every lane, then `k` on the values; a poisoned line kills the block (R70). -/
def loadThen (s : State) (h : Here) (sp : Space) (n : Nat) (hint : BitVec 2) (ls : List (Nat × W64))
    (k : State → List (Nat × Nat) → Out) : Out :=
  afterCheck (checkAccess s h sp n n false false ls) fun s oks =>
    match readLanes s h sp n hint oks with
    | (s, .ok vs) => k s vs
    | (s, .error line) => .gone (poisonKill s h.c h.b line)

/-- A store of every lane, lower lanes first, so that the highest lane's byte stays (R55). `val` reads the channel pops'
values and `pop` the state after them. -/
def storeThen (s : State) (h : Here) (sp : Space) (n : Nat) (ls : List (Nat × W64)) (val : Nat → W64) (pop : State → State) : Out :=
  afterCheck (checkAccess s h sp n n true true ls) fun s oks =>
    match (if sp = .scratch then none else downLine s h.ten oks) with
    | some line => .gone (poisonKill s h.c h.b line)
    | none => .fin (oks.foldl (fun s (l, p, pa) => writePlace s h.c h.b sp p pa n (val l).toNat) (pop s))

end Sys2Proof.Machine
end

