-- ==== Sys2Proof/Machine/Strong.lean ====
section
/-! DEFINITION. The releases and acquires of groups (R73-R76, R81, R85-R87, R261, R272) and of the device's own agents
(R38, R381). -/
namespace Sys2Proof.Machine
open Sys2Proof

/-- An agent of a block (R72): a thread's group and lane, or none for its engines. -/
def blockWho (s : State) (c : Nat) (k : Block) (thread : Option (Nat × Nat)) : Who :=
  { tenant := k.tenant, launch := k.launch, block := k.index, clus := k.index / k.clus, domain := coreDomain c
    quad := s.quad (coreDomain c), thread := thread, host := false }
/-- A lane of the group whose turn it is. -/
def Here.who (h : Here) (s : State) (l : Nat) : Who := blockWho s h.c h.blk (some (h.g, l))

/-- A block's signature (R85). -/
def sigNow (s : State) (c b : Nat) : BitVec 1024 := ((s.block c b).map fun k => k.sig).getD 0
/-- The signature is cleared after a release (R85). -/
def clearSig (s : State) (c b : Nat) : State := s.updBlock c b fun k => { k with sig := 0 }

/-- The scope that a lane's strong write publishes with, if it publishes (R75, R85, R272): its own, when it is a release; after a
releasing FENCE of the lane the narrower of the two, whose instance holds the agents that are mutually in scope with both. Thread and
group scope publish nothing. -/
def publishScope (g : Group) (rel : Bool) (scope : BitVec 4) (l : Nat) : Option (BitVec 4) :=
  let p := if rel then some scope else (kget g.fenceRel l).map fun f => if f.toNat < scope.toNat then f else scope
  p.filter fun sc => decide (2 ≤ sc.toNat)
/-- Some lane's strong write is a release (R75), so that earlier accesses are performed before it (R261). -/
def releases (g : Group) (rel : Bool) (ls : List Nat) : Bool := rel || ls.any fun l => (kget g.fenceRel l).isSome
/-- Before strong writes that release: the core's earlier stores and the group's stamp-book operations have been performed (R85, R261). -/
def beforePublish (s : State) (h : Here) (rel : Bool) : State := if rel then drainCore (serveGroup s h.c h.b h.g) h.c else s
/-- The strong write of a lane publishes (R85). -/
def publishAt (s : State) (h : Here) (p : Option (BitVec 4)) (sig : BitVec 1024) (l pa n : Nat) : State :=
  match p with
  | some sc => publish s (h.who s l) sig sc pa n
  | none => s
/-- After the strong writes of an instruction of which some published: the signature is cleared (R85). -/
def afterPublish (s : State) (h : Here) (published : Bool) : State := if published then clearSig s h.c h.b else s
/-- An acquire of a lane's strong read (R81, R86, R87): SCOPEMISS is judged on the release the read returned, then the
invalidations are made. -/
def acquireLane (s : State) (h : Here) (scope : BitVec 4) (l pa n : Nat) : State :=
  let who := h.who s l
  let miss := scopeMiss s who scope pa n
  let s := acquireAt s (some h.c) who scope pa
  if miss then raiseScopeMiss s h.c h.b h.g h.ten else s
/-- A strong read of the group is noted (R75, R272). -/
def noteRead (s : State) (h : Here) (scope : BitVec 4) (l pa n : Nat) : State := noteReadOf s h.c h.b h.g h.ten l scope pa n

/-- An acquiring FENCE over one earlier strong read (R272, R81): SCOPEMISS is judged on the release the read returned, while
it still is the recorded one, at the narrower of the two scopes (R75), for a lane that takes part; then the invalidations
are made. -/
def fenceAcquire (s : State) (h : Here) (scope : BitVec 4) (m : Lanes) (n : ReadNote) : State :=
  let who := h.who s n.lane
  let sc := if n.scope.toNat < scope.toNat then n.scope else scope
  let miss := match n.rel, (svtOf s (s.home h.ten n.addr) (lineOf n.addr)).bind fun e => e.rel with
    | some r, some r' => m.getLsbD n.lane && r.tick == r'.tick && r.who == r'.who && !mutualScope r.who r.scope who sc
    | _, _ => false
  let s := acquireAt s (some h.c) who scope n.addr
  if miss then raiseScopeMiss s h.c h.b h.g h.ten else s

/-- A release at wafer scope by the group whose turn it is, to a word of a line (R38). -/
def releaseWafer (s : State) (h : Here) (pa n : Nat) : State :=
  let s := beforePublish s h true
  let l := ((laneList 64 h.ent.mask).head?).getD 0
  clearSig (publish s (h.who s l) (sigNow s h.c h.b) 6 pa n) h.c h.b

/-- A line can be read: it is not poisoned, and its home is up (R70, R401, R407). -/
def lineReadable (s : State) (t line : Nat) : Bool := !s.poisoned line && !s.homeDown t (lineBase line)

/-- Bytes of a tenant's addresses read by the device with an acquire, page by page; nothing where an address does not
translate or a line cannot be read. No fault is posted. -/
def loadBytes (s : State) (t va n : Nat) : Nat → State × Option (List Byte)
  | 0 => (s, if n = 0 then some [] else none)
  | f + 1 =>
    if n = 0 then (s, some [])
    else
      let k := min n (65536 - va % 65536)
      match walk s t va false with
      | (s, .ok pa _ _) =>
        let s := (homeRead s t pa k).1
        let ls := (List.range (lineOf (pa + k - 1) - lineOf pa + 1)).map fun i => lineOf pa + i
        if ls.all (lineReadable s t) then
          match loadBytes s t (va + k) (n - k) f with
          | (s', some r) => (s', some (readBytes s.mem pa k ++ r))
          | (s', none) => (s', none)
        else (s, none)
      | (s, .fail _ _ _ _) => (s, none)
/-- The same, with as many pages as the length can touch. -/
def tenantBytes (s : State) (t va n : Nat) : State × Option (List Byte) := loadBytes s t va n (n / 65536 + 2)
/-- Little-endian words of bytes. -/
def wordsOf (bs : List Byte) : Nat → List W64
  | 0 => []
  | n + 1 => BitVec.ofNat 64 (leNat (bs.take 8)) :: wordsOf (bs.drop 8) n
/-- Words of a tenant's addresses. -/
def tenantWords (s : State) (t va n : Nat) : State × Option (List W64) :=
  match tenantBytes s t va (8 * n) with
  | (s, some bs) => (s, some (wordsOf bs n))
  | (s, none) => (s, none)

end Sys2Proof.Machine
end

