-- ==== Sys2Proof/Machine/Preempt.lean ====
section
/-! DEFINITION. What becomes of a block under pre-emption (R228, R286, R287, R362, R397): discarded, or released with what
the device keeps of it; and a block sent back to be dispatched again (R69, R109). -/
namespace Sys2Proof.Machine
open Sys2Proof

/-- A block is inside an idempotent region while every group that has not ended is (R286). -/
def insideRegion (k : Block) : Bool := k.groups.all fun (_, g) => g.ended || g.restart.isSome

/-- A block as the dispatcher gets it back: its record, and where its groups restart. -/
def Block.again (k : Block) (relaunches : Nat) (restarts : Option (KMap Restart)) (avoid : Option Nat)
    (after : List (Nat × BitVec 16)) : Waiting :=
  { tenant := k.tenant, launch := k.launch, first := k.index, size := 1, w := k.record, image := k.image, kern := k.kern
    relaunches := relaunches, restarts := restarts, avoid := avoid, home := k.home, after := after }

/-- A block leaves its core to be dispatched again (R69, R109, R287): its operations stop as those of a killed block, its
cluster's barriers are created afresh, grid barriers stay. -/
def sendBack (s : State) (c b : Nat) (relaunches : Nat) (restarts : Option (KMap Restart)) (avoid : Option Nat)
    (after : List (Nat × BitVec 16)) : State :=
  match s.block c b with
  | none => s
  | some k =>
    let s := returnCredits s c b
    let s := s.updCore c fun x => settleCore (freeBlockState x b true)
    let s := { s with domains := kmap s.domains fun _ (d : Domain) =>
      { d with sbReqs := d.sbReqs.filter fun r => !(r.core == c && r.block == b) } }
    let s := s.updLaunch k.tenant k.launch fun l =>
      { l with clusBars := l.clusBars.filter fun (key, _) => key / 8 != k.index / k.clus
               places := kdel l.places k.index }
    let s := s.updTen k.tenant fun n => { n with again := k.again relaunches restarts avoid after :: n.again }
    settlePreempt (recheckGrid (treeSync s k.tenant k.launch) k.tenant k.launch) k.tenant

/-- The grid barriers, with their generations, that keep a block's arrival though it is killed to be relaunched (R109): on the AND-tree
those at which its core's leaf has arrived. -/
def standing (s : State) (c : Nat) (k : Block) : List (Nat × BitVec 16) :=
  (List.range 4).filterMap fun n =>
    let bar := getBar s k 0 3 n
    if bar.arrived.contains k.index && (k.orphan || !onTree s k.tenant || leafArrived s k.tenant k.launch n c) then some (n, bar.gen)
    else none
/-- A killed block's arrivals at its grid barriers that do not stand. -/
def withdraw (s : State) (k : Block) (keep : List (Nat × BitVec 16)) : State :=
  s.updLaunch k.tenant k.launch fun l =>
    { l with gridBars := kmap l.gridBars fun n b =>
        if keep.any fun x => x.1 == n then b else { b with arrived := b.arrived.filter fun i => i != k.index } }
/-- A block is killed and relaunched on another core (R69, R109), not before the generations that its arrivals stand in are complete
(R359). -/
def relaunch (s : State) (c b : Nat) (keep : List (Nat × BitVec 16)) : State :=
  match s.block c b with
  | some k => sendBack (withdraw s k keep) c b (k.relaunches + 1) none (some c) keep
  | none => s

/-- The groups' restart points (R286): a group that has ended has none. -/
def restartsOf (k : Block) : KMap Restart := k.groups.filterMap fun (g, x) => x.restart.map fun r => (g, r)

/-- A flush-style discard (R287, R397). -/
def discardBlock (s : State) (c b : Nat) : State :=
  match s.block c b with
  | some k => sendBack s c b k.relaunches (some (restartsOf k)) none []
  | none => s

/-- Whether a block is handled in flush style while its tenant is pre-empted (R397): STYLE 2, or no `.trap` entry. -/
def flushStyle (s : State) (k : Block) : Bool := (s.ten k.tenant).pstyle == 2 || k.kern.trap.isNone

/-- A block that has become inside a region while it is being pre-empted in flush style is discarded (R397). -/
def maybeDiscard (s : State) (c b : Nat) : State :=
  match s.block c b with
  | some k => if (s.ten k.tenant).pstat == 1 && flushStyle s k && insideRegion k then discardBlock s c b else s
  | none => s

/-- Where a core keeps a released block's channel entry: by block and entry. -/
def keptKey (b ch : Nat) : Nat := b * 64 + ch
/-- The context area's slot of a core (R396): ranked by domain, bay and logical core, which is the order of their names. -/
def contextSlot (n : Tenant) (c : Nat) : Nat := n.pctx + 0x300000 * (n.placement.filter fun x => decide (x < c)).length
/-- The kept state is written to the core's slot (R397), whose layout is not published: its bytes become free values (log 65). -/
def writeContext (s : State) (c t : Nat) : State :=
  homeStore s t (contextSlot (s.ten t) c) ((List.range 0x300000).map (Config.contextByte s.tick))
/-- A block's core is released once every group that runs has acknowledged and its tile stream has saved (R228, R362, R397): the
device keeps the block, its channel entries and what they hold, writes them to the core's slot, and frees the entries on the core. -/
def tryRelease (s : State) (c b : Nat) : State :=
  match s.block c b with
  | none => s
  | some k =>
    let saved := match k.tile with | some t => t.saved && !t.ended | none => false
    let quiet := k.groups.all (fun (_, g) => g.ended || g.preacked) && (saved || k.groups.any fun (_, g) => !g.ended) &&
      (match k.tile with | some t => t.ended || t.saved | none => true)
    if quiet then
      let s := (drainCore s c).updCore c fun x =>
        { x with blocks := kdel x.blocks b, kept := kset x.kept b ((kget x.blocks b).getD k)
                 keptChans := (x.chans.filter fun (_, h) => h.owner == some b).foldl (fun m (ch, h) => kset m (keptKey b ch) h) x.keptChans
                 chans := x.chans.filter fun (_, h) => h.owner != some b }
      settlePreempt (writeContext s c k.tenant) k.tenant
    else s

/-- The freeze of a block's mesh-in entries ends once every group has returned from its PREEMPT handler after resumption
(R362). -/
def unfreeze (s : State) (c b : Nat) : State :=
  match s.block c b with
  | some k =>
    if k.groups.any fun (_, g) => !g.ended && match g.handler with | some h => h.isPreempt | none => false then s
    else
      let go (_ : Nat) (h : Chan) : Chan := if h.owner == some b then { h with frozen := false } else h
      s.updCore c fun x => { x with chans := kmap x.chans go }
  | none => s

end Sys2Proof.Machine
end

