-- ==== Sys2Proof/Machine/Accept.lean ====
section
/-! DEFINITION. The acceptance of continuation records (R31, R32, R35-R37, R39, R40, R43). -/
namespace Sys2Proof.Machine
open Sys2Proof

/-- Groups a partition holds at once for a kernel (R23). -/
def liveGroups (k : Kernel) : Nat := min 16 (131072 / max 1 (8 * ceilDiv k.regs 8 * k.width))
/-- A word offset of a code object as a code address (R339). -/
def pcOfWord (n : Nat) : Pc := ⟨n / 4096, n % 4096 * 4⟩

/-- What a code pointer of a tenant names: code 3 where the code object is not loaded, 4 where no kernel has the entry
(R35), else the image and the kernel. -/
def codeOf (s : State) (t code entry : Nat) : Except Nat (Nat × Kernel) :=
  match kget (s.ten t).codes code with
  | none => .error 3
  | some i =>
    match kget s.images i with
    | none => .error 3
    | some m =>
      match m.kernels.find? fun k => k.entry == pcOfWord entry with
      | some k => .ok (i, k)
      | none => .error 4

/-- Blocks of a grid word (R34 word 4). -/
def gridSize (g : W64) : Nat := bits g 0 24 * bits g 24 16 * bits g 40 16
def gridClus (g : W64) : Nat := max 1 (bits g 56 4)
/-- A grid word is in range (R35 code 5). -/
def gridOk (g : W64) : Bool := decide (1 ≤ gridSize g) && decide (gridSize g ≤ 2 ^ 32) && gridSize g % gridClus g == 0
/-- The block fits a core (R25, R26; code 8). -/
def fitsCore (k : Kernel) (ngrp : Nat) : Bool := decide (ceilDiv ngrp 4 ≤ liveGroups k) && decide (k.l1 + k.scratch ≤ 524288)
/-- A bay of the placement has as many cores as the cluster needs (code 9). -/
def bayFits (t : Tenant) (c : Nat) : Bool :=
  t.placement.any fun x => decide (c ≤ (t.placement.filter fun y => y / 16 == x / 16).length)

/-- Reserved fields, and fields that must be zero with others (code 2). -/
def recordReserved (w : List W64) : Bool :=
  bits (word w 0) 43 21 != 0 || bits (word w 2) 56 8 != 0 || bits (word w 3) 56 8 != 0 || bits (word w 4) 60 4 != 0 ||
  bits (word w 7) 56 8 != 0 || recJoin w % 128 != 0 || (recSset w && recKind w != 0) ||
  (!recSset w && bits (word w 7) 0 56 != 0) || (recHmode w == 1 && bits (word w 6) 36 28 != 0) ||
  (recHmode w == 2 && bits (word w 6) 56 8 != 0)

/-- RFIRST and RCOUNT fit KIND, the grid, and an OPEN launch of the same identifier (code 5). -/
def recordRange (s : State) (t : Nat) (w : List W64) : Bool :=
  let n := recGrid w
  let fits := decide (recFirst w + recCount w ≤ n)
  let same := ((s.ten t).counter 0 (recLaunch w)).st != lvOpen || match s.launch t (recLaunch w) with
    | some l => bits l.gridWord 0 56 == bits (word w 4) 0 56
    | none => true
  gridOk (word w 4) && match recKind w with
  | 0 => word w 5 == 0
  | 1 => decide (1 ≤ recCount w) && fits && same
  | _ => recCount w == 1 && fits && same

/-- The blocks a record names: first and count. -/
def recordBlocks (w : List W64) : Nat × Nat := if recKind w = 0 then (0, recGrid w) else (recFirst w, recCount w)

/-- The hint-table bytes of some blocks of a record (R40), first and count, or nothing where they cannot be read. -/
def hintBytes (s : State) (t : Nat) (w : List W64) (blocks : Nat × Nat) : State × Option (List Byte) :=
  if recHmode w = 2 && blocks.2 != 0 then tenantBytes s t (bits (word w 6) 0 56 + blocks.1) blocks.2 else (s, some [])

/-- One variant of a schedule set, checked as the record's own fields would be (R43). -/
def checkVariant (s : State) (t ngrp : Nat) (ws : List W64) (i : Nat) : Except Nat Variant :=
  let code := word ws (3 + 4 * i)
  let g := word ws (4 + 4 * i)
  match codeOf s t (bits code 0 20) (bits code 20 24) with
  | .error e => .error e
  | .ok (im, k) =>
    let v : Variant := ⟨word ws (2 + 4 * i), code, g, im, k⟩
    if bits g 0 24 = 0 then .ok v
    else if !gridOk g then .error 5
    else if !fitsCore k ngrp then .error 8
    else if !bayFits (s.ten t) (gridClus g) then .error 9 else .ok v

/-- The reserved fields and the order of the classes of a descriptor with `n` variants (code 10). -/
def descriptorOk (ws : List W64) (n : Nat) : Bool :=
  decide (1 ≤ n) && decide (n ≤ 8) && bits (word ws 0) 4 60 == 0 && bits (word ws 1) 56 8 == 0 &&
  (List.range n).all fun i =>
    bits (word ws (3 + 4 * i)) 44 20 == 0 && bits (word ws (4 + 4 * i)) 60 4 == 0 && word ws (5 + 4 * i) == 0 &&
    (i == 0 || decide ((word ws (4 * i - 2)).toNat < (word ws (4 * i + 2)).toNat))

/-- A record's schedule set (R43): the size word's address and the variants, or the lowest code that applies. -/
def scheduleSet (s : State) (t : Nat) (w : List W64) : State × Except Nat (Nat × List Variant) :=
  let a := bits (word w 7) 0 56
  match tenantWords s t a 34 with
  | (s, none) => (s, .error 7)
  | (s, some ws) =>
    let n := bits (word ws 0) 0 4
    let vs := (List.range (min n 8)).map (checkVariant s t (recNgrp w) ws)
    let bad := vs.filterMap fun v => match v with | .error e => some e | .ok _ => none
    let bad := if a % 16 != 0 || !descriptorOk ws n then bad ++ [10] else bad
    match bad with
    | [] => (s, .ok (bits (word ws 1) 0 56, vs.filterMap fun v => match v with | .ok x => some x | .error _ => none))
    | e :: r => (s, .error (r.foldl min e))

/-- The lowest variant whose CLASS is at least the size word, read with an acquire at wafer scope and without replay; code 7
where it cannot be read, 11 where no variant covers it (R43). -/
def selectVariant (s : State) (t : Nat) (sel : Nat × List Variant) : State × Except Nat Variant :=
  match tenantWords s t sel.1 1 with
  | (s, none) => (s, .error 7)
  | (s, some ws) =>
    match sel.2.find? fun v => decide ((word ws 0).toNat ≤ v.cls.toNat) with
    | some v => (s, .ok v)
    | none => (s, .error 11)

/-- The record with a variant's code pointer and grid in place of its own (R43). The hint table was read when it was accepted
(R40). -/
def applyVariant (r : Record) (v : Variant) : Record :=
  let w1 := (word r.w 1 &&& 0xFFFFF00000000000) ||| (v.code &&& 0x00000FFFFFFFFFFF)
  { r with w := setAt (setAt r.w 1 w1) 4 v.grid, image := v.image, kern := v.kern, sel := none, next := 0, left := gridSize v.grid }

/-- The record's phase is the dispatching phase, or becomes it with the job's first record (R32). -/
def phaseIsOpen (t : Tenant) (w : List W64) : Bool := (t.counter 3 0).st == lvFree || t.phase == recPhase w

/-- The schedule-set selection of a record whose phase is open is made at acceptance (R43); nothing where it is made later. Of a set
that fails its own checks the size word is read all the same: it may fail too (R35). -/
def selectNow (s : State) (t : Nat) (w : List W64) (set : Except Nat (Nat × List Variant)) : State × Option (Except Nat Variant) :=
  if !recSset w || !phaseIsOpen (s.ten t) w then (s, none)
  else
    match set with
    | .ok v =>
      let (s, r) := selectVariant s t v
      (s, some r)
    | .error _ =>
      match tenantWords s t (bits (word w 7) 0 56) 2 with
      | (s, none) => (s, none)
      | (s, some ws) =>
        match tenantWords s t (bits (word ws 1) 0 56) 1 with
        | (s, none) => (s, some (.error 7))
        | (s, some _) => (s, none)

/-- The blocks whose hint-table bytes acceptance reads (R40): those the record names; of a schedule set those of the chosen
variant, of the largest while the choice is still to come, or of a set that fails its checks those of the record's own grid (DESIGN
CHOICE, log 61). -/
def hintBlocks (w : List W64) (set : Except Nat (Nat × List Variant)) (pick : Option (Except Nat Variant)) : Nat × Nat :=
  match recSset w, pick, set with
  | true, some (.ok v), _ => (0, gridSize v.grid)
  | true, none, .ok (_, vs) => (0, vs.foldl (fun m v => max m (gridSize v.grid)) 0)
  | true, _, .error _ => recordBlocks w
  | true, some (.error _), .ok (_, vs) => (0, vs.foldl (fun m v => max m (gridSize v.grid)) 0)
  | false, _, _ => recordBlocks w

/-- The lowest of some reason codes, each with whether schedule-set selection gave it; of equal ones the first. -/
def lowestCode : List (Nat × Bool) → Option (Nat × Bool)
  | [] => none
  | x :: r => some (r.foldl (fun m y => if y.1 < m.1 then y else m) x)

/-- The checks of R35: the record as the dispatcher keeps it, or the lowest reason code that applies and whether it is the failure
of schedule-set selection (R43). A FRAME that is no multiple of 64 KiB fails no check and is used as it is (DESIGN CHOICE, log 147). -/
def checkRecord (s : State) (t : Nat) (w : List W64) (source ring core : Nat) : State × Except (Nat × Bool) Record :=
  let code := codeOf s t (recCode w) (recEntry w)
  let ranged := recordRange s t w
  let (s, join) := if recJoin w = 0 || recJoin w % 128 != 0 then (s, some []) else tenantBytes s t (recJoin w) 128
  let (s, set) := if recSset w then scheduleSet s t w else (s, .ok (0, []))
  let (s, pick) := selectNow s t w set
  let (s, homes) := if ranged then hintBytes s t w (hintBlocks w set pick) else (s, some [])
  let fails : List Nat :=
    (if 2 < recKind w || recHmode w = 3 then [1] else []) ++ (if recordReserved w then [2] else []) ++
    (match code with | .error e => [e] | .ok _ => []) ++ (if ranged then [] else [5]) ++
    (if recHmode w = 1 && bits (word w 6) 12 24 = 0 then [6] else []) ++
    (if homes.isNone || join.isNone then [7] else []) ++
    (match code with | .ok (_, k) => if fitsCore k (recNgrp w) then [] else [8] | .error _ => []) ++
    (if bayFits (s.ten t) (recClus w) then [] else [9]) ++
    (match set with | .error e => [e] | .ok _ => []) ++
    (if recKind w = 0 && ((s.ten t).counter 0 (recLaunch w)).st == lvOpen then [13] else [])
  let chosen : List (Nat × Bool) := match pick with | some (.error e) => [(e, true)] | _ => []
  match lowestCode ((fails.map fun e => (e, false)) ++ chosen), code, set with
  | none, .ok (im, k), .ok v =>
    let r : Record :=
      { w := w, source := source, ring := ring, core := core, since := s.now, image := im, kern := k
        sel := if recSset w then some v else none, next := (recordBlocks w).1, left := (recordBlocks w).2, homes := homes.getD [] }
    (s, .ok (match pick with | some (.ok v) => applyVariant r v | _ => r))
  | some e, _, _ => (s, .error e)
  | none, _, _ => (s, .error (3, false))

/-- The counters a record names, launch first (R30). -/
def recordKeys (w : List W64) : List (Nat × Nat) := [(0, recLaunch w), (1, recGraph w), (2, recPhase w), (3, 0)]

/-- A counter that is not OPEN becomes OPEN at a value, and counts in its parent (R31); an OPEN one rises. A job that opens
from FREE makes the record's phase the dispatching phase (R32); one that opens from DONE leaves the sequence where it
stands (DEDUCED, log 110). -/
def openUp (t : Tenant) (phase : Nat) (v : Nat) : List (Nat × Nat) → Tenant
  | [] => t
  | (lvl, id) :: up =>
    let c := t.counter lvl id
    if c.st == lvOpen then t.setCounter lvl id { c with value := c.value + v }
    else
      let t := if lvl = 3 && c.st == lvFree then { t with phase := phase } else t
      openUp (t.setCounter lvl id { c with st := lvOpen, value := v, closed := false, alrDone := false
                                           parent := (up.head?.map (·.2)).getD 0 }) phase 1 up

/-- A counter closed by the record's bit (R31). -/
def closeIf (t : Tenant) (lvl id : Nat) (b : Bool) : Tenant :=
  if b then t.setCounter lvl id { t.counter lvl id with closed := true } else t

/-- The queue or the phase hold that a record goes to has room (R39). -/
def hasRoom (t : Tenant) (w : List W64) : Bool :=
  if phaseIsOpen t w then decide ((t.queue (recQprio w)).length < 1024) else decide (t.hold.length < 4096)

/-- A fresh launch (R31, R97). -/
def Launch.fresh (grid : W64) (order : Nat) : Launch :=
  { gridWord := grid, grid := gridSize grid, order := order, patience := [], held := none, admitted := [], starts := []
    gridBars := [], clusBars := [], places := [], completed := [], heldAcks := [], failed := false }

/-- A checked record is accepted: discarded where it names a CANCELLED counter (R33), else counted (R31) and queued or
held (R32, R39). A range or block record of an OPEN launch that names another graph or phase than the launch's counts in no level
above the launch: it only closes those it names (DESIGN CHOICE, log 179). -/
def enterRecord (s : State) (t : Nat) (r : Record) : State :=
  let l := recLaunch r.w
  match cancelledKeys (s.ten t) r.w with
  | _ :: _ => s.updTen t fun n => countDiscard n r.w
  | [] =>
    let isOpen := ((s.ten t).counter 0 l).st == lvOpen
    let n := gridSize (word r.w 4)
    let s := if isOpen then s else
      s.updTen t fun x =>
        let x := openUp x (recPhase r.w) (max 1 n) (recordKeys r.w)
        let x := closeIf x 0 l true
        { x with launches := kset x.launches l (Launch.fresh (word r.w 4) s.tick) }
    let s := s.updTen t fun x =>
      closeIf (closeIf (closeIf x 1 (recGraph r.w) (bit (word r.w 0) 34)) 2 (recPhase r.w) (bit (word r.w 0) 35)) 3 0
        (bit (word r.w 0) 36)
    if n = 0 then lowerCounter s t 0 l 4
    else s.updTen t fun x =>
      if x.phase == recPhase r.w then
        { x with queues := kset x.queues (recQprio r.w) (x.queue (recQprio r.w) ++ [{ r with since := s.now }]) }
      else { x with hold := x.hold ++ [r] }

/-- A record is presented for acceptance, with room for it (R35, R43). -/
def acceptRecord (s : State) (t : Nat) (w : List W64) (source ring core : Nat) : State :=
  match checkRecord s t w source ring core with
  | (s, .error (e, sel)) => if sel then deadLetter s t w e 3 source ring core else deadLetter s t w e source 0 ring core
  | (s, .ok r) => enterRecord (s.updTen t fun n => { n with clean := false }) t r

/-- Whether a record may be presented: it fails its checks, or there is room for it (R39, R218, R382). -/
def presentable (s : State) (t : Nat) (w : List W64) (source ring core : Nat) : Bool :=
  match (checkRecord s t w source ring core).2 with
  | .ok _ => hasRoom (s.ten t) w
  | .error _ => true

/-- Where a record stands at its join counter (R34, R37): it may be accepted; it is refused with a reason code; or it goes to
the parked slot at a physical address. -/
inductive Gate where
  | accept
  | refuse (code : Nat)
  | park (pa : Nat)
  deriving DecidableEq, Repr

/-- The join counter of a record at its home (R37). A record whose JOINP is malformed or cannot be read goes to the checks of
R35, which refuse it. One that would be parked on a counter it cannot write, or whose slot is sealed, is refused with code 7 (DEDUCED, log 58). -/
def joinGate (s : State) (t : Nat) (w : List W64) : State × Gate :=
  if recJoin w = 0 || recJoin w % 128 != 0 then (s, .accept)
  else
    let look (pa : Nat) (s : State) (closed : State → Gate) : State × Gate :=
      if !lineReadable s t (lineOf pa) then (s, .accept)
      else
        let s := homeAccess s t (lineOf pa) false
        (s, if homeValue s pa 8 = 0 then .accept else closed s)
    match walk s t (recJoin w) true with
    | (s, .ok pa _ _) => look pa s fun s =>
        if sealed s t (recJoin w + 64) 64 then .refuse 7 else if readBytes s.mem (pa + 64) 64 != List.replicate 64 0 then .refuse 12 else .park (pa + 64)
    | (s, .fail _ _ _ _) =>
      match walk s t (recJoin w) false with
      | (s, .ok pa _ _) => look pa s fun _ => .refuse 7
      | (s, .fail _ _ _ _) => (s, .accept)

/-- A record refused at its join counter: the lowest of that code and those of its own checks (R35). -/
def refuseRecord (s : State) (t : Nat) (w : List W64) (code source ring core : Nat) : State :=
  match checkRecord s t w source ring core with
  | (s, .error (e, sel)) =>
    if code < e then deadLetter s t w code source 0 ring core
    else if sel then deadLetter s t w e 3 source ring core else deadLetter s t w e source 0 ring core
  | (s, .ok _) => deadLetter s t w code source 0 ring core

end Sys2Proof.Machine
end

