-- ==== Sys2Proof/Machine/Control.lean ====
section
/-! DEFINITION. Control flow, targets and overlay slots, special registers, traps and the handler (R17-R22, R209-R217,
R222-R228). -/
namespace Sys2Proof.Machine
open Sys2Proof

/-- The target priority of a branch (R195). -/
def targetPrio (x : Ext) : BitVec 14 := BitVec.ofNat 14 (x.mod6.toNat * 256 + x.aux8.toNat)

/-- %xinfo of a failing target (R225): segment in [43:32], the byte offset from the segment's start in [31:0]. -/
def targetInfo (seg : Nat) (off : Int) : W64 := BitVec.ofNat 64 (seg % 4096 * 2 ^ 32) + (BitVec.ofInt 32 off).zeroExtend 64

/-- An intra-segment target (R210): a multiple of 4 from the instruction, inside the segment. -/
def nearTarget (pc : Pc) (off : W64) : Except W64 Pc :=
  let t : Int := (pc.off : Int) + off.toInt
  if off.toInt % 4 = 0 ∧ 0 ≤ t ∧ t < 16384 then .ok ⟨pc.seg, t.toNat⟩ else .error (targetInfo pc.seg t)

/-- Why a target of R201 layout fails (R210). -/
inductive FarFault where
  | illop (info : W64)
  | codemiss (seg : Nat)

/-- A target word's address (R201, R210). -/
def farTarget (s : State) (h : Here) (w : W64) : Except FarFault Pc :=
  let p := Pc.ofTarget w
  if p.off % 4 != 0 then .error (.illop (targetInfo p.seg p.off))
  else if p.seg = h.ent.pc.seg || ((s.core h.c).slotOf p.seg).isSome then .ok p else .error (.codemiss p.seg)

/-- The trap of a failing target. -/
def farTrap (s : State) (f : FarFault) : Out :=
  match f with
  | .illop i => .trap s xIllop i
  | .codemiss seg => .trap s xCodemiss (BitVec.ofNat 64 seg)

/-- The entry is divided (R17, R212): lanes go to their targets with the target priorities, the rest to the next
instruction with theirs. -/
def divide (s : State) (h : Here) (len : Nat) (taken : Lanes) (parts : List (Pc × BitVec 14 × Lanes)) : State :=
  s.updGroup h.c h.b h.g fun g =>
    match entryAt g h.ent.pc with
    | some e =>
      replaceEntry g h.width h.ent.pc ({ e with pc := h.ent.pc.plus len, mask := e.mask &&& ~~~taken } ::
        parts.map fun (p, pr, m) => { e with pc := p, prio := pr, mask := m, slot := none })
    | none => g

/-- The lanes gathered by target and priority, in lane order. -/
def gatherParts (ls : List (Nat × Pc × BitVec 14)) : List (Pc × BitVec 14 × Lanes) :=
  ls.foldl (fun ps (l, p, pr) =>
    if ps.any fun (q, qr, _) => q == p && qr == pr then
      ps.map fun (q, qr, m) => if q == p && qr == pr then (q, qr, m ||| laneBit l) else (q, qr, m)
    else ps ++ [(p, pr, laneBit l)]) []

/-- The first failing lane's result, or all. -/
def allOk {ε α : Type} (ls : List (Nat × Except ε α)) : Except ε (List (Nat × α)) :=
  ls.foldr (fun (l, r) acc => match r with
    | .error e => .error e
    | .ok v => match acc with | .ok vs => .ok ((l, v) :: vs) | .error e => .error e) (.ok [])

/-- BRA (R211). -/
def bodyBra : ExtBody := fun x =>
  vecBody Rows.bra x false idle fun h s m =>
    match nearTarget h.ent.pc (x.lit.getD 0) with
    | .ok t => .went (divide s h (extLen x) m [(t, targetPrio x, m)])
    | .error i => .trap s xIllop i

/-- BRX (R212). -/
def bodyBrx : ExtBody := fun x =>
  vecBody Rows.brx x false idle fun h s m =>
    let ts := (laneList h.width m).map fun l => (l, nearTarget h.ent.pc ((h.grp.rv h.tick x.a.toNat l).signExtend 64))
    match allOk ts with
    | .ok ps => .went (divide s h (extLen x) m (gatherParts (ps.map fun (l, p) => (l, p, targetPrio x))))
    | .error i => .trap s xIllop i

/-- The link of CALL (R213). -/
def linkOf (prio : BitVec 14) (next : Pc) : W64 := BitVec.ofNat 64 (prio.toNat * 2 ^ 48 + next.seg * 2 ^ 32 + next.off)

/-- CALL (R213). -/
def bodyCall : ExtBody := fun x =>
  vecBody Rows.call x false idle fun h s m =>
    match farTarget s h (x.lit.getD 0) with
    | .ok t =>
      let link := linkOf h.ent.prio (h.ent.pc.plus (extLen x))
      let s := s.updGroup h.c h.b h.g fun g => (laneList h.width m).foldl (fun g l => g.putV2 h.tick x.d.toNat l link) g
      .went (divide s h (extLen x) m [(t, targetPrio x, m)])
    | .error f => farTrap s f

/-- A link's target and priority, or ILLOP on a bit of a zero field (R214). -/
def linkTarget (w : W64) : Except W64 (Pc × BitVec 14) :=
  let p := Pc.ofTarget w
  if w &&& 0xC000F000FFFFC000 != 0 then .error 0
  else if p.off % 4 != 0 then .error (targetInfo p.seg p.off)
  else .ok (p, w.extractLsb' 48 14)

/-- RET (R214), of a given length. -/
def bodyRet (len : Nat) : ExtBody := fun x =>
  vecBody Rows.ret x false idle fun h s m =>
    match allOk ((laneList h.width m).map fun l => (l, linkTarget (h.grp.rv2 h.tick x.a.toNat l))) with
    | .error i => .trap s xIllop i
    | .ok ps =>
      match ps.find? fun (_, p, _) => !(p.seg == h.ent.pc.seg || ((s.core h.c).slotOf p.seg).isSome) with
      | some (_, p, _) => .trap s xCodemiss (BitVec.ofNat 64 p.seg)
      | none => .went (divide s h len m (gatherParts ps))

/-- JFENCE (R215): fetching reads the slot as it is at every issue. -/
def bodyJfence : ExtBody := fun x =>
  vecBody Rows.jfence x false idle fun h s m =>
    match farTarget s h (x.lit.getD 0) with
    | .ok t => .went (divide s h (extLen x) m [(t, targetPrio x, m)])
    | .error f => farTrap s f

/-- An entry's PC is in slot `i`, which holds its segment (R209): the slot it was in when the segment landed in a lower one, and
otherwise the lowest-numbered, which targets use. -/
def Core.entryIn (k : Core) (i : Nat) (e : Entry) : Bool :=
  match e.slot with
  | some j => if (kget k.slots j).any fun w => w.usable && w.seg == e.pc.seg then i == j else k.slotNo e.pc.seg == some i
  | none => k.slotNo e.pc.seg == some i
/-- A slot is occupied (R209, R290): an entry of some group on the core has its PC in it, or a running tile stream is in its
segment. -/
def Core.occupied (k : Core) (i : Nat) : Bool :=
  match kget k.slots i with
  | some w =>
    w.usable &&
      k.blocks.any fun (_, b) => (b.groups.any fun (_, g) => g.allEntries.any fun e => e.pc.seg == w.seg && k.entryIn i e) ||
        b.tile.any fun t => !t.ended && t.pc.seg == w.seg
  | none => false
/-- An entry stays in the slot it is in when its segment lands in a lower slot `i` too (R209). -/
def Core.stayEntry (k : Core) (seg i : Nat) (e : Entry) : Entry :=
  match e.slot, k.slotNo seg with
  | none, some j => if e.pc.seg = seg ∧ i < j then { e with slot := some j } else e
  | _, _ => e
/-- The same of every entry on the core. -/
def Core.stay (k : Core) (seg i : Nat) : Core :=
  let group (g : Group) : Group := { g with
    frontier := g.frontier.map (k.stayEntry seg i)
    handler := g.handler.map fun h => { h with saved := h.saved.map (k.stayEntry seg i) } }
  { k with blocks := k.blocks.map fun (b, x) => (b, { x with groups := x.groups.map fun (n, g) => (n, group g) }) }

/-- A fetch into a slot (R216). -/
def startFetch (k : Core) (i seg : Nat) : Core :=
  let fetching : Slot := { state := slotFetching, seg := 0, words := [], starts := [], pending := some seg }
  match kget k.slots i with
  | none => { k with slots := kset k.slots i fetching }
  | some w =>
    if w.state == slotLoaded && w.seg == seg then k
    else if w.state == slotFetching || w.state == slotDeferred then { k with slots := kset k.slots i { w with pending := some seg } }
    else if k.occupied i then { k with slots := kset k.slots i { w with state := slotDeferred, pending := some seg } }
    else { k with slots := kset k.slots i fetching }

/-- The words of a segment of a stored image, if code was placed under it (R338). -/
def segmentOf (s : State) (image seg : Nat) : Option (List W32) := (kget s.images image).bind fun m => kget m.segs seg

/-- CFETCH (R216). -/
def bodyCfetch : ExtBody := fun x =>
  uniBody Rows.cfetch x false anyMode fun h s =>
    let (v, s1) := fetchSrcs s h Rows.cfetch x []
    let seg := (v.a 0).toNat
    match segmentOf s h.blk.image seg with
    | none => .trap s xCodemiss (v.a 0)
    | some _ => .fin (s1.updCore h.c fun k => startFetch k (x.aux8.extractLsb' 0 3).toNat seg)

/-- What follows the exit of lanes: excusals (R98), a discard or a release that now may happen (R228, R397), and the end of
a freeze (R362). -/
def afterExit (s : State) (c b : Nat) (resumed : Bool) : State :=
  let s := maybeDiscard (tryRelease (recheckBlock s c b) c b) c b
  if resumed then unfreeze s c b else s

/-- EXIT (R22): the lanes leave every mask, set-aside entries included. -/
def bodyExit (len : Nat) : ExtBody := fun x =>
  vecBody Rows.exit x false idle fun h s m =>
    let drop (e : Entry) : Entry := { e with mask := e.mask &&& ~~~m }
    let s := s.updGroup h.c h.b h.g fun g =>
      { g with exited := g.exited ||| m
               handler := g.handler.map fun hd => { hd with saved := (hd.saved.map drop).filter fun e => e.mask != 0 } }
    let s := divide s h len m []
    .went (afterExit s h.c h.b (match h.grp.handler with | some hd => hd.isPreempt && hd.resumed | none => false))

/-- YLD (R20). -/
def bodyYld (len : Nat) : ExtBody := fun x =>
  vecBody Rows.yld x false idle fun h s _ =>
    .went (s.updGroup h.c h.b h.g fun g =>
      match entryAt g h.ent.pc with
      | some e => replaceEntry g h.width h.ent.pc [{ e with pc := h.ent.pc.plus len, demoted := true }]
      | none => g)

/-- RECONV (R21, R217). -/
def bodyReconv : ExtBody := fun x =>
  vecBody Rows.reconv x false idle fun h s m =>
    let (v, s) := fetchSrcs s h Rows.reconv x (laneList h.width m)
    .went (waitAt s h (.reconv (v.a 0 &&& lanesBelow h.width) (h.ent.pc.plus (extLen x))))

/-- NOP (R217). -/
def bodyNop : ExtBody := fun x => vecBody Rows.nop x false idle fun _ s _ => .fin s

/-- The live cores the module advertises (R222). -/
def liveCores (s : State) : Nat :=
  ((List.range s.nlive).map fun d => (bayList.map fun b => s.bayCount d b).sum).sum

/-- The word of CAPQ (R222); a migrated tenant reads the architectural words installed for it (R417). -/
def capqWord (s : State) (t i : Nat) : W64 :=
  let n := s.ten t
  if i < 16 ∧ n.archWords ≠ [] then word n.archWords i
  else match i with
  | 0x00 => Config.arch
  | 0x01 => Config.feat
  | 0x02 => Config.limits
  | 0x03 => Config.saveVer
  | 0x04 => Config.ruleVer
  | 0x10 =>
    let doms := n.domains.length
    let edge := (List.range 32).any fun p => (s.cxlPort p).1 && (s.cxlPort p).2.1
    let peers := (List.range 24).any fun m => (s.peer m).2.1 && (s.peer m).2.2.1 && Config.peerAdmits n.vni m
    BitVec.ofNat 64 (n.placement.length % 2 ^ 14 + doms % 128 * 2 ^ 16 +
      (decide (doms ≤ 16) && n.pctx != 0).toNat * 2 ^ 23 + edge.toNat * 2 ^ 24 + peers.toNat * 2 ^ 25)
  | 0x11 => BitVec.ofNat 64 (s.nlive % 128 + liveCores s % 2 ^ 14 * 2 ^ 16)
  | 0x12 => BitVec.ofNat 64 (n.pthome % 64)
  | 0x1F => n.migGen
  | _ => 0

/-- CAPQ (R222). -/
def bodyCapq : ExtBody := fun x =>
  uniBody Rows.capq x false anyMode fun h s =>
    let (v, s) := fetchSrcs s h Rows.capq x []
    .fin (pendUni s h Rows.capq x (capqWord s h.ten (v.a 0).toNat) 0)

/-- %time of a domain (R405). -/
def timeOf (s : State) (d : Nat) : W64 := BitVec.ofInt 64 ((s.now : Int) + (s.dom d).skew)

/-- %ovl (R209, R223). -/
def ovlWord (k : Core) : W64 :=
  BitVec.ofNat 64 (((List.range 8).map fun i => (match kget k.slots i with | some w => w.state.toNat | none => 0) * 4 ^ i).sum)

/-- A special register of a lane (R29, R223). -/
def readSpecial (s : State) (h : Here) (n : BitVec 8) (l : Nat) : W64 :=
  let w := h.blk.record
  let gx := max 1 (recGx w)
  let gy := max 1 (recGy w)
  match n with
  | 0x00#8 => BitVec.ofNat 64 l
  | 0x01#8 => BitVec.ofNat 64 h.g
  | 0x02#8 => BitVec.ofNat 64 (h.blk.index % 2 ^ 32)
  | 0x03#8 => BitVec.ofNat 64 (h.blk.index % gx)
  | 0x04#8 => BitVec.ofNat 64 (h.blk.index / gx % gy)
  | 0x05#8 => BitVec.ofNat 64 (h.blk.index / gx / gy)
  | 0x06#8 => BitVec.ofNat 64 h.blk.rank
  | 0x07#8 => BitVec.ofNat 64 (recLaunch w)
  | 0x08#8 => BitVec.ofNat 64 (recGraph w)
  | 0x09#8 => BitVec.ofNat 64 (recPhase w)
  | 0x0A#8 => BitVec.ofNat 64 (h.c % 2 ^ 14)
  | 0x0B#8 => BitVec.ofNat 64 h.width
  | 0x0C#8 => ovlWord (s.core h.c)
  | 0x10#8 => timeOf s h.dom
  | 0x11#8 => (s.dom h.dom).timeoff
  | 0x18#8 => h.grp.fflags.zeroExtend 64
  | 0x19#8 => if h.grp.scopeMiss then 1 else 0
  | 0x20#8 => h.grp.xpc
  | 0x21#8 => h.grp.xprio.zeroExtend 64
  | 0x22#8 => h.grp.xcode.zeroExtend 64
  | 0x23#8 => h.grp.xinfo
  | 0x24#8 => h.grp.xmask
  | _ => 0

/-- A register marked H is accessible only inside a handler (R223). -/
def specialMode (x : Ext) (h : Here) : Bool :=
  match specialReg x.aux8 with
  | some r => !r.handler || h.grp.handler.isSome
  | none => true

/-- RDSR (R223). -/
def bodyRdsr : ExtBody := fun x =>
  uniBody Rows.rdsr x false (specialMode x) fun h s =>
    if x.mod6.getLsbD 0 then
      finPush s x (dstVec s h Rows.rdsr x ((laneList h.width h.ent.mask).map fun l =>
        (l, readSpecial s h x.aux8 l &&& 0xFFFFFFFF)))
    else finPush s x (dstUni s h Rows.rdsr x (readSpecial s h x.aux8 0))

/-- A special register written (R223): reserved bits stay as they read. -/
def writeSpecial (g : Group) (n : BitVec 8) (v : W64) : Group :=
  match n with
  | 0x18#8 => { g with fflags := v.extractLsb' 0 5 }
  | 0x19#8 => { g with scopeMiss := g.scopeMiss && !v.getLsbD 0 }
  | 0x20#8 => { g with xpc := v &&& 0x00000FFF00003FFF }
  | 0x21#8 => { g with xprio := v.extractLsb' 0 32 &&& 0x3FFF }
  | _ => g

/-- WRSR (R223). -/
def bodyWrsr : ExtBody := fun x =>
  uniBody Rows.wrsr x false (specialMode x) fun h s =>
    let (v, s) := fetchSrcs s h Rows.wrsr x []
    .fin (s.updGroup h.c h.b h.g fun g => writeSpecial g x.aux8 (v.a 0))

/-- TRAP (R226). -/
def bodyTrap : ExtBody := fun x =>
  uniBody Rows.trap x false anyMode fun _ s => .trapNext s xUtrap (x.aux8.zeroExtend 64)

/-- ERET (R227, R362): PRIV outside a handler. -/
def bodyEret : ExtBody := fun x =>
  uniBody Rows.eret x false (fun h => h.grp.handler.isSome) fun h s =>
    match h.grp.handler with
    | some hd =>
      let s := s.updGroup h.c h.b h.g fun g => match g.handler with | some d => returnHandler g h.width d | none => g
      .went (if hd.isPreempt && hd.resumed then unfreeze s h.c h.b else s)
    | none => .trap s xPriv 0

/-- PREACK (R228, R258): valid only in a handler that PREEMPT entered; it waits for the token slots. -/
def bodyPreack : ExtBody := fun x =>
  uniBody Rows.preack x false (fun h => match h.grp.handler with | some d => d.isPreempt | none => false) fun h s =>
    if !h.grp.tokens.isEmpty then .park s .token
    else
      let s := s.updGroup h.c h.b h.g fun g => moveEntry { g with preacked := true } h.width h.ent.pc (h.ent.pc.plus (extLen x))
      let s := finishIssue s h x.s
      .gone (tryRelease (s.updGroup h.c h.b h.g fun g => { g with park := some .preack }) h.c h.b)

def execBra (x : Ext) (s : State) := runExt bodyBra x s
def execBrx (x : Ext) (s : State) := runExt bodyBrx x s
def execCall (x : Ext) (s : State) := runExt bodyCall x s
def execRet (x : Ext) (s : State) := runExt (bodyRet (extLen x)) x s
def execJfence (x : Ext) (s : State) := runExt bodyJfence x s
def execCfetch (x : Ext) (s : State) := runExt bodyCfetch x s
def execExit (x : Ext) (s : State) := runExt (bodyExit (extLen x)) x s
def execYld (x : Ext) (s : State) := runExt (bodyYld (extLen x)) x s
def execReconv (x : Ext) (s : State) := runExt bodyReconv x s
def execNop (x : Ext) (s : State) := runExt bodyNop x s
def execCapq (x : Ext) (s : State) := runExt bodyCapq x s
def execRdsr (x : Ext) (s : State) := runExt bodyRdsr x s
def execWrsr (x : Ext) (s : State) := runExt bodyWrsr x s
def execTrap (x : Ext) (s : State) := runExt bodyTrap x s
def execEret (x : Ext) (s : State) := runExt bodyEret x s
def execPreack (x : Ext) (s : State) := runExt bodyPreack x s

end Sys2Proof.Machine
end

