-- ==== Sys2Proof/Machine/Service.lean ====
section
/-! DEFINITION. What the Postmaster publishes and requests: routes (R368), the topology and banded-latency tables
(R361, R370-R374), the service status (R409-R411), and the figures the dispatcher reads (R42). -/
namespace Sys2Proof.Machine
open Sys2Proof

/-- A stored image comes from a portable file (R349). -/
def isPortable (s : State) (image : Nat) : Bool := ((kget s.images image).map fun m => m.portable).getD false
/-- The segments that a block of an image and kernel needs before it starts (R343): of a portable object all of them (R349). -/
def needSegs (s : State) (image : Nat) (k : Kernel) : List Nat :=
  if isPortable s image then ((kget s.images image).map fun m => m.segs.map (·.1)).getD []
  else k.entry.seg :: (match k.tile with | some p => [p.seg] | none => [])
/-- Placed blocks of a domain that wait at their core for an overlay slot (R343). -/
def slotWaits (s : State) (d : Nat) : Nat :=
  (s.cores.map fun (c, k) => if coreDomain c = d then (k.blocks.filter fun (_, b) => !b.started && (needSegs s b.image b.kern).any fun x =>
    (k.slotOf x).isNone && !k.slots.any fun (_, w) => w.pending == some x).length else 0).sum
/-- Blocks that wait at a domain's dispatcher (R41), with those held back for it (R45, R107) and at its cores (R343). -/
def queuedAt (s : State) (d : Nat) : Nat :=
  let held := (s.tenants.map fun (_, n) => n.launches.map fun (_, x) => match x.held with
    | some (e, k) => if e = d then k else 0
    | none => 0).flatten
  ((s.dom d).queue.map fun w => w.size).sum + held.sum + slotWaits s d

/-- The free and queued figures taken anew (R42, R370). A core free at the refresh is listed. -/
def takeFigures (s : State) : State :=
  let free := (((List.range s.nlive).filter fun d => !(s.dom d).lost).map fun d => (bayList.map fun b =>
    ((List.range (s.bayCount d b)).map fun n => coreName d b n).filter fun c => (s.core c).isFree).flatten).flatten
  s.updMod fun m => { m with freeFigs := free.map fun c => (c, 1)
                             queuedFigs := (List.range s.nlive).map fun d => (d, queuedAt s d) }

/-- A control that the Sorter sets through the Postmaster's mailbox (R364): with a value inside the limits it is set; else the write is
refused, entered in the violation log, and the Sorter is told. While the Sorter is down it keeps its last value, and while the
Postmaster is replaced the write waits (R414). -/
def sorterSets (s : State) (control v : Nat) (f : State → State) : State :=
  let ok := match kget s.mod.limits control with
    | some (lo, hi) => decide (lo ≤ v) && decide (v ≤ hi)
    | none => false
  if !s.mod.sorterUp || s.mod.fwFetch.isSome then s
  else if ok then f s
  else s.updMod fun m => { m with violations := m.violations ++ [⟨1, control, v⟩], refusals := m.refusals + 1 }
/-- The numbers of the controls that are no register of the control space (DESIGN CHOICE, log 164): a tenant's dispatch weight, its
residency budget in a domain, a domain's operating point of a tier, a region's ballast and its throttle. -/
def ctlWeight (t : Nat) : Nat := 0x1000000 + t
def ctlBudget (d t : Nat) : Nat := 0x2000000 + d * 64 + t
def ctlPoint (d tier : Nat) : Nat := 0x3000000 + d * 2 + tier
def ctlBallast (r : Nat) : Nat := 0x4000000 + r
def ctlThrottle (r : Nat) : Nat := 0x5000000 + r

/-- Whether a field lies on the wafer and is live. -/
def liveField (s : State) (x y : Int) : Bool :=
  decide (0 ≤ x) && decide (x < 8) && decide (0 ≤ y) && decide (y < 8) && s.mod.fieldOf.contains (8 * y + x).toNat
/-- The fields one stitch away under a turn model (R368): while `first` holds a move in a leading direction keeps it; any
other move ends it. West-first leads with −x, negative-first with −x and −y. -/
def turns (s : State) (neg : Bool) (p : Int × Int × Bool) : List (Int × Int × Bool) :=
  let (x, y, first) := p
  let lead (dx dy : Int) : Bool := dx < 0 || (neg && dy < 0)
  ([((1 : Int), (0 : Int)), (-1, 0), (0, 1), (0, -1)].filterMap fun (dx, dy) =>
    if liveField s (x + dx) (y + dy) && s.mod.stitched (8 * y + x).toNat (8 * (y + dy) + (x + dx)).toNat && (first || !lead dx dy) then
      some (x + dx, y + dy, first && lead dx dy)
    else none)
/-- Stitches crossed on the shortest legal path from a set of positions to a field, up to a bound. -/
def stitchesFrom (s : State) (neg : Bool) (goal : Int × Int) : Nat → Nat → List (Int × Int × Bool) → Option Nat
  | 0, _, _ => none
  | k + 1, n, ps =>
    if ps.any fun p => p.1 == goal.1 && p.2.1 == goal.2 then some n
    else
      let next := (ps.map (turns s neg)).flatten.foldl (fun l p => if l.contains p then l else l ++ [p]) []
      stitchesFrom s neg goal k (n + 1) next
/-- The fields of the shortest path of `n` stitches from a position (R368): of equal paths the one whose x steps come first. -/
def pathFrom (s : State) (neg : Bool) (goal : Int × Int) : Nat → Int × Int × Bool → List Nat
  | 0, _ => []
  | n + 1, p =>
    match (turns s neg p).find? fun q => stitchesFrom s neg goal 64 0 [q] == some n with
    | some q => (8 * q.2.1 + q.1).toNat :: pathFrom s neg goal n q
    | none => []
/-- The route of two live domains (R368): whether it takes the second virtual channel, and the fields it enters; nothing where neither
model has a path. -/
def routeOf (s : State) (d e : Nat) : Option (Bool × List Nat) :=
  let start : Int × Int × Bool := ((s.px d : Int), (s.py d : Int), true)
  let goal : Int × Int := ((s.px e : Int), (s.py e : Int))
  match stitchesFrom s false goal 64 0 [start] with
  | some n => some (false, pathFrom s false goal n start)
  | none => (stitchesFrom s true goal 64 0 [start]).map fun n => (true, pathFrom s true goal n start)
/-- The route tables loaded (R366 step 5, R368). -/
def loadRoutes (s : State) : State :=
  let ds := List.range s.nlive
  s.updMod fun m => { m with routes := (ds.map fun d => ds.filterMap fun e => (routeOf s d e).map fun r => (d * 64 + e, r)).flatten }
/-- The stitches crossed on the route of two domains, from the table. -/
def routeXing (s : State) (d e : Nat) : Nat := ((kget s.mod.routes (d * 64 + e)).map fun r => r.2.length).getD 0

/-- A domain is live for the tables (R361, R411): it has a number, and it is not lost. -/
def liveDomain (s : State) (d : Nat) : Bool := decide (d < s.nlive) && !(s.dom d).lost
/-- An entry of the banded-latency table (R361, R374). -/
def latEntry (s : State) (d e : Nat) : W64 :=
  if s.nlive ≤ d || s.nlive ≤ e then 0
  else
    let b := s.band d e
    BitVec.ofNat 64 (s.mod.latNs.getD b 0 % 2 ^ 16 * 2 ^ 32 + min 15 (routeXing s d e) * 256 +
      (liveDomain s d && liveDomain s e).toNat * 8 + b)
/-- The path of the same-bay, node and system entries exists (R374): a bay with two cores, a host port that is up, a peer that is UP. -/
def fixedPath (s : State) (b : Nat) : Bool :=
  if b = 0 then (List.range s.nlive).any fun d => liveDomain s d && bayList.any fun n => decide (2 ≤ s.bayCount d n)
  else if b = 6 then s.mod.hostUp.any fun u => u
  else s.mod.peers.any fun (_, _, _, up, _) => up
/-- The same-bay, node and system entries. -/
def latFixed (s : State) (b : Nat) : W64 :=
  BitVec.ofNat 64 (s.mod.latNs.getD b 0 % 2 ^ 16 * 2 ^ 32 + (fixedPath s b).toNat * 8 + b)

/-- The cores a page counts: a tenant's placement, or every core. -/
def pageCores (s : State) (holds : Nat → Bool) (d b : Nat) : List Nat :=
  ((List.range (s.bayCount d b)).map fun i => coreName d b i).filter holds
def pageFree (s : State) (holds : Nat → Bool) (d b : Nat) : Nat :=
  ((pageCores s holds d b).filter fun c => (kget s.mod.freeFigs c).isSome).length

/-- Nine 4-bit counts. -/
def nineCounts (f : Nat → Nat) : Nat := (bayList.map fun b => f b % 16 * 16 ^ b).sum
/-- The words of a domain's entry (R372). -/
def topoDomain (s : State) (holds : Nat → Bool) (home : Option Nat) (d : Nat) : List W64 :=
  if s.nlive ≤ d then zeros 8
  else
    let adv b := (pageCores s holds d b).length
    let edge := ((List.range 32).filter fun p => (s.cxlPort p).2.2.1 == d && (s.cxlPort p).2.1).map fun p => 2 ^ p
    [BitVec.ofNat 64 ((home == some d).toNat * 2 ^ 16 + (s.dom d).drain.toNat * 2 ^ 15 + s.prg d * 256 + s.quad d * 64 +
       s.py d * 8 + s.px d),
     BitVec.ofNat 64 (nineCounts adv), BitVec.ofNat 64 (nineCounts (pageFree s holds d)),
     BitVec.ofNat 64 ((bayList.map adv).sum * 2 ^ 32 + (kget s.mod.queuedFigs d).getD 0 % 2 ^ 16 * 2 ^ 16 +
       (bayList.map (pageFree s holds d)).sum),
     BitVec.ofNat 64 edge.sum, 0, 0, 0]
/-- A CXL port's word (R373). -/
def topoPort (s : State) (p : Nat) : W64 :=
  let (up, dev, home, cap) := s.cxlPort p
  BitVec.ofNat 64 (home % 64 + up.toNat * 64 + dev.toNat * 128 + cap % 2 ^ 40 * 256)
/-- The topology table over some cores (R371-R373): LIVECORES, the page-table home of a tenant's page, and the weights' words. -/
def topoTable (s : State) (holds : Nat → Bool) (home : Option Nat) (cores : Nat) (weights : List W64) : List W64 :=
  [s.mod.topoGen, BitVec.ofNat 64 (s.mod.topoVer.toNat * 2 ^ 48 + (s.mod.svc.getLsbD 0).toNat * 2 ^ 47 +
     cores % 2 ^ 14 * 2 ^ 16 + s.nlive), BitVec.ofNat 64 s.mod.pubTime, 0, 0, 0, 0, 0] ++
  ((List.range 64).map (topoDomain s holds home)).flatten ++ (List.range 32).map (topoPort s) ++ weights
/-- A tenant's weights (R373): WD, WQ and QWT. -/
def weightWord (s : State) (t : Nat) : W64 :=
  BitVec.ofNat 64 ((s.ten t).wd.toNat + (s.ten t).wq.toNat * 2 ^ 16 + s.mod.weightOf t * 2 ^ 32)
/-- The topology table of a tenant's page, which counts its placement. -/
def topoWords (s : State) (t : Nat) : List W64 :=
  topoTable s (s.ten t).holds (some (s.ten t).pthome) (s.ten t).placement.length [weightWord s t]
/-- The live cores of the module (R371). -/
def advertised (s : State) : Nat := (((List.range s.nlive).filter fun d => !(s.dom d).lost).map fun d => (bayList.map fun b => s.bayCount d b).sum).sum
/-- The topology table of the PF's page, which counts every core and holds the 64 tenants' words (R370, R373). -/
def pfTopoWords (s : State) : List W64 := topoTable s (fun _ => true) none (advertised s) ((List.range 64).map (weightWord s))
/-- The banded-latency table (R374). -/
def latWords (s : State) : List W64 :=
  ((List.range 64).map fun d => (List.range 64).map fun e => latEntry s d e).flatten ++ [latFixed s 0, latFixed s 6, latFixed s 7]

/-- Words as bytes. -/
def bytesOf (ws : List W64) : List Byte := ws.foldr (fun w r => leBytes 8 w.toNat ++ r) []
/-- A tenant's topology table rewritten in its page (R370). -/
def publishPage (s : State) (t : Nat) : State := homeStore s t (s.ten t).topopa (bytesOf (topoWords s t))
/-- The PF's table rewritten in its page, once boot has set the page. -/
def publishPf (s : State) : State := match s.mod.pfPage with | some pa => homeStore s 0 pa (bytesOf (pfTopoWords s)) | none => s
/-- Every topology table rewritten, the PF's and every admitted tenant's: GEN stands two higher, even (R370). -/
def publish1 (s : State) : State :=
  let s := publishPf (s.updMod fun m => { m with topoGen := m.topoGen + 2, pubTime := s.now })
  (s.tenants.filter fun (_, n) => n.st != 0).foldl (fun s (t, _) => publishPage s t) s
/-- The banded-latency tables rewritten with it. -/
def publishLat (s : State) (t : Nat) : State := homeStore s t ((s.ten t).topopa + 0x4000) (bytesOf (latWords s))
def publishAll (s : State) : State :=
  let s := publish1 s
  let s := match s.mod.pfPage with | some pa => homeStore s 0 (pa + 0x4000) (bytesOf (latWords s)) | none => s
  (s.tenants.filter fun (_, n) => n.st != 0).foldl (fun s (t, _) => publishLat s t) s
/-- A change of the topology other than the figures: TOPOVER rises and the pages are republished (R371), with new figures while the
Sorter refreshes them (R364). -/
def raiseTopo (s : State) : State :=
  let s := s.updMod fun m => { m with topoVer := m.topoVer + 1 }
  publishAll (if s.mod.sorterUp then takeFigures s else s)

/-- Reason bits of SVCSTAT (R411). -/
def svcSpareLow : Nat := 2
def svcDlost : Nat := 3
def svcHalfw : Nat := 4
def svcPortDown : Nat := 5
/-- A reason to replace the module (R411): a bit that becomes set sets REPL and posts REPLREQ; the first raises TOPOVER. -/
def requestRepl (s : State) (i : Nat) : State :=
  if s.mod.svc.getLsbD i then s
  else
    let first := !s.mod.svc.getLsbD 0
    let s := s.updMod fun m => { m with svc := m.svc ||| BitVec.ofNat 6 (2 ^ i + 1) }
    let s := if first then raiseTopo s else s
    postEvent s 9 0 [BitVec.ofNat 64 (s.mod.svc.toNat / 2), BitVec.ofNat 64 (s.nlive + advertised s % 2 ^ 14 * 2 ^ 16), 0, 0, 0, 0]

/-- A physical core of a live domain is dead. -/
def deadCore (s : State) (d b n : Nat) : Bool := s.mod.deadCores.contains (s.fieldPos d, b, n)
/-- The physical core of a logical one (R367, R369). -/
def physOf (s : State) (c : Nat) : Option Nat := ((kget s.mod.bays (coreDomain c * 16 + coreBay c)).getD [])[c % 16]?
/-- SPARES and SHORTBAYS of a domain (R409). -/
def spares (s : State) (d : Nat) : Nat :=
  (bayList.filter fun b => !deadCore s d b 15 && !((kget s.mod.bays (d * 16 + b)).getD []).contains 15).length
def shortBays (s : State) (d : Nat) : Nat := (bayList.filter fun b => decide (s.bayCount d b < 15)).length
/-- SPARELOW of a domain (R411). -/
def checkSpares (s : State) (d : Nat) : State :=
  if !(s.dom d).lost && decide (spares s d < s.mod.spareMin.toNat) then requestRepl s svcSpareLow else s

end Sys2Proof.Machine
end

