-- ==== Sys2Proof/Decode.lean ====
section
/-! DEFINITION. Decoding the instruction words (spec/07 R174-R186, spec/08 R194-R203), and after it the encoder. -/
namespace Sys2Proof

/-- Why words do not decode: too few of them (R175), a reserved opcode (R194, R203), the reserved bit of w1 (R178), or
an encoding check of R185 step 1. The stream that meets them raises ILLOP, the tile stream TILLOP. -/
inductive DecodeError where
  | truncated
  | reservedOpcode
  | reservedBit
  | encoding
  deriving DecidableEq, Repr

/-- The words of an instruction whose first word has length field `l` (R174). -/
def lengthWords (l : BitVec 2) : Nat :=
  match l with
  | 0#2 => 1
  | 1#2 => 3
  | 2#2 => 5
  | _ => 3

/-- The constructors of the extended opcodes (R195-R198). -/

def extTable0 : List (BitVec 10 × (Ext → Instr)) :=
  [(0x000, .uadd),
   (0x001, .usub),
   (0x002, .umul),
   (0x003, .umulh),
   (0x004, .umad),
   (0x005, .uand),
   (0x006, .uor),
   (0x007, .uxor),
   (0x008, .ushl),
   (0x009, .ushr),
   (0x00A, .usra),
   (0x00B, .umin),
   (0x00C, .umax),
   (0x00D, .uclz),
   (0x00E, .upopc),
   (0x00F, .ulea),
   (0x010, .usel),
   (0x011, .ucmp),
   (0x012, .umov),
   (0x018, .uld),
   (0x019, .ust),
   (0x020, .bra),
   (0x021, .brx),
   (0x022, .call)]

/-- The extended opcodes, continued. -/
def extTable1 : List (BitVec 10 × (Ext → Instr)) :=
  [(0x023, .ret),
   (0x024, .jfence),
   (0x025, .cfetch),
   (0x026, .exit),
   (0x027, .yld),
   (0x028, .reconv),
   (0x029, .nop),
   (0x030, .spawn),
   (0x031, .join),
   (0x032, .cancel),
   (0x033, .lvlrd),
   (0x034, .capq),
   (0x038, .rdsr),
   (0x039, .wrsr),
   (0x03A, .trap),
   (0x03B, .eret),
   (0x03C, .preack),
   (0x100, .iadd),
   (0x101, .isub),
   (0x102, .imul),
   (0x103, .imulh),
   (0x104, .imad),
   (0x105, .imin),
   (0x106, .imax)]

/-- The extended opcodes, continued. -/
def extTable2 : List (BitVec 10 × (Ext → Instr)) :=
  [(0x107, .iabs),
   (0x108, .iand),
   (0x109, .ior),
   (0x10A, .ixor),
   (0x10B, .ishl),
   (0x10C, .ishr),
   (0x10D, .isra),
   (0x10E, .iclz),
   (0x10F, .ipopc),
   (0x110, .ibfx),
   (0x111, .ibfi),
   (0x112, .iset),
   (0x113, .isel),
   (0x120, .fadd),
   (0x121, .fsub),
   (0x122, .fmul),
   (0x123, .ffma),
   (0x124, .fmin),
   (0x125, .fmax),
   (0x126, .fset),
   (0x127, .fclass),
   (0x128, .hadd2),
   (0x129, .hmul2),
   (0x12A, .hfma2)]

/-- The extended opcodes, continued. -/
def extTable3 : List (BitVec 10 × (Ext → Instr)) :=
  [(0x12B, .hmin2),
   (0x12C, .hmax2),
   (0x130, .cvt),
   (0x131, .pack4),
   (0x132, .unpk4),
   (0x138, .plop),
   (0x139, .mov),
   (0x13A, .s2v),
   (0x13B, .v2s),
   (0x140, .shfl),
   (0x141, .vote),
   (0x142, .redg),
   (0x143, .scang),
   (0x144, .matchLanes),
   (0x150, .exp2),
   (0x151, .log2),
   (0x152, .rcp),
   (0x153, .rsq),
   (0x154, .sqrt),
   (0x155, .tanh),
   (0x156, .lgst),
   (0x157, .sinp),
   (0x158, .cosp),
   (0x15F, .sfwait)]

/-- The extended opcodes, continued. -/
def extTable4 : List (BitVec 10 × (Ext → Instr)) :=
  [(0x200, .ldg),
   (0x201, .stg),
   (0x202, .lds),
   (0x203, .sts),
   (0x204, .ldl),
   (0x205, .stl),
   (0x206, .ldc),
   (0x207, .pfch),
   (0x210, .atom),
   (0x211, .atomc),
   (0x212, .red),
   (0x213, .atoms),
   (0x214, .lda),
   (0x215, .strl),
   (0x216, .fence),
   (0x220, .objdecl),
   (0x221, .objdrop),
   (0x222, .sealRange),
   (0x223, .unsealRange),
   (0x224, .rsdecl),
   (0x225, .rsset),
   (0x226, .rsevict),
   (0x230, .bara),
   (0x231, .barw)]

/-- The extended opcodes, continued. -/
def extTable5 : List (BitVec 10 × (Ext → Instr)) :=
  [(0x232, .bars),
   (0x233, .bargen),
   (0x234, .barcfg),
   (0x235, .sstep),
   (0x240, .sbinit),
   (0x241, .sbtake),
   (0x242, .sbgive),
   (0x243, .sbread),
   (0x244, .sbclose),
   (0x250, .cpy),
   (0x251, .cpyr),
   (0x252, .cpym),
   (0x253, .mack),
   (0x254, .chain),
   (0x255, .marm),
   (0x256, .mwait),
   (0x260, .chcfg),
   (0x261, .chstat),
   (0x262, .vqsend),
   (0x270, .idmb),
   (0x271, .idme),
   (0x300, .tset),
   (0x301, .tdesc),
   (0x302, .tzero)]

/-- The extended opcodes, continued. -/
def extTable6 : List (BitVec 10 × (Ext → Instr)) :=
  [(0x303, .tldacc),
   (0x304, .tmma),
   (0x305, .tmmab),
   (0x306, .tscale),
   (0x307, .ttrans),
   (0x308, .tadd),
   (0x309, .tcvt),
   (0x30A, .tstore),
   (0x30B, .tbar),
   (0x30C, .tloop),
   (0x30D, .tend),
   (0x30E, .tfence),
   (0x30F, .rwperm),
   (0x310, .tsave),
   (0x311, .trstr),
   (0x312, .tnop),
   (0x313, .texit)]

/-- All extended opcodes (R194). -/
def extTable : List (BitVec 10 × (Ext → Instr)) :=
  extTable0 ++ extTable1 ++ extTable2 ++ extTable3 ++ extTable4 ++ extTable5 ++ extTable6

/-- Base opcodes (R202). -/
def baseTable0 : List (BitVec 8 × (Base → Instr)) :=
  [(0x00, .nopBase),
   (0x01, .movBase),
   (0x02, .iaddS32Base),
   (0x03, .iaddS32ImmBase),
   (0x04, .isubS32Base),
   (0x05, .imulS32Base),
   (0x06, .imulS32ImmBase),
   (0x07, .imulhS32Base),
   (0x08, .iminS32Base),
   (0x09, .imaxS32Base),
   (0x0A, .iminU32Base),
   (0x0B, .imaxU32Base),
   (0x0C, .iandBase),
   (0x0D, .iorBase),
   (0x0E, .ixorBase),
   (0x0F, .ishlBase)]

/-- Base opcodes (R202). -/
def baseTable1 : List (BitVec 8 × (Base → Instr)) :=
  [(0x10, .ishlImmBase),
   (0x11, .ishrBase),
   (0x12, .ishrImmBase),
   (0x13, .israBase),
   (0x14, .israImmBase),
   (0x15, .iandImmBase),
   (0x16, .faddBase),
   (0x17, .fsubBase),
   (0x18, .fmulBase),
   (0x19, .fminBase),
   (0x1A, .fmaxBase),
   (0x1B, .hadd2F16Base),
   (0x1C, .hmul2F16Base),
   (0x1D, .hadd2Bf16Base),
   (0x1E, .hmul2Bf16Base),
   (0x1F, .s2vBase)]

/-- Base opcodes (R202). -/
def baseTable2 : List (BitVec 8 × (Base → Instr)) :=
  [(0x20, .v2sBase),
   (0x21, .uaddS64Base),
   (0x22, .uaddS64ImmBase),
   (0x23, .usubS64Base),
   (0x24, .umulS64Base),
   (0x25, .uandBase),
   (0x26, .uorBase),
   (0x27, .uxorBase),
   (0x28, .ushlImmBase),
   (0x29, .ushrImmBase),
   (0x2A, .uminS64Base),
   (0x2B, .umaxS64Base),
   (0x2C, .umovBase),
   (0x2D, .ldsB32Base),
   (0x2E, .ldgB32Base),
   (0x2F, .ldgU64Base)]

/-- Base opcodes (R202). -/
def baseTable3 : List (BitVec 8 × (Base → Instr)) :=
  [(0x30, .uldU64Base),
   (0x31, .isetLtS32Base),
   (0x32, .isetGeS32Base),
   (0x33, .isetEqS32Base),
   (0x34, .isetNeS32Base),
   (0x35, .ucmpLtS64Base),
   (0x36, .ucmpEqS64Base),
   (0x37, .ucmpLtS64ImmBase),
   (0x38, .exitBase),
   (0x39, .yldBase),
   (0x3A, .retBase),
   (0x3B, .umovImmBase),
   (0x3C, .movImmBase),
   (0x3D, .ldcB32Base),
   (0x3E, .usraImmBase),
   (0x3F, .upopcBase)]

/-- All base opcodes (R202). -/
def baseTable : List (BitVec 8 × (Base → Instr)) :=
  baseTable0 ++ baseTable1 ++ baseTable2 ++ baseTable3

/-- The constructor that a table gives an opcode. -/
def lookupOp {n : Nat} {α : Type} (t : List (BitVec n × (α → Instr))) (k : BitVec n) : Option (α → Instr) :=
  match t with
  | [] => none
  | (j, f) :: r => if j = k then some f else lookupOp r k

/-- A literal from its two words, low first (R174). -/
def literalOf (lo hi : W32) : W64 := hi ++ lo

/-- The fields of the three extended words (R178). -/
def extFields (w0 w1 w2 : W32) (lit : Option W64) : Ext :=
  { s := w0.getLsbD 2, g0 := w0.extractLsb' 13 3, g0n := w0.getLsbD 16, g1 := w0.extractLsb' 17 3, g1n := w0.getLsbD 20
    gc := w0.getLsbD 21, hint := w0.extractLsb' 22 2
    d := w0.extractLsb' 24 8, dcl := w1.getLsbD 30
    a := w1.extractLsb' 0 8, acl := w1.getLsbD 8, apop := w1.getLsbD 9
    b := w1.extractLsb' 10 8, bcl := w1.getLsbD 18, bpop := w1.getLsbD 19
    c := w1.extractLsb' 20 8, ccl := w1.getLsbD 28, cpop := w1.getLsbD 29
    e := w2.extractLsb' 0 8, ecl := w2.getLsbD 8, epop := w2.getLsbD 9
    ty := w2.extractLsb' 10 4, rm := w2.extractLsb' 14 3, sat := w2.getLsbD 17
    mod6 := w2.extractLsb' 18 6, aux8 := w2.extractLsb' 24 8, lit := lit }

/-- The fields of a base word (R176). -/
def baseFields (b0 : W32) (lit : Option W64) : Base :=
  { s := b0.getLsbD 2, d := b0.extractLsb' 11 7, a := b0.extractLsb' 18 7, b := b0.extractLsb' 25 7, lit := lit }

/-- An instruction that passes R185 step 1, or the encoding error. -/
def checked (i : Instr) : Except DecodeError Instr := if i.WellFormed then .ok i else .error .encoding

/-- The instruction of three extended words (R178, R194). -/
def decodeExt (w0 w1 w2 : W32) (lit : Option W64) : Except DecodeError Instr :=
  match lookupOp extTable (w0.extractLsb' 3 10) with
  | none => .error .reservedOpcode
  | some f => if w1.getLsbD 31 then .error .reservedBit else checked (f (extFields w0 w1 w2 lit))

/-- The instruction of a base word (R176, R202). -/
def decodeBase (b0 : W32) (lit : Option W64) : Except DecodeError Instr :=
  match lookupOp baseTable (b0.extractLsb' 3 8) with
  | none => .error .reservedOpcode
  | some f => checked (f (baseFields b0 lit))

/-- Decode the first instruction of a word stream (R174): the instruction and the words after it. -/
def decode (ws : List W32) : Except DecodeError (Instr × List W32) :=
  match ws with
  | [] => .error .truncated
  | w0 :: r =>
    match w0.extractLsb' 0 2, r with
    | 0#2, r => (decodeBase w0 none).map (·, r)
    | 1#2, w1 :: w2 :: r => (decodeExt w0 w1 w2 none).map (·, r)
    | 2#2, w1 :: w2 :: lo :: hi :: r => (decodeExt w0 w1 w2 (some (literalOf lo hi))).map (·, r)
    | 3#2, lo :: hi :: r => (decodeBase w0 (some (literalOf lo hi))).map (·, r)
    | _, _ => .error .truncated

/-- Words from bytes, four to a word, least significant first (R8, R174); a short tail holds no word. -/
def wordsOfBytes : List Byte → List W32
  | b0 :: b1 :: b2 :: b3 :: r => (b3 ++ b2 ++ b1 ++ b0) :: wordsOfBytes r
  | _ => []

/-- A word's four bytes, least significant first (R8). -/
def bytesOfWord (w : W32) : List Byte :=
  [w.extractLsb' 0 8, w.extractLsb' 8 8, w.extractLsb' 16 8, w.extractLsb' 24 8]

/-- Decode the first instruction of a byte stream. -/
def decodeBytes (bs : List Byte) : Except DecodeError (Instr × List W32) := decode (wordsOfBytes bs)

/-- The five words, least significant first, of an instruction whose bits are `w`. -/
def tableWords (w : Nat) : List W32 :=
  [BitVec.ofNat 32 w, BitVec.ofNat 32 (w / 2 ^ 32), BitVec.ofNat 32 (w / 2 ^ 64), BitVec.ofNat 32 (w / 2 ^ 96),
   BitVec.ofNat 32 (w / 2 ^ 128)]

/-- The instruction that the decoder reads from the bits `w`, numbered from the first word's bit 0. The words are laid
out as the hardware stores them, the first at the lowest address (R174). -/
def decodeTableWord (_nbits w : Nat) : Option Instr :=
  match decodeBytes ((tableWords w).flatMap bytesOfWord) with
  | .ok (i, _) => some i
  | .error _ => none

/-- The opcode of an extended instruction's constructor, with its words' fields (R178). -/
def encodeExt (r : Row) (x : Ext) : List W32 :=
  let l : BitVec 2 := if x.lit.isSome then 2#2 else 1#2
  let w0 : W32 := x.d ++ x.hint ++ BitVec.ofBool x.gc ++ BitVec.ofBool x.g1n ++ x.g1 ++ BitVec.ofBool x.g0n ++ x.g0 ++
    r.xop ++ BitVec.ofBool x.s ++ l
  let w1 : W32 := 0#1 ++ BitVec.ofBool x.dcl ++ BitVec.ofBool x.cpop ++ BitVec.ofBool x.ccl ++ x.c ++
    BitVec.ofBool x.bpop ++ BitVec.ofBool x.bcl ++ x.b ++ BitVec.ofBool x.apop ++ BitVec.ofBool x.acl ++ x.a
  let w2 : W32 := x.aux8 ++ x.mod6 ++ BitVec.ofBool x.sat ++ x.rm ++ x.ty ++ BitVec.ofBool x.epop ++
    BitVec.ofBool x.ecl ++ x.e
  [w0, w1, w2] ++ (match x.lit with
    | none => []
    | some v => [v.extractLsb' 0 32, v.extractLsb' 32 32])

/-- A base instruction's words (R176). -/
def encodeBase (r : BaseRow) (x : Base) : List W32 :=
  let l : BitVec 2 := if x.lit.isSome then 3#2 else 0#2
  let b0 : W32 := x.b ++ x.a ++ x.d ++ r.bop ++ BitVec.ofBool x.s ++ l
  b0 :: (match x.lit with
    | none => []
    | some v => [v.extractLsb' 0 32, v.extractLsb' 32 32])

/-- The words of an instruction; a step of another agent has none. -/
def encode (i : Instr) : List W32 :=
  match i.form with
  | .ext r x => encodeExt r x
  | .base r x => encodeBase r x
  | .event => []

end Sys2Proof
end

