-- ==== Sys2Proof/Machine/Uniform.lean ====
section
/-! DEFINITION. Uniform integer and memory instructions (R206-R208). -/
namespace Sys2Proof.Machine
open Sys2Proof

/-- The width of an integer type of R206. -/
def uBits (t : BitVec 4) : Nat := if t == tyS32 || t == tyU32 then 32 else 64
/-- An operand as its type reads it: signed or unsigned, 32 or 64 bits (R206). -/
def uVal (t : BitVec 4) (w : W64) : Int :=
  if t == tyS64 then w.toInt else if t == tyU64 then w.toNat
  else if t == tyS32 then (w.extractLsb' 0 32).toInt else (w.extractLsb' 0 32).toNat
/-- A result taken modulo 2^n and widened by its type (R206). -/
def uWrap (t : BitVec 4) (r : Int) : W64 :=
  if t == tyS32 then (BitVec.ofInt 32 r).signExtend 64
  else if t == tyU32 then (BitVec.ofInt 32 r).zeroExtend 64 else BitVec.ofInt 64 r

/-- A class F uniform instruction of up to three sources (R204, R206). -/
def uniOp (r : Row) (f : Ext → W64 → W64 → W64 → W64) : ExtBody := fun x =>
  uniBody r x false anyMode fun h s =>
    let (v, s1) := fetchSrcs s h r x []
    finPush s x (dstUni s1 h r x (f x (v.a 0) (v.b 0) (v.c 0)))
/-- A typed one: exact on the operands' integers. -/
def uniInt (r : Row) (f : BitVec 4 → Int → Int → Int → Int) : ExtBody :=
  uniOp r fun x a b c => uWrap x.ty (f x.ty (uVal x.ty a) (uVal x.ty b) (uVal x.ty c))

/-- Shifts by a count read unsigned (R206). -/
def shl64 (a b : W64) : W64 := if b.toNat < 64 then a <<< b.toNat else 0
def shr64 (a b : W64) : W64 := if b.toNat < 64 then a >>> b.toNat else 0
def sra64 (a b : W64) : W64 := a.sshiftRight (min b.toNat 64)
/-- Leading zeros of an `n`-bit value. -/
def leadZeros (n v : Nat) : Nat := if v = 0 then n else n - 1 - v.log2
/-- Popcount. -/
def popCount (n v : Nat) : Nat := ((List.range n).filter fun i => v.testBit i).length

/-- The integer comparisons of R199. -/
def intCompare (cc : BitVec 3) (a b : Int) : Bool :=
  match cc with
  | 0#3 => decide (a = b)
  | 1#3 => decide (a ≠ b)
  | 2#3 => decide (a < b)
  | 3#3 => decide (a ≤ b)
  | 4#3 => decide (b < a)
  | _ => decide (b ≤ a)

def bodyUadd : ExtBody := uniInt Rows.uadd fun _ a b _ => a + b
def bodyUsub : ExtBody := uniInt Rows.usub fun _ a b _ => a - b
def bodyUmul : ExtBody := uniInt Rows.umul fun _ a b _ => a * b
def bodyUmulh : ExtBody := uniInt Rows.umulh fun t a b _ => a * b / 2 ^ uBits t
def bodyUmad : ExtBody := uniInt Rows.umad fun _ a b c => a * b + c
def bodyUand : ExtBody := uniOp Rows.uand fun _ a b _ => a &&& b
def bodyUor : ExtBody := uniOp Rows.uor fun _ a b _ => a ||| b
def bodyUxor : ExtBody := uniOp Rows.uxor fun _ a b _ => a ^^^ b
def bodyUshl : ExtBody := uniOp Rows.ushl fun _ a b _ => shl64 a b
def bodyUshr : ExtBody := uniOp Rows.ushr fun _ a b _ => shr64 a b
def bodyUsra : ExtBody := uniOp Rows.usra fun _ a b _ => sra64 a b
def bodyUmin : ExtBody := uniInt Rows.umin fun _ a b _ => min a b
def bodyUmax : ExtBody := uniInt Rows.umax fun _ a b _ => max a b
def bodyUclz : ExtBody := uniOp Rows.uclz fun _ a _ _ => BitVec.ofNat 64 (leadZeros 64 a.toNat)
def bodyUpopc : ExtBody := uniOp Rows.upopc fun _ a _ _ => BitVec.ofNat 64 (popCount 64 a.toNat)
def bodyUlea : ExtBody := uniOp Rows.ulea fun x a b _ => a + (b <<< (x.mod6.extractLsb' 0 2).toNat)
def bodyUsel : ExtBody := uniOp Rows.usel fun _ a b c => if c != 0 then a else b
def bodyUmov : ExtBody := uniOp Rows.umov fun _ _ b _ => b

/-- UCMP (R207). -/
def bodyUcmp : ExtBody := fun x =>
  uniBody Rows.ucmp x false anyMode fun h s =>
    let (v, s) := fetchSrcs s h Rows.ucmp x []
    let r := intCompare (x.mod6.extractLsb' 0 3) (uVal x.ty (v.a 0)) (uVal x.ty (v.b 0))
    .fin (s.updGroup h.c h.b h.g fun g => g.putQ h.tick x.d.toNat r)

/-- The space of ULD and UST (R208). -/
def uSpace (x : Ext) : Space :=
  match x.mod6.extractLsb' 0 2 with
  | 0#2 => .global
  | 1#2 => .scratch
  | _ => .constant

/-- ULD (R208): one weak read for the group. -/
def bodyUld : ExtBody := fun x =>
  uniBody Rows.uld x true anyMode fun h s =>
    loadThen s h (uSpace x) (tySize x.ty) x.hint [(0, effAddr h x true true 0)] fun s vs =>
      .fin (pendUni s h Rows.uld x (widenUni x.ty ((vs.map (·.2)).getD 0 0)) 0)

/-- UST (R208): one weak write for the group. -/
def bodyUst : ExtBody := fun x =>
  uniBody Rows.ust x true anyMode fun h s =>
    let v := (fetchSrcs s h Rows.ust x []).1
    storeThen s h (uSpace x) (tySize x.ty) [(0, effAddr h x true true 0)] v.c fun s => (fetchSrcs s h Rows.ust x []).2

def execUadd (x : Ext) (s : State) := runExt bodyUadd x s
def execUsub (x : Ext) (s : State) := runExt bodyUsub x s
def execUmul (x : Ext) (s : State) := runExt bodyUmul x s
def execUmulh (x : Ext) (s : State) := runExt bodyUmulh x s
def execUmad (x : Ext) (s : State) := runExt bodyUmad x s
def execUand (x : Ext) (s : State) := runExt bodyUand x s
def execUor (x : Ext) (s : State) := runExt bodyUor x s
def execUxor (x : Ext) (s : State) := runExt bodyUxor x s
def execUshl (x : Ext) (s : State) := runExt bodyUshl x s
def execUshr (x : Ext) (s : State) := runExt bodyUshr x s
def execUsra (x : Ext) (s : State) := runExt bodyUsra x s
def execUmin (x : Ext) (s : State) := runExt bodyUmin x s
def execUmax (x : Ext) (s : State) := runExt bodyUmax x s
def execUclz (x : Ext) (s : State) := runExt bodyUclz x s
def execUpopc (x : Ext) (s : State) := runExt bodyUpopc x s
def execUlea (x : Ext) (s : State) := runExt bodyUlea x s
def execUsel (x : Ext) (s : State) := runExt bodyUsel x s
def execUcmp (x : Ext) (s : State) := runExt bodyUcmp x s
def execUmov (x : Ext) (s : State) := runExt bodyUmov x s
def execUld (x : Ext) (s : State) := runExt bodyUld x s
def execUst (x : Ext) (s : State) := runExt bodyUst x s

end Sys2Proof.Machine
end

