-- ==== Sys2Proof/Machine/Vector.lean ====
section
/-! DEFINITION. Vector arithmetic, conversion, predicates and moves (R229-R246), all of class F. -/
namespace Sys2Proof.Machine
open Sys2Proof

/-- A class F vector instruction (R229): each active lane's value and flags, written together; the flags are raised once
(R164). -/
def vecLanes (r : Row) (f : Ext → Here → Srcs → Nat → W64 × Flags) : ExtBody := fun x =>
  vecBody r x false idle fun h s m =>
    let ls := laneList h.width m
    let q := fetchSrcs s h r x ls
    let out := ls.map fun l => (l, f x h q.1 l)
    let fl := out.foldl (fun (a : Flags) o => a ||| o.2.2) 0
    let p := dstVec q.2 h r x (out.map fun o => (o.1, o.2.1))
    finPush s x (raiseFlags p.1 h.c h.b h.g h.ten fl, p.2)

/-- The 32 bits of an operand. -/
def lo32 (w : W64) : W32 := w.extractLsb' 0 32
/-- Words as 64-bit values. -/
def of32 (w : W32) : W64 := w.zeroExtend 64

/-- A vector instruction on 32-bit words that raises no flag. -/
def vecWord (r : Row) (f : Ext → W32 → W32 → W32 → W32) : ExtBody :=
  vecLanes r fun x _ v l => (of32 (f x (lo32 (v.a l)) (lo32 (v.b l)) (lo32 (v.c l))), 0)
/-- A word as its type reads it (R231). -/
def iVal (t : BitVec 4) (w : W32) : Int := if t == tyS32 then w.toInt else w.toNat
/-- SAT clamps an exact result to the type's range (R231). -/
def iSat (x : Ext) (r : Int) : Int := if x.sat then max (intMin x.ty) (min (intMax x.ty) r) else r
/-- An integer form of R231: exact, clamped by SAT, modulo 2^32. -/
def vecInt (r : Row) (f : Int → Int → Int → Int) : ExtBody :=
  vecWord r fun x a b c => BitVec.ofInt 32 (iSat x (f (iVal x.ty a) (iVal x.ty b) (iVal x.ty c)))

/-- Shifts of a word by an unsigned count (R232). -/
def shl32 (a b : W32) : W32 := if b.toNat < 32 then a <<< b.toNat else 0
def shr32 (a b : W32) : W32 := if b.toNat < 32 then a >>> b.toNat else 0
def sra32 (a b : W32) : W32 := a.sshiftRight (min b.toNat 32)

/-- Position and length of R233. -/
def bfPos (x : Ext) : Nat := (x.aux8.extractLsb' 0 5).toNat
def bfLen (x : Ext) : Nat := x.mod6.toNat
/-- IBFX's field (R233). -/
def ibfx (x : Ext) (a : W32) : W32 :=
  let w : W64 := if x.ty == tyS32 then a.signExtend 64 else a.zeroExtend 64
  let f := w.toNat / 2 ^ bfPos x % 2 ^ bfLen x
  if x.ty == tyS32 then BitVec.ofInt 32 (signedNat (bfLen x) f) else BitVec.ofNat 32 f
/-- IBFI's word (R233). -/
def ibfi (x : Ext) (a b : W32) : W32 :=
  let m := BitVec.ofNat 32 ((2 ^ bfLen x - 1) * 2 ^ bfPos x)
  (b &&& ~~~m) ||| ((a <<< bfPos x) &&& m)

def bodyIadd : ExtBody := vecInt Rows.iadd fun a b _ => a + b
def bodyIsub : ExtBody := vecInt Rows.isub fun a b _ => a - b
def bodyImul : ExtBody := vecInt Rows.imul fun a b _ => a * b
def bodyImulh : ExtBody := vecInt Rows.imulh fun a b _ => a * b / 2 ^ 32
def bodyImad : ExtBody := vecInt Rows.imad fun a b c => a * b + c
def bodyImin : ExtBody := vecInt Rows.imin fun a b _ => min a b
def bodyImax : ExtBody := vecInt Rows.imax fun a b _ => max a b
def bodyIabs : ExtBody := vecInt Rows.iabs fun a _ _ => a.natAbs
def bodyIand : ExtBody := vecWord Rows.iand fun _ a b _ => a &&& b
def bodyIor : ExtBody := vecWord Rows.ior fun _ a b _ => a ||| b
def bodyIxor : ExtBody := vecWord Rows.ixor fun _ a b _ => a ^^^ b
def bodyIshl : ExtBody := vecWord Rows.ishl fun _ a b _ => shl32 a b
def bodyIshr : ExtBody := vecWord Rows.ishr fun _ a b _ => shr32 a b
def bodyIsra : ExtBody := vecWord Rows.isra fun _ a b _ => sra32 a b
def bodyIclz : ExtBody := vecWord Rows.iclz fun _ a _ _ => BitVec.ofNat 32 (leadZeros 32 a.toNat)
def bodyIpopc : ExtBody := vecWord Rows.ipopc fun _ a _ _ => BitVec.ofNat 32 (popCount 32 a.toNat)
def bodyIbfx : ExtBody := vecWord Rows.ibfx fun x a _ _ => ibfx x a
def bodyIbfi : ExtBody := vecWord Rows.ibfi fun x a b _ => ibfi x a b

/-- A truth value for a predicate destination. -/
def truth (b : Bool) : W64 := if b then 1 else 0
/-- The comparison code of MOD6 (R199). -/
def cmpCode (x : Ext) : BitVec 3 := x.mod6.extractLsb' 0 3

/-- ISET (R234). -/
def bodyIset : ExtBody := vecLanes Rows.iset fun x _ v l =>
  (truth (intCompare (cmpCode x) (iVal x.ty (lo32 (v.a l))) (iVal x.ty (lo32 (v.b l)))), 0)
/-- ISEL (R234). -/
def bodyIsel : ExtBody := vecLanes Rows.isel fun _ _ v l => (of32 (lo32 (if v.c l != 0 then v.a l else v.b l)), 0)

/-- A code and flags as a lane's result. -/
def fpOut (r : Nat × Flags) : W64 × Flags := (BitVec.ofNat 64 r.1, r.2)
/-- An FP32 form (R235, R237): a function of the three codes. -/
def vecFp (r : Row) (f : Ext → Nat → Nat → Nat → Nat × Flags) : ExtBody :=
  vecLanes r fun x _ v l => fpOut (f x (lo32 (v.a l)).toNat (lo32 (v.b l)).toNat (lo32 (v.c l)).toNat)

def bodyFadd : ExtBody := vecFp Rows.fadd fun x a b _ => fpAdd tyF32 x.rm a b
def bodyFsub : ExtBody := vecFp Rows.fsub fun x a b _ => fpSub tyF32 x.rm a b
def bodyFmul : ExtBody := vecFp Rows.fmul fun x a b _ => fpMul tyF32 x.rm a b
def bodyFfma : ExtBody := vecFp Rows.ffma fun x a b c => fpFma tyF32 x.rm a b c
def bodyFmin : ExtBody := vecFp Rows.fmin fun _ a b _ => (fpMinMax tyF32 false a b, 0)
def bodyFmax : ExtBody := vecFp Rows.fmax fun _ a b _ => (fpMinMax tyF32 true a b, 0)
/-- FSET (R238). -/
def bodyFset : ExtBody := vecLanes Rows.fset fun x _ v l =>
  (truth (fpCompare (cmpCode x) (fpVal tyF32 (lo32 (v.a l)).toNat) (fpVal tyF32 (lo32 (v.b l)).toNat)), 0)
/-- FCLASS (R239). -/
def bodyFclass : ExtBody := vecLanes Rows.fclass fun x _ v l =>
  (truth (match fpClass fmtF32 (lo32 (v.a l)).toNat with
    | some k => x.aux8.getLsbD k
    | none => x.mod6.getLsbD 0), 0)

/-- A packed form (R240): elements 0 and 1 as the FP32 counterpart computes them. -/
def vecHalf (r : Row) (f : Ext → Nat → Nat → Nat → Nat × Flags) : ExtBody :=
  vecFp r fun x a b c =>
    let p := f x (a % 65536) (b % 65536) (c % 65536)
    let q := f x (a / 65536) (b / 65536) (c / 65536)
    (p.1 + 65536 * q.1, p.2 ||| q.2)

def bodyHadd2 : ExtBody := vecHalf Rows.hadd2 fun x a b _ => fpAdd x.ty x.rm a b
def bodyHmul2 : ExtBody := vecHalf Rows.hmul2 fun x a b _ => fpMul x.ty x.rm a b
def bodyHfma2 : ExtBody := vecHalf Rows.hfma2 fun x a b c => fpFma x.ty x.rm a b c
def bodyHmin2 : ExtBody := vecHalf Rows.hmin2 fun x a b _ => (fpMinMax x.ty false a b, 0)
def bodyHmax2 : ExtBody := vecHalf Rows.hmax2 fun x a b _ => (fpMinMax x.ty true a b, 0)

/-- `n` bits of a word from a bit, replaced. -/
def putBits (w : Nat) (lo n v : Nat) : Nat := w - w / 2 ^ lo % 2 ^ n * 2 ^ lo + v % 2 ^ n * 2 ^ lo

/-- CVT (R241, R242): a narrow result replaces its sub-element of the old register, or of zero for a channel. -/
def bodyCvt : ExtBody := vecLanes Rows.cvt fun x h v l =>
  let sty := x.aux8.extractLsb' 0 4
  let n := (x.mod6.extractLsb' 0 2).toNat
  let a := (lo32 (v.a l)).toNat
  let c := match narrowBits sty with
    | some w => a / 2 ^ (w * n) % 2 ^ w
    | none => a
  let r := convert sty x.ty x.rm x.sat c
  match narrowBits x.ty with
  | some w =>
    let old := if x.dcl then 0 else (h.grp.rv h.tick x.d.toNat l).toNat
    fpOut (putBits old (w * n) w r.1, r.2)
  | none => fpOut r

/-- PACK4 (R243). -/
def bodyPack4 : ExtBody := vecLanes Rows.pack4 fun x _ v l =>
  let sty := x.aux8.extractLsb' 0 4
  let n := (x.mod6.extractLsb' 0 3).toNat
  let a := (lo32 (v.a l)).toNat
  let c := if sty == tyF32 then a else a % 65536
  let r := roundFmt (fpVal sty c) fmtE2m1 x.rm true
  fpOut (putBits (lo32 (v.b l)).toNat (4 * n) 4 r.1, r.2)

/-- UNPK4 (R244): exact. -/
def bodyUnpk4 : ExtBody := vecLanes Rows.unpk4 fun x _ v l =>
  let n := (x.mod6.extractLsb' 0 3).toNat
  let c := (lo32 (v.a l)).toNat / 2 ^ (4 * n) % 16
  (BitVec.ofNat 64 (roundFmt (fpVal tyE2m1 c) (fmtOf x.ty) 0 false).1, 0)

/-- PLOP's truth table (R245). -/
def plopBit (x : Ext) (a b c : Bool) : Bool := x.aux8.getLsbD (4 * a.toNat + 2 * b.toNat + c.toNat)

/-- PLOP (R245): on lane predicates, or once on uniform predicates, whatever lanes are active. -/
def bodyPlop : ExtBody := fun x h s =>
  if x.mod6.getLsbD 0 then
    if squashed x then .fin s
    else
      let v := plopBit x (h.grp.rq h.tick x.a.toNat) (h.grp.rq h.tick x.b.toNat) (h.grp.rq h.tick x.c.toNat)
      .fin (s.updGroup h.c h.b h.g fun g => g.putQ h.tick x.d.toNat v)
  else vecLanes Rows.plop (fun x _ v l => (truth (plopBit x (v.a l != 0) (v.b l != 0) (v.c l != 0)), 0)) x h s

/-- MOV and S2V (R246): 32 bits, or the pair. -/
def bodyMov : ExtBody := vecLanes Rows.mov fun x _ v l => (if x.mod6.getLsbD 0 then v.b l else of32 (lo32 (v.b l)), 0)
def bodyS2v : ExtBody := vecLanes Rows.s2v fun x _ v l => (if x.mod6.getLsbD 0 then v.b l else of32 (lo32 (v.b l)), 0)

def execIadd (x : Ext) (s : State) := runExt bodyIadd x s
def execIsub (x : Ext) (s : State) := runExt bodyIsub x s
def execImul (x : Ext) (s : State) := runExt bodyImul x s
def execImulh (x : Ext) (s : State) := runExt bodyImulh x s
def execImad (x : Ext) (s : State) := runExt bodyImad x s
def execImin (x : Ext) (s : State) := runExt bodyImin x s
def execImax (x : Ext) (s : State) := runExt bodyImax x s
def execIabs (x : Ext) (s : State) := runExt bodyIabs x s
def execIand (x : Ext) (s : State) := runExt bodyIand x s
def execIor (x : Ext) (s : State) := runExt bodyIor x s
def execIxor (x : Ext) (s : State) := runExt bodyIxor x s
def execIshl (x : Ext) (s : State) := runExt bodyIshl x s
def execIshr (x : Ext) (s : State) := runExt bodyIshr x s
def execIsra (x : Ext) (s : State) := runExt bodyIsra x s
def execIclz (x : Ext) (s : State) := runExt bodyIclz x s
def execIpopc (x : Ext) (s : State) := runExt bodyIpopc x s
def execIbfx (x : Ext) (s : State) := runExt bodyIbfx x s
def execIbfi (x : Ext) (s : State) := runExt bodyIbfi x s
def execIset (x : Ext) (s : State) := runExt bodyIset x s
def execIsel (x : Ext) (s : State) := runExt bodyIsel x s
def execFadd (x : Ext) (s : State) := runExt bodyFadd x s
def execFsub (x : Ext) (s : State) := runExt bodyFsub x s
def execFmul (x : Ext) (s : State) := runExt bodyFmul x s
def execFfma (x : Ext) (s : State) := runExt bodyFfma x s
def execFmin (x : Ext) (s : State) := runExt bodyFmin x s
def execFmax (x : Ext) (s : State) := runExt bodyFmax x s
def execFset (x : Ext) (s : State) := runExt bodyFset x s
def execFclass (x : Ext) (s : State) := runExt bodyFclass x s
def execHadd2 (x : Ext) (s : State) := runExt bodyHadd2 x s
def execHmul2 (x : Ext) (s : State) := runExt bodyHmul2 x s
def execHfma2 (x : Ext) (s : State) := runExt bodyHfma2 x s
def execHmin2 (x : Ext) (s : State) := runExt bodyHmin2 x s
def execHmax2 (x : Ext) (s : State) := runExt bodyHmax2 x s
def execCvt (x : Ext) (s : State) := runExt bodyCvt x s
def execPack4 (x : Ext) (s : State) := runExt bodyPack4 x s
def execUnpk4 (x : Ext) (s : State) := runExt bodyUnpk4 x s
def execPlop (x : Ext) (s : State) := runExt bodyPlop x s
def execMov (x : Ext) (s : State) := runExt bodyMov x s
def execS2v (x : Ext) (s : State) := runExt bodyS2v x s

end Sys2Proof.Machine
end

