-- ==== Sys2Proof/Machine/Memory.lean ====
section
/-! DEFINITION. Loads, stores and prefetches of lanes (R262-R265). -/
namespace Sys2Proof.Machine
open Sys2Proof

/-- The lanes' addresses (R184, R263). -/
def laneAddrs (h : Here) (x : Ext) (glob aux : Bool) (ls : List Nat) : List (Nat × W64) := ls.map fun l => (l, effAddr h x glob aux l)

/-- A load (R263): class V. -/
def loadBody (r : Row) (glob : Bool) (sp : Space) : ExtBody := fun x =>
  vecBody r x glob idle fun h s m =>
    loadThen s h sp (tySize x.ty) x.hint (laneAddrs h x glob true (laneList h.width m)) fun s vs =>
      .fin (pendVec s h r x (vs.map fun v => (v.1, widenVec x.ty v.2)) 0)

/-- A store (R263): the low bytes of C. -/
def storeBody (r : Row) (glob : Bool) (sp : Space) : ExtBody := fun x =>
  vecBody r x glob idle fun h s m =>
    let ls := laneList h.width m
    storeThen s h sp (tySize x.ty) (laneAddrs h x glob true ls) (fetchSrcs s h r x ls).1.c fun s => (fetchSrcs s h r x ls).2

/-- PFCH of one lane (R265): the line comes in if the address translates; nothing is posted, checked or trapped. -/
def prefetchLane (s : State) (h : Here) (x : Ext) (l : Nat) : State :=
  let a := (effAddr h x true true l).toNat
  if 2 ^ 56 ≤ a then s
  else
    match translate s h.dom h.ten a false with
    | (s, .ok pa _ _) => if isPeer pa then s else (weakRead s h.c pa 1 x.hint).1
    | (s, .fail _ _ _ _) => s

def bodyLdg : ExtBody := loadBody Rows.ldg true .global
def bodyStg : ExtBody := storeBody Rows.stg true .global
def bodyLds : ExtBody := loadBody Rows.lds false .scratch
def bodySts : ExtBody := storeBody Rows.sts false .scratch
def bodyLdl : ExtBody := loadBody Rows.ldl true .local_
def bodyStl : ExtBody := storeBody Rows.stl true .local_
def bodyLdc : ExtBody := loadBody Rows.ldc false .constant
def bodyPfch : ExtBody := fun x =>
  vecBody Rows.pfch x true idle fun h s m => .fin ((laneList h.width m).foldl (fun s l => prefetchLane s h x l) s)

def execLdg (x : Ext) (s : State) := runExt bodyLdg x s
def execStg (x : Ext) (s : State) := runExt bodyStg x s
def execLds (x : Ext) (s : State) := runExt bodyLds x s
def execSts (x : Ext) (s : State) := runExt bodySts x s
def execLdl (x : Ext) (s : State) := runExt bodyLdl x s
def execStl (x : Ext) (s : State) := runExt bodyStl x s
def execLdc (x : Ext) (s : State) := runExt bodyLdc x s
def execPfch (x : Ext) (s : State) := runExt bodyPfch x s

end Sys2Proof.Machine
end

