-- ==== Sys2Proof/Machine/Atomic.lean ====
section
/-! DEFINITION. Atomics, reductions, acquires, releases and fences (R266-R272). -/
namespace Sys2Proof.Machine
open Sys2Proof

/-- A strong read or read-modify-write meets a line that cannot be read (R70, R401, R407). -/
def badLine (s : State) (t : Nat) (ls : List (Nat × Nat × Nat)) : Option Nat :=
  (ls.find? fun (_, _, pa) => !isPeer pa && !lineReadable s t (lineOf pa)).map fun (_, _, pa) => lineOf pa

/-- One lane's strong operation at the home (R83, R89, R261, R268): the read with its acquire, then the write, which publishes. It is a
write by the home domain only where it writes. -/
def strongLane (h : Here) (acq rel reads : Bool) (scope : BitVec 4) (n : Nat)
    (step : Nat → Nat → Option Nat) (s : State) (l pa : Nat) : State × Nat × Bool :=
  let writes := (step l (homeValue (strongPrep s h.c pa false) pa n)).isSome
  let s := strongPrep s h.c pa writes
  let old := homeValue s pa n
  let s := if reads then noteRead s h scope l pa n else s
  let s := if acq then acquireLane s h scope l pa n else s
  match step l old with
  | some v =>
    let s := (strongWrite s h.ten h.dom pa n v).updBlock h.c h.b fun k => { k with sig := k.sig ||| sigOf (lineOf pa) }
    let p := publishScope h.grp rel scope l
    (publishAt s h p (sigNow s h.c h.b) l pa n, old, p.isSome)
  | none => (s, old, false)

/-- The strong operations of an instruction's lanes, in increasing lane order (R267, R268): the old values. -/
def strongLanes (s : State) (h : Here) (acq rel reads : Bool) (scope : BitVec 4) (n : Nat) (ls : List (Nat × Nat × Nat))
    (step : Nat → Nat → Option Nat) : State × List (Nat × Nat) :=
  let s := beforePublish s h (releases h.grp rel (ls.map (·.1)))
  let (s, vs, published) := ls.foldl (fun (a : State × List (Nat × Nat) × Bool) (l, _, pa) =>
    let r := strongLane h acq rel reads scope n step a.1 l pa
    (r.1, a.2.1 ++ [(l, r.2.1)], a.2.2 || r.2.2)) (s, [], false)
  (afterPublish s h published, vs)

/-- A class A result takes a scoreboard slot (R260). -/
def addBoard (s : State) (h : Here) (r : Row) (x : Ext) (vals : List (Nat × W64)) (left : Nat) (fault : Option (Nat × W64)) : State :=
  s.updGroup h.c h.b h.g fun g =>
    let id := g.board.foldl (fun m b => max m (b.id + 1)) 0
    { g with board := g.board ++ [⟨id, .vec x.d.toNat (pairOf r.d x) vals, left, fault⟩] }
/-- All 8 scoreboard slots are held (R260). -/
def boardFull (g : Group) : Bool := decide (8 ≤ g.board.length)

/-- Order and scope fields (R199). -/
def ordAcq (x : Ext) : Bool := x.mod6.getLsbD 0
def ordRel (x : Ext) : Bool := x.mod6.getLsbD 1
def scopeOf (x : Ext) : BitVec 4 := x.aux8.extractLsb' 0 4

/-- The checks of strong operations on global memory, then `k` on their addresses. A write to an open counter's line raises SBFAULT (R112;
DEDUCED of strong writes, log 18). -/
def strongChecks (s : State) (h : Here) (x : Ext) (ls : List Nat) (reads writes : Bool)
    (k : State → List (Nat × Nat × Nat) → Out) : Out :=
  let n := tySize x.ty
  afterCheck (checkAccess s h .global n n writes writes (laneAddrs h x true false ls)) fun s oks =>
    match (if reads then badLine s h.ten oks else downLine s h.ten oks) with
    | some line => .gone (poisonKill s h.c h.b line)
    | none => k s oks

/-- A strong operation of an instruction's lanes: its code, and what each lane compares with and writes. -/
structure StrongOp where
  op : Option (BitVec 4 × BitVec 4)
  cmp : Nat → Option Nat
  val : Nat → Nat
/-- ATOM and RED with an operand (R266, R267). -/
def atomOp (x : Ext) (v : Srcs) : StrongOp := ⟨some (x.ty, x.aux8.extractLsb' 4 4), fun _ => none, fun l => (v.c l).toNat⟩
/-- ATOMC (R269). -/
def casOp (x : Ext) (v : Srcs) : StrongOp :=
  let w := 2 ^ (8 * tySize x.ty)
  ⟨none, fun l => some ((v.c l).toNat % w), fun l => (v.e l).toNat % w⟩
/-- STRL (R271). -/
def strlOp (x : Ext) (v : Srcs) : StrongOp := ⟨none, fun _ => none, fun l => (v.c l).toNat % 2 ^ (8 * tySize x.ty)⟩

/-- The strong operations of an instruction's lanes go on their way (R79, R85, R261, R266-R271), in increasing lane order: each is
performed at its home later, a release after everything before it, and the group carries on. -/
def sendStrong (s : State) (h : Here) (rel : Bool) (scope : BitVec 4) (n : Nat) (o : StrongOp) (ret : Option Nat)
    (oks : List (Nat × Nat × Nat)) : State :=
  let lanes := oks.map (·.1)
  let r := releases h.grp rel lanes
  let s := if r then serveGroup s h.c h.b h.g else s
  let sig := oks.foldl (fun g o => g ||| sigOf (lineOf o.2.2)) (sigNow s h.c h.b)
  let one (k : Nat × Nat × Nat) : StrongW :=
    { pa := k.2.2, n := n, v := o.val k.1, op := o.op, cmp := o.cmp k.1, who := h.who s k.1, block := some h.b, scope := scope, rel := r
      pub := publishScope h.grp rel scope k.1, sig := sig, ret := ret }
  let s := s.updCore h.c fun k => { k with strong := k.strong ++ oks.map one }
  if lanes.any fun l => (publishScope h.grp rel scope l).isSome then clearSig s h.c h.b else s.updBlock h.c h.b fun k => { k with sig := sig }

/-- ATOM and ATOMC (R260, R261, R267, R269): an acquire is performed at its homes at once, as a compare-and-swap that releases is; any
other goes on its way, and its slot waits for the old values. -/
def returnStrong (r : Row) (x : Ext) (h : Here) (s : State) (o : StrongOp) (oks : List (Nat × Nat × Nat)) : State :=
  if ordAcq x || ((o.cmp 0).isSome && releases h.grp (ordRel x) (oks.map (·.1))) then
    let q := strongLanes s h (ordAcq x) (ordRel x) true (scopeOf x) (tySize x.ty) oks fun l old => strongResult o.op (o.cmp l) (o.val l) old
    addBoard q.1 h r x (q.2.map fun w => (w.1, BitVec.ofNat 64 w.2)) 0 none
  else
    let slot := h.grp.board.foldl (fun m b => max m (b.id + 1)) 0
    sendStrong (addBoard s h r x (oks.map fun k => (k.1, 0)) oks.length none) h (ordRel x) (scopeOf x) (tySize x.ty) o (some slot) oks
/-- An instruction that returns old values (R260). -/
def returnBody (r : Row) (o : Ext → Srcs → StrongOp) : ExtBody := fun x =>
  vecBody r x true idle fun h s m =>
    if boardFull h.grp then .park s .scoreboard
    else
      let ls := laneList h.width m
      let v := (fetchSrcs s h r x ls).1
      strongChecks s h x ls true true fun s oks => .fin (returnStrong r x h s (o x v) oks)

/-- ATOM (R267). -/
def bodyAtom : ExtBody := returnBody Rows.atom atomOp
/-- ATOMC (R269): a lane whose comparison fails writes nothing. -/
def bodyAtomc : ExtBody := returnBody Rows.atomc casOp
/-- RED (R267): returns nothing. -/
def bodyRed : ExtBody := fun x =>
  vecBody Rows.red x true idle fun h s m =>
    let ls := laneList h.width m
    let v := (fetchSrcs s h Rows.red x ls).1
    strongChecks s h x ls true true fun s oks => .fin (sendStrong s h (ordRel x) (scopeOf x) (tySize x.ty) (atomOp x v) none oks)

/-- ATOMS (R267): in the block's own scratchpad, relaxed. -/
def bodyAtoms : ExtBody := fun x =>
  vecBody Rows.atoms x false idle fun h s m =>
    if boardFull h.grp then .park s .scoreboard
    else
      let ls := laneList h.width m
      let n := tySize x.ty
      let v := (fetchSrcs s h Rows.atoms x ls).1
      afterCheck (checkAccess s h .scratch n n true false (laneAddrs h x false false ls)) fun s oks =>
        let r := oks.foldl (fun (a : State × List (Nat × W64)) (l, o, _) =>
          let old := ((a.1.block h.c h.b).map fun k => k.scratchNat o n).getD 0
          let new := atomNew x.ty (x.aux8.extractLsb' 4 4) old (v.c l).toNat
          (a.1.updBlock h.c h.b fun k => k.putScratch o (leBytes n new), a.2 ++ [(l, BitVec.ofNat 64 old)])) (s, [])
        .fin (addBoard r.1 h Rows.atoms x r.2 0 none)

/-- LDA (R271): a strong read with acquire, performed at once. -/
def bodyLda : ExtBody := fun x =>
  vecBody Rows.lda x true idle fun h s m =>
    strongChecks s h x (laneList h.width m) true false fun s oks =>
      let r := strongLanes s h true false true (scopeOf x) (tySize x.ty) oks fun _ _ => none
      .fin (pendVec r.1 h Rows.lda x (r.2.map fun o => (o.1, widenVec x.ty o.2)) 0)

/-- STRL (R271): a strong write with release. -/
def bodyStrl : ExtBody := fun x =>
  vecBody Rows.strl x true idle fun h s m =>
    let ls := laneList h.width m
    let v := (fetchSrcs s h Rows.strl x ls).1
    strongChecks s h x ls false true fun s oks => .fin (sendStrong s h true (scopeOf x) (tySize x.ty) (strlOp x v) none oks)

/-- FENCE's release side (R75, R272): every later strong write of the lanes is a release at the scope. -/
def fenceRelease (s : State) (h : Here) (scope : BitVec 4) (m : Lanes) : State :=
  s.updGroup h.c h.b h.g fun g =>
    { g with fenceRel := (laneList 64 m).foldl (fun f l =>
        kset f l (match kget f l with | some k => if k.toNat < scope.toNat then scope else k | none => scope)) g.fenceRel }
/-- FENCE's acquire side (R75, R272): over every earlier strong read of the group. A read of one of the lanes whose scope the fence's
reaches has its acquire now, and is noted no longer. -/
def fenceAcquires (s : State) (h : Here) (scope : BitVec 4) (m : Lanes) : State :=
  let reads := ((s.group h.c h.b h.g).map fun g => g.reads).getD []
  let s := reads.foldl (fun s n => fenceAcquire s h scope m n) s
  s.updGroup h.c h.b h.g fun g => { g with reads := g.reads.filter fun n => !m.getLsbD n.lane || decide (scope.toNat < n.scope.toNat) }

/-- FENCE (R272), once the core's earlier stores and strong operations and the group's stamp-book operations have been performed. -/
def bodyFence : ExtBody := fun x =>
  vecBody Rows.fence x false idle fun h s m =>
    let s := beforePublish s h true
    let s := if ordRel x then fenceRelease s h (scopeOf x) m else s
    .fin (if ordAcq x then fenceAcquires s h (scopeOf x) m else s)

def execAtom (x : Ext) (s : State) := runExt bodyAtom x s
def execAtomc (x : Ext) (s : State) := runExt bodyAtomc x s
def execRed (x : Ext) (s : State) := runExt bodyRed x s
def execAtoms (x : Ext) (s : State) := runExt bodyAtoms x s
def execLda (x : Ext) (s : State) := runExt bodyLda x s
def execStrl (x : Ext) (s : State) := runExt bodyStrl x s
def execFence (x : Ext) (s : State) := runExt bodyFence x s

end Sys2Proof.Machine
end

