-- ==== Sys2Proof/Machine/Engine.lean ====
section
/-! DEFINITION. The copy unit's transfer records (R122-R124), their acceptance (R121, R125-R127, R137), the movement of their
payload (R124, R130-R134) and the postmark (R93, R128). -/
namespace Sys2Proof.Machine
open Sys2Proof

/-- Fields of a transfer record (R122). -/
def xOp (w : List W64) : Nat := bits (word w 1) 0 4
def xScope (w : List W64) : BitVec 4 := (word w 1).extractLsb' 4 4
def xLock (w : List W64) : Bool := bit (word w 1) 11
def xSsp (w : List W64) : Nat := bits (word w 1) 12 2
def xDsp (w : List W64) : Nat := bits (word w 1) 14 2
def xOrd (w : List W64) : Bool := bit (word w 1) 16
def xEs (w : List W64) : Nat := 2 ^ bits (word w 1) 18 2
def xRtype (w : List W64) : Nat := bits (word w 1) 20 4
def xRop (w : List W64) : Nat := bits (word w 1) 24 3
def xRpm (w : List W64) : Nat := 8 * bits (word w 1) 27 16
def xCmask (w : List W64) : List Nat := (List.range 15).filter fun r => bit (word w 1) (43 + r)
def xRsel (w : List W64) : Nat := bits (word w 1) 58 2
def xRcpt (w : List W64) : Nat := bits (word w 1) 60 4
def xSrc (w : List W64) : Nat := bits (word w 2) 0 56
def xDst (w : List W64) : Nat := bits (word w 3) 0 56
def xN0 (w : List W64) : Nat := bits (word w 4) 0 16
def xN1 (w : List W64) : Nat := bits (word w 4) 16 12
def xN2 (w : List W64) : Nat := bits (word w 4) 28 12
def xS1 (w : List W64) : Int := signedNat 21 (bits (word w 4) 40 21)
def xS2 (w : List W64) : Int := signedNat 21 (bits (word w 5) 0 21)
def xD1 (w : List W64) : Int := signedNat 21 (bits (word w 5) 21 21)
def xD2 (w : List W64) : Int := signedNat 21 (bits (word w 5) 42 21)
def xPm (w : List W64) : Nat := bits (word w 6) 0 56
def xVal (w : List W64) : W64 := word w 7

/-- The size of a reduction type (R123). -/
def redSize (t : Nat) : Nat := if t = 2 || t = 3 then 8 else if t = 5 || t = 6 then 2 else 4

/-- The bounding byte range of a strided set of elements: lowest, and one past the highest. -/
def xSpan (w : List W64) (start : Nat) (p q : Int) : Int × Int :=
  let a := ((xN1 w : Int) - 1) * p
  let b := ((xN2 w : Int) - 1) * q
  let e : Int := xEs w
  (start + e * (min 0 a + min 0 b), start + e * (max 0 a + max 0 b + xN0 w))
def xSrcSpan (w : List W64) : Int × Int := xSpan w (xSrc w) (xS1 w) (xS2 w)
def xDstSpan (w : List W64) : Int × Int := xSpan w (xDst w) (xD1 w) (xD2 w)

/-- A record passes its checks (R122, R123, R124) for a block's cluster size and scratchpad share; word 0 counts only in a
chain. -/
def xferOk (w : List W64) (clus share : Nat) (chained : Bool) : Bool :=
  let inShare (r : Int × Int) : Bool := decide (0 ≤ r.1) && decide (r.2 ≤ share)
  let fp := decide (4 ≤ xRtype w)
  (!chained || (zeroBits (word w 0) 56 6 && zeroBits (word w 0) 0 6)) &&
  !bit (word w 1) 17 && zeroBits (word w 1) 8 3 && zeroBits (word w 2) 56 8 && zeroBits (word w 3) 56 8 &&
  zeroBits (word w 4) 61 3 && !bit (word w 5) 63 && zeroBits (word w 6) 56 8 && zeroBits (word w 6) 0 3 &&
  xVal w != BitVec.allOnes 64 && decide (xOp w ≤ 3) && decide (xSsp w ≤ 1) && decide (xDsp w ≤ 2) && decide ((xScope w).toNat ≤ 8) &&
  (if xOp w = 2 then decide (xRop w ≤ 5) && decide (xRtype w ≤ 6) && xEs w == redSize (xRtype w) && !(fp && decide (3 ≤ xRop w))
   else xRop w == 0 && xRtype w == 0) &&
  decide (1 ≤ xN0 w) && decide (1 ≤ xN1 w) && decide (1 ≤ xN2 w) && (xDsp w == 2) == (xOp w == 3) &&
  (xCmask w).all (fun r => decide (r < clus)) && decide (xN0 w * xN1 w * xN2 w * xEs w ≤ 2 ^ 32) &&
  xSrc w % xEs w == 0 && xDst w % xEs w == 0 &&
  (xSsp w != 1 || inShare (xSrcSpan w)) && (xDsp w == 0 || inShare (xDstSpan w)) &&
  (xOp w != 3 || decide (xRpm w + 8 ≤ share))

/-- The elements in the order of R124: source and destination address. -/
def xElems (w : List W64) : List (Int × Int) :=
  let e : Int := xEs w
  ((List.range (xN2 w)).map fun (i2 : Nat) => ((List.range (xN1 w)).map fun (i1 : Nat) => (List.range (xN0 w)).map fun (i0 : Nat) =>
    ((xSrc w : Int) + e * ((i0 : Int) + (i1 : Int) * xS1 w + (i2 : Int) * xS2 w),
     (xDst w : Int) + e * ((i0 : Int) + (i1 : Int) * xD1 w + (i2 : Int) * xD2 w))).flatten).flatten

/-- An engine's address as a virtual address, modulo 2^64. -/
def engAddr (a : Int) : Nat := (a % 2 ^ 64).toNat

/-- The copy unit has room for an operation (R121, R137). -/
def copyRoom (k : Core) (w : List W64) : Bool :=
  decide ((k.ops.filter fun o => o.eng == 0).length < 1024) && (!xLock w || decide (k.locks.length ≤ 126))

/-- A record is accepted (R121, R137): the unit takes its own copy and two range locks. -/
def acceptXfer (s : State) (c b t g : Nat) (w : List W64) (chain : Option (Nat × Nat)) : State :=
  s.updCore c fun k =>
    let id := freshOp k
    let op : Op := { id := id, eng := 0, w := w, block := b, tenant := t, grp := g, chain := chain, sig := 0, stage := .waiting
                     todo := [], acks := [], seed := s.tick, prog := 0, olds := [] }
    let r := xSrcSpan w
    let d := xDstSpan w
    let ls : List RangeLock := if xLock w then
      [⟨id, b, xSsp w == 1, false, r.1.toNat, r.2.toNat⟩, ⟨id, b, xDsp w != 0, true, d.1.toNat, d.2.toNat⟩] else []
    { k with ops := k.ops ++ [op], locks := k.locks ++ ls }

/-- The operation with a number on a core. -/
def getOp (s : State) (c id : Nat) : Option Op := (s.core c).ops.find? fun o => o.id == id
def updOp (s : State) (c id : Nat) (f : Op → Op) : State :=
  s.updCore c fun k => { k with ops := k.ops.map fun o => if o.id = id then f o else o }

/-- Earlier operations of the same slot, or of the same group's inline operations (R127). -/
def sameStream (a b : Op) : Bool :=
  a.eng == b.eng && match a.chain, b.chain with
  | some (i, _), some (j, _) => i == j
  | none, none => a.block == b.block && a.grp == b.grp
  | _, _ => false
def earlierOps (k : Core) (o : Op) : List Op := (k.ops.takeWhile fun p => p.id != o.id).filter (sameStream o)

/-- How an engine's translations end (R134, R392, R393): physical addresses, a fault to wait for, no room for one yet, a
fault that cannot be resolved, or a sealed page. -/
inductive EngXlat where
  | ok (pas : List Nat)
  | pending (d fid : Nat)
  | wait
  | dead
  | sealed
  | down (line : Nat)
  deriving DecidableEq, Repr

/-- An engine's addresses translated in order, each for a read or a write of `n` bytes; the first that fails ends it. A write
to memory that is down fails as the read of a poisoned line (R401). -/
def engXlat (s : State) (c t l agent n : Nat) (ls : List (Nat × Bool)) : State × EngXlat :=
  ls.foldl (fun (s, r) (va, w) =>
    match r with
    | .ok pas =>
      if w && sealed s t va n then (s, .sealed)
      else match accessPage s (coreDomain c) t va w agent c l with
        | (s, .ok pa) => (s, if w && s.homeDown t pa then .down (lineOf pa) else .ok (pas ++ [pa]))
        | (s, .pending fid) => (s, .pending (coreDomain c) fid)
        | (s, .wait) => (s, .wait)
        | (s, .dead _) => (s, .dead)
        | (s, .down l) => (s, .down l)
    | r => (s, r)) (s, .ok [])

/-- `n` bytes inside one line as an engine reads them through its domain's L2, or nothing on poison (R70). -/
def engRead (s : State) (t d pa n : Nat) : State × Option Nat :=
  match l2Read s t d (lineOf pa) with
  | (s, some bs) => (s, some (leNat ((bs.drop (pa % 128)).take n)))
  | (s, none) => (s, none)
/-- `n` bytes inside one line written by an engine; its signature takes the line (R85). -/
def engWrite (s : State) (c id t d pa n v : Nat) : State :=
  updOp (l2Write s t d (lineOf pa) (patchesAt (pa % 128) (leBytes n v))) c id fun o => { o with sig := o.sig ||| sigOf (lineOf pa) }

/-- destination ROP source (R131). -/
def redNew (rop rtype old src : Nat) : Nat :=
  let n := 8 * redSize rtype
  let signed := rtype = 0 || rtype = 2
  let t : BitVec 4 := if rtype = 4 then tyF32 else if rtype = 5 then tyBf16 else tyF16
  let lt (a b : Nat) : Bool := if signed then decide (signedNat n a < signedNat n b) else decide (a < b)
  if 4 ≤ rtype then
    (match rop with
    | 0 => (fpAdd t 0 old src).1
    | 1 => fpMinMax t false old src
    | _ => fpMinMax t true old src)
  else match rop with
    | 0 => (old + src) % 2 ^ n
    | 1 => if lt src old then src else old
    | 2 => if lt old src then src else old
    | 3 => old &&& src
    | 4 => old ||| src
    | _ => old ^^^ src

/-- Where an element lies: an offset of a block's share, or a physical address. -/
structure Elem where
  src : Nat
  dst : Nat
  deriving DecidableEq, Repr

/-- An element read: from the block's share or through the L2. -/
def elemRead (s : State) (c b t : Nat) (spad : Bool) (a n : Nat) : State × Option Nat :=
  if spad then (s, (s.block c b).map fun k => k.scratchNat a n) else engRead s t (coreDomain c) a n

/-- The source values of the elements, or the poisoned line met first. -/
def readElems (s : State) (c b t : Nat) (spad : Bool) (n : Nat) (es : List Elem) : State × Except Nat (List Nat) :=
  es.foldl (fun (s, r) e =>
    match r with
    | .error l => (s, .error l)
    | .ok vs => match elemRead s c b t spad e.src n with
      | (s, some v) => (s, .ok (vs ++ [v]))
      | (s, none) => (s, .error (lineOf e.src))) (s, .ok [])

/-- A copy whose source and destination ranges overlap in one space (R124). -/
def xOverlaps (w : List W64) : Bool :=
  xOp w == 1 && (xSsp w == 1) == (xDsp w != 0) &&
    decide ((xSrcSpan w).1 < (xDstSpan w).2) && decide ((xDstSpan w).1 < (xSrcSpan w).2)
/-- The value that an element of an overlapping copy takes (R124): the source's as it is, or as it was before the copy wrote to it. -/
def oldOrNew (op : Op) (i va n v : Nat) : Nat :=
  if op.olds.isEmpty || Config.copyTakesNew op.seed i then v
  else leNat ((List.range n).map fun o => (kget op.olds (va + o)).getD (BitVec.ofNat 8 (v / 2 ^ (8 * o))))
/-- An overlapping copy keeps the bytes that an element replaces (R124). -/
def keepOld (s : State) (c : Nat) (op : Op) (va dst n : Nat) : State :=
  if xOverlaps op.w then
    match elemRead s c op.block op.tenant (xDsp op.w != 0) dst n with
    | (s, some v) => updOp s c op.id fun o =>
        { o with olds := (patchesAt va (leBytes n v)).foldl (fun m (a, b) => if (kget m a).isSome then m else kset m a b) o.olds }
    | (s, none) => s
  else s

/-- An element's value written (R124, R131): a copy stores it; a reduction is applied at the home of a global destination, or in the
SRAM. -/
def putElem (s : State) (c : Nat) (op : Op) (dst v : Nat) : State :=
  let n := xEs op.w
  let spadD := xDsp op.w != 0
  let t := op.tenant
  if xOp op.w = 2 then
    if spadD then s.updBlock c op.block fun k => k.putScratch dst (leBytes n (redNew (xRop op.w) (xRtype op.w) (k.scratchNat dst n) v))
    else
      let s := homeAccess s t (lineOf dst) true
      let s := strongWrite s t (coreDomain c) dst n (redNew (xRop op.w) (xRtype op.w) (homeValue s dst n) v)
      updOp s c op.id fun o => { o with sig := o.sig ||| sigOf (lineOf dst) }
  else if spadD then s.updBlock c op.block fun k => k.putScratch dst (leBytes n v)
  else engWrite s c op.id t (coreDomain c) dst n v

/-- A payload's translations and source values: ready to move, or how the operation stands. -/
inductive Payload where
  | ready (s : State) (es : List Elem) (vs : List Nat)
  | stop (s : State)

/-- The launch of an operation's block. -/
def opLaunch (s : State) (c : Nat) (op : Op) : Nat := ((s.block c op.block).map fun k => k.launch).getD 0

/-- An operation's translation fault (R134): it pauses, waits, or kills its block. -/
def engFault (s : State) (c : Nat) (op : Op) (moved : Bool) (r : EngXlat) : State :=
  match r with
  | .ok _ => s
  | .pending d fid => updOp s c op.id fun o => { o with stage := .faulted d fid moved }
  | .wait => s
  | .dead => killAndFail s c op.block xXlate [0, 0, 0, 0]
  | .sealed => killAndFail s c op.block xSealed [0, 0, 0, 0]
  | .down line => poisonKill s c op.block line

/-- The addresses of a transfer translated and its source read (R70, R132, R134). -/
def fetchPayload (s : State) (c : Nat) (op : Op) : Payload :=
  let l := opLaunch s c op
  let es := xElems op.w
  let spadS := xSsp op.w == 1
  let spadD := xDsp op.w != 0
  let srcs := if spadS then [] else es.map fun e => (engAddr e.1, false)
  let dsts := if spadD then [] else es.map fun e => (engAddr e.2, true)
  match engXlat s c op.tenant l 2 (xEs op.w) (srcs ++ dsts) with
  | (s, .ok pas) =>
    let sp := if spadS then es.map fun e => e.1.toNat else pas.take es.length
    let dp := if spadD then es.map fun e => e.2.toNat else pas.drop srcs.length
    let els := (sp.zip dp).map fun (a, b) => (⟨a, b⟩ : Elem)
    match readElems s c op.block op.tenant spadS (xEs op.w) els with
    | (s, .ok vs) => .ready s els vs
    | (s, .error line) => .stop (poisonKill s c op.block line)
  | (s, r) => .stop (engFault s c op false r)

/-- An operation may start (R127, R130): it waits on nothing before it and its receipts are there. -/
def mayStart (s : State) (c : Nat) (op : Op) : Bool :=
  op.stage == .waiting && (!xOrd op.w || (earlierOps (s.core c) op).isEmpty) &&
    match s.block c op.block with
    | some k => decide (xRcpt op.w ≤ (zget k.rc (xRsel op.w)).toNat)
    | none => false
/-- It starts: its receipts are subtracted, and a multicast has every rank to deliver to (R130). -/
def startOp (s : State) (c : Nat) (op : Op) : State :=
  let s := s.updBlock c op.block fun k =>
    { k with rc := zset k.rc (xRsel op.w) (zget k.rc (xRsel op.w) - BitVec.ofNat 16 (xRcpt op.w)) }
  updOp s c op.id fun o => { o with stage := .payload, todo := if xOp o.w = 3 then xCmask o.w else [] }
/-- An operation that starts now, or has started and is to move its payload. -/
def startedOp (s : State) (c id kind : Nat) : Option (State × Op) :=
  match getOp s c id with
  | some op =>
    if op.eng != 0 || xOp op.w != kind then none
    else if op.stage == .payload then some (s, op)
    else if mayStart s c op then some (startOp s c op, { op with stage := .payload })
    else none
  | none => none

/-- The elements in the order in which they move, which is free (R124): each is picked among those that remain. -/
def freeOrder {α : Type} (pick : Nat → Nat) : Nat → List α → List α
  | n + 1, a :: b :: r =>
    let l := a :: b :: r
    let i := pick (r.length + 2) % (r.length + 2)
    (l.drop i).take 1 ++ freeOrder pick n (l.take i ++ l.drop (i + 1))
  | _, l => l
/-- A transfer's elements, numbered, in the order in which they move. -/
def moveList (op : Op) : List (Nat × Int × Int) :=
  let es := xElems op.w
  freeOrder (Config.moveOrder op.seed) es.length ((List.range es.length).zip es)

/-- One element of a COPY or REDUCE (R124, R131, R132, R134): its addresses are translated, it moves, and the progress word counts it;
or how the operation stands then. -/
def moveElem (s : State) (c id : Nat) (i : Nat) (e : Int × Int) : State × Bool :=
  match getOp s c id with
  | none => (s, false)
  | some op =>
    let n := xEs op.w
    let spadS := xSsp op.w == 1
    let spadD := xDsp op.w != 0
    let srcs := if spadS then [] else [(engAddr e.1, false)]
    let dsts := if spadD then [] else [(engAddr e.2, true)]
    match engXlat s c op.tenant (opLaunch s c op) 2 n (srcs ++ dsts) with
    | (s, .ok pas) =>
      let src := if spadS then engAddr e.1 else pas.getD 0 0
      let dst := if spadD then engAddr e.2 else pas.getD srcs.length 0
      match elemRead s c op.block op.tenant spadS src n with
      | (s, some v) =>
        let s := putElem (keepOld s c op (engAddr e.2) dst n) c op dst (oldOrNew op i (engAddr e.1) n v)
        (updOp s c id fun o => { o with prog := o.prog + 1 }, true)
      | (s, none) => (poisonKill s c op.block (lineOf src), false)
    | (s, r) => (engFault s c op false r, false)
/-- COPY and REDUCE (R124, R131, R132): the next element moves; after the last the payload is complete. -/
def movePayload (s : State) (c id kind : Nat) : State :=
  match startedOp s c id kind with
  | none => s
  | some (s, op) =>
    let all := moveList op
    let s := match (all.drop op.prog).head? with
      | some (i, e) => (moveElem s c id i e).1
      | none => s
    updOp s c id fun o => if o.stage == .payload && decide (all.length ≤ o.prog) then { o with stage := .done } else o

/-- Where a rank of a block's cluster is (R130): on a core, not started yet, or complete. -/
inductive RankAt where
  | on (c b : Nat)
  | notYet
  | complete
  deriving DecidableEq, Repr
/-- The whereabouts of a block of a launch. -/
def rankAt (s : State) (t l i : Nat) : RankAt :=
  match s.findBlock t l i with
  | some (c, b) => match s.block c b with
    | some k => if k.started then .on c b else .notYet
    | none => .notYet
  | none =>
    match s.launch t l with
    | some x => if x.completed.contains i then .complete else .notYet
    | none => .complete

/-- The delivery of a multicast to one rank (R130): its payload, in no defined order (R124), then the receiver postmark; whether it is
acknowledged. -/
def deliverRank (s : State) (c : Nat) (op : Op) (rank : Nat) (es : List Elem) (vs : List Nat) : State × Bool :=
  match s.block c op.block with
  | none => (s, true)
  | some k =>
    match rankAt s k.tenant k.launch (k.index / k.clus * k.clus + rank) with
    | .complete => (s, true)
    | .notYet => (s, false)
    | .on rc rb =>
      (s.updBlock rc rb fun j =>
        let j := (freeOrder (Config.castOrder op.seed rank) es.length (es.zip vs)).foldl (fun j (e, v) => j.putScratch e.dst (leBytes (xEs op.w) v)) j
        j.putScratch (xRpm op.w) (leBytes 8 (xVal op.w).toNat), true)

/-- The postmark (R93, R127, R128): an 8-byte strong write with release at the record's scope, of a block engine. -/
def postmark (s : State) (c : Nat) (op : Op) (pm : Nat) (scope : BitVec 4) (v : W64) (agent : Nat) : State × Bool :=
  match s.block c op.block with
  | none => (s, false)
  | some k =>
    match engXlat s c op.tenant k.launch agent 8 [(pm, true)] with
    | (s, .ok (pa :: _)) =>
      let s := homeAccess s op.tenant (lineOf pa) true
      let s := strongWrite s op.tenant (coreDomain c) pa 8 v.toNat
      let sc : BitVec 4 := if scope.toNat < 2 then 2 else scope
      (publish s (blockWho s c k none) op.sig sc pa 8, true)
    | (s, r) => (engFault s c op true r, false)

/-- An operation leaves the unit: its locks go, and arrivals that waited for it are made (R110, R137). -/
def leaveOp (s : State) (c : Nat) (op : Op) : State :=
  let s := s.updCore c fun k => { k with ops := k.ops.filter fun o => o.id != op.id, locks := k.locks.filter fun l => l.op != op.id }
  settleHeld s c op.block

/-- A receipt reaches a block (R130): past 65,535 it is discarded and reported. -/
def addReceipt (s : State) (c b j : Nat) : State :=
  match s.block c b with
  | some k =>
    if zget k.rc j = BitVec.allOnes 16 then s.setEsum k.tenant esRcptOvf
    else s.updBlock c b fun k => { k with rc := zset k.rc j (zget k.rc j + 1) }
  | none => s

end Sys2Proof.Machine
end

