-- ==== Sys2Proof/Machine/Tile.lean ====
section
/-! DEFINITION. The tile stream's data and arithmetic: descriptors (R293-R296), operand lines and their scales (R62-R65,
R156, R297, R298), and what each tile instruction does once it issues (R301-R306, R316, R326, R331). -/
namespace Sys2Proof.Machine
open Sys2Proof

/-- Bits of an element of a type, and the alignment unit of R295 in bytes. -/
def elemBits (ty : BitVec 4) : Nat :=
  if ty == tyB1 then 1 else if ty == tyE2m1 then 4 else if [tyE4m3, tyE5m2, tyS8].contains ty then 8
  else if [tyF16, tyBf16].contains ty then 16 else 32
def alignUnit (ty : BitVec 4) : Nat := if ty == tyE2m1 then 4 else if ty == tyB1 then 1 else elemBits ty / 8

/-- The stored lines of a descriptor: their number, their elements and their bytes (R295). -/
def Desc.lines (d : Desc) : Nat := if d.colMajor then d.cols else d.rows
def Desc.lineLen (d : Desc) : Nat := if d.colMajor then d.rows else d.cols
def Desc.lineBytes (d : Desc) : Nat := ceilDiv (d.lineLen * elemBits d.ty) 8
/-- ElemBit (R295). -/
def Desc.elemBit (d : Desc) (r c : Nat) : Nat :=
  if d.colMajor then 8 * d.pitch * c + elemBits d.ty * r else 8 * d.pitch * r + elemBits d.ty * c
/-- RT and CT (R295), in bits. -/
def Desc.rt (d : Desc) : Nat := d.elemBit d.rows 0
def Desc.ct (d : Desc) : Nat := d.elemBit 0 d.cols
/-- The advance after a use (R296). -/
def Desc.advance (d : Desc) : Desc :=
  { d with addr := (d.addr + (if d.step == 1 then d.ct / 8 else if d.step == 2 then d.rt / 8 else 0)) % 2 ^ 56 }
/-- The bytes of each stored line: first, and one past the last. -/
def Desc.spans (d : Desc) : List (Nat × Nat) :=
  (List.range d.lines).map fun i => (d.addr + i * d.pitch, d.addr + i * d.pitch + d.lineBytes)
/-- The byte range of a descriptor (R327). -/
def Desc.range (d : Desc) : Nat × Nat := (d.addr, d.addr + (d.lines - 1) * d.pitch + d.lineBytes)

/-- Sel of R295: the block coordinate a selector names. -/
def tileSel (k : Block) (code : Nat) : Nat :=
  let gx := max 1 (recGx k.record)
  let gy := max 1 (recGy k.record)
  match code with
  | 1 => k.index % gx
  | 2 => k.index / gx % gy
  | 3 => k.index / gx / gy
  | 4 => k.rank
  | _ => 0

/-- TDESC's descriptor, or its TILEFAULT code (R293-R295). -/
def makeDesc (k : Block) (op : TileOp) : Except Nat Desc :=
  let a := op.va
  let w := op.vb
  let d0 : Desc := { ty := op.x.ty, colMajor := op.x.aux8 == 1, spad := bit a 56, addr := 0, rows := bits w 0 16, cols := bits w 16 16
                     pitch := bits w 32 30, step := w.extractLsb' 62 2 }
  let rsel := bits a 57 3
  let csel := bits a 60 3
  let base := bits a 0 56
  let addr := (base + (tileSel k rsel * d0.rt + tileSel k csel * d0.ct) / 8) % 2 ^ 56
  let u := alignUnit d0.ty
  if d0.rows = 0 || 4096 < d0.rows || d0.cols = 0 || 4096 < d0.cols || d0.step == 3 || 4 < rsel || 4 < csel || bit a 63 ||
      (d0.rt % 8 != 0 && (rsel != 0 || d0.step == 2)) || (d0.ct % 8 != 0 && (csel != 0 || d0.step == 1)) then .error 1
  else if addr % u != 0 || d0.pitch % u != 0 || (1 < d0.lines && d0.pitch < d0.lineBytes) ||
      (d0.spad && (2 ^ 19 ≤ addr || 2 ^ 19 ≤ base)) then .error 2
  else .ok { d0 with addr := addr }

/-- The XOPs of the tile instructions and of the internal operations (R198, R331). -/
def opTdesc : BitVec 10 := 0x301
def opTzero : BitVec 10 := 0x302
def opTldacc : BitVec 10 := 0x303
def opTmma : BitVec 10 := 0x304
def opTmmab : BitVec 10 := 0x305
def opTscale : BitVec 10 := 0x306
def opTtrans : BitVec 10 := 0x307
def opTadd : BitVec 10 := 0x308
def opTcvt : BitVec 10 := 0x309
def opTstore : BitVec 10 := 0x30A
def opMmaT : BitVec 10 := 0x3F0
def opScale2 : BitVec 10 := 0x3F1
def opScaleP : BitVec 10 := 0x3F2
def opMma2 : BitVec 10 := 0x3F3
def isMma (op : BitVec 10) : Bool := [opTmma, opMmaT, opMma2].contains op
def isPair (op : BitVec 10) : Bool := [opScale2, opScaleP].contains op

/-- The descriptors an instruction uses, without repeats (R296). -/
def TileOp.uses (o : TileOp) : List Nat :=
  if isMma o.xop || o.xop == opTmmab then addMember [o.x.a.toNat] o.x.b.toNat
  else if o.xop == opTldacc then [o.x.a.toNat] else if o.xop == opTstore then [o.x.b.toNat] else []
/-- The accumulators and descriptors an instruction names: descriptors stand from 8 on. -/
def TileOp.names (o : TileOp) : List Nat :=
  let d := o.x.d.toNat
  let a := o.x.a.toNat
  let b := o.x.b.toNat
  if o.xop == opTdesc then [8 + d]
  else if o.xop == opTzero then [d]
  else if o.xop == opTldacc then [d, 8 + a]
  else if isMma o.xop || o.xop == opTmmab then [d, 8 + a, 8 + b]
  else if o.xop == opTadd then [d, a, b]
  else if o.xop == opTstore then [a, 8 + b]
  else [d, a]

/-- The descriptors after an instruction (R295, R296): 0x3F3 advances each twice. -/
def stepDescs (k : Block) (d : KMap Desc) (o : TileOp) : KMap Desc :=
  if o.xop == opTdesc then
    match makeDesc k o with
    | .ok e => kset d o.x.d.toNat e
    | .error _ => d
  else
    let adv (d : KMap Desc) : KMap Desc := o.uses.foldl (fun d i => kupd d i Desc.advance) d
    if o.xop == opMma2 then adv (adv d) else adv d

/-- The type that an operand of a multiply must have. -/
def tyOfB (o : TileOp) : BitVec 4 := if [tyE4m3, tyE5m2].contains o.x.ty then o.x.aux8.extractLsb' 0 4 else o.x.ty
/-- K runs along the stored lines of an FP4 operand (R303 code 0x06). -/
def alongK (a b : Desc) (tb : Bool) : Bool := !a.colMajor && (if tb then !b.colMajor else b.colMajor)

/-- The TILEFAULT code of an instruction's checks (R295, R301, R303, R304, R306, R313), if one fails. -/
def checkOp (k : Block) (d : KMap Desc) (o : TileOp) : Option Nat :=
  let da := kget d o.x.a.toNat
  let db := kget d o.x.b.toNat
  if o.xop == opTdesc then
    match makeDesc k o with
    | .ok _ => none
    | .error e => some e
  else if isMma o.xop || o.xop == opTmmab then
    match da, db with
    | some a, some b =>
      let tb := o.xop != opTmmab && o.x.mod6.getLsbD 0
      let kb := if tb then b.cols else b.rows
      let n := if tb then b.rows else b.cols
      let lim := if o.xop == opTmmab then 4096 else 512
      if a.ty != o.x.ty || b.ty != tyOfB o then some 4
      else if a.spad || b.spad then some 5
      else if 64 < a.rows || 64 < n || a.cols != kb || lim < a.cols then some 3
      else if o.x.ty == tyE2m1 && !alongK a b tb then some 6
      else none
    | _, _ => some 10
  else if o.xop == opTldacc then
    match da with
    | some a =>
      if a.ty != o.x.ty then some 4
      else if 64 < a.rows || 64 < a.cols then some 3
      else if a.spad && k.kern.scratch < a.range.2 then some 5 else none
    | none => some 10
  else if o.xop == opTstore then
    match db with
    | some b =>
      if elemBits b.ty != elemBits o.x.ty || b.ty == tyE2m1 || b.ty == tyB1 then some 4
      else if 64 < b.rows || 64 < b.cols then some 3
      else if b.spad && k.kern.scratch < b.range.2 then some 5 else none
    | none => some 10
  else none

/-- The descriptors an instruction reads or writes memory through, as it finds them; 0x3F3 also those its advances lead to. -/
def usedDescs (d : KMap Desc) (o : TileOp) : List Desc :=
  let now := o.uses.filterMap fun i => kget d i
  if o.xop == opMma2 then now ++ now.map Desc.advance else now
/-- The global ones of them. -/
def opDescs (d : KMap Desc) (o : TileOp) : List Desc := (usedDescs d o).filter fun e => !e.spad

/-- The first byte that lies in each line of some byte spans. -/
def spanLines (sp : List (Nat × Nat)) : KMap Nat :=
  sp.foldl (fun m (lo, hi) => (List.range ((hi - 1) / 128 + 1 - lo / 128)).foldl (fun m i =>
    let l := lo / 128 + i
    if (kget m l).isSome then m else kset m l (max lo (128 * l))) m) []

/-- How a translation of lines ends: their physical lines, a park, a fault that cannot be resolved, or a page-table
line that cannot be read. -/
inductive Paged where
  | ok (pas : KMap Nat)
  | park (p : Park)
  | dead (va : Nat)
  | down (line : Nat)
  deriving DecidableEq, Repr

/-- Lines translated for a tile stream, every page of them (R315, R326, R392, R393). -/
def pageLines (s : State) (c t l : Nat) (ls : List (Nat × Nat × Bool)) : State × Paged :=
  let (s, pas, pend, full, dead) := ls.foldl
    (fun ((s, pas, pend, full, dead) : State × KMap Nat × List (Nat × Nat × Nat) × Bool × Option Paged) (line, va, w) =>
      if dead.isSome then (s, pas, pend, full, dead)
      else match accessPage s (coreDomain c) t va w 1 c l with
        | (s, .ok pa) => (s, kset pas line (lineOf pa), pend, full, dead)
        | (s, .pending fid) =>
          (s, pas, if pend.any fun x => x.2.1 == fid then pend else pend ++ [(coreDomain c, fid, va)], full, dead)
        | (s, .wait) => (s, pas, pend, true, dead)
        | (s, .dead _) => (s, pas, pend, full, some (.dead va))
        | (s, .down l) => (s, pas, pend, full, some (.down l))) (s, [], [], false, none)
  match dead with
  | some p => (s, p)
  | none => if !pend.isEmpty then (s, .park (.fault pend)) else if full then (s, .park .full) else (s, .ok pas)

/-- What becomes of a tile instruction or a replacement group. -/
inductive TRes where
  /-- it has acted, and the stream goes on to the next instruction -/
  | done (s : State)
  /-- it has acted and has set the PC itself, or ended the stream -/
  | went (s : State)
  /-- the sequencer parks at it -/
  | park (s : State) (p : Park)
  /-- a trap: launch failure code, TILEFAULT subcode and the faulting address where there is one (R315) -/
  | die (s : State) (code sub addr : Nat)
  /-- a poisoned line -/
  | poison (s : State) (line : Nat)

/-- Launch failure codes of the tile stream (R385). -/
def xTilefault : Nat := 0x43
def xFmtmiss : Nat := 0x44
def xTillop : Nat := 0x45

/-- The bytes of lines filled through the domain's L2 (R297), or the poisoned line met first. -/
def fillLines (s : State) (t d : Nat) (pas : KMap Nat) : State × Except Nat (KMap (List Byte)) :=
  pas.foldl (fun (s, r) (l, pl) =>
    match r with
    | .error e => (s, .error e)
    | .ok m => match l2Read s t d pl with
      | (s, some bs) => (s, .ok (m ++ [(l, bs)]))
      | (s, none) => (s, .error pl)) (s, .ok [])

/-- A byte of filled lines. -/
def lineByte (m : KMap (List Byte)) (va : Nat) : Nat := (((kget m (va / 128)).getD []).getD (va % 128) 0).toNat
/-- The code of an element in filled lines (R154, R155, R295). -/
def elemCode (m : KMap (List Byte)) (d : Desc) (r c : Nat) : Nat :=
  let e := d.elemBit r c
  let a := d.addr + e / 8
  let n := elemBits d.ty
  if n < 8 then lineByte m a / 2 ^ (e % 8) % 2 ^ n
  else leNat ((List.range (n / 8)).map fun i => BitVec.ofNat 8 (lineByte m (a + i)))

/-- A line's attachment (R65): its band scale with the flag its use raises, and its block scales. -/
structure Scales where
  band : Val × Flags
  blocks : List Nat
  deriving DecidableEq, Repr

/-- A band scale (R156). -/
def bandVal (code : Nat) : Val × Flags :=
  match decodeFp fmtBf16 code with
  | .fin neg n d => if code / 128 % 256 = 0 then (.fin neg 0 1, 0) else (.fin neg n d, 0)
  | _ => (.nan, flagIV)

/-- The scales of an attachment. -/
def Att.scales (a : Att) : Scales := ⟨bandVal (leNat a.band), a.blocks.map fun b => b.toNat⟩
/-- The attachment of a line in a domain's L2 for an operand type (R65), or the line that stops the fetch: a poisoned line of the scale
arrays (`true`, R70), or the line itself, which has none (FMTMISS). Scales removed by a store are attached anew. -/
def attach (s : State) (t d : Nat) (ty : BitVec 4) (line : Nat) : State × Except (Bool × Nat) Scales :=
  let s := match kget (s.dom d).att line with
    | some a => if a.stale then attachLine s t d line else s
    | none => s
  match kget (s.dom d).att line with
  | none => (s, .error (false, line))
  | some a =>
    let fmt := if ty == tyE2m1 then 1 else if ty == tyE4m3 then 2 else 3
    let governs := match windowOf s line with
      | some (_, w, _) => bits (word w 0) 4 4 == fmt
      | none => false
    if a.fmt != fmt || !governs then (s, .error (false, line))
    else
      match a.bad with
      | some l => (s, .error (true, l))
      | none => (s, .ok a.scales)

/-- A line pinned by a domain's tile fetch (R59, R297): the oldest pin goes where 512 lines, or 8 of the line's set, are pinned (DESIGN CHOICE,
log 191). -/
def pinLine (s : State) (d line : Nat) : State :=
  let p := (s.dom d).pins.filter (· != line)
  let full := decide (8 ≤ p.length) && decide (8 ≤ (p.filter fun l => sameSet l line).length)
  let gone := if full then p.find? fun l => sameSet l line else if 512 ≤ p.length then p.head? else none
  s.updDom d fun k => { k with pins := (p.filter fun l => some l != gone) ++ [line] }
/-- The attachment of a line for every operand type it is read by, or what stops the fetch. -/
def attachTypes (s : State) (t d line : Nat) (tys : List (BitVec 4)) : State × Except (Bool × Nat) (Option Scales) :=
  tys.foldl (fun (s, r) ty =>
    match r with
    | .error e => (s, .error e)
    | .ok _ => match attach s t d ty line with
      | (s, .ok x) => (s, .ok (some x))
      | (s, .error e) => (s, .error e)) (s, .ok none)
/-- How the tile fetch ends early: a poisoned line of the operand, or scales that are not there. -/
inductive FetchStop where
  | poison (line : Nat)
  | scales (e : Bool × Nat)
/-- The lines of an instruction's operands fetched through the domain's L2 (R297), one after another: each is pinned, filled, and its bytes and
the scales that its operands' types need (R65) are taken together. -/
def fetchLines (s : State) (t d : Nat) (tys : Nat → List (BitVec 4)) (pas : KMap Nat) :
    State × Except FetchStop (KMap (List Byte) × KMap Scales) :=
  let one (s : State) (m : KMap (List Byte)) (a : KMap Scales) (l pl : Nat) : State × Except FetchStop (KMap (List Byte) × KMap Scales) :=
    match l2Read (pinLine s d pl) t d pl with
    | (s, none) => (s, .error (.poison pl))
    | (s, some bs) =>
      match attachTypes s t d pl (tys l) with
      | (s, .error e) => (s, .error (.scales e))
      | (s, .ok x) => (s, .ok (m ++ [(l, bs)], a ++ (x.map fun x => (l, x)).toList))
  let (s, r) := pas.foldl (fun ((s, r) : State × Except FetchStop (KMap (List Byte) × KMap Scales)) (l, pl) =>
    match r with
    | .error e => (s, .error e)
    | .ok (m, a) => one s m a l pl) (s, .ok ([], []))
  (s.updDom d fun k => { k with pins := [] }, r)

/-- How a tile fetch ends early: at a poisoned line of an operand or of a scale array (R70), or at a line without scales (FMTMISS, R65). -/
def fetchStop (s : State) : FetchStop → TRes
  | .poison line => .poison s line
  | .scales (bad, line) => if bad then .poison s line else .die s xFmtmiss 0 (lineBase line)

/-- A multiply operand of an FP8 or FP4 type takes scales (R65, R302). -/
def needsScales (ty : BitVec 4) : Bool := [tyE4m3, tyE5m2, tyE2m1].contains ty

/-- An element's value with its scales (R156), and the flags of forming it. -/
def scaledVal (ty : BitVec 4) (sc : Option Scales) (byte half code : Nat) : Val × Flags :=
  match sc with
  | none => (fpVal ty code, 0)
  | some a =>
    let (e, f) := if ty == tyE2m1 then mulVal (fpVal ty code) (decodeFp fmtE3m5 (a.blocks.getD ((2 * byte + half) / 8) 0)) else (fpVal ty code, 0)
    let (v, g) := mulVal e a.band.1
    (v, f ||| g ||| a.band.2)

/-- The value of element (r, c) of an operand (R173, R302). -/
def elemVal (m : KMap (List Byte)) (att : KMap Scales) (d : Desc) (r c : Nat) : Val × Flags :=
  let a := d.addr + d.elemBit r c / 8
  scaledVal d.ty (if needsScales d.ty then kget att (a / 128) else none) (a % 128) (d.elemBit r c / 4 % 2) (elemCode m d r c)

/-- The 4,096 elements of an accumulator in order, and back (R291). -/
def accList (m : ZMap 32) (k : Nat) : Nat → List W32
  | 0 => []
  | n + 1 =>
    match m with
    | (j, v) :: r => if j = k then v :: accList r (k + 1) n else 0 :: accList m (k + 1) n
    | [] => 0 :: accList [] (k + 1) n
def accMap (l : List W32) : ZMap 32 := ((List.range l.length).zip l).filterMap fun (k, v) => if v = 0 then none else some (k, v)
def Tile.accOf (t : Tile) (a : Nat) : List W32 := accList ((kget t.acc a).getD []) 0 4096
/-- An accumulator written with new elements, and flags raised into it (R291). -/
def Tile.putAcc (t : Tile) (a : Nat) (l : List W32) (f : Flags) : Tile :=
  { t with acc := kset t.acc a (accMap l), flags := zset t.flags a (zget t.flags a ||| f) }
/-- The flags of an accumulator cleared. -/
def Tile.clearFlags (t : Tile) (a : Nat) : Tile := { t with flags := zset t.flags a 0 }

/-- Lists of at most `n` elements each. -/
def chunks {α : Type} (n : Nat) : Nat → List α → List (List α)
  | 0, _ => []
  | f + 1, l => if l.isEmpty then [] else l.take n :: chunks n f (l.drop n)
/-- KC (R165). -/
def chunkLen (ty : BitVec 4) : Nat := if ty == tyBf16 then 16 else if ty == tyE2m1 then 64 else 32

/-- One chunk added to an FP32 element with one rounding (R165). -/
def addChunk (acc : Nat) (ps : List ((Val × Flags) × (Val × Flags))) : Nat × Flags :=
  let prods := ps.map fun (x, y) => let p := mulVal x.1 y.1; (p.1, p.2 ||| x.2 ||| y.2)
  let (v, f) := sumVals (fpVal tyF32 acc :: prods.map (·.1)) 0
  let (r, g) := roundFmt v fmtF32 0 false
  (r, prods.foldl (fun a p => a ||| p.2) (f ||| g))
/-- A float element of a multiply (R165). -/
def dotFloat (ty : BitVec 4) (acc : Nat) (a b : List (Val × Flags)) : Nat × Flags :=
  (chunks (chunkLen ty) a.length (a.zip b)).foldl (fun (r, f) ps => let q := addChunk r ps; (q.1, f ||| q.2)) (acc, 0)
/-- An s8 element of a multiply (R166). -/
def dotInt (acc : Nat) (a b : List Nat) : Nat :=
  intCode tyS32 ((a.zip b).foldl (fun (n : Int) (x, y) => n + intVal tyS8 x * intVal tyS8 y) (acc : Int))
/-- A binary element (R166, R304). -/
def dotBits (andOp : Bool) (acc : Nat) (a b : List Nat) : Nat :=
  ((a.zip b).foldl (fun n (x, y) => n + (if andOp then x * y else (x + y) % 2)) acc) % 2 ^ 32

/-- Every element of an accumulator given by a function of (i, j) and its old value. -/
def mapAcc (l : List W32) (f : Nat → Nat → W32 → Nat × Flags) : List W32 × Flags :=
  let rs := ((List.range l.length).zip l).map fun (k, v) => f (k / 64) (k % 64) v
  (rs.map fun r => BitVec.ofNat 32 r.1, rs.foldl (fun a r => a ||| r.2) 0)

/-- The operand descriptors of a multiply for element k of K: 0x3F3 goes on at the advanced descriptor (R331). -/
def atK (o : TileOp) (d : Desc) (ka k : Nat) : Desc × Nat := if o.xop == opMma2 && ka ≤ k then (d.advance, k - ka) else (d, k)

/-- The accumulator of a multiply (R302, R304, R331): 0x3F0 writes the result at (i, j), from the old value there, to (j, i). -/
def mmaAcc (m : KMap (List Byte)) (att : KMap Scales) (da db : Desc) (o : TileOp) (acc : List W32) : List W32 × Flags :=
  let tb := o.xop != opTmmab && o.x.mod6.getLsbD 0
  let n := if tb then db.rows else db.cols
  let ks := List.range (if o.xop == opMma2 then 2 * da.cols else da.cols)
  let at2 (d : Desc) (k : Nat) (f : Desc → Nat → Nat × Nat) : Desc × Nat × Nat := let p := atK o d da.cols k; (p.1, f p.1 p.2)
  let aAt (i k : Nat) := at2 da k fun _ k => (i, k)
  let bAt (j k : Nat) := at2 db k fun _ k => if tb then (j, k) else (k, j)
  let code (p : Desc × Nat × Nat) : Nat := elemCode m p.1 p.2.1 p.2.2
  let val (p : Desc × Nat × Nat) : Val × Flags := elemVal m att p.1 p.2.1 p.2.2
  let whole (f : Nat → Nat → W32 → Nat × Flags) : List W32 × Flags :=
    mapAcc acc fun i j v =>
      if o.xop == opMmaT then (if j < da.rows && i < n then f j i (acc.getD (64 * j + i) 0) else (v.toNat, 0))
      else if i < da.rows && j < n then f i j v else (v.toNat, 0)
  if o.xop == opTmmab || o.x.ty == tyS8 then
    let ra := (List.range da.rows).map fun i => ks.map fun k => code (aAt i k)
    let cb := (List.range n).map fun j => ks.map fun k => code (bAt j k)
    whole fun i j v =>
      let a := ra.getD i []
      let b := cb.getD j []
      (if o.xop == opTmmab then dotBits (o.x.mod6.getLsbD 0) v.toNat a b else dotInt v.toNat a b, 0)
  else
    let ra := (List.range da.rows).map fun i => ks.map fun k => val (aAt i k)
    let cb := (List.range n).map fun j => ks.map fun k => val (bAt j k)
    whole fun i j v => dotFloat o.x.ty v.toNat (ra.getD i []) (cb.getD j [])

/-- The element-wise forms and TZERO (R301, R305, R331): the stream after one, and the flags that it raises: TTRANS moves its source's and
raises none (R164; DESIGN CHOICE, log 188). -/
def elementwise (t : Tile) (o : TileOp) : Tile × Flags :=
  let d := o.x.d.toNat
  let a := t.accOf o.x.a.toNat
  let put (r : List W32 × Flags) : Tile × Flags := (t.putAcc d r.1 r.2, r.2)
  let f := (o.vb.extractLsb' 0 32).toNat
  if o.xop == opTzero then ({ t with acc := kdel t.acc d }.clearFlags d, 0)
  else if o.xop == opTscale then put (mapAcc a fun _ _ v => fpMul tyF32 o.x.rm v.toNat f)
  else if o.xop == opScale2 then
    put (mapAcc a fun _ _ v => let p := fpMul tyF32 o.x.rm v.toNat f; let q := fpMul tyF32 o.x.rm p.1 o.vc.toNat; (q.1, p.2 ||| q.2))
  else if o.xop == opScaleP then put (mapAcc a fun _ _ v => fpMul tyF32 o.x.rm v.toNat (fpMul tyF32 0 f o.vc.toNat).1)
  else if o.xop == opTtrans then
    (t.putAcc d ((List.range 4096).map fun k => a.getD (k % 64 * 64 + k / 64) 0) (zget t.flags o.x.a.toNat), 0)
  else if o.xop == opTadd then
    let b := t.accOf o.x.b.toNat
    put (mapAcc a fun i j v =>
      let w := (b.getD (64 * i + j) 0).toNat
      if o.x.ty == tyF32 then fpAdd tyF32 o.x.rm v.toNat w else ((v.toNat + w) % 2 ^ 32, 0))
  else put (mapAcc a fun _ _ v => convert (if o.x.ty == tyS8 then tyS32 else tyF32) o.x.ty o.x.rm o.x.sat v.toNat)

/-- A tile stored (R298, R306): each element through the L2, or into the share. A store to the line of an open stamp-book counter is a
plain one: R315 lists no SBFAULT for a tile stream (DESIGN CHOICE, log 150). -/
def storeTile (s : State) (c b t : Nat) (acc : List W32) (d : Desc) (pas : KMap Nat) : State :=
  let n := elemBits d.ty / 8
  (List.range d.rows).foldl (fun s i => (List.range d.cols).foldl (fun s j =>
    let a := d.addr + d.elemBit i j / 8
    let bs := leBytes n (acc.getD (64 * i + j) 0).toNat
    if d.spad then s.updBlock c b fun k => k.putScratch a bs
    else
      let line := (kget pas (a / 128)).getD 0
      let s := l2Write s t (coreDomain c) line (patchesAt (a % 128) bs)
      s.updBlock c b fun k => { k with sig := k.sig ||| sigOf line }) s) s

/-- A tile loaded (R301): zero outside the descriptor's shape. -/
def loadTile (get : Nat → Nat → Nat) (d : Desc) : List W32 :=
  (List.range 4096).map fun k => if k / 64 < d.rows && k % 64 < d.cols then BitVec.ofNat 32 (get (k / 64) (k % 64)) else 0

/-- The effect of an instruction whose checks and translations are done, its operands' descriptors given. A replacement counts its flags
once, as an instruction of its own (R164; DESIGN CHOICE, log 189). -/
def actOp (s : State) (c b : Nat) (k : Block) (d : KMap Desc) (pas : KMap Nat) (o : TileOp) : TRes :=
  let t := k.tenant
  let da := (kget d o.x.a.toNat).getD ⟨0, false, false, 0, 1, 1, 0, 0⟩
  let db := (kget d o.x.b.toNat).getD ⟨0, false, false, 0, 1, 1, 0, 0⟩
  let mine := pas.filter fun (l, _) => (kget (spanLines ((opDescs d o).map Desc.spans).flatten) l).isSome
  if o.xop == opTdesc then .done s
  else if isMma o.xop || o.xop == opTmmab then
    let tys (l : Nat) : List (BitVec 4) :=
      (((opDescs d o).filter fun e => needsScales e.ty && (kget (spanLines e.spans) l).isSome).map Desc.ty).eraseDups
    match fetchLines s t (coreDomain c) tys mine with
    | (s, .error e) => fetchStop s e
    | (s, .ok (m, a)) =>
      match s.tile c b with
      | none => .done s
      | some x =>
        let r := mmaAcc m a da db o (x.accOf o.x.d.toNat)
        .done (countFlags (s.updTile c b fun x => x.putAcc o.x.d.toNat r.1 r.2) t r.2)
  else if o.xop == opTldacc then
    let put (s : State) (l : List W32) : TRes := .done (s.updTile c b fun x => (x.clearFlags o.x.d.toNat).putAcc o.x.d.toNat l 0)
    if da.spad then put s (loadTile (fun i j => k.scratchNat (da.addr + da.elemBit i j / 8) 4) da)
    else
      match fetchLines s t (coreDomain c) (fun _ => []) mine with
      | (s, .error e) => fetchStop s e
      | (s, .ok (m, _)) => put s (loadTile (elemCode m da) da)
  else if o.xop == opTstore then
    match mine.find? fun (_, l) => !db.spad && s.homeDown t (lineBase l) with
    | some (_, line) => .poison s line
    | none => .done (storeTile s c b t (((s.tile c b).map fun x => x.accOf o.x.a.toNat).getD []) db mine)
  else
    match s.tile c b with
    | none => .done s
    | some x =>
      let r := elementwise x o
      .done (countFlags (s.updTile c b fun _ => r.1) t r.2)

/-- The descriptors before each of some instructions. -/
def withDescs (k : Block) (d : KMap Desc) : List TileOp → List (KMap Desc × TileOp)
  | [] => []
  | o :: r => (d, o) :: withDescs k (stepDescs k d o) r

/-- A window entry issues (R326, R329): the checks of its original instructions, every translation, then its operations; the
descriptors end as the originals leave them. -/
def runEntry (s : State) (c b : Nat) (k : Block) (t : Tile) (e : WinEntry) : TRes :=
  match (withDescs k t.d e.orig).findSome? fun (d, o) => checkOp k d o with
  | some sub => .die s xTilefault sub 0
  | none =>
    let ops := withDescs k t.d e.ops
    let lines := (ops.map fun (d, o) => (spanLines ((opDescs d o).map Desc.spans).flatten).map fun (l, va) =>
      (l, va, o.xop == opTstore)).flatten
    match pageLines s c k.tenant k.launch lines with
    | (s, .dead va) => .die s xXlate 0 va
    | (s, .down line) => .poison s line
    | (s, .park p) => .park s p
    | (s, .ok pas) =>
      match lines.find? fun (_, va, w) => w && sealed s k.tenant va 1 with
      | some (_, va, _) => .die s xSealed 0 va
      | none =>
        let out := ops.foldl (fun r (d, o) => match r with
          | .done s => actOp s c b k d pas o
          | r => r) (TRes.done s)
        match out with
        | .done s => .done (s.updTile c b fun x => { x with d := e.orig.foldl (stepDescs k) t.d })
        | r => r

end Sys2Proof.Machine
end

