-- ==== Sys2Proof/Machine/Rewrite.lean ====
section
/-! DEFINITION. The rewrite window (R327-R329, R336), rule-table images (R330-R333) and the shipped rules (R335). -/
namespace Sys2Proof.Machine
open Sys2Proof

/-- A field code and, for a modifier, its fixed value, as templates hold them (R331). Operands in the order D, A, B, C; then
TY, RM, MOD6, AUX8. -/
structure Tmpl where
  op : BitVec 10
  d : Nat
  a : Nat
  b : Nat
  c : Nat
  ty : Nat × Nat
  rm : Nat × Nat
  md : Nat × Nat
  aux : Nat × Nat
  deriving DecidableEq, Repr

/-- A template word read (R331). -/
def readTmpl (w : W64) : Tmpl :=
  { op := w.extractLsb' 0 10, d := bits w 10 4, a := bits w 14 4, b := bits w 18 4, c := bits w 22 4
    ty := (bits w 26 4, bits w 42 4), rm := (bits w 30 4, bits w 46 3), md := (bits w 34 4, bits w 49 6), aux := (bits w 38 4, bits w 55 8) }
/-- A template word written. -/
def tmplWord (op d a b c ty rm md aux fty frm fmd faux : Nat) : W64 :=
  BitVec.ofNat 64 (op + d * 2 ^ 10 + a * 2 ^ 14 + b * 2 ^ 18 + c * 2 ^ 22 + ty * 2 ^ 26 + rm * 2 ^ 30 + md * 2 ^ 34 + aux * 2 ^ 38 +
    fty * 2 ^ 42 + frm * 2 ^ 46 + fmd * 2 ^ 49 + faux * 2 ^ 55)

/-- The kinds of value a field holds: accumulator, descriptor, factor, and the four modifiers. -/
inductive FieldKind where
  | acc | desc | factor | ty | rm | md | aux
  deriving DecidableEq, Repr

/-- The operand kinds of an OP: D, A, B, C (R198, R331). -/
def opKinds (op : BitVec 10) : Option (List (Option FieldKind)) :=
  if op == opTzero then some [some .acc, none, none, none]
  else if op == opTldacc then some [some .acc, some .desc, none, none]
  else if isMma op || op == opTmmab then some [some .acc, some .desc, some .desc, none]
  else if op == opTscale then some [some .acc, some .acc, some .factor, none]
  else if isPair op then some [some .acc, some .acc, some .factor, some .factor]
  else if op == opTtrans || op == opTcvt then some [some .acc, some .acc, none, none]
  else if op == opTadd then some [some .acc, some .acc, some .acc, none]
  else none
/-- An OP a pattern may use, and one a replacement may use (R331). -/
def patOp (op : BitVec 10) : Bool := [opTzero, opTldacc, opTmma, opTmmab, opTscale, opTtrans, opTadd, opTcvt].contains op
def repOp (op : BitVec 10) : Bool := patOp op || [opMmaT, opScale2, opScaleP, opMma2].contains op

/-- The fields of a template with the kind each has for its OP: kind (none for an unused operand), code and fixed value. -/
def tmplFields (m : Tmpl) : List (Option FieldKind × Nat × Nat) :=
  ((opKinds m.op).getD []).zip [m.d, m.a, m.b, m.c] |>.map (fun (k, c) => (k, c, 0)) |>.append
    [(some .ty, m.ty.1, m.ty.2), (some .rm, m.rm.1, m.rm.2), (some .md, m.md.1, m.md.2), (some .aux, m.aux.1, m.aux.2)]
/-- The values of the same fields of an instruction. -/
def opValues (o : TileOp) : List Nat :=
  [o.x.d.toNat, o.x.a.toNat, if o.xop == opTscale || isPair o.xop then (o.vb.extractLsb' 0 32).toNat else o.x.b.toNat, 0,
   o.x.ty.toNat, o.x.rm.toNat, o.x.mod6.toNat, o.x.aux8.toNat]

/-- Bindings: variable, kind and value. -/
abbrev Binds := List (Nat × FieldKind × Nat)
def boundTo (bs : Binds) (v : Nat) : Option (FieldKind × Nat) := (bs.find? fun b => b.1 == v).map (·.2)

/-- A template met by an instruction (R331): the bindings after it. -/
def meetTmpl (bs : Binds) (m : Tmpl) (o : TileOp) : Option Binds :=
  if m.op != o.xop || o.x.sat then none
  else
    ((tmplFields m).zip (opValues o)).foldl (fun r ((k, code, fixed), v) =>
      match r with
      | none => none
      | some bs =>
        if 8 ≤ code then
          match k, boundTo bs (code - 8) with
          | some _, some (_, u) => if u = v then some bs else none
          | some kd, none => some (bs ++ [(code - 8, kd, v)])
          | none, _ => none
        else match k with
          | none => if v = 0 then some bs else none
          | some .acc => none
          | some .desc => none
          | some .factor => none
          | some _ => if v = fixed then some bs else none) (some bs)

/-- Rule fields (R330). -/
def ruleNpat (r : List W64) : Nat := bits (word r 0) 0 4
def ruleNrep (r : List W64) : Nat := bits (word r 0) 4 2
def ruleClass (r : List W64) : BitVec 2 := (word r 0).extractLsb' 6 2
def ruleNcond (r : List W64) : Nat := bits (word r 0) 8 4
def rulePats (r : List W64) : List Tmpl := (List.range (ruleNpat r)).map fun i => readTmpl (word r (1 + i))
def ruleReps (r : List W64) : List Tmpl := (List.range (ruleNrep r)).map fun i => readTmpl (word r (5 + i))
def ruleConds (r : List W64) : List W64 := (List.range (ruleNcond r)).map fun i => word r (7 + i)

/-- A factor is ±2^n with n from −126 to 127 (R332). -/
def isPow2 (f : Nat) : Bool := f % 2 ^ 23 == 0 && decide (1 ≤ f / 2 ^ 23 % 256) && decide (f / 2 ^ 23 % 256 ≤ 254)

/-- A condition of a rule holds (R332): `d` are the descriptors at the match's first instruction, `tb` its transpose bit. -/
def condHolds (d : KMap Desc) (tb : Bool) (bs : Binds) (w : W64) : Bool :=
  let v1 := ((boundTo bs (bits w 8 4 - 8)).map (·.2)).getD 0
  let v2 := ((boundTo bs (bits w 12 4 - 8)).map (·.2)).getD 0
  match bits w 0 8 with
  | 1 => v1 != v2
  | 2 => v1 == v2
  | 3 => isPow2 v1
  | _ =>
    match kget d v1, kget d v2 with
    | some a, some b => a.cols % chunkLen a.ty != 0 && decide (2 * a.cols ≤ 512) && a.step == 1 && b.step == (if tb then 1 else 2)
    | _, _ => false

/-- The permission at an instruction covers a class (R311, R329). -/
def permits (p : Bool × Bool) (cls : BitVec 2) : Bool := (!cls.getLsbD 0 || p.1) && (!cls.getLsbD 1 || p.2)

/-- A replacement's instruction (R331): bound values in place of variables. -/
def buildRep (bs : Binds) (base : TileOp) (m : Tmpl) : TileOp :=
  let val (code fixed : Nat) : Nat := if 8 ≤ code then ((boundTo bs (code - 8)).map (·.2)).getD 0 else fixed
  let factor := m.op == opTscale || isPair m.op
  let x : Ext := { base.x with d := BitVec.ofNat 8 (val m.d 0), a := BitVec.ofNat 8 (val m.a 0), lit := none
                               b := if factor then 0 else BitVec.ofNat 8 (val m.b 0), ty := BitVec.ofNat 4 (val m.ty.1 m.ty.2)
                               rm := BitVec.ofNat 3 (val m.rm.1 m.rm.2), mod6 := BitVec.ofNat 6 (val m.md.1 m.md.2)
                               aux8 := BitVec.ofNat 8 (val m.aux.1 m.aux.2), sat := false }
  { pc := base.pc, xop := m.op, x := x, va := 0, vb := if factor then BitVec.ofNat 64 (val m.b 0) else 0
    vc := if isPair m.op then BitVec.ofNat 32 (val m.c 0) else 0 }

/-- The choices of `n` positions from some, those nearest the front first. -/
def picks : Nat → List Nat → List (List Nat)
  | 0, _ => [[]]
  | _ + 1, [] => []
  | n + 1, c :: r => (picks n r).map (fun l => c :: l) ++ picks (n + 1) r

/-- A rule tried on some window positions, oldest first, the entering one last (R328): the replacement. -/
def tryRule (k : Block) (d0 : KMap Desc) (win : List WinEntry) (n : Nat) (r : List W64) (at_ : List Nat) : Option (List WinEntry) :=
  let es := at_.filterMap fun i => win[i]?
  let os := (es.map fun e => e.ops).flatten
  let bs := ((rulePats r).zip os).foldl (fun b (m, o) => b.bind fun b => meetTmpl b m o) (some ([] : Binds))
  match bs, os with
  | some bs, o :: _ =>
    let first := (at_.head?).getD 0
    let d := ((win.take first).map fun e => e.orig).flatten.foldl (stepDescs k) d0
    let tb := ((rulePats r).zip os).any fun (m, o) => m.op == opTmma && o.x.mod6.getLsbD 0
    let named := bs.filterMap fun (_, kd, v) => match kd with | .acc => some v | .desc => some (8 + v) | _ => none
    let between := (List.range win.length).filter fun i => decide (first < i) && !at_.contains i
    let clear := between.all fun i => match win[i]? with
      | some e => (e.ops ++ e.orig).all fun o => o.names.all fun x => !named.contains x
      | none => true
    if os.length = at_.length && (es.all fun e => !e.matched && permits e.perm (ruleClass r)) && clear &&
        (ruleConds r).all (condHolds d tb bs) then
      let rep : WinEntry := { rule := some n, ops := (ruleReps r).map (buildRep bs o), orig := (es.map fun e => e.orig).flatten
                              perm := (es.head?.map fun e => e.perm).getD (false, false), matched := true }
      let keep := rep.ops.length != 0 || rep.orig.any fun o => !o.uses.isEmpty
      some (((List.range win.length).map fun i =>
        if i = first then (if keep then [rep] else []) else if at_.contains i then [] else (win[i]?).toList).flatten)
    else none
  | _, _ => none

/-- A match attempted for the youngest entry (R328): the first rule that matches, at the nearest instructions. -/
def matchWindow (k : Block) (t : Tile) : List WinEntry :=
  let win := t.window
  let last := win.length - 1
  let older := ((List.range last).filter fun i => match win[i]? with | some e => !e.matched | none => false).reverse
  match ((List.range t.rules.length).zip t.rules).findSome? fun (n, r) =>
      ((picks (ruleNpat r - 1) older).map fun l => (last :: l).reverse).findSome? fun at_ => tryRule k t.d win n r at_ with
  | some w => w
  | none => win

/-- The shipped rules (R335). -/
def shippedRules : List (List W64) :=
  let v (n : Nat) : Nat := 8 + n
  let rule (head : Nat) (pats reps conds : List W64) : List W64 :=
    BitVec.ofNat 64 head :: (pats ++ zeros (4 - pats.length) ++ reps ++ zeros (2 - reps.length) ++ conds ++ zeros (9 - conds.length))
  let head (npat nrep cls ncond : Nat) : Nat := npat + nrep * 16 + cls * 64 + ncond * 256
  let ttrans := tmplWord 0x307 (v 0) (v 0) 0 0 0 0 0 0 0 0 0 0
  let tzero := tmplWord 0x302 (v 0) 0 0 0 0 0 0 0 0 0 0 0
  let mma (op md fmd : Nat) := tmplWord op (v 0) (v 1) (v 2) 0 (v 3) 0 md (v 5) 0 0 fmd 0
  let scale (f m : Nat) := tmplWord 0x306 (v 0) (v 0) (v f) 0 0 (v m) 0 0 0 0 0 0
  let pair (op : Nat) := tmplWord op (v 0) (v 0) (v 1) (v 3) 0 (v 2) 0 0 0 0 0 0
  let cond (kind a b : Nat) : W64 := BitVec.ofNat 64 (kind + a * 256 + b * 4096)
  [rule (head 2 0 0 0) [ttrans, ttrans] [] [],
   rule (head 3 2 0 0) [tzero, mma 0x304 (v 4) 0, ttrans] [tzero, mma 0x3F0 (v 4) 0] [],
   rule (head 2 1 0 3) [scale 1 2, scale 3 4] [pair 0x3F1] [cond 3 (v 1) 0, cond 3 (v 3) 0, cond 2 (v 2) (v 4)],
   rule (head 2 1 2 1) [scale 1 2, scale 3 4] [pair 0x3F2] [cond 2 (v 2) (v 4)],
   rule (head 2 1 3 2) [mma 0x304 0 0, mma 0x304 0 0] [mma 0x3F3 0 0] [cond 1 (v 1) (v 2), cond 4 (v 1) (v 2)],
   rule (head 2 1 3 2) [mma 0x304 0 1, mma 0x304 0 1] [mma 0x3F3 0 1] [cond 1 (v 1) (v 2), cond 4 (v 1) (v 2)]]

/-- The table in force for a tenant's context (R334). -/
def rulesOf (s : State) (t : Nat) : List (List W64) := ((s.ten t).rules).getD shippedRules

/-- A rule of an image has the form R333 asks for. -/
def ruleOk (r : List W64) : Bool :=
  let pats := rulePats r
  let reps := ruleReps r
  let code (c : Nat) : Bool := c == 0 || 8 ≤ c
  let tmplOk (w : W64) (rep : Bool) : Bool :=
    let m := readTmpl w
    !bit w 63 && (if rep then repOp m.op else patOp m.op) && (tmplFields m).all fun (_, c, _) => code c
  let vars (ms : List Tmpl) : List (Nat × FieldKind) :=
    (ms.map fun m => (tmplFields m).filterMap fun (k, c, _) => if 8 ≤ c then k.map fun k => (c - 8, k) else none).flatten
  let bound := vars pats
  let kindOf (v : Nat) : Option FieldKind := (bound.find? fun b => b.1 == v).map (·.2)
  let unused (ms : List Tmpl) : Bool := ms.all fun m => (tmplFields m).all fun (k, c, _) => k.isSome || c == 0
  let condOk (w : W64) : Bool :=
    let a := bits w 8 4
    let b := bits w 12 4
    bits w 16 48 == 0 && decide (8 ≤ a) && (kindOf (a - 8)).isSome && match bits w 0 8 with
    | 1 => decide (8 ≤ b) && kindOf (b - 8) == kindOf (a - 8)
    | 2 => decide (8 ≤ b) && kindOf (b - 8) == kindOf (a - 8)
    | 3 => b == 0 && kindOf (a - 8) == some .factor
    | 4 => decide (8 ≤ b) && pats.any fun m => m.op == opTmma && m.a == a && m.b == b
    | _ => false
  bits (word r 0) 12 52 == 0 && decide (1 ≤ ruleNpat r) && decide (ruleNpat r ≤ 4) && decide (ruleNrep r ≤ 2) && decide (ruleNcond r ≤ 9) &&
  (List.range 4).all (fun i => if i < ruleNpat r then tmplOk (word r (1 + i)) false else word r (1 + i) == 0) &&
  (List.range 2).all (fun i => if i < ruleNrep r then tmplOk (word r (5 + i)) true else word r (5 + i) == 0) &&
  (List.range 9).all (fun i => if i < ruleNcond r then condOk (word r (7 + i)) else word r (7 + i) == 0) &&
  unused pats && unused reps && bound.all (fun (v, k) => kindOf v == some k) && (vars reps).all fun (v, k) => kindOf v == some k

/-- A rule-table image passes its checks (R330, R333): the rules. -/
def readRules (bs : List Byte) : Option (List (List W64)) :=
  let h := wordsOf bs 8
  let n := bits (word h 0) 48 7
  let body := (bs.take 8) ++ List.replicate 4 0 ++ bs.drop 12
  if bits (word h 0) 0 32 != 0x7E525743 || bits (word h 0) 32 16 != 1 || bits (word h 0) 55 9 != 0 || 64 < n ||
      bits (word h 1) 32 32 != 0 || (h.drop 2).any (fun w => w != 0) || bs.length != 64 + 128 * n ||
      crc32c body != bits (word h 1) 0 32 then none
  else
    let rs := (List.range n).map fun i => wordsOf (bs.drop (64 + 128 * i)) 16
    if rs.all ruleOk then some rs else none

/-- The words of a launch failure in the tile stream (R315, R336, R408): the faulting address, where there is one, is in the word
that R408 gives to an address (DEDUCED, log 183). -/
def tileWords (pc : Pc) (rule : Option Nat) (sub addr : Nat) : List W64 :=
  [pc.toTarget, BitVec.ofNat 64 addr,
   BitVec.ofNat 64 (sub + (rule.getD 0) * 2 ^ 8 + rule.isSome.toNat * 2 ^ 24), 0]

/-- The words of a launch failure for the instruction a parked stream waits at: its oldest pending one, else that of its PC. -/
def Tile.failWords (t : Tile) (addr : Nat) : List W64 :=
  match t.window with
  | e :: _ => tileWords ((e.orig.head?.map fun o => o.pc).getD t.pc) e.rule 0 addr
  | [] => tileWords t.pc none 0 addr
/-- A stream after the answer to its fault (R336): the originals of a replacement group that faulted are executed plainly, one by one. -/
def Tile.replayed (t : Tile) : Tile :=
  { t with park := none
           window := match t.window with
             | e :: rest => if e.rule.isSome then e.orig.map (fun o => { rule := none, ops := [o], orig := [o], perm := e.perm, matched := true }) ++ rest
               else t.window
             | [] => [] }

/-- A window entry has issued, or not: it leaves the window; a fault kills the block with the address of its first original
instruction (R315, R336). -/
inductive Issued where
  | ok (s : State)
  | stop (s : State)
/-- The oldest entry issues (R327). -/
def issueOldest (s : State) (c b : Nat) : Issued :=
  match s.block c b with
  | none => .stop s
  | some k =>
    match k.tile with
    | none => .stop s
    | some t =>
      match t.window with
      | [] => .ok s
      | e :: rest =>
        let pc := (e.orig.head?.map fun o => o.pc).getD t.pc
        match runEntry s c b k t e with
        | .done s => .ok (s.updTile c b fun t => { t with window := rest })
        | .went s => .ok (s.updTile c b fun t => { t with window := rest })
        | .park s p =>
          .stop (s.updTile c b fun t => { t with park := some p })
        | .die s code sub addr => .stop (killAndFail s c b code (tileWords pc e.rule sub addr))
        | .poison s line => .stop (killAndFail s c b 0x42 (tileWords pc e.rule 0 (lineBase line)))

/-- Entries issue, oldest first, while the stream holds too many or until one of them stops. -/
def issueDown (s : State) (c b : Nat) (tooMany : Tile → Bool) : Nat → Issued
  | 0 => .ok s
  | f + 1 =>
    match s.tile c b with
    | none => .stop s
    | some t =>
      if t.window.isEmpty || !tooMany t then .ok s
      else match issueOldest s c b with
        | .ok s => issueDown s c b tooMany f
        | .stop s => .stop s

/-- A tile stream ends (R310): its block's barriers excuse it (R99). -/
def endTile (s : State) (c b : Nat) : State :=
  let s := recheckBlock (s.updTile c b Tile.over) c b
  tryRelease s c b

/-- A flush point (R327): every pending instruction issues; a cancelled block's stream ends (R33), and a newly loaded rule
table takes effect (R334). -/
def flushWindow (s : State) (c b : Nat) : Issued :=
  match s.tile c b with
  | none => .stop s
  | some t =>
    match issueDown s c b (fun _ => true) (t.window.length + 4 * t.window.length + 1) with
    | .ok s =>
      match s.block c b with
      | some k =>
        if k.draining then .stop (endTile s c b)
        else .ok (s.updTile c b fun t => { t with rules := rulesOf s k.tenant })
      | none => .stop s
    | r => r

end Sys2Proof.Machine
end

