-- ==== Sys2Proof/Machine/TileStream.lean ====
section
/-! DEFINITION. The tile instructions (R288-R290, R299-R313, R325-R327) and save images (R312-R314). -/
namespace Sys2Proof.Machine
open Sys2Proof

/-- The result of a tile instruction settled: the PC advances, the sequencer parks, or the block is killed (R315). -/
def settleTile (c b len : Nat) (pc : Pc) (r : TRes) : State :=
  match r with
  | .done s => s.updTile c b fun t => { t with pc := pc.plus len }
  | .went s => s
  | .park s p => s.updTile c b fun t => { t with park := some p }
  | .die s code sub line => killAndFail s c b code (tileWords pc none sub line)
  | .poison s line => killAndFail s c b 0x42 (tileWords pc none 0 (lineBase line))

/-- What an instruction does once the pending ones before a flush point have issued (R327). -/
def afterFlush (s : State) (c b : Nat) (act : State → TRes) : TRes :=
  match flushWindow s c b with
  | .ok s => act s
  | .stop s => .went s

/-- A tile instruction's issue: S flushes the window first (R187, R289). In a group's stream the opcode raises ILLOP (R185). -/
def issueTile (len : Nat) (x : Ext) (act : State → Nat → Nat → Block → Tile → TRes) (s : State) : Host.Outcome State Fault Refusal :=
  if tileTurn s then
    let c := s.cur.core
    let b := s.cur.block
    let go (s : State) : TRes :=
      match s.block c b with
      | some k => match k.tile with
        | some t => act s c b k t
        | none => .went s
      | none => .went s
    let pc := ((s.tile c b).map fun t => t.pc).getD ⟨0, 0⟩
    .next (settleTile c b len pc (if x.s then afterFlush s c b go else go s))
  else issueGroup s len false fun _ s => .trap s xIllop 0

/-- x(B), or the literal (R186). -/
def xB (t : Tile) (x : Ext) : W64 := x.lit.getD (zget t.x x.b.toNat)

/-- TSET (R300). -/
def bodyTset (x : Ext) : State → Nat → Nat → Block → Tile → TRes := fun s c b _ t =>
  .done (s.updTile c b fun y => { y with x := zset y.x x.d.toNat (xB t x) })

/-- TLOOP (R290, R309). -/
def bodyTloop (x : Ext) : State → Nat → Nat → Block → Tile → TRes := fun s c b _ t =>
  let n := zget t.x x.a.toNat
  if n == 0 then .done s
  else
    let s1 := s.updTile c b fun y => { y with x := zset y.x x.a.toNat (n - 1) }
    if n == 1 then .done s1
    else
      let off := (x.lit.getD 0).toInt
      let onto : Int := (t.pc.off : Int) + off
      if off % 4 = 0 ∧ 0 ≤ onto ∧ onto < 16384 then .went (s1.updTile c b fun y => { y with pc := ⟨t.pc.seg, onto.toNat⟩ })
      else afterFlush s c b fun s => .die s xTillop 0 0

/-- RWPERM (R311). -/
def bodyRwperm (x : Ext) : State → Nat → Nat → Block → Tile → TRes := fun s c b _ _ =>
  .done (s.updTile c b fun y => { y with order := x.aux8.getLsbD 0, round := x.aux8.getLsbD 1 })

/-- TNOP (R308). -/
def bodyTnop (_ : Ext) : State → Nat → Nat → Block → Tile → TRes := fun s _ _ _ _ => .done s

/-- Two byte ranges in one space overlap. -/
def rangesMeet (a b : Desc) : Bool := a.spad == b.spad && decide (a.range.1 < b.range.2) && decide (b.range.1 < a.range.2)

/-- The descriptors that pending instructions and replacements read or write memory through, as they will find them (R327). -/
def pendingDescs (k : Block) (d : KMap Desc) : List WinEntry → List Desc
  | [] => []
  | e :: r => ((withDescs k d e.ops).map fun (d, o) => usedDescs d o).flatten ++ pendingDescs k (e.orig.foldl (stepDescs k) d) r

/-- An instruction with no S bit makes the arriving one a flush point (R327). -/
def needsFlush (k : Block) (t : Tile) (o : TileOp) : Bool :=
  if o.xop == opTdesc then t.window.any fun e => (e.ops ++ e.orig).any fun p => p.names.contains (8 + o.x.d.toNat)
  else if o.xop == opTstore then
    let d := (t.window.map fun e => e.orig).flatten.foldl (stepDescs k) t.d
    match kget d o.x.b.toNat with
    | some e => (pendingDescs k t.d t.window).any (rangesMeet e)
    | none => false
  else false

/-- The instructions a window holds. -/
def windowOps (t : Tile) : Nat := (t.window.map fun e => e.ops.length).sum

/-- An instruction enters the window (R325, R327, R328): x values are captured at decode; one with S set is never matched and
issues at once, after the flush; the oldest issue until the window has room. -/
def bodyWindow (xop : BitVec 10) (x : Ext) : State → Nat → Nat → Block → Tile → TRes := fun s c b k t =>
  let o : TileOp := { pc := t.pc, xop := xop, x := x, va := if xop == opTdesc then zget t.x x.a.toNat else 0
                      vb := if xop == opTdesc || xop == opTscale then xB t x else 0, vc := 0 }
  let enter (s : State) : TRes :=
    .done (s.updTile c b fun t => { t with window := t.window ++
      [{ rule := none, ops := [o], orig := [o], perm := (t.order, t.round), matched := x.s }] })
  let join (s : State) : TRes :=
    match enter s with
    | .done s => .done (s.updTile c b fun t => { t with window := matchWindow k t })
    | r => r
  if x.s then
    match enter s with
    | .done s => match issueOldest s c b with
      | .ok s => .done s
      | .stop s => .went (s.updTile c b fun t => { t with window := [] })
    | r => r
  else if needsFlush k t o then afterFlush s c b join
  else
    match issueDown s c b (fun t => decide (8 ≤ windowOps t)) (t.window.length + 1) with
    | .ok s => join s
    | .stop s => .went s

/-- TBAR (R99, R292, R307). -/
def bodyTbar (x : Ext) : State → Nat → Nat → Block → Tile → TRes := fun s c b _ _ =>
  afterFlush s c b fun s =>
    let n := (x.aux8.extractLsb' 0 4).toNat
    match s.block c b with
    | none => .went s
    | some k =>
      let gen := (getBar s k 0 1 n).gen
      let s := memberArrive s c b 0 1 n 64
      match s.block c b with
      | none => .went s
      | some k =>
        if barDone (getBar s k 0 1 n).gen gen then .done s
        else .done (s.updTile c b fun t => { t with bar := some (n, gen) })

/-- TFENCE (R308). -/
def bodyTfence (_ : Ext) : State → Nat → Nat → Block → Tile → TRes := fun s c b _ _ => afterFlush s c b fun s => .done s
/-- TEND and TEXIT (R310): TEXIT discards the pending instructions. -/
def bodyTend (_ : Ext) : State → Nat → Nat → Block → Tile → TRes := fun s c b _ _ => afterFlush s c b fun s => .went (endTile s c b)
def bodyTexit (_ : Ext) : State → Nat → Nat → Block → Tile → TRes := fun s c b _ _ => .went (endTile s c b)

/-- The bytes of a save image (R312). -/
def imageBytes : Nat := 163840
/-- The bytes of an image past its head: what the state `id` is arranged as is not published. Eight of them tell every state from
every other, since an image restores the state it encodes (R313). -/
def imageState (id : Nat) : List Byte :=
  leBytes 8 (id + Config.saveMask) ++ (List.range (imageBytes - 24)).map fun i => Config.saveByte id (24 + i)
/-- A save image (R312). -/
def imageOf (id : Nat) : List Byte :=
  let st := imageState id
  leBytes 8 1 ++ leBytes 8 (crc32c st) ++ st

/-- An address usable for a save image (R313). -/
def saveAddrOk (a : W64) : Bool := zeroBits a 56 8 && zeroBits a 0 12
/-- The lines of a save image at an address. -/
def imageLines (a : Nat) (w : Bool) : List (Nat × Nat × Bool) :=
  (List.range (imageBytes / 128)).map fun i => (a / 128 + i, a + 128 * i, w)

/-- A stream's state saved (R312, R313): the image is written through the L2. -/
def writeImage (s : State) (c b : Nat) (k : Block) (x : Tile) (a : Nat) : TRes :=
  match pageLines s c k.tenant k.launch (imageLines a true) with
  | (s, .dead va) => .die s xXlate 0 va
  | (s, .down line) => .poison s line
  | (s, .park p) => .park s p
  | (s, .ok pas) =>
    match (imageLines a true).find? fun (_, va, _) => sealed s k.tenant va 1 with
    | some (_, va, _) => .die s xSealed 0 va
    | none => match pas.find? fun (_, l) => s.homeDown k.tenant (lineBase l) with
      | some (_, l) => .poison s l
      | none =>
        let y := { x with park := none, saved := false }
        let id := match s.saves.find? fun v => v.image == k.image && v.tile == y with | some v => v.id | none => s.saves.length
        let bs := imageOf id
        let s := (pas.foldl (fun (s, bs) (_, l) =>
          ((l2Write s k.tenant (coreDomain c) l (patchesAt 0 (bs.take 128))).updBlock c b fun k => { k with sig := k.sig ||| sigOf l },
            bs.drop 128)) (s, bs)).1
        .done (if id < s.saves.length then s else { s with saves := s.saves ++ [⟨id, k.image, y⟩] })

/-- A save image read (R313): the stream it holds, for this image and segment; else the TILEFAULT code. -/
def readImage (s : State) (c : Nat) (k : Block) (seg a : Nat) : TRes × Option Tile :=
  match pageLines s c k.tenant k.launch (imageLines a false) with
  | (s, .dead va) => (.die s xXlate 0 va, none)
  | (s, .down line) => (.poison s line, none)
  | (s, .park p) => (.park s p, none)
  | (s, .ok pas) =>
    match fillLines s k.tenant (coreDomain c) pas with
    | (s, .error line) => (.poison s line, none)
    | (s, .ok m) =>
      let bs := (m.map (·.2)).flatten
      let st := bs.drop 16
      if leNat (bs.take 2) != 1 then (.die s xTilefault 7 0, none)
      else if leNat ((bs.drop 8).take 4) != crc32c st then (.die s xTilefault 8 0, none)
      else match s.saves.find? fun v => v.image == k.image && v.tile.pc.seg == seg && imageState v.id == st with
        | some v => (.done s, some v.tile)
        | none => (.die s xTilefault 8 0, none)

/-- TSAVE (R313). -/
def bodyTsave (x : Ext) : State → Nat → Nat → Block → Tile → TRes := fun s c b _ t =>
  let a := zget t.x x.a.toNat
  afterFlush s c b fun s =>
    match s.block c b, s.tile c b with
    | some k, some y =>
      if !saveAddrOk a then .die s xTilefault 2 0
      else writeImage s c b k { y with pc := y.pc.plus (extLen x) } a.toNat
    | _, _ => .went s

/-- A handler-style pre-emption saves the stream to x31 and holds it there (R314): its window and its wait at a barrier are
saved with it. -/
def saveStream (s : State) (c b : Nat) : State :=
  match s.block c b with
  | some k =>
    match k.tile with
    | some t =>
      if t.ended || t.saved then s
      else
        let a := zget t.x 31
        let r := if !saveAddrOk a then TRes.die s xTilefault 9 0
          else match writeImage s c b k t a.toNat with
            | .done s => .went (s.updTile c b fun t => { t with saved := true, park := none })
            | r => r
        tryRelease (settleTile c b 0 t.pc r) c b
    | none => s
  | none => s
/-- On resumption the image at x31 is restored, as TRSTR does (R314). -/
def restoreStream (s : State) (c b : Nat) : State :=
  match s.block c b with
  | some k =>
    match k.tile with
    | some t =>
      let a := zget t.x 31
      let r := match readImage s c k t.pc.seg a.toNat with
        | (.done s, some y) => .went (s.updTile c b fun t => { y with rules := t.rules, saved := false })
        | (r, _) => r
      settleTile c b 0 t.pc r
    | none => s
  | none => s
/-- A block whose tile stream a handler-style pre-emption has to save (R314, R397). -/
def mustSave (s : State) (k : Block) : Bool := (s.ten k.tenant).pstat == 1 && !flushStyle s k

/-- TRSTR (R313). -/
def bodyTrstr (x : Ext) : State → Nat → Nat → Block → Tile → TRes := fun s c b _ t =>
  let a := zget t.x x.a.toNat
  afterFlush s c b fun s =>
    match s.block c b with
    | some k =>
      if !saveAddrOk a then .die s xTilefault 2 0
      else match readImage s c k t.pc.seg a.toNat with
        | (.done s, some y) => .went (s.updTile c b fun t => { y with rules := t.rules, ready := true })
        | (r, _) => r
    | none => .went s

/-- The constants x1 to x30 read before the stream's first instruction (R288). -/
def readyConsts (s : State) (c b : Nat) (k : Block) : State :=
  let a := (recFrame k.record + (2 ^ 64 - 65536)) % 2 ^ 64
  let pc := (k.kern.tile).getD ⟨0, 0⟩
  let ls := spanLines [(a, a + 240)]
  let lines := ls.map fun (l, va) => (l, va, false)
  let r : TRes :=
    match pageLines s c k.tenant k.launch lines with
    | (s, .dead va) => .die s xXlate 0 va
    | (s, .down line) => .poison s line
    | (s, .park p) => .park s p
    | (s, .ok pas) =>
      match fillLines s k.tenant (coreDomain c) pas with
      | (s, .error line) => .poison s line
      | (s, .ok m) =>
        let x := (List.range 30).foldl (fun (x : ZMap 64) n =>
          zset x (n + 1) (BitVec.ofNat 64 (leNat ((List.range 8).map fun i => BitVec.ofNat 8 (lineByte m (a + 8 * n + i))))))
          (zset [] 0 (BitVec.ofNat 64 (recFrame k.record)))
        .went (s.updTile c b fun t => { t with x := x, ready := true, rules := rulesOf s k.tenant })
  settleTile c b 0 pc r

/-- The meaning of a tile instruction. -/
def runTile (body : Ext → State → Nat → Nat → Block → Tile → TRes) (x : Ext) (s : State) : Host.Outcome State Fault Refusal :=
  issueTile (extLen x) x (body x) s

def execTset (x : Ext) (s : State) := runTile bodyTset x s
def execTdesc (x : Ext) (s : State) := runTile (bodyWindow opTdesc) x s
def execTzero (x : Ext) (s : State) := runTile (bodyWindow opTzero) x s
def execTldacc (x : Ext) (s : State) := runTile (bodyWindow opTldacc) x s
def execTmma (x : Ext) (s : State) := runTile (bodyWindow opTmma) x s
def execTmmab (x : Ext) (s : State) := runTile (bodyWindow opTmmab) x s
def execTscale (x : Ext) (s : State) := runTile (bodyWindow opTscale) x s
def execTtrans (x : Ext) (s : State) := runTile (bodyWindow opTtrans) x s
def execTadd (x : Ext) (s : State) := runTile (bodyWindow opTadd) x s
def execTcvt (x : Ext) (s : State) := runTile (bodyWindow opTcvt) x s
def execTstore (x : Ext) (s : State) := runTile (bodyWindow opTstore) x s
def execTbar (x : Ext) (s : State) := runTile bodyTbar x s
def execTloop (x : Ext) (s : State) := runTile bodyTloop x s
def execTend (x : Ext) (s : State) := runTile bodyTend x s
def execTfence (x : Ext) (s : State) := runTile bodyTfence x s
def execRwperm (x : Ext) (s : State) := runTile bodyRwperm x s
def execTsave (x : Ext) (s : State) := runTile bodyTsave x s
def execTrstr (x : Ext) (s : State) := runTile bodyTrstr x s
def execTnop (x : Ext) (s : State) := runTile bodyTnop x s
def execTexit (x : Ext) (s : State) := runTile bodyTexit x s

end Sys2Proof.Machine
end

