-- ==== Sys2Proof/Machine/Turns.lean ====
section
/-! DEFINITION. Whose turn it is: what a group does before its next instruction (parks, switch points, pending traps and
pre-emption), and fetching from the overlay slots. -/
namespace Sys2Proof.Machine
open Sys2Proof

/-- A group of a cancelled block ends (R33): every lane has exited, and its outstanding special-function results are abandoned (R258). -/
def endGroup (s : State) (c b g : Nat) : State :=
  let s := s.updGroup c b g fun x => { x with frontier := [], handler := none, park := none, tokens := [], exited := BitVec.allOnes 64 }
  maybeDiscard (tryRelease (recheckBlock s c b) c b) c b

/-- The first pending trap that the selected entry takes (R52, R279). -/
def dueTrap (g : Group) : Option (Entry × Late) :=
  (selectEntry g).bind fun e => (g.late.find? fun l => (g.handler.isNone || l.inHandler) &&
    match l.lane with | some i => e.mask.getLsbD i | none => true).map fun l => (e, l)

/-- A group at a switch point (R320): a cancelled block's group ends (R33), a pending PREEMPT enters its handler once every
token slot is empty (R258). Otherwise nothing. -/
def atSwitchPoint (s : State) (c b g : Nat) : Option State :=
  match s.block c b, s.group c b g with
  | some k, some x =>
    if k.draining then some (endGroup s c b g)
    else if x.preempt && x.handler.isNone && k.kern.trap.isSome then
      some (if x.mayEnter then deliverPreempt s c b g else s)
    else none
  | _, _ => none

/-- The pending trap that is due, delivered where the handler may be entered (R224, R258, R320). -/
def deliverDue (s : State) (c b g : Nat) : Option State :=
  (s.group c b g).bind fun x => (dueTrap x).map fun (e, l) =>
    if x.mayEnter then
      let s := s.updGroup c b g fun x => { x with late := x.late.filter fun m => m != l, park := none }
      deliverTrap s c b g e l.trap (l.xpc.getD e.pc)
    else s

/-- What precedes a group's next issue: the state, and whether the group may issue (R317, R318, R320, R321). -/
def readyGroup (s : State) (c b g : Nat) : State × Bool :=
  match s.block c b, s.group c b g with
  | some k, some x =>
    if !k.started || x.ended || !x.resident then (s, false)
    else
      let unparked := s.updGroup c b g fun x => { x with park := none }
      match x.park with
      | some .switchPoint =>
        if !x.quiet then (s, false)
        else
          match deliverDue s c b g with
          | some s => (s, false)
          | none =>
            let s := s.updGroup c b g fun x => { x with sinceSwitch := 0, forced := false }
            match atSwitchPoint s c b g with
            | some s => (s, false)
            | none => if (selectEntry x).isSome then (s.updGroup c b g fun x => { x with park := none }, true) else (s, false)
      | some (.fault (_ :: _)) => ((atSwitchPoint s c b g).getD s, false)
      | some (.channel _) =>
        match atSwitchPoint s c b g with
        | some s => (s, false)
        | none => (unparked, true)
      | some .preack => (s, false)
      | _ =>
        match selectEntry x with
        | none => ((atSwitchPoint s c b g).getD s, false)
        | some _ =>
          match deliverDue s c b g with
          | some s => (s, false)
          | none => (unparked, true)
  | _, _ => (s, false)

/-- What a stream's next address holds: an instruction, a word that begins none or does not decode, or no segment. -/
inductive Fetched where
  | instr (i : Instr)
  | bad
  | missing
  deriving DecidableEq, Repr

/-- Fetching and decoding at a code address of a core (R174, R185, R209, R210). -/
def fetch (k : Core) (pc : Pc) : Fetched :=
  match k.wordsAt pc with
  | none => .missing
  | some (false, _) => .bad
  | some (true, ws) =>
    match decode ws with
    | .ok (i, _) => .instr i
    | .error _ => .bad

/-- The stream has met words that are no instruction: ILLOP in a group (R185, R210), TILLOP in the tile stream (R315). -/
def streamIllop (s : State) : State :=
  match here s with
  | some h => raiseTrap s h xIllop 0 h.ent.pc
  | none => tileIllop s
/-- The segment of the selected entry is in no slot (R227): CODEMISS. In the tile stream, TILLOP. -/
def streamMissing (s : State) : State :=
  match here s with
  | some h => raiseTrap s h xCodemiss (BitVec.ofNat 64 h.ent.pc.seg) h.ent.pc
  | none => tileIllop s

/-- The next address of the agent whose turn it is. -/
def nextPc (s : State) : Option Pc :=
  match s.cur.grp with
  | some _ => (here s).map fun h => h.ent.pc
  | none => (s.block s.cur.core s.cur.block).bind fun k => k.tile.map fun t => t.pc

/-- What precedes a tile stream's next instruction (R288, R307, R315, R33): parked on a fault, waiting at a barrier or ended,
it has none; its constants are read first, and a TILLOP behind pending instructions follows them. -/
def readyTile (s : State) (c b : Nat) : State × Bool :=
  match s.block c b with
  | some k =>
    match k.tile with
    | some t =>
      let held := match t.park with | some (.fault (_ :: _)) => true | _ => false
      if !k.started || t.ended || held then (s, false)
      else if t.saved then (if (s.ten k.tenant).pstat == 1 then s else restoreStream s c b, false)
      else if mustSave s k then (saveStream s c b, false)
      else if t.bar.isSome then (s, false)
      else
        let s := s.updTile c b fun t => { t with park := none }
        if !t.ready then (readyConsts s c b k, false)
        else if t.ill then
          (settleTile c b 0 t.pc (afterFlush s c b fun s => .die s xTillop 0 0), false)
        else (s, true)
    | none => (s, false)
  | none => (s, false)

/-- What precedes the next instruction of the agent whose turn it is. -/
def readyAgent (s : State) : State × Bool :=
  match s.cur.grp with
  | some g => readyGroup s s.cur.core s.cur.block g
  | none => readyTile s s.cur.core s.cur.block

/-- A word's opcode lies in the tile stream's range (R194). -/
def isTileWord (w : Nat) : Bool := w % 4 == 1 && decide (0x300 ≤ w / 8 % 1024) || (w % 4 == 2 && decide (0x300 ≤ w / 8 % 1024))

/-- The start bits of a segment's words as they land (R210): words are taken as instructions from offset 0 on, each as long as
its length field says (DEDUCED). The number is how many words the instruction before still has. -/
def startBits : Nat → List W32 → List Bool
  | _, [] => []
  | 0, w :: r => true :: startBits (lengthWords (w.extractLsb' 0 2) - 1) r
  | k + 1, _ :: r => false :: startBits k r

/-- A group at its start (R51): registers zero but s0, one entry at the kernel entry with all lanes that live (R350). -/
def Group.start (k : Kernel) (frame : W64) (slot : Nat) : Group :=
  { v := [], s := zset [] 0 frame, p := [], q := 0, fflags := 0, scopeMiss := false, xpc := 0, xprio := 0, xcode := 0
    xinfo := 0, xmask := 0
    frontier := [{ pc := k.entry, prio := k.prio0, mask := lanesBelow k.lanes, count := 0, promoted := false
                   demoted := false, wait := none }]
    exited := lanesBelow k.width &&& ~~~lanesBelow k.lanes, handler := none, tokens := [], pend := [], board := [], park := none, sinceSwitch := 0, forced := false
    monitors := [], restart := none, resident := true, slot := slot, fenceRel := [], reads := []
    late := [], preempt := false, preacked := false, lastIssue := 0, parked := none, ready := none }

/-- A tile stream at its start (R288): registers zero, descriptors invalid. -/
def Tile.start (k : Kernel) (frame : W64) : Tile :=
  { pc := k.tile.getD ⟨0, 0⟩, acc := [], flags := [], d := [], x := zset [] 0 frame, order := k.order, round := k.round
    window := [], rules := [], park := none, bar := none, ready := false, ill := false, ended := false, saved := false }

/-- A block at its start (R51, R97, R130), its share above the L1 and with unspecified contents. -/
def Block.start (t l i : Nat) (w : List W64) (image : Nat) (k : Kernel) (n : Nat) (epoch : Nat) : Block :=
  let frame := BitVec.ofNat 64 (recFrame w)
  { tenant := t, launch := l, index := i, record := w, image := image, home := none, kern := k, nGroups := n
    groups := (List.range n).map fun g => (g, Group.start k frame (g / 4))
    bars := [], arr := [], held := [], lost := [], scratch := []
    share := (List.range (k.scratch / 65536)).map fun j => k.l1 / 65536 + j, zeros := [], epoch := epoch, rc := [], sig := 0
    tile := if k.tile.isSome then some (Tile.start k frame) else none
    relaunches := 0, orphan := false, started := true, draining := false }

/-- A block whose tile stream has its constants. -/
def Block.readied (k : Block) : Block := { k with tile := k.tile.map fun t => { t with ready := true } }

/-- The kernel that `withFetchWord` places: one group of 32 lanes with every register, entry and tile entry at offset 0. -/
def probeKernel : Kernel :=
  { entry := ⟨0, 0⟩, width := 32, lanes := 32, regs := 256, uregs := 128, scratch := 65536, l1 := 65536, idem := false, trap := none
    tile := some ⟨0, 0⟩, order := false, round := false, prio0 := 0x3FFF, hmode := 0, hint := 0 }

/-- The words of `w` in an overlay slot, each word a start. -/
def probeSlot (w : Nat) : Slot :=
  { state := slotLoaded, seg := 0
    words := [BitVec.ofNat 32 w, BitVec.ofNat 32 (w / 2 ^ 32), BitVec.ofNat 32 (w / 2 ^ 64), BitVec.ofNat 32 (w / 2 ^ 96),
      BitVec.ofNat 32 (w / 2 ^ 128)]
    starts := [true, true, true, true, true], pending := none }

end Sys2Proof.Machine
end

