-- ==== Sys2Proof/Machine/Placement.lean ====
section
/-! DEFINITION. From a queue to a core: the wafer dispatcher and the domain dispatchers (R36, R39-R45, R107, R354, R399), the
start of a block (R38, R51, R130, R287, R288, R343) and its completion (R27). -/
namespace Sys2Proof.Machine
open Sys2Proof

/-- What the dispatcher places at once (R28): a block, or the blocks of a cluster that its record names; `again` when it
comes back from a core, else the queue it heads. -/
structure Unit1 where
  w : Waiting
  patience : Nat
  from_ : Option Nat
  deriving DecidableEq, Repr

/-- A block's home (R40): a live domain that holds cores of the placement. -/
def homeOf (s : State) (t : Nat) (r : Record) (i : Nat) : Option Nat :=
  let h := word r.w 6
  let d := match recHmode r.w with
    | 1 => some ((bits h 0 6 + i / max 1 (bits h 12 24) * bits h 6 6) % max 1 s.nlive)
    | 2 => (r.homes[i - (recordBlocks r.w).1]?).map fun (b : Byte) => b.toNat
    | _ => none
  d.filter fun d => decide (d < s.nlive) && (s.ten t).domains.contains d

/-- The queue numbers, the highest first (R39). -/
def queueList : List Nat := [7, 6, 5, 4, 3, 2, 1, 0]
/-- The queue of a launch (R39, R397): the highest that holds a record of it, else the one its record asks for. -/
def Tenant.queueOf (n : Tenant) (u : Waiting) : Nat :=
  (queueList.find? fun q => (n.queue q).any fun r => recLaunch r.w == u.launch).getD (recQprio u.w)

/-- A unit that came back may be placed: the generations that its block's arrivals stand in are complete (R359). -/
def mayReturn (s : State) (t : Nat) (u : Waiting) : Bool :=
  match s.launch t u.launch with
  | some l => !u.stands l
  | none => true
/-- What came back from a core to the head of a queue (R109, R397). -/
def returnedTo (s : State) (t q : Nat) : Option Waiting :=
  (s.ten t).again.find? fun u => (s.ten t).queueOf u == q && mayReturn s t u
/-- The next unit of a record (R28). A range record that begins or ends inside a cluster names a part of one, which is placed
together with the home of the first block named (DESIGN CHOICE, log 180). -/
def recordUnit (s : State) (t q : Nat) (r : Record) : Unit1 :=
  let c := gridClus (word r.w 4)
  ⟨{ tenant := t, launch := recLaunch r.w, first := r.next, size := min r.left (c - r.next % c), w := r.w, image := r.image, kern := r.kern
     relaunches := 0, restarts := none, avoid := none, home := homeOf s t r r.next, after := [] }, recPatience r.w, some q⟩
/-- The head of a queue: what came back to it, else the next unit of its first record; none while that record's variant is not
selected (R43). -/
def queueHead (s : State) (t q : Nat) : Option Unit1 :=
  match returnedTo s t q with
  | some a => some ⟨a, recPatience a.w, none⟩
  | none => ((s.ten t).queue q).head?.bind fun r => if r.sel.isSome || r.left = 0 then none else some (recordUnit s t q r)
/-- The next unit of a tenant: the head of its highest non-empty queue (R39). -/
def nextUnit (s : State) (t : Nat) : Option Unit1 :=
  (queueList.find? fun q => (returnedTo s t q).isSome || !((s.ten t).queue q).isEmpty).bind (queueHead s t)

/-- The unit leaves its queue, which a held record of the phase may follow (R39). -/
def takeUnit (s : State) (t : Nat) (u : Unit1) : State :=
  let s := s.updTen t fun n =>
    match u.from_ with
    | none => { n with again := n.again.erase u.w }
    | some q =>
      match n.queue q with
      | r :: rest =>
        let r := { r with next := r.next + u.w.size, left := r.left - u.w.size }
        { n with queues := kset n.queues q (if r.left = 0 then rest else r :: rest) }
      | [] => n
  refill s t

/-- A domain takes new blocks: it is not lost or draining, and its region is STACKED or FALLBACK (R401, R413). -/
def domainTakes (s : State) (d : Nat) : Bool :=
  !(s.dom d).lost && !(s.dom d).drain && [0#3, 3#3].contains (s.region (s.prg d)).st
/-- A domain's region has been admitted for a launch (R44). -/
def regionIn (s : State) (t l d : Nat) : Bool := ((s.launch t l).map fun x => x.admitted.contains (s.prg d)).getD false

/-- The published free cores of a bay in the placement (R42). -/
def figFree (s : State) (t d b : Nat) : List Nat :=
  ((List.range 15).map fun n => coreName d b n).filter fun c => (s.ten t).holds c && (kget s.mod.freeFigs c).isSome
/-- A domain has a free core for a unit, or as many in one bay (R41, R44); the core that a relaunch must not return to is none
(R69). -/
def hasFree (s : State) (t : Nat) (u : Waiting) (d : Nat) : Bool :=
  regionIn s t u.launch d && domainTakes s d &&
    bayList.any fun b => decide (max 1 u.size ≤ ((figFree s t d b).filter fun c => u.avoid != some c).length)
/-- A domain has a core of the placement on which a unit may run at all (R69). -/
def mayRunIn (s : State) (t : Nat) (u : Waiting) (d : Nat) : Bool :=
  (s.ten t).placement.any fun c => coreDomain c == d && u.avoid != some c
/-- queued(d) as the dispatcher costs it for clusters of `size` (R41). A bay advertises a tenant the cores of its placement, as
its topology table counts them (DESIGN CHOICE, log 145). -/
def queuedCost (s : State) (t d size : Nat) : Nat :=
  let n := (kget s.mod.queuedFigs d).getD 0
  if bayList.any fun b => decide (size ≤ ((s.ten t).placement.filter fun c => c / 16 == d * 16 + b).length) then n
  else 1000 * (n + 1)
/-- cost(d) of R41. -/
def costOf (s : State) (t : Nat) (home : Option Nat) (d size : Nat) : Nat :=
  let n := s.ten t
  (match home with | some h => s.bandNs h d | none => 0) * n.wd.toNat + queuedCost s t d size * n.wq.toNat
/-- Step 3 of R41: the cheapest admitted domain; of equal ones, one with a free core, then the lowest. -/
def cheapest (s : State) (t : Nat) (u : Waiting) : Option Nat :=
  let ds := (s.ten t).domains.filter fun d => regionIn s t u.launch d && domainTakes s d && mayRunIn s t u d
  (ds.foldl (fun (m : Option Nat) d => match m with
    | none => some d
    | some e =>
      let cd := costOf s t u.home d u.size
      let ce := costOf s t u.home e u.size
      if cd < ce || (cd = ce && hasFree s t u d && !hasFree s t u e) then some d else some e) none)

/-- The figures after a unit is sent to a domain (R354). -/
def adjustFigures (s : State) (t d : Nat) : Nat → State
  | 0 => s
  | n + 1 =>
    let best := bayList.foldl (fun m b => if (figFree s t d m).length < (figFree s t d b).length then b else m) 0
    let s := match figFree s t d best with
      | c :: _ => s.updMod fun m => { m with freeFigs := kdel m.freeFigs c }
      | [] => s.updMod fun m => { m with queuedFigs := kset m.queuedFigs d ((kget m.queuedFigs d).getD 0 + 1) }
    adjustFigures s t d n

/-- The unit is sent to a domain's dispatcher. -/
def sendUnit (s : State) (t : Nat) (u : Unit1) (d : Nat) : State :=
  let s := (takeUnit s t u).updLaunch t u.w.launch fun l => { l with patience := kdel l.patience u.w.first, held := none }
  let s := adjustFigures s t d u.w.size
  s.updDom d fun k => { k with queue := k.queue ++ [u.w] }

/-- The regions of a placement, in increasing number. -/
def launchRegions (s : State) (t : Nat) : List Nat :=
  (List.range 16).filter fun r => (s.ten t).domains.any fun d => s.prg d == r
/-- A region can be admitted (R399): no droop alarm, STACKED or FALLBACK. -/
def regionReady (s : State) (r : Nat) : Bool := (s.region r).droop = 0 && [0#3, 3#3].contains (s.region r).st
/-- A launch's starts are listed when it is first to be dispatched; without a LIMIT every region that can be is admitted. -/
def prepareStarts (s : State) (t l : Nat) : State :=
  let s := s.updLaunch t l fun x => if x.admitted.isEmpty && x.starts.isEmpty then { x with starts := launchRegions s t } else x
  if s.mod.pwLimit = 0 then
    s.updLaunch t l fun x =>
      { x with admitted := x.admitted ++ x.starts.filter (regionReady s), starts := x.starts.filter fun r => !regionReady s r }
  else s

/-- The blocks of a launch that are still to be dispatched: those its queued records name, and those that came back. -/
def blocksLeft (s : State) (t l : Nat) : Nat :=
  let n := s.ten t
  (queueList.map fun q => (((n.queue q).filter fun r => recLaunch r.w == l).map fun r => r.left).sum).sum +
    ((n.again.filter fun u => u.launch == l).map fun u => u.size).sum
/-- The weight of a region start (R399): for the blocks it can dispatch there, up to the placement's free cores. -/
def startWeight (s : State) (t l : Nat) (tile : Bool) (r : Nat) : Nat :=
  let free := (s.ten t).placement.filter fun c => s.prg (coreDomain c) == r && (s.core c).isFree
  ceilDiv ((if tile then 32 else 24) * min (blocksLeft s t l) free.length) 160

/-- Whether an instruction names a grid barrier (R276). -/
def gridInstr (i : Instr) : Bool :=
  match i with
  | .bara x => x.mod6.extractLsb' 0 2 == 3#2
  | .barw x => x.mod6.extractLsb' 0 2 == 3#2
  | .bars x => x.mod6.extractLsb' 0 2 == 3#2
  | .bargen x => x.mod6.extractLsb' 0 2 == 3#2
  | .sstep x => x.mod6.extractLsb' 0 2 == 3#2
  | _ => false
/-- An instruction of a segment names one. -/
def gridWords : List W32 → List Bool → Bool
  | w :: r, b :: bs =>
    (b && (match decode (w :: r.take 4) with | .ok (i, _) => gridInstr i | .error _ => false)) || gridWords r bs
  | _, _ => false
/-- A launch uses a grid barrier (R107): its code object holds such an instruction. -/
def usesGrid (s : State) (image : Nat) : Bool :=
  match kget s.images image with
  | some m => m.segs.any fun (_, ws) => gridWords ws (startBits 0 ws)
  | none => false
/-- The launch may be dispatched (R107): its AND-tree nodes have room, and take it. A launch that is no longer OPEN holds no slots. -/
def treeReady (s : State) (t l image : Nat) : Option State :=
  if onTree s t && usesGrid s image && ((s.ten t).counter 0 l).st == lvOpen then
    (if treeRoom s t l then some (takeSlots s t l) else none)
  else some s

/-- A decision of the wafer dispatcher about a tenant's next unit. -/
inductive Verdict where
  /-- it goes to a domain's dispatcher -/
  | send (d : Nat)
  /-- it is held back, for a domain where one is named (R45, R107) -/
  | hold (d : Option Nat)
  /-- it waits for its home (R41 step 2) -/
  | await
  /-- no domain can take it -/
  | stay
  deriving DecidableEq, Repr

/-- Step 3 of R41: the cheapest domain, unless a start still to be admitted may make a better one (R44). -/
def elsewhere (s : State) (t : Nat) (u : Unit1) : Verdict :=
  match cheapest s t u.w with
  | some d =>
    if ((s.launch t u.w.launch).map fun x => !x.starts.isEmpty).getD false && !hasFree s t u.w d then .hold (some d) else .send d
  | none => .stay

/-- The decision for a unit (R41, R44, R107): its home, a wait for it, or the cheapest domain. -/
def verdict (s : State) (t : Nat) (u : Unit1) : Verdict :=
  if (treeReady s t u.w.launch u.w.image).isNone then .hold (match u.w.home with | some h => some h | none => cheapest s t u.w)
  else
    match u.w.home with
    | none => elsewhere s t u
    | some h =>
      if hasFree s t u.w h then .send h
      else if u.patience = 0 then elsewhere s t u
      else
        match (s.launch t u.w.launch).bind fun x => kget x.patience u.w.first with
        | none => .await
        | some f => if f + u.patience * 10 ≤ s.now then elsewhere s t u else .await

/-- The next unit that a tenant's dispatch is about, with its launch's starts listed; none while its dispatch has stopped (R376,
R397). -/
def nextDispatch (s : State) (t : Nat) : Option (State × Unit1) :=
  if (s.ten t).st != 1 || (s.ten t).pstat != 0 then none else (nextUnit s t).map fun u => (prepareStarts s t u.w.launch, u)
/-- A tenant has a unit that can be sent now. -/
def wouldSend (s : State) (t : Nat) : Bool :=
  match nextDispatch s t with
  | some (v, u) => (match verdict v t u with | .send _ => true | _ => false)
  | none => false
/-- The tenant that weighted round-robin serves (R39): the one in service while units are left to it, else the next that can send in
cyclic order (DESIGN CHOICE, log 153). -/
def turnOf (s : State) : Option Nat :=
  let ts := (s.tenants.map (·.1)).filter (wouldSend s)
  if s.mod.rr.2 != 0 && ts.contains s.mod.rr.1 then some s.mod.rr.1 else (ts.find? fun x => decide (s.mod.rr.1 < x)).or ts.head?
/-- It is a tenant's turn (R39). -/
def served (s : State) (t : Nat) : Bool := turnOf s == some t
/-- A unit counts against its tenant's weight (R39). -/
def countServed (s : State) (t : Nat) : State :=
  s.updMod fun m => { m with rr := (t, (if m.rr.1 = t && m.rr.2 != 0 then m.rr.2 else max 1 (m.weightOf t)) - 1) }

/-- BLOCK_DISPATCH (R36, R39, R41, R44, R107): one decision of the wafer dispatcher for a tenant: at its turn, its next unit goes to
its home or the cheapest domain; else it is held back or waits. A launch that is DONE early still has its blocks dispatched
(R36). -/
def dispatchUnit (s : State) (t : Nat) : State :=
  match nextDispatch s t with
  | none => s
  | some (v, u) =>
    if ((s.ten t).counter 0 u.w.launch).st == lvCancelled then takeUnit s t u
    else
      match verdict v t u with
      | .send d =>
        if served s t then countServed (sendUnit ((treeReady v t u.w.launch u.w.image).getD v) t u d) t else s
      | .hold d => v.updLaunch t u.w.launch fun x => { x with held := d.map fun d => (d, u.w.size) }
      | .await => v.updLaunch t u.w.launch fun x =>
        { x with patience := kset x.patience u.w.first ((kget x.patience u.w.first).getD v.now), held := none }
      | .stay => v.updLaunch t u.w.launch fun x => { x with held := none }

/-- PATIENCE_EXPIRY (R41 step 2): the launch whose block waits for its home gives up when its patience has passed. -/
def expirePatience (s : State) (t l : Nat) : State :=
  match nextUnit s t with
  | some u =>
    match (s.launch t l).bind fun x => kget x.patience u.w.first with
    | some f => if u.w.launch = l && decide (f + u.patience * 10 ≤ s.now) then dispatchUnit s t else s
    | none => s
  | none => s

/-- QUEUE_PROMOTION (R39): records that have waited 1 ms move to the tail of the next higher queue. One that finds it full stays where
it is, and is due again at once (DESIGN CHOICE, log 144). -/
def promoteRecords (s : State) (t : Nat) : State :=
  refill (([6, 5, 4, 3, 2, 1, 0] : List Nat).foldl (fun s q =>
    s.updTen t fun n =>
      let old := (n.queue q).filter fun r => decide (r.since + 1000000 ≤ s.now)
      let go := old.take (1024 - (n.queue (q + 1)).length)
      if go.isEmpty then n
      else
        let stay := (n.queue q).filter fun r => !go.contains r
        { n with queues := kset (kset n.queues q stay) (q + 1) (n.queue (q + 1) ++ go.map fun r => { r with since := s.now }) }) s) t

/-- A launch ring's record as its gate says (R35, R37, R382): accepted, refused to the dead-letter ring, or parked in its join counter's
slot. -/
def enterGate (s : State) (t ring : Nat) (w : List W64) : Gate → State
  | .accept => acceptRecord s t w 0 ring 0
  | .refuse code => refuseRecord s t w code 0 ring 0
  | .park pa => homeStore s t pa (bytesOf w)

/-- LAUNCH_RECORD (R35, R37, R381, R382): the record at a launch ring's HEAD is read once its queue has room. -/
def takeLaunchRecord (s : State) (t ring : Nat) : State :=
  let r := (s.ten t).ring ring
  if (s.ten t).st != 1 || 4 ≤ ring || !r.en || r.count = 0 then s
  else
    match tenantWords s t (r.slot r.head 64) 8 with
    | (s, none) => s
    | (s, some w) =>
      let (s, g) := joinGate s t w
      if presentable s t w 0 ring 0 then (enterGate s t ring w g).updRing t ring fun r => { r with head := r.head + 1 } else s

/-- A launch's blocks own tile streams (R399), by the first unit or record of it still to be dispatched. -/
def launchTile (s : State) (t l : Nat) : Bool :=
  let n := s.ten t
  let k := ((n.again.find? fun u => u.launch == l).map fun u => u.kern).or
    (queueList.findSome? fun q => ((n.queue q).find? fun r => recLaunch r.w == l).map fun r => r.kern)
  (k.map fun k => k.tile.isSome).getD false

/-- One region start in a step (R399): admitted while the step's weights stay within LIMIT; one that alone exceeds it goes alone; one
whose region is not ready is passed over. The accumulator holds the weight admitted, none before a start is, and whether the step is
full. -/
def admitStart (t l : Nat) (acc : State × Option Nat × Bool) (r : Nat) : State × Option Nat × Bool :=
  let (s, used, stop) := acc
  if (s.launch t l).isNone || stop || !regionReady s r then acc
  else
    let limit := s.mod.pwLimit.toNat
    let w := startWeight s t l (launchTile s t l) r
    if limit != 0 && used.isSome && decide (limit < used.getD 0 + w) then (s, used, true)
    else
      let s := s.updLaunch t l fun x => { x with admitted := x.admitted ++ [r], starts := x.starts.filter fun y => y != r }
      (s, some (used.getD 0 + w), limit != 0 && decide (limit < w))

/-- The launches with starts to be admitted, in the order in which they were accepted (R399): order, tenant and launch. Those of a
tenant whose dispatch has stopped are not among them (R398). -/
def waitingStarts (s : State) : List (Nat × Nat × Nat) :=
  let waiting := (s.tenants.map fun (t, n) =>
    if n.pstat != 0 then [] else (n.launches.filter fun (_, x) => !x.starts.isEmpty).map fun (l, x) => (x.order, t, l)).flatten
  waiting.foldl (fun (m : List (Nat × Nat × Nat)) q => m.takeWhile (fun p => decide (p.1 ≤ q.1)) ++ [q] ++
    m.dropWhile fun p => decide (p.1 ≤ q.1)) []

/-- REGION_ADMISSION_STEP (R44, R399): a step, no sooner than 200 ns after the one before. -/
def admitRegions (s : State) : State :=
  let early := match s.mod.admitAt with | some a => decide (s.now < a + 200) | none => false
  if early || (waitingStarts s).isEmpty then s
  else
    let r := (waitingStarts s).foldl (fun acc (_, t, l) =>
      (((acc.1.launch t l).map fun x => x.starts).getD []).foldl (admitStart t l) acc) (s, none, false)
    r.1.updMod fun m => { m with admitAt := some s.now }

/-- SCHEDULE_SET_SELECTION (R43): the waiting record of a launch takes its variant, or goes to the dead-letter ring while its
launch is DONE with no block run. -/
def selectSchedule (s : State) (t l : Nat) : State :=
  let n := s.ten t
  match n.queues.findSome? fun (q, rs) => (rs.find? fun r => r.sel.isSome && recLaunch r.w == l).map fun r => (q, r) with
  | none => s
  | some (q, r) =>
    let put (s : State) (rs : Record → List Record) : State :=
      s.updTen t fun n => { n with queues := kset n.queues q (((n.queue q).map fun x => if x == r then rs r else [x]).flatten) }
    let drop (s : State) : State :=
      let s := refill (put s fun _ => []) t
      let s := s.updTen t fun n => n.setCounter 0 l { n.counter 0 l with value := 1 }
      lowerCounter s t 0 l 4
    match r.sel with
    | none => s
    | some sel =>
      match selectVariant s t sel with
      | (s, .error e) => drop (deadLetter s t r.w e 3 r.source r.ring r.core)
      | (s, .ok v) =>
        let g := gridSize v.grid
        let s := s.updLaunch t l fun x => { x with gridWord := v.grid, grid := g }
        if g = 0 then drop s
        else put (s.updTen t fun n => n.setCounter 0 l { n.counter 0 l with value := g }) fun _ => [applyVariant r v]

/-- The groups of a partition of a core. -/
def partitionLoad (k : Core) (p : Nat) : Nat :=
  (k.blocks.map fun (_, b) => ((List.range b.nGroups).filter fun g => g % 4 == p).length).sum
/-- A core can take a block now (R26, R42, R398, R413): not beside a block of a launch that has ended, whose number a new one may
have. -/
def coreTakes (s : State) (c : Nat) (u : Waiting) : Bool :=
  let k := s.core c
  let n := recNgrp u.w
  !k.retired && (s.ten u.tenant).holds c && k.kept.isEmpty && u.avoid != some c &&
    (k.blocks.isEmpty ||
      (k.launch == some (u.tenant, u.launch) && decide (k.blocks.length < 4) && k.blocks.all (fun (_, b) => !b.draining) &&
        ((List.range 4).all fun p => decide (partitionLoad k p + ((List.range n).filter fun g => g % 4 == p).length ≤ liveGroups u.kern)) &&
        decide (u.kern.l1 + (k.blocks.map fun (_, b) => b.kern.scratch).sum + u.kern.scratch ≤ 524288) &&
        !(u.kern.tile.isSome && k.blocks.any fun (_, b) => b.kern.tile.isSome)))
/-- The cores that a domain's dispatcher gives a unit (R28, R42): for a block the lowest of the bay with the most, for a
cluster the first of the lowest bay with enough. Every core that can take the block counts as free, a partly filled one too
(DESIGN CHOICE, log 146). -/
def pickCores (s : State) (d : Nat) (u : Waiting) : Option (List Nat) :=
  let av (b : Nat) : List Nat := ((List.range 15).map fun n => coreName d b n).filter fun c => coreTakes s c u
  if u.size ≤ 1 then
    let b := bayList.foldl (fun m b => if (av m).length < (av b).length then b else m) 0
    ((av b).head?).map fun c => [c]
  else (bayList.find? fun b => decide (u.size ≤ (av b).length)).map fun b => (av b).take u.size

/-- The lowest slots of a partition that no live group has (R254). -/
def freeSlot (k : Core) (taken : List (Nat × Nat)) (p : Nat) : Nat :=
  let used := (k.blocks.map fun (_, b) => (b.groups.filter fun (g, x) => g % 4 == p && !x.ended).map fun (_, x) => x.slot).flatten ++
    (taken.filter fun (q, _) => q == p).map (·.2)
  ((List.range 16).find? fun i => !used.contains i).getD 0
/-- The slots of a block's groups. -/
def groupSlots (k : Core) (n : Nat) : List Nat :=
  ((List.range n).foldl (fun (acc : List (Nat × Nat)) g => acc ++ [(g % 4, freeSlot k acc (g % 4))]) []).map (·.2)

/-- A group that starts again inside its idempotent region (R287): one entry at its restart point, s1 to s7 as recorded; one
without a point has ended. -/
def restartGroup (k : Kernel) (x : Group) (r : Option Restart) : Group :=
  match r with
  | some p =>
    { x with frontier := [{ pc := p.pc, prio := p.prio, mask := p.mask, count := 0, promoted := false, demoted := false, wait := none }]
             exited := lanesBelow k.width &&& ~~~p.mask
             s := ((List.range 7).zip p.s17).foldl (fun m (i, v) => zset m (i + 1) v) x.s }
  | none => { x with frontier := [], exited := BitVec.allOnes 64 }

/-- A block as it is placed (R51, R97, R130, R287, R288); it starts when its code is there. -/
def newBlock (s : State) (c : Nat) (u : Waiting) (i : Nat) : Block :=
  let slots := groupSlots (s.core c) (recNgrp u.w)
  let b := Block.start u.tenant u.launch i u.w u.image u.kern (recNgrp u.w) s.tick
  { b with home := u.home, relaunches := u.relaunches, started := false
           groups := kmap b.groups fun g x =>
             let x := { x with slot := slots.getD g 0, resident := false }
             match u.restarts with
             | some m => restartGroup u.kern x (kget m g)
             | none => x }
/-- A block number of a core that is free. -/
def freeBlockId (k : Core) : Nat := k.blocks.foldl (fun m (b, _) => max m (b + 1)) 0

/-- The pages of a core's SRAM above the L1 that a new block's share takes (R53): the lowest that no block has (DESIGN CHOICE, log
157). -/
def sharePages (k : Core) (u : Waiting) : List Nat :=
  ((List.range 8).filter fun p => decide (u.kern.l1 / 65536 ≤ p) && !k.blocks.any fun (_, b) => b.share.contains p).take (u.kern.scratch / 65536)

/-- A block placed on a core (R26, R53, R56, R106, R343): a core that takes another code object empties its slots. Pages that have
become L1 or a share are no longer known to be clear. -/
def placeBlock (s : State) (c : Nat) (u : Waiting) (i : Nat) : State :=
  let share := sharePages (s.core c) u
  let b := { newBlock s c u i with share := share, zeros := share.filter (s.core c).clear.contains }
  let s := s.updCore c fun k =>
    let k := { k with clear := k.clear.filter fun p => decide (u.kern.l1 / 65536 ≤ p) && !share.contains p }
    let k := if k.code = some (u.tenant, u.image) then k else { k with code := some (u.tenant, u.image), slots := [] }
    let k := if k.launch = some (u.tenant, u.launch) then k else { k with launch := some (u.tenant, u.launch), consts := [] }
    { k with tenant := some u.tenant, blocks := kset k.blocks (freeBlockId k) b }
  let s := s.updLaunch u.tenant u.launch fun l => { l with places := kset l.places i c }
  treePlace s u.tenant u.launch c

/-- The blocks of a domain that are placed and not started. -/
def unstarted (s : State) (d : Nat) : List (Nat × Nat) :=
  (s.cores.map fun (c, k) => if coreDomain c = d then (k.blocks.filter fun (_, x) => !x.started).map fun (b, _) => (c, b) else []).flatten

/-- A segment made resident (R343): used where it is, else fetched into slot 0 or the lowest that is not occupied; segment n of a
portable object into slot n (R349). -/
def wantSegment (s : State) (c seg : Nat) : State :=
  let k := s.core c
  if (k.slotOf seg).isSome || k.slots.any (fun (_, w) => w.pending == some seg) then s
  else
    let open_ (i : Nat) : Bool := !k.occupied i && match kget k.slots i with | some w => w.state != slotFetching | none => true
    let own := match k.code with | some (_, i) => isPortable s i | none => false
    match (if own then (if open_ seg then some seg else none) else (List.range 8).find? open_) with
    | some i => s.updCore c fun k =>
      let fetching : Slot := { state := slotFetching, seg := 0, words := [], starts := [], pending := some seg }
      { k with slots := kset k.slots i fetching }
    | none => s

/-- The block's groups come into the register file while it has room (R23, R324). -/
def fillFile (s : State) (c b : Nat) : State :=
  match s.block c b with
  | some k => k.groups.foldl (fun s (g, x) =>
      if x.ended || ((s.core c).blocks.map fun (_, y) => (y.groups.filter fun (i, z) => i % 4 == g % 4 && z.resident && !z.ended).length).sum ≥
          min 16 (16384 / max 1 (8 * ceilDiv k.kern.regs 8 * k.kern.width)) then s
      else s.updGroup c b g fun x => { x with resident := true }) s
  | none => s

/-- A placed block starts (R38, R130, R343): with its segments loaded, an acquire at wafer scope and the receipts held for it. -/
def startBlock (s : State) (c b : Nat) : State :=
  match s.block c b with
  | none => s
  | some k =>
    if (needSegs s k.image k.kern).all fun x => ((s.core c).slotOf x).isSome then
      let s := acquireAll s c k.tenant
      let acks := ((s.launch k.tenant k.launch).bind fun l => kget l.heldAcks k.index).getD []
      let s := s.updLaunch k.tenant k.launch fun l => { l with heldAcks := kdel l.heldAcks k.index }
      let s := s.updBlock c b fun k => { k with started := true }
      fillFile (acks.foldl (fun s j => addReceipt s c b j) s) c b
    else s

/-- BLOCK_START (R28, R42): a placed block of the domain starts; else the head of its dispatcher's queue is placed on cores that
can take it. Units of a tenant whose dispatch has stopped are passed over (R397). -/
def startNext (s : State) (d : Nat) : State :=
  let ready := (unstarted s d).find? fun (c, b) => match s.block c b with
    | some k => (needSegs s k.image k.kern).all fun x => ((s.core c).slotOf x).isSome
    | none => false
  match ready with
  | some (c, b) => startBlock s c b
  | none =>
    let s := (unstarted s d).foldl (fun s (c, b) => match s.block c b with
      | some k => (needSegs s k.image k.kern).foldl (fun s x => wantSegment s c x) s
      | none => s) s
    match (s.dom d).queue.find? fun u => (s.ten u.tenant).pstat == 0 with
    | some u =>
      if !domainTakes s d then s
      else
        match pickCores s d u with
        | some cs =>
          let s := s.updDom d fun k => { k with queue := k.queue.erase u }
          ((List.range cs.length).zip cs).foldl (fun s (i, c) =>
            let s := placeBlock s c u (u.first + i)
            (needSegs s u.image u.kern).foldl (fun s x => wantSegment s c x) s) s
        | none => s
    | none => s

/-- BLOCK_COMPLETE (R27, R38): a complete block leaves; a launch that becomes DONE releases at node scope what its blocks
wrote. -/
def finishBlock (s : State) (c b : Nat) : State :=
  match s.block c b with
  | some k =>
    let s := completeBlock s c b
    if ((s.ten k.tenant).counter 0 k.launch).st = lvDone then
      writeBackHost s k.tenant
    else s
  | none => s

def execLaunchRecord (t ring : Nat) (s : State) : Host.Outcome State Fault Refusal := .next (takeLaunchRecord s t ring)
def execQueuePromotion (t : Nat) (s : State) : Host.Outcome State Fault Refusal := .next (promoteRecords s t)
def execBlockDispatch (t : Nat) (s : State) : Host.Outcome State Fault Refusal := .next (dispatchUnit s t)
def execPatienceExpiry (t l : Nat) (s : State) : Host.Outcome State Fault Refusal := .next (expirePatience s t l)
def execRegionAdmissionStep (s : State) : Host.Outcome State Fault Refusal := .next (admitRegions s)
def execBlockStart (d : Nat) (s : State) : Host.Outcome State Fault Refusal := .next (startNext s d)
def execBlockComplete (c b : Nat) (s : State) : Host.Outcome State Fault Refusal := .next (finishBlock s c b)
def execScheduleSetSelection (t l : Nat) (s : State) : Host.Outcome State Fault Refusal := .next (selectSchedule s t l)

end Sys2Proof.Machine
end

