-- ==== Sys2Proof/Machine/Repair.lean ====
section
/-! DEFINITION. What becomes of blocks whose core, domain or region leaves service (R69, R109, R136, R401, R413), the remap of a
bay (R367, R413), and the loss of a domain (R120, R401). -/
namespace Sys2Proof.Machine
open Sys2Proof

/-- Launch failure codes of R385 beyond the group traps. -/
def failCoreLost : Nat := 0x41
def failPreempt : Nat := 0x20

/-- A block whose core fails or trips (R69, R109, R401): relaunched elsewhere where its kernel is idempotent, at most twice;
else its launch fails with CORELOST. Its arrivals at `keep` stand. -/
def loseBlock (s : State) (c b : Nat) (keep : List (Nat × BitVec 16)) : State :=
  match s.block c b with
  | some k =>
    if k.kern.idem && decide (k.relaunches < 2) && !k.draining then relaunch s c b keep
    else killAndFail s c b failCoreLost [0, 0, 0, 0]
  | none => s
/-- Every block of a core. -/
def loseBlocks (s : State) (c : Nat) : State :=
  ((s.core c).blocks.map fun (b, k) => (b, standing s c k)).foldl (fun s (b, keep) => loseBlock s c b keep) s

/-- A block still resident at a deadline (R397 steps 3 and 4, R401, R413): discarded inside an idempotent region, else killed
with the code. -/
def deadlineBlock (s : State) (c b code : Nat) : State :=
  match s.block c b with
  | some k => if insideRegion k then discardBlock s c b else killAndFail s c b code [0, 0, 0, 0]
  | none => s
/-- The blocks of a core when DRAINING ends or a repair's deadline passes (R401, R413). -/
def deadlineCore (s : State) (c : Nat) : State :=
  ((s.core c).blocks.map (·.1)).foldl (fun s b => deadlineBlock s c b failCoreLost) s

/-- Channel entries whose peer core is retired become broken, those kept for a released block too, and words on their way to it are
dropped (R140, R142), so that an arrival that waits for them waits for ever (R111). -/
def breakChannels (s : State) (c : Nat) : State :=
  let part (h : Chan) : Chan := if (h.kind == 1 || h.kind == 2) && h.peer == c then { h with broken := true } else h
  { s with cores := kmap s.cores fun _ (k : Core) =>
      let k := { k with chans := kmap k.chans fun _ h => part h, keptChans := kmap k.keptChans fun _ h => part h }
      (k.flight.filter fun w => w.dst == c).foldl (fun k w =>
        ({ k with flight := k.flight.filter fun x => x.id != w.id } : Core).loseWord w.block w.id) k }

/-- The tenant whose placement holds a core. -/
def ownerOf (s : State) (c : Nat) : Option Nat := (s.tenants.find? fun (_, n) => n.holds c).map (·.1)
/-- The launch a core works for, 0 with none. -/
def launchOn (s : State) (c : Nat) : Nat := (((s.core c).launch).map fun l => l.2).getD 0
/-- CORERETIRED to the core's tenant (R109, R383, R408). -/
def postRetired (s : State) (c cause launch : Nat) : State :=
  match ownerOf s c with
  | some t => postFault s t 5 c launch [BitVec.ofNat 64 c, BitVec.ofNat 64 cause, 0, 0, 0, 0]
  | none => s

/-- Kept blocks of a retired core wait for RESUME, when they are handled as R109 gives (R398); they no longer count as dispatched, and the
core's participation bits clear (R109, R358, R359). -/
def orphanKept (s : State) (c : Nat) : State :=
  let mine := ((s.core c).kept.filter fun (_, x) => !x.orphan).map fun (_, x) => (x, standing s c x)
  let s := s.updCore c fun k => { k with kept := kmap k.kept fun _ x => { x with orphan := true } }
  mine.foldl (fun s (x, keep) =>
    let s := (withdraw s x keep).updLaunch x.tenant x.launch fun l => { l with places := kdel l.places x.index }
    treeSync s x.tenant x.launch) s

/-- A logical core's state after another physical core takes its number: its tenant and what R398 keeps stay. -/
def freshCore (s : State) (c : Nat) : State :=
  s.updCore c fun k => { Core.fresh with tenant := k.tenant, kept := k.kept, keptChans := k.keptChans
                                         launch := if k.kept.isEmpty then none else k.launch
                                         code := if k.kept.isEmpty then none else k.code }
/-- A logical core's number names another physical core from now on: blocks that must not return to the core that failed may be
placed there (R69, R413). -/
def renumberCore (s : State) (c : Nat) : State :=
  let clear (u : Waiting) : Waiting := if u.avoid = some c then { u with avoid := none } else u
  let s := freshCore s c
  { s with tenants := kmap s.tenants fun _ (n : Tenant) => { n with again := n.again.map clear }
           domains := kmap s.domains fun _ (d : Domain) => { d with queue := d.queue.map clear } }
/-- A logical core ceases (R413): it leaves the placement that held it. The blocks that R398 keeps for RESUME stay. -/
def ceaseCore (s : State) (c : Nat) : State :=
  let s := match ownerOf s c with
    | some t => s.updTen t fun n => { n with placement := n.placement.filter fun x => x != c }
    | none => s
  if (s.core c).kept.isEmpty then { s with cores := kdel s.cores c } else (freshCore s c).updCore c fun k => { k with retired := true }

/-- REMAPPED (R410). -/
def postRemapped (s : State) (c phys how : Nat) : State :=
  postEvent s 10 c [BitVec.ofNat 64 (c + phys % 16 * 2 ^ 16), BitVec.ofNat 64 how, 0, 0, 0, 0]

/-- A physical core is dead from now on (R367). -/
def markDead (s : State) (c : Nat) : State :=
  match physOf s c with
  | some p =>
    let e := (s.fieldPos (coreDomain c), coreBay c, p)
    s.updMod fun m => { m with deadCores := if m.deadCores.contains e then m.deadCores else m.deadCores ++ [e] }
  | none => s

/-- The physical core of a number has failed, and its bay is still to be remapped (R109, R413). -/
def failedCore (s : State) (c : Nat) : Bool :=
  match physOf s c with
  | some p => (s.core c).retired && deadCore s (coreDomain c) (coreBay c) p
  | none => false
/-- The remap of R413 for a logical core whose physical core leaves service: a healthy spare takes the number; else the bay's
highest logical core is emptied and its physical core takes the number; with no such core the number is lost. A highest core that has
itself failed ceases first. The number answered is the status of R412; the first argument bounds the cores of a bay. -/
def remapCore : Nat → State → Nat → State × Nat
  | 0, s, _ => (s, 2)
  | fuel + 1, s, c =>
    let d := coreDomain c
    let b := coreBay c
    let key := d * 16 + b
    let bay := (kget s.mod.bays key).getD []
    let top := coreName d b (bay.length - 1)
    let setBay (s : State) (l : List Nat) : State := s.updMod fun m => { m with bays := kset m.bays key l }
    let done (s : State) : State :=
      let s := s.countErr d fun e => { e with retired := satAdd 8 e.retired }
      checkSpares (raiseTopo s) d
    if !deadCore s d b 15 && !bay.contains 15 then
      let s := renumberCore (setBay s (setAt bay (c % 16) 15)) c
      (done (postRemapped s c 15 0), 0)
    else if c = top then
      let s := ceaseCore (setBay s bay.dropLast) c
      (done (postRemapped s c 0 2), 1)
    else if failedCore s top then
      remapCore fuel (done (postRemapped (ceaseCore (setBay s bay.dropLast) top) top 0 2)) c
    else
      let phys := bay.getD (bay.length - 1) 0
      let l := launchOn s top
      let s := breakChannels (orphanKept (drainCore (deadlineCore s top) top) top) top
      let s := postRetired s top 2 l
      let s := ceaseCore (setBay s (setAt bay.dropLast (c % 16) phys)) top
      let s := renumberCore s c
      (done (postRemapped s c phys 1), 1)

/-- A retired core's arrival still stands somewhere (R109, R359). -/
def standsAnywhere (s : State) (c : Nat) : Bool :=
  s.tenants.any fun (t, n) => n.launches.any fun (l, _) => coreStands s t l c
/-- CORE_FAILURE (R109, R142, R413): the blocks of the core are relaunched or fail their launch, its peers' entries break and the
tenant is told. The Sorter remaps the bay in a later step of the same row, once no arrival of the core stands any more (DEDUCED, log
100). -/
def failCore (s : State) (c : Nat) : State :=
  if (physOf s c).isNone then s
  else if failedCore s c then (if standsAnywhere s c then s else (remapCore 16 s c).1)
  else
    let s := markDead (s.updCore c fun k => { k with retired := true }) c
    let l := launchOn s c
    let s := orphanKept (loseBlocks s c) c
    postRetired (breakChannels s c) c 1 l

/-- A torn operation (R136): all ones to its postmark, TORN in a chained record, and CPYTORN; nothing where the issuing core's
own domain is lost. -/
def tearOp (s : State) (c : Nat) (op : Op) : State :=
  let pm := bits (word op.w 6) 0 56
  let cur := (op.chain.map (·.2)).getD 0
  let s := if pm = 0 then s else (deviceStore s op.tenant pm [BitVec.allOnes 64]).getD s
  let s := match op.chain with
    | some (_, a) =>
      let (s, r) := deviceLoad s op.tenant a 1
      match r with
      | some ws => (deviceStore s op.tenant a [word ws 0 ||| 0x4000000000000000#64]).getD s
      | none => s
    | none => s
  let l := ((s.block c op.block).map fun k => k.launch).getD 0
  postFault s op.tenant 4 c l [BitVec.ofNat 64 pm, BitVec.ofNat 64 cur, 0, 0, 0, 0]

end Sys2Proof.Machine
end

