-- ==== Sys2Proof/Machine/Residency.lean ====
section
/-! DEFINITION. Coherence objects (R90, R273), seals (R91, R92, R274) and residency handles (R60, R61, R275). -/
namespace Sys2Proof.Machine
open Sys2Proof

/-- The physical line at a virtual address, if it translates; nothing is posted or trapped. -/
def quietLine (s : State) (t va : Nat) : Option Nat :=
  match (walk s t va false).2 with
  | .ok pa _ _ => some (lineOf pa)
  | .fail _ _ _ _ => none
/-- Every one of some optional numbers, or nothing. -/
def allSome (l : List (Option Nat)) : Option (List Nat) :=
  if l.all Option.isSome then some (l.filterMap id) else none

/-- The virtual addresses of a shape record's lines, rows in order (R90). -/
def shapeLines (w : List W64) : List Nat :=
  let rows := bits (word w 1) 32 32
  let n := bits (word w 1) 0 32 / 128
  ((List.range rows).map fun r => (List.range n).map fun i => bits (word w 0) 0 56 + r * (word w 2).toNat + 128 * i).flatten
/-- The fields of a shape record are in range (R90). -/
def shapeOk (w : List W64) : Bool :=
  let rows := bits (word w 1) 32 32
  let rb := bits (word w 1) 0 32
  zeroBits (word w 0) 56 8 && word w 3 == 0 && zeroBits (word w 0) 0 7 && decide (1 ≤ rows) && decide (1 ≤ rb) && rb % 128 == 0 &&
  (word w 2).toNat % 128 == 0 && (rows == 1 || decide (rb ≤ (word w 2).toNat)) && decide (rows * rb ≤ 2 ^ 26)

/-- The lowest key not in a map. -/
def freeKey {α : Type} (m : KMap α) : Nat := ((List.range (m.length + 1)).find? fun k => (kget m k).isNone).getD 0

/-- The state of an object from those of its lines' granules (R90): dirty lines are recalled unless one domain owns all. What several
different states give is the model's reading (DEDUCED, log 185). -/
def joinDirs (s : State) (t h : Nat) (lines : List Nat) : State × DirEntry :=
  let es := lines.map fun l => dirOf s h l
  let p := es.foldl (fun (m : BitVec 64) e => m ||| e.present) 0
  let anyOwned := es.any fun e => e.st == .owned
  let lone := decide ((presentList p).length = 1)
  if p == 0 then (s, .empty)
  else if anyOwned && lone && es.all fun e => e.st != .multi then (s, ⟨.owned, p, s.tick⟩)
  else
    let s := lines.foldl (fun s l => (presentList p).foldl (fun s d => writeBack s t d l) s) s
    (s, ⟨if es.any fun e => e.st == .multi then .multi else .shared, p, s.tick⟩)

/-- The result word of OBJDECL (R90); where nothing was declared, its home and number are open. -/
def objWord (tick status home num : Nat) : W64 :=
  if status = 0 then BitVec.ofNat 64 (home * 2 ^ 16 + num)
  else BitVec.ofNat 64 (status * 2 ^ 56 + Config.choice tick % 64 * 2 ^ 16 + Config.choice tick / 64 % 16384)

/-- The declaration of an object from its shape record (R90). -/
def declareObj (s : State) (t : Nat) (w : List W64) : State × W64 :=
  if !shapeOk w then (s, objWord s.tick 4 0 0)
  else
    match allSome ((shapeLines w).map fun va => quietLine s t va) with
    | none => (s, objWord s.tick 2 0 0)
    | some lines =>
      let h := s.home t (lineBase ((lines.head?).getD 0))
      if lines.any fun l => s.home t (lineBase l) != h then (s, objWord s.tick 2 0 0)
      else if 16384 ≤ (s.dom h).objs.length then (s, objWord s.tick 1 0 0)
      else if lines.any fun l => (objOf s h l).isSome then (s, objWord s.tick 3 0 0)
      else
        let (s, e) := joinDirs s t h lines
        let k := freeKey (s.dom h).objs
        let whole (g : Nat) : Bool := (List.range 32).all fun i => lines.contains (g * 32 + i)
        let s := s.updDom h fun d =>
          { d with objs := kset d.objs k { tenant := t, base := bits (word w 0) 0 56, lines := lines, dir := e }
                   dir := d.dir.filter fun (g, _) => !whole g }
        (s, objWord s.tick 0 h k)

/-- OBJDECL (R273). -/
def bodyObjdecl : ExtBody := fun x =>
  uniBody Rows.objdecl x false anyMode fun h s =>
    let v := (fetchSrcs s h Rows.objdecl x []).1
    afterCheck (checkAccess s h .global 32 32 false false [(0, v.a 0)]) fun s oks =>
      match oks with
      | (_, _, pa) :: _ =>
        match weakRead s h.c pa 32 0 with
        | (s, some bs) =>
          let s := (fetchSrcs s h Rows.objdecl x []).2
          let r := declareObj s h.ten (wordsOf bs 4)
          .fin (pendUni r.1 h Rows.objdecl x r.2 0)
        | (s, none) => .gone (poisonKill s h.c h.b (lineOf pa))
      | [] => .fin s

/-- An object is dropped (R90): its guest copies are recalled and invalidated, its lines return to granule tracking. -/
def dropObj (s : State) (t h k : Nat) (o : CObj) : State :=
  let s := (presentList o.dir.present).foldl (fun s d => o.lines.foldl (fun s l => dropGuest s t d l) s) s
  s.updDom h fun d => { d with objs := kdel d.objs k }

/-- OBJDROP (R273). -/
def bodyObjdrop : ExtBody := fun x =>
  uniBody Rows.objdrop x false anyMode fun h s =>
    let (v, s) := fetchSrcs s h Rows.objdrop x []
    match quietLine s h.ten (v.a 0).toNat with
    | none => .fin s
    | some l =>
      let d := s.home h.ten (lineBase l)
      match (s.dom d).objs.find? fun (_, o) => o.tenant == h.ten && o.base == (v.a 0).toNat with
      | some (k, o) => .fin (dropObj s h.ten d k o)
      | none => .fin s

/-- Every cached copy of some physical 64 KiB pages is written back and invalidated (R91, R92): stores and strong operations on their way
are performed, L1 and guest copies go in every domain of the placement, and directory entries are freed: an object's, as far as no other
line of it is cached. Constant-cache units of the virtual range go too. -/
def purgePages (s : State) (t va n : Nat) (pas : List Nat) : State :=
  let inside (l : Nat) : Bool := pas.contains (lineBase l / 65536 * 65536)
  let mine (s : State) : List Nat := s.cores.filterMap fun (c, k) => if k.tenant == some t then some c else none
  let s := (mine s).foldl (fun s c =>
    (((s.core c).wc.map (·.1) ++ (s.core c).strong.map fun w => lineOf w.pa).filter inside).eraseDups.foldl (fun s l => drainLine s c l) s) s
  let s := (mine s).foldl (fun s c => s.updCore c fun k =>
    { k with l1 := k.l1.filter fun (l, _) => !inside l
             consts := k.consts.filter fun (u, _) => !(decide (va ≤ 8 * u) && decide (8 * u < va + n)) }) s
  let s := (s.ten t).domains.foldl (fun s d =>
    (((s.dom d).guest.map (·.1)).filter inside).foldl (fun s l => dropGuest s t d l) s) s
  let s := pas.foldl (fun s pa => s.updDom (s.home t pa) fun d =>
    { d with dir := d.dir.filter fun (g, _) => g * 4096 / 65536 * 65536 != pa }) s
  (s.domains.map fun (h, x) => (x.objs.filterMap fun (_, o) => (o.lines.find? inside).map fun l => (h, l, o.dir.present))).flatten.foldl
    (fun s (h, l, p) => (presentList p).foldl (fun s d => reportDrop s h l d) s) s

/-- The 64 KiB pages of a range. -/
def pagesOf (va n : Nat) : List (Nat × Nat) := (List.range (n / 65536)).map fun i => (0, va + 65536 * i)
/-- A larger page that a range cuts (R91). -/
def cutsPage (s : State) (t va n : Nat) : Bool :=
  (pagesOf va n).any fun (_, a) =>
    match (walk s t a false).2 with
    | .ok _ sh _ => decide (a / 2 ^ sh * 2 ^ sh < va) || decide (va + n < a / 2 ^ sh * 2 ^ sh + 2 ^ sh)
    | .fail _ _ _ _ => false

/-- The range checks of SEAL and UNSEAL (R91, R274), MISALIGN before XLATE (R185), then the rest on the pages' physical addresses:
`whole` of SEAL, whose range is made of whole mapped pages (R91). -/
def rangeThen (r : Row) (whole : Bool) (act : State → Here → Nat → Nat → List Nat → State × Nat) : ExtBody := fun x =>
  uniBody r x false anyMode fun h s =>
    let v := (fetchSrcs s h r x []).1
    let a := (v.a 0).toNat
    let n := (v.b 0).toNat
    if a % 65536 != 0 || n % 65536 != 0 || n == 0 || (whole && cutsPage s h.ten a n) then .trap s xMisalign (v.a 0)
    else
      afterCheck (translateLanes s h false (pagesOf a n)) fun s oks =>
        let o := act (fetchSrcs s h r x []).2 h a n (oks.map fun (_, _, pa) => pa)
        finPush s x (dstUni o.1 h r x (BitVec.ofNat 64 o.2))

/-- SEAL of a checked range (R91, R274): its status. -/
def sealAct (s : State) (h : Here) (a n : Nat) (pas : List Nat) : State × Nat :=
  if 64 ≤ (s.ten h.ten).seals.length then (s, 1)
  else if sealed s h.ten a n then (s, 2)
  else
    let s := beforePublish s h true
    let s := s.updTen h.ten fun t => { t with seals := t.seals ++ [(a, n)], sealPas := kset t.sealPas a pas }
    (purgePages s h.ten a n pas, 0)
/-- UNSEAL of a checked range (R92, R274): its status. -/
def unsealAct (s : State) (h : Here) (a n : Nat) (pas : List Nat) : State × Nat :=
  if !(s.ten h.ten).seals.contains (a, n) then (s, 3)
  else
    let s := beforePublish s h true
    let s := s.updTen h.ten fun t => { t with seals := t.seals.filter fun r => r != (a, n), sealPas := kdel t.sealPas a }
    (acquireAll (purgePages s h.ten a n pas) h.c h.ten, 0)

def bodySealRange : ExtBody := rangeThen Rows.sealRange true sealAct
def bodyUnsealRange : ExtBody := rangeThen Rows.unsealRange false unsealAct

/-- A residency instruction (R275): its status goes to D. -/
def residencyBody (r : Row) (act : State → Here → Ext → W64 → W64 → State × Nat) : ExtBody := fun x =>
  uniBody r x false anyMode fun h s =>
    let (v, s) := fetchSrcs s h r x []
    let o := act s h x (v.a 0) (v.b 0)
    .fin (pendUni o.1 h r x (BitVec.ofNat 64 o.2) 0)

/-- The active handles a domain records (R60). -/
def activeHandles (d : Domain) : Nat := (d.handles.filter fun (_, on) => on).length
/-- A handle made active in some domains. -/
def activate (s : State) (ds : List Nat) (key : Nat) : State :=
  ds.foldl (fun s d => s.updDom d fun x => { x with handles := kset x.handles key true }) s

/-- RSDECL (R275). -/
def rsdeclAct (s : State) (h : Here) (x : Ext) (a b : W64) : State × Nat :=
  let k := x.aux8.toNat
  let t := s.ten h.ten
  if (kget t.handles k).isSome then (s, 2)
  else if a.toNat % 128 != 0 || b.toNat % 128 != 0 || b == 0 || decide (2 ^ 32 < b.toNat) then (s, 4)
  else
    match allSome ((List.range (b.toNat / 128)).map fun i => quietLine s h.ten (a.toNat + 128 * i)) with
    | none => (s, 3)
    | some lines =>
      if t.domains.any fun d => decide (1024 ≤ activeHandles (s.dom d)) then (s, 1)
      else
        let e : Handle := { base := a.toNat, len := b.toNat, prio := (x.mod6.extractLsb' 0 3).toNat, lines := lines, order := s.tick }
        let s := s.updTen h.ten fun t => { t with handles := kset t.handles k e }
        (t.domains.foldl fitAll (activate s t.domains (h.ten * 256 + k)), 0)
/-- RSSET (R275). -/
def rssetAct (s : State) (h : Here) (x : Ext) (_ _ : W64) : State × Nat :=
  let k := x.aux8.toNat
  let t := s.ten h.ten
  if (kget t.handles k).isNone then (s, 5)
  else
    let off := t.domains.filter fun d => !(kget (s.dom d).handles (h.ten * 256 + k)).getD false
    if off.any fun d => decide (1024 ≤ activeHandles (s.dom d)) then (s, 1)
    else
      let s := s.updTen h.ten fun t => { t with handles := kupd t.handles k fun e => { e with prio := (x.mod6.extractLsb' 0 3).toNat } }
      (t.domains.foldl fitAll (activate s off (h.ten * 256 + k)), 0)
/-- RSEVICT (R275): written back, dropped in every domain, freed; no memory value changes. -/
def rsevictAct (s : State) (h : Here) (x : Ext) (_ _ : W64) : State × Nat :=
  let k := x.aux8.toNat
  match kget (s.ten h.ten).handles k with
  | none => (s, 5)
  | some e =>
    let s := (s.domains.map (·.1)).foldl (fun s d =>
      let s := e.lines.foldl (fun s l => if (s.dom d).l2.contains l then dropGuest s h.ten d l else s) s
      s.updDom d fun x => { x with handles := kdel x.handles (h.ten * 256 + k) }) s
    (s.updTen h.ten fun t => { t with handles := kdel t.handles k }, 0)

/-- The handles of a tenant with a page in a range whose translation is no longer the one they were bound to are demoted everywhere
(R60). -/
def demoteRemapped (s : State) (t va n : Nat) : State :=
  let moved (k : Handle) : Bool := decide (k.base < va + n) && decide (va < k.base + k.len) &&
    allSome ((List.range (k.len / 128)).map fun i => quietLine s t (k.base + 128 * i)) != some k.lines
  ((s.ten t).handles.filter fun (_, k) => moved k).foldl (fun s (h, _) =>
    { s with domains := kmap s.domains fun _ (x : Domain) => { x with handles := kupd x.handles (t * 256 + h) fun _ => false } }) s

def bodyRsdecl : ExtBody := residencyBody Rows.rsdecl rsdeclAct
def bodyRsset : ExtBody := residencyBody Rows.rsset rssetAct
def bodyRsevict : ExtBody := residencyBody Rows.rsevict rsevictAct

def execObjdecl (x : Ext) (s : State) := runExt bodyObjdecl x s
def execObjdrop (x : Ext) (s : State) := runExt bodyObjdrop x s
def execSealRange (x : Ext) (s : State) := runExt bodySealRange x s
def execUnsealRange (x : Ext) (s : State) := runExt bodyUnsealRange x s
def execRsdecl (x : Ext) (s : State) := runExt bodyRsdecl x s
def execRsset (x : Ext) (s : State) := runExt bodyRsset x s
def execRsevict (x : Ext) (s : State) := runExt bodyRsevict x s

end Sys2Proof.Machine
end

