-- ==== Sys2Proof/Machine/FaultEvents.lean ====
section
/-! DEFINITION. Page walks and the answers to faults (R389-R394), invalidation (R395), pre-emption and resumption
(R396-R398). -/
namespace Sys2Proof.Machine
open Sys2Proof

/-- A group's fault waits without those of a fault entry. -/
def clearWaits (g : Group) (d fid : Nat) : Group :=
  match g.park with
  | some (.fault ws) => { g with park := some (.fault (ws.filter fun w => !(w.1 == d && w.2.1 == fid))) }
  | _ => g
/-- The address a group waits for at a fault entry. -/
def waitsAt (g : Group) (d fid : Nat) : Option Nat :=
  match g.park with
  | some (.fault ws) => (ws.find? fun w => w.1 == d && w.2.1 == fid).map fun w => w.2.2
  | _ => none
/-- The same for a stream. -/
def streamAt (t : Tile) (d fid : Nat) : Option Nat :=
  match t.park with
  | some (.fault ws) => (ws.find? fun w => w.1 == d && w.2.1 == fid).map fun w => w.2.2
  | _ => none

/-- Every group of every core: core, block, group. -/
def allGroups (s : State) : List (Nat × Nat × Nat) :=
  (s.cores.map fun (c, k) => (k.blocks.map fun (b, x) => x.groups.map fun (g, _) => (c, b, g)).flatten).flatten
/-- Every block of every core. -/
def allBlocks (s : State) : List (Nat × Nat) := (s.cores.map fun (c, k) => k.blocks.map fun (b, _) => (c, b)).flatten

/-- The accesses attached to an entry walk again (R394). -/
def retryFault (s : State) (d fid : Nat) : State :=
  let stage (o : Op) : Op := match o.stage with
    | .faulted e f moved => if e = d ∧ f = fid then { o with stage := if moved then .done else .payload } else o
    | _ => o
  let tile (t : Tile) : Tile := if (streamAt t d fid).isSome then t.replayed else t
  { s with cores := kmap s.cores fun _ (k : Core) =>
      { k with ops := k.ops.map stage
               chains := kmap k.chains fun _ n => if n.fault == some (d, fid) then { n with fault := none } else n
               blocks := kmap k.blocks fun _ (b : Block) =>
                 { b with groups := kmap b.groups fun _ g => clearWaits g d fid, tile := b.tile.map tile } } }

/-- They act as for a fault that cannot be resolved (R393, R394): groups raise XLATE, streams and operations kill their block. A stream
names the original instruction, the rule and the rewritten status of its parked window entry (R315, R336). -/
def failFault (s : State) (d fid : Nat) : State :=
  let s := (allGroups s).foldl (fun s (c, b, g) =>
    match (s.group c b g).bind fun x => waitsAt x d fid with
    | some va =>
      let s := s.updGroup c b g fun x => { x with park := none }
      match here { s with cur := ⟨c, b, some g⟩ } with
      | some h => raiseTrap s h xXlate (BitVec.ofNat 64 va) h.ent.pc
      | none => s
    | none => s) s
  let s := (allBlocks s).foldl (fun s (c, b) =>
    match (s.block c b).bind fun k => k.tile.bind fun t => (streamAt t d fid).map fun va => t.failWords va with
    | some ws => killAndFail s c b xXlate ws
    | none => s) s
  (allBlocks s).foldl (fun s (c, b) =>
    if ((s.core c).ops.any fun o => o.block == b && match o.stage with | .faulted e f _ => e == d && f == fid | _ => false) ||
        (s.core c).chains.any fun (_, n) => n.owner == b && n.fault == some (d, fid)
    then killAndFail s c b xXlate [0, 0, 0, 0] else s) s

/-- FAULT_RESPONSE (R394): the device sees HEAD past a record, reads RESPONSE, frees the entry and lets the attached accesses
walk again or fail. A RESPONSE that no longer translates counts as 0b00 (DEDUCED, log 181). -/
def answerFault (s : State) (t : Nat) : State :=
  let r := (s.ten t).ring ringFQ
  if r.seen = r.head then s
  else
    let asked := kget (s.ten t).fqPosted r.seen.toNat
    let (s, ws) := deviceLoad s t (r.slot r.seen 64) 8
    let s := (s.updRing t ringFQ fun r => { r with seen := r.seen + 1 }).updTen t fun n => { n with fqPosted := kdel n.fqPosted r.seen.toNat }
    let s := postWaiting s t (s.ten t).fqWait.length
    match asked with
    | none => s
    | some (d, fid) =>
      if ((kget (s.dom d).faults fid).map fun f => f.tenant) == some t then
        let s := s.updDom d fun k => { k with faults := kdel k.faults fid }
        if (ws.map fun w => bits (word w 7) 0 2).getD 0 < 2 then retryFault s d fid else failFault s d fid
      else s

/-- PAGE_WALK_COMPLETE (R391, R392): a walk of a domain ends with a cached translation or a fault. -/
def completeWalk (s : State) (d t va write agent core l : Nat) : State :=
  (accessPage s d t va (write != 0) agent core l).1

/-- XINV_GO (R395): every translation of the tenant that covers part of the range goes from every TLB; handles over a page of it that
is now unmapped or mapped elsewhere are demoted (R60; DEDUCED, log 156). -/
def invalidateGo (s : State) (d : Nat) : State :=
  let k := s.dom d
  if k.xinvBusy then s.updDom d fun k => { k with xinvErr := true }
  else
    let t := bits k.xinvn 24 6
    let n := bits k.xinvn 0 24
    let page := bits k.xinva 16 40
    let covers (e : TlbEntry) : Bool :=
      e.tenant == t && (n == 0 || (decide (e.vpage < page + n) && decide (page < e.vpage + e.npages)))
    let s := { s with domains := kmap s.domains fun _ (x : Domain) => { x with tlb := x.tlb.filter fun e => !covers e } }
    let s := if n == 0 then demoteRemapped s t 0 (2 ^ 57) else demoteRemapped s t (page * 65536) (n * 65536)
    s.updDom d fun k => { k with xinvBusy := true, xinvFor := t }
/-- The stores that a tenant's cores have made are performed at their homes (R84, R395). -/
def performStores (s : State) (t : Nat) : State :=
  let s := (s.cores.filterMap fun (c, k) => if k.tenant == some t then some c else none).foldl (fun s c => drainCore s c) s
  (s.domains.map (·.1)).foldl (fun s d => ((s.dom d).guest.filterMap fun (l, g) =>
    if g.dirty != 0 && g.vni == (s.ten t).vni then some l else none).foldl (fun s l => writeBack s t d l) s) s
/-- A stamp-book operation of a tenant is on its way to a home. -/
def asksHome (s : State) (t : Nat) : Bool := s.domains.any fun (_, x) => x.sbReqs.any fun r => s.coreTenant r.core == t
/-- XINV_COMPLETE (R395): when every access, translated before, of the tenant that GO named has been performed. -/
def invalidateDone (s : State) (d : Nat) : State :=
  let t := (s.dom d).xinvFor
  if (s.dom d).xinvBusy && !asksHome s t then
    (performStores s t).updDom d fun k => { k with xinvBusy := false, xinvSeq := k.xinvSeq + 1 }
  else s

/-- Blocks of a tenant that are on cores. -/
def tenantBlocks (s : State) (t : Nat) : List (Nat × Nat) :=
  (allBlocks s).filter fun (c, b) => match s.block c b with | some k => k.tenant == t | none => false

/-- One block at GO (R397 steps 2 and 3): its groups get PREEMPT and its stream is saved, or it is discarded inside a region. -/
def preemptBlock (s : State) (c b : Nat) : State :=
  match s.block c b with
  | some k =>
    if flushStyle s k then maybeDiscard s c b
    else
      let s := s.updBlock c b fun k =>
        { k with groups := kmap k.groups fun _ g => if g.ended then g else { g with preempt := true } }
      if k.started then saveStream s c b else s
  | none => s

/-- PREEMPT_GO (R396, R397): the module block's TENANT is pre-empted in STYLE, or GO is refused. -/
def preemptGo (s : State) : State :=
  let t := bits s.mod.pctl 0 6
  let style := bits s.mod.pctl 61 2
  let n := s.ten t
  let canSave := decide (n.domains.length ≤ 16) && n.pctx != 0
  if n.pstat != 0 || style = 3 || (style = 1 && !canSave) then s.updTen t fun n => { n with perr := true }
  else
    let st : BitVec 2 := if style = 2 || !canSave then 2 else 1
    let us := if bits s.mod.pctl 32 16 = 0 then 200 else bits s.mod.pctl 32 16
    let s := s.updTen t fun n => { n with pstat := 1, pstyle := st, pdeadline := s.now + 1000 * us }
    settlePreempt ((tenantBlocks s t).foldl (fun s (c, b) => preemptBlock s c b) s) t

/-- PREEMPT_DEADLINE (R397 step 4): the blocks still resident are killed with code PREEMPT. -/
def preemptDeadline (s : State) (t : Nat) : State :=
  if (s.ten t).pstat == 1 && decide ((s.ten t).pdeadline ≤ s.now) then
    settlePreempt ((tenantBlocks s t).foldl (fun s (c, b) => killAndFail s c b failPreempt [0, 0, 0, 0]) s) t
  else s

/-- A group as it goes on after its PREACK (R228). -/
def resumeGroup (g : Group) : Group :=
  { g with preacked := false, park := none
           handler := g.handler.map fun h => { h with resumed := true } }
/-- The domain memory that holds a core's slot of the context area is lost (R396, R411). -/
def contextLost (s : State) (c t : Nat) : Bool := (s.dom (contextSlot (s.ten t) c / domBytes)).lost
/-- A released block restored on its core from its slot (R362, R398), its tile stream too (R314): its share holds unspecified values;
one whose core was retired, or whose slot is lost (DESIGN CHOICE, log 65), is handled as R109 gives. What its barriers were excused from
meanwhile is tested again (R98). -/
def restoreBlock (s : State) (c b : Nat) (k : Block) : State :=
  let k' : Block := { k with groups := kmap k.groups fun _ g => resumeGroup g, scratch := [], zeros := [], epoch := s.tick }
  let s := s.updCore c fun x =>
    let mine := x.keptChans.filter fun (_, h) => h.owner == some b
    { x with blocks := kset x.blocks b k', kept := kdel x.kept b
             chans := mine.foldl (fun m (i, h) => kset m (i % 64) h) x.chans
             keptChans := x.keptChans.filter fun (_, h) => h.owner != some b }
  let s := settleHeld s c b
  if k.orphan || contextLost s c k.tenant then loseBlock s c b (standing s c k)
  else
    let saved := match k.tile with | some t => t.saved | none => false
    recheckBlock (if saved then restoreStream s c b else s) c b

/-- RESUME written (R398): refused unless STATE is PREEMPTED, which becomes RESUMING. -/
def resumeGo (s : State) (t : Nat) : State :=
  s.updTen t fun n => if n.pstat != 2 then { n with perr := true } else { n with pstat := 3 }
/-- The released blocks of a tenant, by core and number. -/
def keptBlocks (s : State) (t : Nat) : List (Nat × Nat × Block) :=
  (s.cores.map fun (c, k) => (k.kept.filter fun (_, x) => x.tenant == t).map fun (b, x) => (c, b, x)).flatten
/-- RESUMING ends (R398): the released blocks are restored, all before any group issues, and dispatch restarts. -/
def resumeBlocks (s : State) (t : Nat) : State :=
  ((keptBlocks s t).foldl (fun s (c, b, k) => restoreBlock s c b k) s).updTen t fun n => { n with pstat := 0 }
/-- RESUME (R398): the register write, and then what it sets going. -/
def resumeTenant (s : State) (t : Nat) : State := if (s.ten t).pstat == 3 then resumeBlocks s t else resumeGo s t

def execPageWalkComplete (d t va write agent core l : Nat) (s : State) : Host.Outcome State Fault Refusal :=
  .next (completeWalk s d t va write agent core l)
def execFaultResponse (t : Nat) (s : State) : Host.Outcome State Fault Refusal := .next (answerFault s t)
def execXinvGo (d : Nat) (s : State) : Host.Outcome State Fault Refusal := .next (invalidateGo s d)
def execXinvComplete (d : Nat) (s : State) : Host.Outcome State Fault Refusal := .next (invalidateDone s d)
def execPreemptGo (s : State) : Host.Outcome State Fault Refusal := .next (preemptGo s)
def execPreemptDeadline (t : Nat) (s : State) : Host.Outcome State Fault Refusal := .next (preemptDeadline s t)
def execResume (t : Nat) (s : State) : Host.Outcome State Fault Refusal := .next (resumeTenant s t)

end Sys2Proof.Machine
end

