-- ==== Sys2Proof/Machine/Stamp.lean ====
section
/-! DEFINITION. The stamp-book instructions (R112-R119, R279). -/
namespace Sys2Proof.Machine
open Sys2Proof

/-- A take or give that the domain's own book serves (R115 steps 1 and 2, R117). -/
def sbLocal (s : State) (t op pa d n : Nat) : Option State :=
  match sbOpen s t pa with
  | none => none
  | some k =>
    match kget k.books d with
    | none => if op = sbTake && n = 0 then some s else none
    | some b =>
      let c := sbBook s d pa
      if op = sbTake then (if n = 0 then some s else if n ≤ c then some (sbSetBook s d pa (c - n)) else none)
      else if c + n ≤ b.1 && decide (sbReserve s pa + (k.books.map fun (_, b) => b.1).sum ≤ sbMax) then some (sbSetBook s d pa (c + n))
      else none

/-- A request of the group's on a counter waits at the home: its later operations there go after it (R78, R119). -/
def sbAhead (s : State) (h : Here) (pa : Nat) : Bool :=
  (s.dom (s.home h.ten pa)).sbReqs.any fun r => r.core == h.c && r.block == h.b && r.grp == h.g && r.pa == pa
/-- One lane's operation (R119): a take or give whose book does not serve it goes to the home and waits there. -/
def sbLane (s : State) (h : Here) (op slot l va pa n : Nat) : State :=
  let r : SbReq := { op := op, pa := pa, n := n, domain := h.dom, core := h.c, block := h.b, grp := h.g, slot := slot, lane := l
                     va := BitVec.ofNat 64 va }
  let s := strongPrep s h.c pa true
  if op = sbTake || op = sbGive then
    match (if sbAhead s h pa then none else sbLocal s h.ten op pa h.dom n) with
    | some s => sbDeliver s r (some 1)
    | none => s.updDom (s.home h.ten pa) fun d => { d with sbReqs := d.sbReqs ++ [r] }
  else
    let s := sbFlush s h.ten pa
    let o := sbAtHome s h.ten op pa h.dom n
    sbDeliver o.1 r o.2

/-- A stamp-book instruction (R259, R279): the checks, a slot, then every lane in turn. A releasing FENCE before it publishes
with it, and its read is noted, at wafer scope (R71, R96); it then waits for the group's earlier operations at homes (R261). -/
def sbBody (r : Row) (op : Nat) : ExtBody := fun x =>
  vecBody r x true idle fun h s m =>
    let ls := laneList h.width m
    if boardFull h.grp then .park s .scoreboard
    else
      let v := (fetchSrcs s h r x ls).1
      let slot := h.grp.board.foldl (fun m b => max m (b.id + 1)) 0
      afterCheck (checkAccess s h .global 8 64 true false (laneAddrs h x true true ls)) fun s oks =>
        match badLine s h.ten oks with
        | some line => if op != sbInit && ((s.dom (s.home h.ten (lineBase line))).lost || !s.poison.contains line) then go h s r x v slot oks
                       else .gone (poisonKill s h.c h.b line)
        | none => go h s r x v slot oks
where
  go (h : Here) (s : State) (r : Row) (x : Ext) (v : Srcs) (slot : Nat) (oks : List (Nat × Nat × Nat)) : Out :=
    let s := beforePublish s h (releases h.grp false (oks.map (·.1)))
    let sig := sigNow s h.c h.b
    let s := addBoard s h r x (oks.map fun (l, _, _) => (l, 0)) oks.length none
    let s := oks.foldl (fun s (l, va, pa) =>
      let s := sbLane (noteRead s h 6 l pa 8) h op slot l va pa (v.c l).toNat
      publishAt s h (publishScope h.grp false 6 l) sig l pa 8) s
    .fin (afterPublish s h (oks.any fun o => (publishScope h.grp false 6 o.1).isSome))

def bodySbinit : ExtBody := sbBody Rows.sbinit sbInit
def bodySbtake : ExtBody := sbBody Rows.sbtake sbTake
def bodySbgive : ExtBody := sbBody Rows.sbgive sbGive
def bodySbread : ExtBody := sbBody Rows.sbread sbRead
def bodySbclose : ExtBody := sbBody Rows.sbclose sbClose

def execSbinit (x : Ext) (s : State) := runExt bodySbinit x s
def execSbtake (x : Ext) (s : State) := runExt bodySbtake x s
def execSbgive (x : Ext) (s : State) := runExt bodySbgive x s
def execSbread (x : Ext) (s : State) := runExt bodySbread x s
def execSbclose (x : Ext) (s : State) := runExt bodySbclose x s

end Sys2Proof.Machine
end

