-- ==== Sys2Proof/Machine/Copy.lean ====
section
/-! DEFINITION. Copy, multicast, chain and monitor instructions (R125, R126, R129, R130, R280-R283). -/
namespace Sys2Proof.Machine
open Sys2Proof

/-- The octet of uniform registers that A names. -/
def octet (h : Here) (x : Ext) : List W64 := (List.range 8).map fun i => h.grp.rs h.tick (x.a.toNat + i)

/-- CPY, CPYR and CPYM (R125, R280): a checked record of an accepted operation, or CHANERR. -/
def xferBody (r : Row) (ops : List Nat) : ExtBody := fun x =>
  uniBody r x false anyMode fun h s =>
    let w := 0 :: (octet h x).drop 1
    if !ops.contains (xOp w) || !xferOk w h.blk.clus h.blk.kern.scratch false then .trap s xChanerr 0
    else if !copyRoom (s.core h.c) w then .park s .full
    else .fin (acceptXfer (beforePublish s h true) h.c h.b h.ten h.g w none)

def bodyCpy : ExtBody := xferBody Rows.cpy [1, 0]
def bodyCpyr : ExtBody := xferBody Rows.cpyr [2]
def bodyCpym : ExtBody := xferBody Rows.cpym [3]

/-- A receipt named by rank (R130): applied, held for a block that has not started, or dropped for one that completed. -/
def giveReceipt (s : State) (k : Block) (rank j : Nat) : State :=
  let i := k.index / k.clus * k.clus + rank
  match rankAt s k.tenant k.launch i with
  | .on c b => addReceipt s c b j
  | .complete => s
  | .notYet =>
    match s.cores.findSome? fun (c, x) => x.kept.findSome? fun (b, y) =>
      if y.tenant == k.tenant && y.launch == k.launch && y.index == i then some (c, b, y) else none with
    | some (c, b, y) =>
      if zget y.rc j = BitVec.allOnes 16 then s.setEsum k.tenant esRcptOvf
      else s.updCore c fun x => { x with kept := kset x.kept b { y with rc := zset y.rc j (zget y.rc j + 1) } }
    | none => s.updLaunch k.tenant k.launch fun l => { l with heldAcks := kset l.heldAcks i (((kget l.heldAcks i).getD []) ++ [j]) }

/-- MACK (R130, R281): a release at cluster scope, whose variable is the receipt itself. -/
def bodyMack : ExtBody := fun x =>
  uniBody Rows.mack x false anyMode fun h s =>
    let (v, s1) := fetchSrcs s h Rows.mack x []
    if h.blk.clus ≤ (v.a 0).toNat then .trap s xChanerr 0
    else .fin (giveReceipt (beforePublish s1 h true) h.blk (v.a 0).toNat (x.aux8.extractLsb' 0 2).toNat)

/-- CHAIN (R126, R282). -/
def bodyChain : ExtBody := fun x =>
  uniBody Rows.chain x false anyMode fun h s =>
    let (v, s1) := fetchSrcs s h Rows.chain x []
    let i := (x.aux8.extractLsb' 0 2).toNat
    let k := (kget (s.core h.c).chains i).getD ⟨0, 0, 0, 0, none⟩
    let a := (v.a 0).toNat
    if k.state != 0 && k.owner != h.b then .trap s xChanerr 0
    else if a % 64 != 0 then .trap s xMisalign (v.a 0)
    else
      let n : ChainSlot :=
        if k.state == 0 then ⟨1, h.b, a, a, none⟩ else if k.state == 3 then { k with state := 1, cur := a, tail := a }
        else { k with state := 1, tail := a }
      .fin ((beforePublish s1 h true).updCore h.c fun y => { y with chains := kset y.chains i n })

/-- MARM (R129, R283). -/
def bodyMarm : ExtBody := fun x =>
  uniBody Rows.marm x false anyMode fun h s =>
    let v := (fetchSrcs s h Rows.marm x []).1
    let a := (v.a 0).toNat
    let spad := x.mod6.getLsbD 0
    let arm (s : State) (addr : Nat) : Out :=
      .fin ((fetchSrcs s h Rows.marm x []).2.updGroup h.c h.b h.g fun g =>
        { g with monitors := kset g.monitors (x.aux8.extractLsb' 0 2).toNat ⟨addr, spad, a⟩ })
    if a % 8 != 0 then .trap s xMisalign (v.a 0)
    else if spad then (if h.blk.kern.scratch ≤ a then .trap s xXlate (v.a 0) else arm s a)
    else afterCheck (translateLanes s h false [(0, a)]) fun s oks => arm s ((oks.map fun (_, _, pa) => pa).getD 0 0)

/-- The condition of MWAIT (R129): w has reached V, or is all ones. -/
def monHit (w : Nat) (v : W64) : Bool := decide ((BitVec.ofNat 64 w - v).toNat < 2 ^ 63) || w == 2 ^ 64 - 1

/-- The monitored word at its home, or in the share; nothing where its line cannot be read. -/
def monRead (s : State) (c b t : Nat) (m : Monitor) : State × Option Nat :=
  if m.spad then (s, (s.block c b).map fun k => k.scratchNat m.addr 8)
  else if !isPeer m.addr && !lineReadable s t (lineOf m.addr) then (s, none)
  else
    let s := strongPrep s c m.addr false
    (s, some (homeValue s m.addr 8))

/-- The acquire of a returning MWAIT (R93, R129, R283): none on all ones; a scratchpad word's is at block scope and finds no
table entry. -/
def monAcquire (s : State) (h : Here) (m : Monitor) (scope : BitVec 4) (w : Nat) : State :=
  if w == 2 ^ 64 - 1 then s
  else
    if m.spad then s.updCore h.c fun k => { k with l1 := [] }
    else acquireLane s h scope (((laneList 64 h.ent.mask).head?).getD 0) m.addr 8

/-- MWAIT (R129, R283). -/
def bodyMwait : ExtBody := fun x =>
  uniBody Rows.mwait x false anyMode fun h s =>
    let i := (x.aux8.extractLsb' 0 2).toNat
    let scope : BitVec 4 := x.aux8.extractLsb' 4 4
    let q := fetchSrcs s h Rows.mwait x []
    match kget h.grp.monitors i with
    | none => .trap s xChanerr 0
    | some m =>
      if rangeLocked s h.c h.b m.spad m.va 8 false then .trap s xRangelock (BitVec.ofNat 64 m.va)
      else
      match monRead q.2 h.c h.b h.ten m with
      | (s1, none) => .gone (poisonKill s1 h.c h.b (lineOf m.addr))
      | (s1, some w) =>
        if monHit w (q.1.a 0) then finPush s x (dstUni (monAcquire s1 h m scope w) h Rows.mwait x (BitVec.ofNat 64 w))
        else
          let s1 := if x.dcl then reservePush s1 h.c x.d.toNat 2 else s1
          .went (waitAt s1 h (.mon i m (q.1.a 0) scope x.dcl x.d.toNat (h.ent.pc.plus (extLen x))))

def execCpy (x : Ext) (s : State) := runExt bodyCpy x s
def execCpyr (x : Ext) (s : State) := runExt bodyCpyr x s
def execCpym (x : Ext) (s : State) := runExt bodyCpym x s
def execMack (x : Ext) (s : State) := runExt bodyMack x s
def execChain (x : Ext) (s : State) := runExt bodyChain x s
def execMarm (x : Ext) (s : State) := runExt bodyMarm x s
def execMwait (x : Ext) (s : State) := runExt bodyMwait x s

end Sys2Proof.Machine
end

