-- ==== Sys2Proof/Machine/EngineEvents.lean ====
section
/-! DEFINITION. The copy unit at work (R121-R132), words and credits of channels (R138, R141), link packets (R132) and the
vertical bundles (R149-R151). -/
namespace Sys2Proof.Machine
open Sys2Proof

/-- A chain slot changed. -/
def setSlot (s : State) (c i : Nat) (k : ChainSlot) : State := s.updCore c fun x => { x with chains := kset x.chains i k }

/-- Chain slot states (R126). -/
def chIdle : BitVec 2 := 0
def chRun : BitVec 2 := 1
def chWait : BitVec 2 := 2
def chError : BitVec 2 := 3

/-- The record at CUR is there (R126): accepted, waited on, or refused with ENGERR (R134). -/
def takeRecord (s : State) (c i : Nat) (n : ChainSlot) (k : Block) (pa : Nat) (w : List W64) : State :=
  if !bit (word w 0) 63 then setSlot s c i { n with state := chWait }
  else if !xferOk w k.clus k.kern.scratch true then
    postFault (setSlot s c i { n with state := chError }) k.tenant 3 c k.launch
      [BitVec.ofNat 64 n.cur, BitVec.ofNat 64 i, 0, 0, 0, 0]
  else if !copyRoom (s.core c) w then s
  else
    let s := acceptXfer s c n.owner k.tenant 0 w (some (i, n.cur))
    let s := homeAccess s k.tenant (lineOf pa) true
    let s := strongWrite s k.tenant (coreDomain c) pa 8 (bits (word w 0) 0 63)
    let next := bits (word w 0) 0 56
    setSlot s c i { n with cur := next, state := if next = 0 then chIdle else if n.cur = n.tail then chWait else chRun }

/-- How a slot's record read ends that does not translate (R134): it waits for the fault, or its block is killed. -/
def slotFault (s : State) (c i : Nat) (n : ChainSlot) (r : EngXlat) : State :=
  match r with
  | .pending d fid => setSlot s c i { n with fault := some (d, fid) }
  | .dead => killAndFail s c n.owner xXlate [0, 0, 0, 0]
  | .sealed => killAndFail s c n.owner xSealed [0, 0, 0, 0]
  | .down line => poisonKill s c n.owner line
  | .ok _ => s
  | .wait => s
/-- CHAIN_RECORD_FETCH (R126, R134, R135): a slot in RUN reads the record at CUR with an acquire at block scope; the slots of a
cancelled block accept no more. -/
def fetchRecord (s : State) (c i : Nat) : State :=
  match kget (s.core c).chains i with
  | some n =>
    match s.block c n.owner with
    | some k =>
      if n.state != chRun || k.draining || n.fault.isSome then s
      else
        match engXlat s c k.tenant k.launch 2 64 [(n.cur, false)] with
        | (s, .ok (pa :: _)) =>
          if !lineReadable s k.tenant (lineOf pa) then poisonKill s c n.owner (lineOf pa)
          else
            let s := (homeRead (drainLine s c (lineOf pa)) k.tenant pa 64).1
            let s := acquireAt s none (blockWho s c k none) 2 pa
            let w := readWords s.mem pa 8
            if bit (word w 0) 63 && xferOk w k.clus k.kern.scratch true then
              match engXlat s c k.tenant k.launch 2 8 [(n.cur, true)] with
              | (s, .ok _) => takeRecord s c i n k pa w
              | (s, r) => slotFault s c i n r
            else takeRecord s c i n k pa w
        | (s, r) => slotFault s c i n r
    | none => s
  | none => s

/-- A postmarked operation leaves; one without a postmark address leaves when its payload is complete (R128). -/
def leaveIfBare (s : State) (c id : Nat) : State :=
  match getOp s c id with
  | some op => if op.eng = 0 && op.stage == .done && xPm op.w = 0 then leaveOp s c op else s
  | none => s

/-- NOP moves nothing (R123). -/
def runNop (s : State) (c id : Nat) : State :=
  match startedOp s c id 0 with
  | some (s, _) => leaveIfBare (updOp s c id fun o => { o with stage := .done }) c id
  | none => s

/-- A multicast's deliveries (R130): each rank of CMASK whose block has started takes the payload and its postmark and
acknowledges later; the others wait, or are acknowledged at once when they have completed. -/
def deliverAll (s : State) (c id : Nat) (ranks : List Nat) : State :=
  match getOp s c id with
  | none => s
  | some op =>
    match fetchPayload s c op with
    | .stop s => s
    | .ready s es vs =>
      let s := ranks.foldl (fun s r =>
        match s.block c op.block with
        | none => s
        | some k =>
          let at_ := rankAt s k.tenant k.launch (k.index / k.clus * k.clus + r)
          let s := (deliverRank s c op r es vs).1
          match at_ with
          | .complete => updOp s c id fun o => { o with todo := o.todo.filter fun x => x != r }
          | .notYet => updOp s c id fun o => { o with todo := addMember o.todo r }
          | .on _ _ => updOp s c id fun o => { o with todo := o.todo.filter fun x => x != r, acks := addMember o.acks r }) s
      let s := updOp s c id fun o => { o with stage := if o.todo.isEmpty && o.acks.isEmpty then .done else .acks }
      leaveIfBare s c id

/-- MCAST (R130): to the ranks that have not had it yet; a poisoned source or a fault stops it before. -/
def runMcast (s : State) (c id : Nat) : State :=
  match startedOp s c id 3 with
  | some (s, _) => deliverAll s c id (((getOp s c id).map fun o => o.todo).getD [])
  | none => s

/-- MULTICAST_DELIVERY_ACK (R130): a delivery is acknowledged; a rank that had not started takes its delivery first. -/
def ackDelivery (s : State) (c id rank : Nat) : State :=
  match getOp s c id with
  | some op =>
    if op.stage != .acks then s
    else if op.acks.contains rank then
      let s := updOp s c id fun o => { o with acks := o.acks.filter fun x => x != rank }
      let s := updOp s c id fun o => { o with stage := if o.todo.isEmpty && o.acks.isEmpty then .done else .acks }
      leaveIfBare s c id
    else if op.todo.contains rank then deliverAll s c id [rank]
    else s
  | none => s

/-- COPY and REDUCE move their payload (R124, R131). -/
def runCopy (s : State) (c id kind : Nat) : State := leaveIfBare (movePayload s c id kind) c id

/-- COPY_OPERATION_COMPLETE (R127, R128): the postmark, in acceptance order of the operation's slot or group, and the operation
leaves. One without a postmark holds back those of later operations too (DEDUCED, log 186). -/
def finishOp (s : State) (c id : Nat) : State :=
  match getOp s c id with
  | some op =>
    if op.stage != .done || !(earlierOps (s.core c) op).isEmpty then s
    else
      let pm := bits (word op.w 6) 0 56
      let scope := if op.eng = 0 then xScope op.w else cmdScope op.w
      if pm = 0 then leaveOp s c op
      else
        match postmark s c op pm scope (word op.w 7) (if op.eng = 0 then 2 else 3) with
        | (s, true) => leaveOp s c op
        | (s, false) => s
  | none => s

/-- CHANNEL_WORD_ARRIVAL (R141): the oldest word of a mesh-out entry arrives; toward an entry frozen against it it waits (R362). -/
def arriveWord (s : State) (c ch : Nat) : State :=
  match (s.core c).flight.find? fun w => w.ch == ch with
  | some w =>
    if frozenTo s c ((s.core c).chan ch).owner w.dst w.dstCh then s
    else
      let s := deliverWord s c w
      ((s.core c).blocks.map (·.1)).foldl (fun s b => settleHeld s c b) s
  | none => s

/-- The domain of a port's unit whose packet carries a VNI: the tenant that sent it. -/
def vniTenant (s : State) (vni : Nat) : Option Nat := (s.tenants.find? fun (_, n) => n.st != 0 && n.vni == vni).map (·.1)

/-- The elements of a packet's reduction applied at their home (R131, R132): `red` is 1 + ROP + 8 · RTYPE. -/
def applyReduction (s : State) (t pa red : Nat) (payload : List Byte) : State :=
  let rop := (red - 1) % 8
  let rt := (red - 1) / 8
  let n := redSize rt
  (List.range (payload.length / n)).foldl (fun s i =>
    let a := pa + i * n
    let s := homeAccess s t (lineOf a) true
    strongWrite s t (s.home t a) a n (redNew rop rt (homeValue s a n) (leNat ((payload.drop (i * n)).take n)))) s

/-- LINK_PACKET_RECEIVE (R132, R141, R375): a packet of a sending unit that is whole and has a good CRC (`crcOk` 1: it is 0 where the CRC
fails, 2 where the packet is incomplete), a sequence number not seen before and a VNI permitted on the router's ports commits its
payload, which lies in one line: a write, or for `red` not 0 a reduction. A bad one is discarded and its copy retained by the sender,
a duplicate is discarded, and one with another VNI is dropped and reported; which VNI the router expected, and of which
core it is, is free (log 101). -/
def receivePacket (s : State) (d unit seqno crcOk vni red pa : Nat) (payload : List Byte) : State :=
  let seen := (kget (s.dom d).links unit).getD []
  let held := (kget (s.dom d).retained unit).getD []
  let rest := held.filter fun p => p.head? != some seqno
  if seen.contains seqno || decide (128 < pa % 128 + payload.length) then s
  else if crcOk != 1 then
    let packet := [seqno, vni, red, pa] ++ payload.map fun b => b.toNat
    s.updDom d fun k => { k with retained := kset k.retained unit (rest ++ [packet]) }
  else
    let s := s.updDom d fun k => { k with links := kset k.links unit (seen ++ [seqno]), retained := kset k.retained unit rest }
    let t := (vniTenant s vni).getD 0
    if !(s.dom d).vnis.contains vni then
      let w := vni + Config.choice s.tick % 4096 * 4096
      let s := s.updMod fun m => { m with violations := m.violations ++ [⟨2, d, w⟩] }
      let s := s.countErr d fun e => { e with vniDrops := satAdd 16 e.vniDrops }
      match vniTenant s vni with
      | some t =>
        let cs := (bayList.map fun b => (List.range (s.bayCount d b)).map fun n => coreName d b n).flatten
        let c := cs.getD (Config.choice s.tick / 4096 % max 1 cs.length) (coreName d 0 0)
        postFault s t 6 c 0 [BitVec.ofNat 64 w, BitVec.ofNat 64 c, 0, 0, 0, 0]
      | none => s
    else if red = 0 then homeStore s t pa payload
    else applyReduction s t pa red payload

/-- LINK_REPLAY (R132, R409): a retained packet of a unit is sent again, over a rerouted path if its link has died. -/
def replayPacket (s : State) (d unit rerouted : Nat) : State :=
  match ((kget (s.dom d).retained unit).getD []).head? with
  | some (seqno :: vni :: red :: pa :: payload) =>
    let s := s.countErr d fun e =>
      { e with replays := satAdd 32 e.replays, reroutes := if rerouted = 0 then e.reroutes else satAdd 16 e.reroutes }
    receivePacket s d unit seqno 1 vni red pa (payload.map fun n => BitVec.ofNat 8 n)
  | _ => s

/-- VERTICAL_WINDOW (R149): the askers in rank order run at full, half and quarter rate (2 bits each: 0 idle, 1 full, 2 half, 3
quarter; array, FXE, TVE from bit 0). -/
def openWindow (s : State) (c askers : Nat) : State :=
  let order := if (s.dom (coreDomain c)).ueFirst then [1, 2, 0] else [0, 1, 2]
  let asking := order.filter fun u => askers / 2 ^ u % 2 == 1
  let rates := ((List.range 3).zip asking).foldl (fun (n : Nat) (r, u) => n + (r + 1) * 4 ^ u) 0
  s.updCore c fun k => { k with rates := BitVec.ofNat 6 rates, windowAsk := BitVec.ofNat 3 askers }

/-- VERTICAL_WIRE_FAILURE (R151): a spare takes over, or the bundle runs at half width and replacement is requested (R411). -/
def failWire (s : State) (d spareLeft : Nat) : State :=
  if spareLeft != 0 then s.countErr d fun e => { e with vwSpare := satAdd 8 e.vwSpare }
  else requestRepl (s.countErr d fun e => { e with vwHalf := satAdd 8 e.vwHalf }) svcHalfw

def execChainRecordFetch (c slot : Nat) (s : State) : Host.Outcome State Fault Refusal := .next (fetchRecord s c slot)
def execXferNop (c id : Nat) (s : State) : Host.Outcome State Fault Refusal := .next (runNop s c id)
def execCopy (c id : Nat) (s : State) : Host.Outcome State Fault Refusal := .next (runCopy s c id 1)
def execReduce (c id : Nat) (s : State) : Host.Outcome State Fault Refusal := .next (runCopy s c id 2)
def execMcast (c id : Nat) (s : State) : Host.Outcome State Fault Refusal := .next (runMcast s c id)
def execMulticastDeliveryAck (c id rank : Nat) (s : State) : Host.Outcome State Fault Refusal := .next (ackDelivery s c id rank)
def execCopyOperationComplete (c id : Nat) (s : State) : Host.Outcome State Fault Refusal := .next (finishOp s c id)
def execChannelWordArrival (c ch : Nat) (s : State) : Host.Outcome State Fault Refusal := .next (arriveWord s c ch)
def execCreditGrant (c ch : Nat) (s : State) : Host.Outcome State Fault Refusal := .next (grantCredits s c ch)
def execLinkPacketReceive (d unit seqno crcOk vni red pa : Nat) (payload : List Byte) (s : State) :
    Host.Outcome State Fault Refusal := .next (receivePacket s d unit seqno crcOk vni red pa payload)
def execLinkReplay (d unit rerouted : Nat) (s : State) : Host.Outcome State Fault Refusal := .next (replayPacket s d unit rerouted)
def execVerticalWindow (c askers : Nat) (s : State) : Host.Outcome State Fault Refusal := .next (openWindow s c askers)
def execVerticalWireFailure (d spareLeft : Nat) (s : State) : Host.Outcome State Fault Refusal := .next (failWire s d spareLeft)

end Sys2Proof.Machine
end

