-- ==== Sys2Proof/Machine/UnderEngines.lean ====
section
/-! DEFINITION. The traversal engine and the format engine beneath a core (R143-R148). Each runs the oldest of its commands;
a command's payload moves in one step. -/
namespace Sys2Proof.Machine
open Sys2Proof

/-- A number format of R145 as the TY code of the conversions. -/
def engTy (t : Nat) : BitVec 4 :=
  match t with
  | 0 => tyF32
  | 1 => tyBf16
  | 2 => tyF16
  | 3 => tyE4m3
  | 4 => tyE5m2
  | 6 => tyS8
  | 7 => tyS32
  | _ => tyU32

/-- The command that an engine runs next, if it is of a kind: the oldest of its engine (R143). -/
def nextCmd (s : State) (c id eng cmd : Nat) : Option Op :=
  match (s.core c).ops.find? fun o => o.eng == eng with
  | some o => if o.id == id && cmdCmd o.w == cmd && (o.stage == .waiting || o.stage == .payload) then some o else none
  | none => none

/-- Byte ranges that a command reads or writes, cut at the lines: virtual address, offset in the range, bytes. -/
def cutRange (a n : Nat) : List (Nat × Nat) :=
  let first := a / 128
  (List.range ((a + n + 127) / 128 - first)).map fun i =>
    let lo := max a ((first + i) * 128)
    (lo, min (a + n) ((first + i + 1) * 128) - lo)
/-- The pieces of several ranges. -/
def cutAll (rs : List (Nat × Nat)) : List (Nat × Nat) := (rs.map fun (a, n) => cutRange a n).flatten

/-- Pieces translated for an engine (R134): an empty list needs nothing. -/
def engPieces (s : State) (c : Nat) (op : Op) (ps : List (Nat × Nat)) (write : Bool) : State × EngXlat :=
  engXlat s c op.tenant (opLaunch s c op) 3 1 (ps.map fun (a, _) => (a, write))

/-- Bytes read piece by piece, or the poisoned line met first (R70). -/
def readPieces (s : State) (c t : Nat) (ps : List (Nat × Nat)) : State × Except Nat (List Byte) :=
  ps.foldl (fun (s, r) (pa, n) =>
    match r with
    | .error l => (s, .error l)
    | .ok bs => match engRead s t (coreDomain c) pa n with
      | (s, some v) => (s, .ok (bs ++ leBytes n v))
      | (s, none) => (s, .error (lineOf pa))) (s, .ok [])
/-- The bytes of a range of virtual addresses for an engine, and what goes on with them: a fault, poison or a wait stops. -/
def withBytes (s : State) (c : Nat) (op : Op) (rs : List (Nat × Nat)) (k : State → List Byte → State) : State :=
  let ps := cutAll rs
  match engPieces s c op ps false with
  | (s, .ok pas) =>
    match readPieces s c op.tenant (pas.zip (ps.map (·.2))) with
    | (s, .ok bs) => k s bs
    | (s, .error l) => poisonKill s c op.block l
  | (s, r) => engFault s c op false r

/-- Bytes written to ranges of virtual addresses that have been translated; the operation's signature takes the lines. -/
def putPieces (s : State) (c : Nat) (op : Op) : List (Nat × Nat) → List Byte → State
  | [], _ => s
  | (pa, n) :: r, bs =>
    putPieces (engWrite s c op.id op.tenant (coreDomain c) pa n (leNat (bs.take n))) c op r (bs.drop n)
/-- The command's writes, all translated first, and the end of its payload. -/
def finishCmd (s : State) (c : Nat) (op : Op) (ws : List (Nat × List Byte)) : State :=
  let ps := cutAll (ws.map fun (a, bs) => (a, bs.length))
  match engPieces s c op ps true with
  | (s, .ok pas) =>
    let s := putPieces s c op (pas.zip (ps.map (·.2))) ((ws.map (·.2)).flatten)
    updOp s c op.id fun o => { o with stage := .done }
  | (s, r) => engFault s c op false r

/-- Little-endian elements of a size. -/
def elemsOf (size : Nat) (bs : List Byte) : List Nat :=
  (List.range (bs.length / max 1 size)).map fun i => leNat ((bs.drop (i * size)).take size)
/-- The bytes of elements of a size. -/
def elemBytes (size : Nat) (vs : List Nat) : List Byte := (vs.map (leBytes size)).flatten

/-- The ranges of a command's source rows, and its destination rows' addresses. -/
def srcRow (w : List W64) (r : Nat) : Nat := cmdSrc w + r * cmdSp w
def dstRow (w : List W64) (r : Nat) : Nat := cmdDst w + r * cmdDp w
def rowBytes (w : List W64) : Nat := cmdCols w * engSize (cmdTin w)
def srcRows (w : List W64) : List (Nat × Nat) := (List.range (cmdRows w)).map fun r => (srcRow w r, rowBytes w)
/-- The source as rows of elements. -/
def matrixOf (w : List W64) (bs : List Byte) : List (List Nat) :=
  let n := rowBytes w
  (List.range (cmdRows w)).map fun r => elemsOf (engSize (cmdTin w)) ((bs.drop (r * n)).take n)
/-- The indices of GATHER and SCATTERADD: u32 values at AUX. -/
def indexRange (w : List W64) : List (Nat × Nat) := [(cmdAux w, 4 * cmdRows w)]

/-- The pieces of a range at the lines, each with the number of the first element that it serves. -/
def touchRange (key : Nat → Nat) (write : Bool) (a n : Nat) : List (Nat × Nat × Bool) :=
  (cutRange a n).map fun (lo, _) => (key (lo - a), lo, write)
/-- What the elements of a command's source row `r` touch (R146-R148): its index, its source, its place at the destination and at AUX, an
index or a bin as the domain's L2 would serve its value now. Elements are numbered along the rows. -/
def rowTouches (s : State) (d t : Nat) (w : List W64) (r : Nat) : List (Nat × Nat × Bool) :=
  let size := engSize (cmdTin w)
  let n := cmdCols w
  let k0 := r * n
  let by_ (size : Nat) (o : Nat) : Nat := k0 + o / size
  let src (i : Nat) : List (Nat × Nat × Bool) := touchRange (by_ size) false (srcRow w i) (rowBytes w)
  let dst (i bytes size : Nat) : List (Nat × Nat × Bool) := touchRange (by_ size) true (dstRow w i) bytes
  let aux (off bytes size : Nat) : List (Nat × Nat × Bool) := touchRange (by_ size) true (cmdAux w + off) bytes
  let index := peekValue s d t (cmdAux w + 4 * r) 4
  let named := touchRange (fun _ => k0) false (cmdAux w + 4 * r) 4
  match cmdEng w, cmdCmd w with
  | 1, 0 => named ++ (match index with | some i => if i = 0xFFFFFFFF then [] else src i | none => []) ++ dst r (rowBytes w) size
  | 1, 1 => named ++ src r ++ (match index with | some i => dst i (rowBytes w) size | none => [])
  | 1, 2 => src r ++ dst r (cmdK w * size) size ++ aux (r * 4 * cmdK w) (4 * cmdK w) 4
  | 1, _ => src r ++ (List.range n).filterMap fun k => (peekValue s d t (srcRow w r + k * size) size).bind fun v =>
      let i := intVal (engTy (cmdTin w)) v
      if 0 ≤ i ∧ i < cmdK w then some (k0 + k, cmdDst w + 4 * i.toNat, true) else none
  | _, 0 => src r ++ touchRange (fun o => k0 + 2 * o) true (dstRow w r) (n / 2) ++
      touchRange (fun o => k0 + 8 * o) true (cmdAux w + r * (n / 8)) (n / 8) ++
      (if r % 64 = 0 then touchRange (fun _ => k0) true (cmdAux w + cmdRows w * (n / 8) + 2 * (r / 64)) 2 else [])
  | _, 1 => src r ++ dst r (n * engSize (cmdTout w)) (engSize (cmdTout w))
  | _, _ => src r ++ (if r = 0 then ((List.range n).map fun k =>
      touchRange (fun o => o / size * n + k) true (dstRow w k) (cmdRows w * size)).flatten else [])
/-- Accesses put in the order of their elements, those of one element as they were. -/
def putInOrder (x : Nat × Nat × Bool) : List (Nat × Nat × Bool) → List (Nat × Nat × Bool)
  | [] => [x]
  | y :: r => if x.1 ≤ y.1 then x :: y :: r else y :: putInOrder x r
/-- A command's accesses in the order of its elements (R393). -/
def cmdTouches (s : State) (c : Nat) (op : Op) : List (Nat × Nat × Bool) :=
  (((List.range (cmdRows op.w)).map (rowTouches s (coreDomain c) op.tenant op.w)).flatten).foldr putInOrder []
/-- A command goes on once every access translates; the fault it takes otherwise is that of its lowest failing element (R393). -/
def checked (s : State) (c : Nat) (op : Op) (k : State → State) : State :=
  match engXlat s c op.tenant (opLaunch s c op) 3 1 ((cmdTouches s c op).map (·.2)) with
  | (s, .ok _) => k s
  | (s, r) => engFault s c op false r

/-- GATHER (R146): each destination row is the indexed source row, or zeros. -/
def runGather (s : State) (c id : Nat) : State :=
  match nextCmd s c id 1 0 with
  | some op =>
    let w := op.w
    checked s c op fun s => withBytes s c op (indexRange w) fun s ib =>
      let idx := elemsOf 4 ib
      let n := rowBytes w
      let rows := idx.filter fun i => i != 0xFFFFFFFF
      withBytes s c op (rows.map fun i => (srcRow w i, n)) fun s bs =>
        let ws := (idx.foldl (fun (st : List (List Byte) × List Byte) i =>
          if i = 0xFFFFFFFF then (st.1 ++ [List.replicate n 0], st.2) else (st.1 ++ [st.2.take n], st.2.drop n)) ([], bs)).1
        finishCmd s c op (((List.range idx.length).zip ws).map fun (r, b) => (dstRow w r, b))
  | none => s

/-- One element added into memory at its home (R131, R146). -/
def addElem (s : State) (c : Nat) (op : Op) (pa size rtype v : Nat) : State :=
  let s := homeAccess s op.tenant (lineOf pa) true
  let s := strongWrite s op.tenant (coreDomain c) pa size (redNew 0 rtype (homeValue s pa size) v)
  updOp s c op.id fun o => { o with sig := o.sig ||| sigOf (lineOf pa) }

/-- Elements added at translated addresses, one after another. An element that crosses a line or page takes the bytes that follow its
first translated address (DESIGN CHOICE, log 152). -/
def addAll (s : State) (c : Nat) (op : Op) (size rtype : Nat) (es : List (Nat × Nat)) : State :=
  match engXlat s c op.tenant (opLaunch s c op) 3 size (es.map fun (a, _) => (a, true)) with
  | (s, .ok pas) =>
    match pas.find? fun pa => !lineReadable s op.tenant (lineOf pa) with
    | some pa => poisonKill s c op.block (lineOf pa)
    | none =>
      let s := (pas.zip (es.map (·.2))).foldl (fun s (pa, v) => addElem s c op pa size rtype v) s
      updOp s c op.id fun o => { o with stage := .done }
  | (s, r) => engFault s c op false r

/-- SCATTERADD (R146): the indexed destination rows gain the source rows, in increasing r. -/
def runScatteradd (s : State) (c id : Nat) : State :=
  match nextCmd s c id 1 1 with
  | some op =>
    let w := op.w
    let size := engSize (cmdTin w)
    let rt := if cmdTin w = 0 then 4 else if cmdTin w = 1 then 5 else 0
    checked s c op fun s => withBytes s c op (indexRange w) fun s ib =>
      let idx := elemsOf 4 ib
      withBytes s c op (srcRows w) fun s bs =>
        let es := ((idx.zip (matrixOf w bs)).map fun (i, vs) =>
          ((List.range vs.length).zip vs).map fun (k, v) => (dstRow w i + k * size, v)).flatten
        addAll s c op size rt es
  | none => s

/-- TOPK's order (R146): a NaN below −inf, −0 equal to +0. -/
def topBefore (t : BitVec 4) (a b : Nat × Nat) : Bool :=
  let va := fpVal t a.2
  let vb := fpVal t b.2
  let gt := match va, vb with
    | .nan, _ => false
    | _, .nan => true
    | _, _ => ltVal vb va && !eqVal va vb
  let lt := match va, vb with
    | _, .nan => false
    | .nan, _ => true
    | _, _ => ltVal va vb && !eqVal va vb
  gt || (!lt && decide (a.1 < b.1))
/-- The first `k` of some elements in the order. -/
def topFirst (t : BitVec 4) : Nat → List (Nat × Nat) → List (Nat × Nat)
  | 0, _ => []
  | _ + 1, [] => []
  | k + 1, e :: r =>
    let m := r.foldl (fun m x => if topBefore t x m then x else m) e
    m :: topFirst t k ((e :: r).filter fun x => x.1 != m.1)
/-- An element as TOPK writes it: a NaN is the canonical one. -/
def canonical (t : BitVec 4) (c : Nat) : Nat :=
  match fpVal t c with
  | .nan => (nanResult (fmtOf t)).1
  | _ => c

/-- TOPK (R146). -/
def runTopk (s : State) (c id : Nat) : State :=
  match nextCmd s c id 1 2 with
  | some op =>
    let w := op.w
    let t := engTy (cmdTin w)
    let size := engSize (cmdTin w)
    checked s c op fun s => withBytes s c op (srcRows w) fun s bs =>
      let rows := (matrixOf w bs).map fun vs => topFirst t (cmdK w) ((List.range vs.length).zip vs)
      let ws := ((List.range rows.length).zip rows).map fun (r, es) =>
        [(dstRow w r, elemBytes size (es.map fun (_, v) => canonical t v)),
         (cmdAux w + r * 4 * cmdK w, elemBytes 4 (es.map (·.1)))]
      finishCmd s c op ws.flatten
  | none => s

/-- HIST (R146): each element below K counts in its bin. -/
def runHist (s : State) (c id : Nat) : State :=
  match nextCmd s c id 1 3 with
  | some op =>
    let w := op.w
    let t := engTy (cmdTin w)
    checked s c op fun s => withBytes s c op (srcRows w) fun s bs =>
      let vs := (elemsOf (engSize (cmdTin w)) bs).filterMap fun v =>
        let i := intVal t v
        if 0 ≤ i ∧ i < cmdK w then some (cmdDst w + 4 * i.toNat, 1) else none
      addAll s c op 4 1 vs
  | none => s

/-- RoundBF16 and RoundE3M5 toward plus infinity, and RoundFP4 (R147). -/
def rup : BitVec 3 := 3
/-- A finite magnitude as a fraction; NaN and infinities are read as 0 (R147). -/
def finMag (t : BitVec 4) (c : Nat) : Nat × Nat :=
  match fpVal t c with
  | .fin _ n d => (n, d)
  | _ => (0, 1)
def fracLt (a b : Nat × Nat) : Bool := decide (a.1 * b.2 < b.1 * a.2)
def fracMax (l : List (Nat × Nat)) : Nat × Nat := l.foldl (fun m x => if fracLt m x then x else m) (0, 1)
/-- The band scale B of an amax (R147). -/
def bandScale (m : Nat × Nat) : Nat :=
  if m.1 = 0 then 0x3F80 else (roundFmt (.fin false m.1 (m.2 * 96)) fmtBf16 rup false).1
/-- A block scale of an amax under a band scale. -/
def blockScale (m b : Nat × Nat) : Nat :=
  if m.1 = 0 then 0 else (roundFmt (.fin false (m.1 * b.2) (m.2 * 6 * b.1)) fmtE3m5 rup false).1
/-- An element's FP4 code under its scales; under a zero block scale it is a free value. -/
def blockCode (t : BitVec 4) (free : BitVec 4) (c : Nat) (sc b : Nat × Nat) : Nat :=
  match fpVal t c with
  | .fin neg n d => if sc.1 = 0 then free.toNat
                    else (roundFmt (.fin neg (n * sc.2 * b.2) (d * sc.1 * b.1)) fmtE2m1 0 true).1
  | _ => 0
/-- The value of a code that is a finite magnitude. -/
def magOf (f : Fmt) (c : Nat) : Nat × Nat := match decodeFp f c with | .fin _ n d => (n, d) | _ => (0, 1)

/-- One row quantised under its band's scale: block scales and packed FP4 codes, the even column in the low half (R64). -/
def quantRow (t : BitVec 4) (free : Nat → BitVec 4) (vs : List Nat) (band : Nat) : List Nat × List Byte :=
  let b := magOf fmtBf16 band
  let blocks := (List.range (vs.length / 8)).map fun i => (vs.drop (8 * i)).take 8
  let scales := blocks.map fun x => blockScale (fracMax (x.map (finMag t))) b
  let codes := ((List.range vs.length).zip vs).map fun (i, v) =>
    blockCode t (free i) v (magOf fmtE3m5 (scales.getD (i / 8) 0)) b
  (scales, (List.range (codes.length / 2)).map fun i => BitVec.ofNat 8 (codes.getD (2 * i) 0 + 16 * codes.getD (2 * i + 1) 0))

/-- BLOCKQ (R147). -/
def runBlockq (s : State) (c id : Nat) : State :=
  match nextCmd s c id 2 0 with
  | some op =>
    let w := op.w
    let t := engTy (cmdTin w)
    checked s c op fun s => withBytes s c op (srcRows w) fun s bs =>
      let rows := matrixOf w bs
      let bands := (List.range (ceilDiv rows.length 64)).map fun g =>
        bandScale (fracMax ((((rows.drop (64 * g)).take 64).flatten).map (finMag t)))
      let out := ((List.range rows.length).zip rows).map fun (r, vs) =>
        let q := quantRow t (Config.zeroBlockCode op.id r) vs (bands.getD (r / 64) 0)
        [(dstRow w r, q.2), (cmdAux w + r * (cmdCols w / 8), elemBytes 1 q.1)]
      let bw := ((List.range bands.length).zip bands).map fun (g, b) =>
        (cmdAux w + cmdRows w * (cmdCols w / 8) + 2 * g, leBytes 2 b)
      finishCmd s c op (out.flatten ++ bw)
  | none => s

/-- REQ (R148): conversion as CVT's, without flags. -/
def runReq (s : State) (c id : Nat) : State :=
  match nextCmd s c id 2 1 with
  | some op =>
    let w := op.w
    checked s c op fun s => withBytes s c op (srcRows w) fun s bs =>
      let conv (v : Nat) : Nat := (convert (engTy (cmdTin w)) (engTy (cmdTout w)) (cmdRm w) (cmdSat w) v).1
      let rows := (matrixOf w bs).map fun vs => elemBytes (engSize (cmdTout w)) (vs.map conv)
      finishCmd s c op (((List.range rows.length).zip rows).map fun (r, b) => (dstRow w r, b))
  | none => s

/-- TRANS (R148): the byte image of (r, c) goes to (c, r). -/
def runTrans (s : State) (c id : Nat) : State :=
  match nextCmd s c id 2 2 with
  | some op =>
    let w := op.w
    let size := engSize (cmdTin w)
    checked s c op fun s => withBytes s c op (srcRows w) fun s bs =>
      let rows := matrixOf w bs
      finishCmd s c op ((List.range (cmdCols w)).map fun k => (dstRow w k, elemBytes size (rows.map fun vs => vs.getD k 0)))
  | none => s

def execGather (c id : Nat) (s : State) : Host.Outcome State Fault Refusal := .next (runGather s c id)
def execScatteradd (c id : Nat) (s : State) : Host.Outcome State Fault Refusal := .next (runScatteradd s c id)
def execTopk (c id : Nat) (s : State) : Host.Outcome State Fault Refusal := .next (runTopk s c id)
def execHist (c id : Nat) (s : State) : Host.Outcome State Fault Refusal := .next (runHist s c id)
def execBlockq (c id : Nat) (s : State) : Host.Outcome State Fault Refusal := .next (runBlockq s c id)
def execReq (c id : Nat) (s : State) : Host.Outcome State Fault Refusal := .next (runReq s c id)
def execTrans (c id : Nat) (s : State) : Host.Outcome State Fault Refusal := .next (runTrans s c id)

end Sys2Proof.Machine
end

