-- ==== Sys2Proof/Machine/Power.lean ====
section
/-! DEFINITION. Power regions (R399-R404), the loss of a domain (R120, R136, R401), time (R405), and the edge and Courier links
(R406, R407). -/
namespace Sys2Proof.Machine
open Sys2Proof

/-- Region states (R401). -/
def rgStacked : BitVec 3 := 0
def rgDraining : BitVec 3 := 1
def rgSwitching : BitVec 3 := 2
def rgFallback : BitVec 3 := 3
def rgTripped : BitVec 3 := 4
def rgRestarting : BitVec 3 := 5

/-- The partner of a region (R6): PRG(2k) and PRG(2k+1) form a pair. -/
def partner (r : Nat) : Nat := if r % 2 = 0 then r + 1 else r - 1
/-- Both regions of a pair changed. -/
def updPair (s : State) (r : Nat) (f : Region → Region) : State := (s.updRegion r f).updRegion (partner r) f

/-- PWSTEP_WRITE (R396): a LIMIT above PWMAX stores PWMAX. -/
def writeLimit (s : State) (val : Nat) : State :=
  s.updMod fun m => { m with pwLimit := if m.pwMax.toNat < val % 4096 then m.pwMax else BitVec.ofNat 12 val }

/-- DROOP_ALARM (R400). -/
def droopAlarm (s : State) (r : Nat) : State :=
  let l := min 2 ((s.region r).droop + 1)
  let both := (s.region r).st == rgStacked
  let s := s.updRegion r fun k => { k with droop := l, lastAlarm := s.now, droops := satAdd 32 k.droops }
  if both then s.updRegion (partner r) fun k => { k with droop := l, lastAlarm := s.now } else s
/-- DROOP_RECOVERY (R400): 4 µs after the last alarm, with the supply back, L returns to 0 for both regions. -/
def droopRecovery (s : State) (r : Nat) : State :=
  if (s.region r).lastAlarm + 4000 ≤ s.now then
    let s' := s.updRegion r fun k => { k with droop := 0 }
    if (s.region r).st == rgStacked then s'.updRegion (partner r) fun k => { k with droop := 0 } else s'
  else s

/-- A pair leaves STACKED or FALLBACK for DRAINING (R401): what balanced it ends. -/
def startDraining (s : State) (r : Nat) (toStack : Bool) : State :=
  updPair s r fun k => { k with st := rgDraining, since := s.now, toStack := toStack, ballast := false, throttle := 0
                                heavySince := none, throttledAt := none, lightSince := none }
/-- FORCEFB and RESTACK (R401, R403). -/
def forceFallback (s : State) (r : Nat) : State := if (s.region r).st == rgStacked then startDraining s r false else s
def restack (s : State) (r : Nat) : State :=
  if (s.region r).st == rgFallback && (s.region (partner r)).st == rgFallback then startDraining s r true else s

/-- The cores of a region that hold no block: ballast may run there (R402). -/
def idleCores (s : State) (r : Nat) : Nat :=
  ((s.regionDomains r).map fun d => (bayList.map fun b =>
    ((List.range (s.bayCount d b)).filter fun n => (s.core (coreName d b n)).isFree).length).sum).sum

/-- The Sorter balances a pair that has stood above 12 percent since `since`, for 2 µs (R402): ballast on the idle cores of the lighter region;
where they are too few, which is free as long as there is one, the heavier region is throttled to 7/8, and to 3/4 after a further 2 µs. -/
def balance (s : State) (heavy light since : Nat) : State :=
  let idle := idleCores s light
  let s := if idle = 0 then s else sorterSets s (ctlBallast light) 1 fun s => s.updRegion light fun k => { k with ballast := true }
  if idle = 0 || Config.choice s.tick % 2 = 1 then
    match (s.region heavy).throttledAt with
    | none => sorterSets s (ctlThrottle heavy) 1 fun s => s.updRegion heavy fun k => { k with throttle := max k.throttle 1, throttledAt := some s.now }
    | some a =>
      if max a since + 2000 ≤ s.now then sorterSets s (ctlThrottle heavy) 2 fun s => s.updRegion heavy fun k => { k with throttle := 2 } else s
  else s
/-- The Sorter ends a region's ballast and lifts its throttle (R402). -/
def lift (s : State) (r : Nat) : State :=
  let s := if (s.region r).ballast then sorterSets s (ctlBallast r) 0 fun s => s.updRegion r fun k => { k with ballast := false } else s
  if (s.region r).throttle = 0 then s
  else sorterSets s (ctlThrottle r) 0 fun s => s.updRegion r fun k => { k with throttle := 0, throttledAt := none }

/-- IMBALANCE_SAMPLE (R402, R403) of pair `p`: the currents are free; above 12 percent for 2 µs the pair is balanced, as the Postmaster's
limits allow (R364); after 50 µs it is a shunt fault, and 10 µs below 8 percent end what balances it. Nothing is measured while the Sorter
is down. -/
def sampleImbalance (s : State) (p : Nat) : State :=
  let a := 2 * p
  if !s.mod.sorterUp then s else
  let ia := Config.regionCurrent s.tick a % 65536
  let ib := Config.regionCurrent s.tick (a + 1) % 65536
  let s := s.updRegion a fun k => { k with current := ia }
  let s := s.updRegion (a + 1) fun k => { k with current := ib }
  if (s.region a).st != rgStacked then s
  else
    let (heavy, light) := if ia < ib then (a + 1, a) else (a, a + 1)
    let diff := 100 * (max ia ib - min ia ib)
    let sum := ia + ib
    let pct : Int := if sum = 0 then 0 else diff / sum
    let s := s.updRegion heavy fun k => { k with imb := pct }
    let s := s.updRegion light fun k => { k with imb := -pct }
    if 12 * sum < diff then
      let since := ((s.region a).heavySince).getD s.now
      let s := updPair s a fun k => { k with heavySince := some since, lightSince := none }
      if since + 50000 ≤ s.now then
        startDraining (updPair s a fun k => { k with shunts := satAdd 16 k.shunts }) a false
      else if since + 2000 ≤ s.now then balance s heavy light since
      else s
    else if diff < 8 * sum then
      let since := ((s.region a).lightSince).getD s.now
      let s := updPair s a fun k => { k with heavySince := none, lightSince := some since }
      if since + 10000 ≤ s.now then lift (lift s a) (a + 1) else s
    else updPair s a fun k => { k with heavySince := none, lightSince := none }

/-- The cores of some domains. -/
def coresIn (s : State) (ds : List Nat) : List Nat := (s.cores.map (·.1)).filter fun c => ds.contains (coreDomain c)
/-- DRAINING_END (R401): with no block resident or after 500 µs; what is left is handled as at a deadline. -/
def endDraining (s : State) (r : Nat) : State :=
  if (s.region r).st != rgDraining then s
  else
    let cs := coresIn s (s.regionDomains r ++ s.regionDomains (partner r))
    if (cs.all fun c => (s.core c).blocks.isEmpty) || decide ((s.region r).since + 500000 ≤ s.now) then
      updPair (cs.foldl deadlineCore s) r fun k => { k with st := rgSwitching, since := s.now }
    else s
/-- SWITCHING_END (R401): after 50 µs. -/
def endSwitching (s : State) (r : Nat) : State :=
  if (s.region r).st == rgSwitching && decide ((s.region r).since + 50000 ≤ s.now) then
    updPair s r fun k => { k with st := if k.toStack then rgStacked else rgFallback, since := s.now, toStack := false }
  else s

/-- A valid leaf of a table maps physical memory (first address, bytes) with a property (R389, R390). -/
def mapsAny (m : ZMap 8) (p : Nat → Nat → Bool) (table : Nat) : List (Nat × Nat × Nat × Bool × Nat) → Bool
  | [] => false
  | (_, lo, n, leafOk, _) :: rest =>
    (List.range (2 ^ n)).any fun i =>
      let pte := readW64 m (table + 8 * i)
      let addr := bits pte 8 44 * 256
      if !bit pte 0 then false
      else if bit pte 1 then leafOk && p addr (2 ^ lo)
      else mapsAny m p addr rest
/-- A tenant has cores or memory in a domain (R401). -/
def usesDomain (s : State) (t d : Nat) : Bool :=
  let n := s.ten t
  n.domains.contains d || n.pthome == d ||
    mapsAny s.mem (fun a len => decide (a < edgeBase) && decide (a / domBytes ≤ d) && decide (d ≤ (a + len - 1) / domBytes)) n.root walkLevels

/-- An operation that runs on a core of domain `d` has part of its source or destination where `p` holds of the physical address (R136). -/
def opTouches (s : State) (d : Nat) (op : Op) (p : Nat → Bool) : Bool :=
  let at_ (va : Nat) : Bool := match quietLine s op.tenant va with | some l => p (lineBase l) | none => false
  if op.stage == .waiting || op.stage == .done then false
  else if op.eng = 0 then
    (xElems op.w).any fun e => (xSsp op.w == 0 && at_ (engAddr e.1)) || (xDsp op.w == 0 && at_ (engAddr e.2))
  else
    let rs := (cmdSrcRows s d op.tenant op.w).ranges ++ (cmdDstRows s d op.tenant op.w).ranges ++ (cmdAuxRange op.w).toList
    rs.any fun (lo, hi) => decide (lo < hi) && (List.range (hi / 65536 + 1 - lo / 65536)).any fun i => at_ (min (max lo ((lo / 65536 + i) * 65536)) (hi - 1))
/-- The operations of cores outside some domains that are torn when memory that a test names goes (R136). -/
def tornOps (s : State) (ds : List Nat) (p : Nat → Bool) : List (Nat × Op) :=
  (s.cores.map fun (c, k) => if ds.contains (coreDomain c) then [] else (k.ops.filter fun o => opTouches s (coreDomain c) o p).map fun o => (c, o)).flatten
def tearOps (s : State) (torn : List (Nat × Op)) : State := torn.foldl (fun s (c, o) => leaveOp (tearOp s c o) c o) s

/-- The books a lost domain held go, and with them what they held (R120). -/
def loseBooks (s : State) (d : Nat) : State :=
  let mine := (s.domains.map fun (h, x) => if h = d then [] else
    (x.counters.filter fun (_, k) => (kget k.books d).isSome).map fun (pa, k) => (pa, k)).flatten
  mine.foldl (fun s (pa, k) =>
    let s := sbSetBook s d pa 0
    let s := sbSetBooks s k.tenant pa { k with books := kdel k.books d }
    (sbStore s k.tenant pa 2 (readW64 s.mem (pa + 16) ||| 4)).setEsum k.tenant esSbLost) s
/-- The counters homed in a lost domain go, with their books elsewhere; the requests that wait there meet SBFAULT (R120). -/
def loseCounters (s : State) (d : Nat) : State :=
  let k := s.dom d
  let s := k.sbReqs.foldl (fun s r => sbDeliver s r none) s
  let s := k.counters.foldl (fun s (pa, x) => x.books.foldl (fun s (e, _) => sbSetBook s e pa 0) s) s
  s.updDom d fun x => { x with counters := [], sbReqs := [] }

/-- Cached copies of lines whose home has gone are no longer served (R401, R407). -/
def dropCopies (s : State) (p : Nat → Bool) : State :=
  { s with
    cores := kmap s.cores fun _ (k : Core) => { k with l1 := k.l1.filter fun (l, _) => !p (lineBase l) }
    domains := kmap s.domains fun _ (d : Domain) =>
      { d with guest := d.guest.filter fun (l, _) => !p (lineBase l), l2 := d.l2.filter fun l => !p (lineBase l)
               hdirty := d.hdirty.filter fun l => !p (lineBase l), att := d.att.filter fun (l, _) => !p (lineBase l) } }
/-- A domain's presence leaves every directory. -/
def dropPresence (s : State) (d : Nat) : State :=
  let off (e : DirEntry) : DirEntry :=
    let p := e.present &&& ~~~domBit d
    if p == 0 then .empty else { e with present := p }
  { s with domains := kmap s.domains fun _ (x : Domain) =>
      { x with dir := (kmap x.dir fun _ e => off e).filter fun (_, e) => e.present != 0
               objs := kmap x.objs fun _ o => { o with dir := off o.dir } } }

/-- A domain without power or unreachable keeps its registers, the VNIs permitted to it (R375) and its frozen error block; its caches,
tables and queue go. -/
def Domain.gone (x : Domain) : Domain :=
  { Domain.fresh with
    lost := true, drain := x.drain, nextFid := x.nextFid, xinva := x.xinva, xinvn := x.xinvn, xinvErr := x.xinvErr
    xinvSeq := x.xinvSeq, vnis := x.vnis, fw := x.fw, ueFirst := x.ueFirst, cpt := x.cpt, bpt := x.bpt, skew := x.skew, timeoff := x.timeoff
    err := x.err, wiped := some [] }

/-- What the loss of a domain already marked lost does (R120, R401, R411): its blocks are relaunched or fail, its books, counters, caches and
memory go, and the tenants told of it have a record. -/
def loseOne (told : List Nat) (d cause : Nat) (s : State) : State :=
  let queue := (s.dom d).queue
  let cs := coresIn s [d]
  let s := cs.foldl (fun s c => orphanKept (loseBlocks s c) c) s
  let s := cs.foldl freshCore s
  let s := queue.foldl (fun s u => s.updTen u.tenant fun n => { n with again := n.again ++ [u] }) s
  let s := loseCounters (loseBooks s d) d
  let s := dropPresence (dropCopies s fun pa => decide (pa < peerBase) && s.home 0 pa == d) d
  let s := s.updDom d Domain.gone
  let ws := [BitVec.ofNat 64 d, BitVec.ofNat 64 cause, 0, 0, 0, 0]
  let s := postEvent (told.foldl (fun s t => postFault s t 7 0 0 ws) s) 7 0 ws
  requestRepl (raiseTopo s) svcDlost
/-- Domains lost at one time (R136, R401): they are marked, with their error blocks frozen (R409), the operations of other domains that touch
them are torn, and each is lost. The tenants with cores or memory in a domain are told of it. -/
def loseDomains (s : State) (ds : List Nat) (cause : Nat) : State :=
  let ds := ds.filter fun d => decide (d < s.nlive) && !(s.dom d).lost
  let told (d : Nat) : List Nat := (s.tenants.map (·.1)).filter fun t => (s.ten t).st != 0 && usesDomain s t d
  let torn := tornOps s ds fun pa => decide (pa < edgeBase) && ds.contains (pa / domBytes)
  let mark (u : State) (d : Nat) : State := u.updDom d fun x =>
    { x with lost := true, err := { x.err with tstamp := s.now, frozen := some (spares s d, shortBays s d, x.drain) } }
  ds.foldl (fun u d => loseOne (told d) d cause u) (tearOps (ds.foldl mark s) torn)
/-- DOMAIN_LOSS. -/
def loseDomain (s : State) (d cause : Nat) : State := loseDomains s [d] cause

/-- REGION_TRIP (R401): of a region that runs alone in FALLBACK only it, else both of its pair. -/
def tripRegion (s : State) (r : Nat) : State :=
  let st := (s.region r).st
  if st == rgTripped || st == rgRestarting then s
  else
    let rs := if st == rgFallback then [r] else [r, partner r]
    let s := s.updRegion r fun k => { k with trips := satAdd 16 k.trips }
    let s := rs.foldl (fun s x => s.updRegion x fun k =>
      { k with st := rgTripped, since := s.now, droop := 0, toStack := false, ballast := false, throttle := 0
               heavySince := none, throttledAt := none, lightSince := none, imb := 0 }) s
    loseDomains s (rs.map fun x => s.regionDomains x).flatten 1
/-- TRIPPED_END (R401): 100 ms later, with the cause cleared. -/
def endTripped (s : State) (r : Nat) : State :=
  if (s.region r).st == rgTripped && decide ((s.region r).since + 100000000 ≤ s.now) then
    s.updRegion r fun k => { k with st := rgRestarting, since := s.now }
  else s
/-- RESTARTING_END (R401, R405): a pass gives FALLBACK, time set from the reference and memory that is poisoned until it is
written; after a failure the domains stay lost. -/
def endRestarting (s : State) (r pass : Nat) : State :=
  if (s.region r).st != rgRestarting || pass = 0 then s
  else
    let s := s.updRegion r fun k => { k with st := rgFallback, since := s.now }
    let s := (s.regionDomains r).foldl (fun s d => s.updDom d fun x =>
      { x with lost := false, skew := 0, err := { x.err with tstamp := s.now, frozen := none } }) s
    (s.regionDomains r).foldl checkSpares (raiseTopo s)

/-- OPERATING_POINT_CHANGE (R364, R404): the Sorter chooses within the Postmaster's limits; tier 0 is the compute tier, 1 the base tier. -/
def setPoint (s : State) (d tier pt : Nat) : State :=
  if 7 < pt || 1 < tier || s.nlive ≤ d then s
  else sorterSets s (ctlPoint d tier) pt fun s =>
    s.updDom d fun x => if tier = 0 then { x with cpt := BitVec.ofNat 8 pt } else { x with bpt := BitVec.ofNat 8 pt }

/-- TIME_REFERENCE_PULSE (R405), no sooner than 1 ms after the last: each domain sets %timeoff so that its reading lies within ±4 ns of
WTIME. A domain that misses the pulse keeps %timeoff, and its oscillator runs ahead by up to 20 ns per ms (DESIGN CHOICE, log 174: never
behind, as %time never decreases). -/
def referencePulse (s : State) : State :=
  if s.now < s.mod.lastPulse + 1000000 then s
  else
    let far := 20 * ((s.now - s.mod.lastPulse) / 1000000)
    ((List.range s.nlive).filter fun d => !s.domDown d).foldl (fun s d =>
      let k := s.tick * 64 + d
      s.updDom d fun x =>
        if Config.pulseMissed k then { x with skew := x.skew + (Config.pulseDrift k % (far + 1) : Nat) }
        else { x with timeoff := BitVec.ofInt 64 (x.skew + (Config.pulseError k % 9 : Nat) - 4) })
      (s.updMod fun m => { m with lastPulse := s.now })

/-- CXL_LINK_DOWN (R407, R411): LINKUP clears, TOPOVER rises, and no copy of the port's lines is served. -/
def cxlDown (s : State) (p : Nat) : State :=
  let (up, dev, home, cap) := s.cxlPort p
  if !up then s
  else
    let s := s.updMod fun m => { m with cxl := kset m.cxl p (false, dev, home, cap) }
    let s := dropCopies s fun pa => decide (edgeBase ≤ pa) && decide (pa < hostBase) && edgePort pa == p
    requestRepl (raiseTopo s) svcPortDown

/-- COURIER_LINK_DOWN (R406, R411): the port leaves every peer's PORTS; a peer with none is not UP, and operations that touch it
are torn. -/
def courierDown (s : State) (port : Nat) : State :=
  let hit := s.mod.peers.filter fun (_, _, v, _, ports) => v && ports.getLsbD port
  if hit.isEmpty then s
  else
    let down (q : BitVec 16 × Bool × Bool × W32) : BitVec 16 × Bool × Bool × W32 :=
      let ports := q.2.2.2 &&& ~~~BitVec.ofNat 32 (2 ^ port)
      (q.1, q.2.1, q.2.2.1 && ports != 0, ports)
    let lost := hit.filter fun (_, q) => !(down q).2.2.1
    let s := s.updMod fun m => { m with peers := kmap m.peers fun _ q => down q }
    let s := tearOps s (tornOps s [] fun pa => isPeer pa && lost.any fun (m, _) => m == peerOf pa)
    requestRepl s svcPortDown

/-- PEER_ACCESS (R406): performed at its home where the import table admits the tenant's VNI and the module. -/
def peerAccess (s : State) (m vni pa size write val : Nat) : State :=
  if !Config.peerAdmits vni m || !isDomainMem s pa || s.homeDown 0 pa then s
  else
    let t := ((s.tenants.find? fun (_, n) => n.st != 0 && n.vni == vni).map (·.1)).getD 0
    if write != 0 then homeStore s t pa (leBytes size val) else if size = 0 then s else (homeRead s t pa size).1

def execPwstepWrite (val : Nat) (s : State) : Host.Outcome State Fault Refusal := .next (writeLimit s val)
def execDroopAlarm (r : Nat) (s : State) : Host.Outcome State Fault Refusal := .next (droopAlarm s r)
def execDroopRecovery (r : Nat) (s : State) : Host.Outcome State Fault Refusal := .next (droopRecovery s r)
def execImbalanceSample (pair : Nat) (s : State) : Host.Outcome State Fault Refusal := .next (sampleImbalance s pair)
def execForcefb (r : Nat) (s : State) : Host.Outcome State Fault Refusal := .next (forceFallback s r)
def execRestack (r : Nat) (s : State) : Host.Outcome State Fault Refusal := .next (restack s r)
def execDrainingEnd (r : Nat) (s : State) : Host.Outcome State Fault Refusal := .next (endDraining s r)
def execSwitchingEnd (r : Nat) (s : State) : Host.Outcome State Fault Refusal := .next (endSwitching s r)
def execRegionTrip (r : Nat) (s : State) : Host.Outcome State Fault Refusal := .next (tripRegion s r)
def execTrippedEnd (r : Nat) (s : State) : Host.Outcome State Fault Refusal := .next (endTripped s r)
def execRestartingEnd (r pass : Nat) (s : State) : Host.Outcome State Fault Refusal := .next (endRestarting s r pass)
def execDomainLoss (d cause : Nat) (s : State) : Host.Outcome State Fault Refusal := .next (loseDomain s d cause)
def execOperatingPointChange (d tier pt : Nat) (s : State) : Host.Outcome State Fault Refusal := .next (setPoint s d tier pt)
def execTimeReferencePulse (s : State) : Host.Outcome State Fault Refusal := .next (referencePulse s)
def execCxlLinkDown (p : Nat) (s : State) : Host.Outcome State Fault Refusal := .next (cxlDown s p)
def execCourierLinkDown (port : Nat) (s : State) : Host.Outcome State Fault Refusal := .next (courierDown s port)
def execPeerAccess (m vni va size write val : Nat) (s : State) : Host.Outcome State Fault Refusal :=
  .next (peerAccess s m vni va size write val)

end Sys2Proof.Machine
end

