-- ==== Sys2Proof/Machine/Reset.lean ====
section
/-! DEFINITION. Tenant reset (R376-R378), and who holds a stored image (R340, R342). -/
namespace Sys2Proof.Machine
open Sys2Proof

/-- A stored image is held by something that can still run: a record or unit to place, a block on a core or kept (R342). -/
def imageUsed (s : State) (i : Nat) : Bool :=
  (s.tenants.any fun (_, n) => n.hold.any (fun r => r.image == i) || n.again.any (fun u => u.image == i) ||
    n.queues.any fun (_, rs) => rs.any fun r => r.image == i || match r.sel with
      | some (_, vs) => vs.any fun v => v.image == i
      | none => false) ||
  (s.domains.any fun (_, d) => d.queue.any fun u => u.image == i) ||
  s.cores.any fun (_, k) => (k.blocks ++ k.kept).any fun (_, b) => b.image == i
/-- Stored images without references and without use are freed (R342). -/
def sweepImages (s : State) : State :=
  let held := s.images.filter fun (i, m) => m.refs != 0 || imageUsed s i
  let alive (k : Core) : Bool := match k.code with | some (_, i) => (kget held i).isSome | none => true
  { s with images := held, cores := kmap s.cores fun _ k => if alive k then k else { k with code := none } }
/-- A reference to an image is dropped (R340, R342). -/
def dropImage (s : State) (i : Nat) : State :=
  sweepImages { s with images := kupd s.images i fun m => { m with refs := m.refs - 1 } }

/-- A tenant's guest lines leave every L2 (R377 step 4). -/
def flushTenant (s : State) (t : Nat) : State :=
  let vni := (s.ten t).vni
  let ls := (s.domains.map fun (d, x) => (x.guest.filter fun (_, g) => g.vni == vni).map fun (l, _) => (d, l)).flatten
  ls.foldl (fun s (d, l) => reportDrop (dropGuest s t d l) (s.home t (lineBase l)) l d) s

/-- A format window's registers with EN cleared (R63). -/
def windowOff (w : List W64) : List W64 := setAt w 0 (word w 0 &&& ~~~1#64)
/-- What a domain holds for a tenant goes (R377 steps 3 to 5, R394). -/
def Domain.forget (x : Domain) (t vni : Nat) : Domain :=
  { x with
    queue := x.queue.filter fun u => u.tenant != t
    tlb := x.tlb.filter fun e => e.tenant != t
    objs := x.objs.filter fun (_, o) => o.tenant != t
    faults := x.faults.filter fun (_, f) => f.tenant != t
    handles := x.handles.filter fun (k, _) => k / 256 != t
    fw := kmap x.fw fun _ w => if bits (word w 0) 16 12 = vni then windowOff w else w }

/-- The open counters of a tenant have their books recalled (R377). -/
def recallBooks (s : State) (t : Nat) : State :=
  let mine := (s.domains.map fun (_, x) => (x.counters.filter fun (_, k) => k.tenant == t).map fun (pa, _) => pa).flatten
  mine.foldl (fun s pa => match sbOpen s t pa with
    | some k => sbRecall s t pa k
    | none => s) s

/-- TENANT_RESET (R377): the steps in order; nothing of another tenant changes. -/
def resetTenant (s : State) (t : Nat) : State :=
  if (s.ten t).st != 1 then s
  else
    let n := s.ten t
    let s := s.updTen t fun n => { n with st := 2, queues := [], hold := [], again := [], pstat := 0, launches := [], rings := [], fqWait := [], fqPosted := [] }
    let s := (n.placement.filter fun c => (kget s.cores c).isSome).foldl drainCore s
    let s := (tenantBlocks s t).foldl (fun s (c, b) => killBlock s c b) s
    let s := recallBooks (flushTenant s t) t
    let mine := (s.domains.map fun (d, x) => (x.fw.filter fun (_, w) => bits (word w 0) 16 12 == n.vni).map fun (i, _) => (d, i)).flatten
    let s := mine.foldl (fun s (d, i) => dropWindow s d i) s
    let s := { s with domains := kmap s.domains fun _ x => x.forget t n.vni }
    let s := { s with tree := s.tree.filter fun x => x.tenant != t }
    let clear (c : Nat) (k : Core) : Core := if n.holds c then { Core.fresh with retired := k.retired, tenant := some t, clear := List.range 8 }
      else { k with kept := k.kept.filter fun (_, x) => x.tenant != t
                    keptChans := k.keptChans.filter fun (i, _) => (kget k.kept (i / 64)).any fun x => x.tenant != t }
    let s := { s with cores := kmap s.cores clear }
    let s := s.updTen t fun n =>
      { n with levels := [], phase := 0, esum := 0, exc := [], codes := [], seals := [], sealPas := [], handles := [], launches := [], again := []
               pstat := 0, rings := [], fqWait := [], fqPosted := [], st := 1, rstDone := true, clean := true }
    let s := n.codes.foldl (fun s (_, i) => dropImage s i) s
    s.msix n.fn 3

/-- The tenant that a VF serves (R375), by the VF's number over all ports. -/
def vfTenant (s : State) (vf : Nat) : Option Nat := (s.tenants.find? fun (_, n) => n.st != 0 && n.vfNum == vf).map (·.1)
/-- FUNCTION_LEVEL_RESET (R378): a VF's is a tenant reset. -/
def resetFunction (s : State) (vf : Nat) : State :=
  match vfTenant s vf with
  | some t => resetTenant s t
  | none => s

def execTenantReset (t : Nat) (s : State) : Host.Outcome State Fault Refusal := .next (resetTenant s t)
def execFunctionLevelReset (vf : Nat) (s : State) : Host.Outcome State Fault Refusal := .next (resetFunction s vf)

end Sys2Proof.Machine
end

