-- ==== Sys2Proof/Machine/CodeObject.lean ====
section
/-! DEFINITION. Code objects as files (R337-R339): header, segment table, kernel entries, data image. -/
namespace Sys2Proof.Machine
open Sys2Proof

/-- A 64-bit word of a file. -/
def fileWord (bs : List Byte) (o : Nat) : W64 := BitVec.ofNat 64 (leNat ((bs.drop o).take 8))

/-- A code-object file as read: its segments by number (start and length; none when absent), its kernel entries' words, and its
data image. -/
structure CodeFile where
  portable : Bool
  nseg : Nat
  segs : KMap (List W32)
  kerns : List (List W64)
  dataOff : Nat
  dataLen : Nat

/-- The widths of a kernel entry (R339): code, and whether a native object may use it. -/
def widthNative (n : Nat) : Option Nat := match n with | 0 => some 32 | 2 => some 16 | 3 => some 32 | 4 => some 64 | _ => none

/-- A kernel entry keeps its reserved fields and ranges, and its name ends inside the file (R339). -/
def kernelForm (portable : Bool) (bs : List Byte) (k : List W64) : Bool :=
  zeroBits (word k 0) 40 24 && zeroBits (word k 0) 8 8 && zeroBits (word k 1) 46 18 && zeroBits (word k 1) 9 15 &&
  zeroBits (word k 3) 40 24 && zeroBits (word k 3) 0 16 && zeroBits (word k 4) 40 24 && zeroBits (word k 6) 2 62 &&
  decide (1 ≤ bits (word k 1) 24 8) && decide (bits (word k 1) 24 8 ≤ 128) &&
  decide (1 ≤ bits (word k 1) 0 9) && decide (bits (word k 1) 0 9 ≤ 256) &&
  (word k 7 == 0 || (bs.drop (word k 7).toNat).contains 0) &&
  (if portable then decide (bits (word k 0) 5 3 ≤ 5) && !bit (word k 0) 1 && bits (word k 1) 24 8 == 16
   else (widthNative (bits (word k 0) 5 3)).isSome && zeroBits (word k 4) 0 16)

/-- R340 step 1: the file checked against R337 to R339. -/
def readFile (bs : List Byte) : Option CodeFile :=
  let h i := fileWord bs (8 * i)
  let nseg := bits (h 1) 0 13
  let nkern := bits (h 1) 16 13
  let portable := bit (h 1) 32
  let segOff := (h 2).toNat
  let kernOff := (h 3).toNat
  let dataOff := (h 4).toNat
  let dataLen := bits (h 5) 0 32
  let seg (n : Nat) : Nat × Nat := ((fileWord bs (segOff + 16 * n)).toNat, bits (fileWord bs (segOff + 16 * n + 8)) 0 32)
  let segOk (n : Nat) : Bool :=
    let (o, l) := seg n
    zeroBits (fileWord bs (segOff + 16 * n + 8)) 32 32 && l % 4 == 0 && o % 4 == 0 && decide (o + l ≤ bs.length) &&
      (if portable then decide (4 ≤ l) && decide (l ≤ 2 ^ 24) else if l = 0 then o == 0 else decide (l ≤ 16384))
  let kerns := (List.range nkern).map fun i => (List.range 8).map fun j => fileWord bs (kernOff + 64 * i + 8 * j)
  if decide (64 ≤ bs.length) && bits (h 0) 0 32 == 0x4F435143 && bits (h 0) 32 16 == 1 && zeroBits (h 0) 48 16 &&
      zeroBits (h 1) 33 31 && zeroBits (h 1) 29 3 && zeroBits (h 1) 13 3 && zeroBits (h 5) 32 32 && h 6 == 0 && h 7 == 0 &&
      decide (1 ≤ nkern) && decide (nkern ≤ 4096) && decide (1 ≤ nseg) && decide (nseg ≤ (if portable then 1 else 4096)) &&
      segOff % 16 == 0 && kernOff % 64 == 0 && decide (segOff + 16 * nseg ≤ bs.length) && decide (kernOff + 64 * nkern ≤ bs.length) &&
      (if dataLen = 0 then dataOff == 0 else decide (dataOff + dataLen ≤ bs.length)) &&
      (List.range nseg).all segOk && (seg (nseg - 1)).2 != 0 && kerns.all (kernelForm portable bs) then
    let segs := (List.range nseg).filterMap fun n =>
      if (seg n).2 = 0 then none else some (n, wordsOfBytes ((bs.drop (seg n).1).take (seg n).2))
    some ⟨portable, nseg, segs, kerns, dataOff, dataLen⟩
  else none

/-- A kernel of a native image (R339, R192). A translated image keeps the portable width 8, which no native file may carry: its groups
have 16 lanes, and only lanes 0 to 7 live (R350; DEDUCED, log 162). -/
def kernelOf (k : List W64) : Kernel :=
  let code := bits (word k 0) 5 3
  let width := if code = 1 then 16 else (widthNative code).getD 32
  { entry := pcOfWord (bits (word k 0) 16 24), width := width, lanes := if code = 1 then 8 else width
    regs := bits (word k 1) 0 9, uregs := bits (word k 1) 24 8, scratch := bits (word k 2) 0 32, l1 := bits (word k 2) 32 32
    idem := bit (word k 0) 0
    trap := if bit (word k 0) 2 then some (pcOfWord (bits (word k 4) 16 24)) else none
    tile := if bit (word k 0) 1 then some (pcOfWord (bits (word k 3) 16 24)) else none
    order := bit (word k 0) 3, round := bit (word k 0) 4, prio0 := (word k 1).extractLsb' 32 14
    hmode := (word k 6).extractLsb' 0 2, hint := word k 5 }

/-- Directive operands in range (R192, R193). -/
def directivesOk (k : Kernel) : Bool :=
  k.scratch % 65536 == 0 && decide (k.scratch ≤ 458752) && k.l1 % 65536 == 0 && decide (65536 ≤ k.l1) &&
    decide (k.l1 + k.scratch ≤ 524288) && k.hmode != 3

end Sys2Proof.Machine
end

