-- ==== Sys2Proof/Machine/Verify.lean ====
section
/-! DEFINITION. The verifier (R193): what refuses a native image, and the warnings of the load report. -/
namespace Sys2Proof.Machine
open Sys2Proof

/-- A word stream decodes as to length and no instruction crosses its segment's end (R174, R175); the number is the words the
instruction before still has. -/
def streamOk : Nat → List W32 → Bool
  | 0, [] => true
  | _ + 1, [] => false
  | 0, w :: r => streamOk (lengthWords (w.extractLsb' 0 2) - 1) r
  | k + 1, _ :: r => streamOk k r

/-- The row and fields an instruction's words give. -/
def instrRow (i : Instr) : Option (Row × Ext) :=
  match i.form with
  | .ext r x => some (r, x)
  | .base r x => some (r.row, x.toExt r)
  | .event => none
/-- A row is one of some. -/
def among (r : Row) (rs : List Row) : Bool := rs.any fun q => q.xop == r.xop

/-- The rows whose vector base is a pair: those with a global or local address (R184). -/
def pairBased : List Row :=
  [Rows.ldg, Rows.stg, Rows.ldl, Rows.stl, Rows.pfch, Rows.atom, Rows.atomc, Rows.red, Rows.lda, Rows.strl, Rows.sbinit, Rows.sbtake,
   Rows.sbgive, Rows.sbread, Rows.sbclose]
/-- The rows of latency classes V (R205, R230, R260), A (R260) and T (R230). -/
def rowsV : List Row :=
  [Rows.uld, Rows.lvlrd, Rows.capq, Rows.v2s, Rows.shfl, Rows.vote, Rows.redg, Rows.scang, Rows.matchLanes, Rows.ldg, Rows.lds,
   Rows.ldl, Rows.ldc, Rows.lda, Rows.objdecl, Rows.rsdecl, Rows.rsset, Rows.rsevict, Rows.bara, Rows.bargen, Rows.chstat]
def rowsA : List Row :=
  [Rows.atom, Rows.atomc, Rows.atoms, Rows.sbinit, Rows.sbtake, Rows.sbgive, Rows.sbread, Rows.sbclose]
def rowsT : List Row :=
  [Rows.exp2, Rows.log2, Rows.rcp, Rows.rsq, Rows.sqrt, Rows.tanh, Rows.lgst, Rows.sinp, Rows.cosp]

/-- One operand's registers are below the kernel's counts (R193); `glob` where a vector base is a pair. -/
def fieldBelow (k : Kernel) (glob : Bool) (o : Opk) (x : Ext) (idx : BitVec 8) (cl : Bool) : Bool :=
  let v (n : Nat) : Bool := decide (idx.toNat + n < k.regs)
  let u (n : Nat) : Bool := decide (idx.toNat + n < k.uregs)
  cl || match o with
  | .v => v 0
  | .v2 => v 1
  | .vt => v (isTy64 x.ty).toNat
  | .vp0 => v (x.mod6.getLsbD 0).toNat
  | .vp2 => v (x.mod6.getLsbD 2).toNat
  | .s => u 0
  | .so => u 7
  | .vote => x.mod6 != 2 || u 0
  | .rdsr => if x.mod6.getLsbD 0 then v 0 else u 0
  | .mem => if x.mod6.getLsbD 5 then u 0 else v glob.toNat
  | _ => true
/-- Every register index of an instruction is below `.regs` or `.uregs` (R193); a field that a literal replaces names none. -/
def regsBelow (k : Kernel) (r : Row) (x : Ext) : Bool :=
  let noA := r.lit == .a && x.lit.isSome
  let noB := r.lit == .b && x.lit.isSome
  let glob := among r pairBased
  fieldBelow k glob r.d x x.d x.dcl && (noA || fieldBelow k glob r.a x x.a x.acl) &&
    (if r.a = .mem then !x.mod6.getLsbD 4 || fieldBelow k glob .v x x.b x.bcl else noB || fieldBelow k glob r.b x x.b x.bcl) &&
    fieldBelow k glob r.c x x.c x.ccl && fieldBelow k glob r.e x x.e x.ecl

/-- Opcodes after which control does not go on in line: in a group when unconditional, and in a tile stream. -/
def endsGroup (r : Row) : Bool := among r [Rows.bra, Rows.brx, Rows.ret, Rows.jfence, Rows.exit, Rows.eret]
def endsTile (r : Row) : Bool := among r [Rows.tend, Rows.texit, Rows.trstr]

/-- Where an instruction at an address leads (R193): the addresses reached, or nothing where control would fall off the segment or
leave it by another way than JFENCE, CALL or RET. A CALL or JFENCE to what starts no instruction is no path, a BRA there is refused (DEDUCED,
log 132). -/
def leadsTo (segs : KMap (List W32)) (tile : Bool) (pc : Pc) (len : Nat) (r : Row) (x : Ext) : Option (List Pc) :=
  let n := ((kget segs pc.seg).getD []).length
  let live := !squashed x
  let lit := (x.lit.getD 0)
  let near : Int := (pc.off : Int) + lit.toInt
  let inSeg : Bool := decide (0 ≤ near) && decide (near < 4 * n)
  let branch := live && (r.xop == Rows.bra.xop || r.xop == Rows.tloop.xop)
  let far := live && (r.xop == Rows.call.xop || r.xop == Rows.jfence.xop)
  let stops := live && (if tile then endsTile r else endsGroup r && x.always)
  if branch && !inSeg then none
  else if !stops && 4 * n ≤ pc.off + 4 * len then none
  else
    let t := Pc.ofTarget lit
    let starts := startBits 0 ((kget segs t.seg).getD [])
    some ((if branch then [⟨pc.seg, near.toNat⟩] else []) ++
      (if far && t.off % 4 == 0 && starts.getD (t.off / 4) false then [t] else []) ++
      (if stops then [] else [⟨pc.seg, pc.off + 4 * len⟩]))

/-- A reachable instruction: its address, length in words, row, fields, and the addresses reached from it. -/
structure FlowNode where
  pc : Pc
  len : Nat
  row : Row
  x : Ext
  next : List Pc

/-- Everything reachable from some addresses, or nothing where some of it fails R185 step 1, names a register the kernel does not
have or leaves its segments (R193). -/
def reach (segs : KMap (List W32)) (k : Kernel) (tile : Bool) : Nat → List Pc → List FlowNode → Option (List FlowNode)
  | 0, todo, seen => if todo.isEmpty then some seen else none
  | f + 1, todo, seen =>
    match todo with
    | [] => some seen
    | pc :: rest =>
      if seen.any fun n => n.pc == pc then reach segs k tile f rest seen
      else
        let ws := ((kget segs pc.seg).getD []).drop (pc.off / 4)
        if pc.off % 4 != 0 || !((startBits 0 ((kget segs pc.seg).getD [])).getD (pc.off / 4) false) then none
        else
          match decode ws with
          | .error _ => none
          | .ok (i, after) =>
            match instrRow i with
            | none => none
            | some (r, x) =>
              let len := ws.length - after.length
              if r.tile != tile || !(tile || regsBelow k r x) then none
              else match leadsTo segs tile pc len r x with
                | none => none
                | some next => reach segs k tile f (rest ++ next) (⟨pc, len, r, x, next⟩ :: seen)

/-- As many steps as `reach` can take over some segments. -/
def reachFuel (segs : KMap (List W32)) : Nat := 8 * ((segs.map fun (_, ws) => ws.length).sum + 8)
/-- The group instructions of a kernel, in address order. -/
def groupNodes (segs : KMap (List W32)) (k : Kernel) : Option (List FlowNode) :=
  (reach segs k false (reachFuel segs) (k.entry :: k.trap.toList) []).map fun ns => ns.mergeSort fun a b => !(b.pc.lt a.pc)

/-- R340 step 3: the verifier (R193) does not refuse the image. -/
def verified (segs : KMap (List W32)) (kerns : List Kernel) : Bool :=
  segs.all (fun (_, ws) => streamOk 0 ws) &&
    kerns.all fun k =>
      directivesOk k && (groupNodes segs k).isSome && (reach segs k true (reachFuel segs) k.tile.toList []).isSome

/-- Codes of an operand's registers: vector register r is r, uniform 256 + r, predicates p 512 + i and q 520 + i; p7 and q7 hold
nothing. -/
def operandCodes (k : Opk) (x : Ext) (i : Nat) : List Nat :=
  if isVec k x then (if pairOf k x then [i, i + 1] else [i])
  else if isUni k x then (if k = .so then (List.range 8).map fun j => 256 + i + j else [256 + i])
  else match isPred k x with
    | some u => if i = 7 then [] else [(if u then 520 else 512) + i]
    | none => []
/-- The codes an instruction writes. -/
def codesWritten (r : Row) (x : Ext) : List Nat := if x.dcl then [] else operandCodes r.d x x.d.toNat
/-- The codes it reads: guards, sources, address registers, and the destination that a narrow conversion keeps in part (R242). -/
def codesRead (r : Row) (x : Ext) : List Nat :=
  let guard (g : BitVec 3) : List Nat := if r.tile || g == 7 then [] else [(if r.gq then 520 else 512) + g.toNat]
  guard x.g0 ++ guard x.g1 ++
  ((fieldsOf r x).map fun (k, i, cl, _, lit) => if cl || lit.isSome then [] else operandCodes k x i).flatten ++
  (if r.a = .mem then
    (if x.mod6.getLsbD 5 then [256 + x.a.toNat]
     else if among r pairBased then [x.a.toNat, x.a.toNat + 1] else [x.a.toNat]) ++
    (if x.mod6.getLsbD 4 then [x.b.toNat] else []) else []) ++
  (if among r [Rows.cvt] && (narrowBits x.ty).isSome then codesWritten r x else [])

/-- A write that may be outstanding: the register's code, and 0 for class V, 1 for A, 2 + k for the token slot k. -/
abbrev Due := Nat × Nat
/-- The writes an instruction leaves outstanding. -/
def dueFrom (r : Row) (x : Ext) : List Due :=
  let tag := if among r rowsV then some 0 else if among r rowsA then some 1
    else if among r rowsT then some (2 + x.aux8.toNat % 8) else none
  match tag with
  | some t => (codesWritten r x).map fun c => (c, t)
  | none => []
/-- What is outstanding once an instruction has issued (R257, R258): a token slot's earlier result has landed where the slot is
used again, or where an SFWAIT that acts names it. -/
def dueAfter (r : Row) (x : Ext) (dues : List Due) : List Due :=
  let slotDone (t : Nat) : Bool := decide (2 ≤ t) &&
    ((among r rowsT && t == 2 + x.aux8.toNat % 8) || (among r [Rows.sfwait] && x.always && x.aux8.toNat.testBit (t - 2)))
  dueFrom r x ++ dues.filter fun (_, t) => !slotDone t

/-- One pass of a forward analysis: in order, what leaves a node is added to what reaches its successors. -/
def flowPass {α : Type} [DecidableEq α] (next : Nat → List Nat) (out : Nat → List α → List α) : List Nat → List (List α) → List (List α)
  | [], ins => ins
  | i :: r, ins =>
    let o := out i (ins.getD i [])
    flowPass next out r ((next i).foldl (fun ins j => ins.modify j fun l => l ++ o.filter fun a => !l.contains a) ins)
/-- Passes over `n` nodes until nothing more can reach any: every fact that some path brings to each node. -/
def flowFix {α : Type} [DecidableEq α] (n : Nat) (next : Nat → List Nat) (out : Nat → List α → List α) (start : List (List α)) :
    Nat → List (List α)
  | 0 => start
  | k + 1 =>
    let ins := flowPass next out (List.range n) start
    if ins = start then ins else flowFix n next out ins k

/-- What each node ends, where ending a fact depends on the facts that reach it, as S and SFWAIT do (R348): in turn each node ends
what it wants ended of the facts that some path brings it past what the others end, until no node changes. Where no choice is
consistent, each ends all it might want. -/
def flowSettle {α : Type} [DecidableEq α] (n : Nat) (next : Nat → List Nat) (out : Nat → List Nat → List α → List α)
    (want : Nat → List α → List Nat) : Nat → List (List Nat) → List (List Nat)
  | 0, _ =>
    let ins := flowFix n next (fun i fs => out i (want i fs) fs) (List.replicate n []) (n + 1)
    (List.range n).map fun i => want i (ins.getD i [])
  | k + 1, ends =>
    let turn (es : List (List Nat)) (i : Nat) : List (List Nat) :=
      let ins := flowFix n next (fun j fs => out j (es.getD j []) fs) (List.replicate n []) (n + 1)
      es.set i (want i (ins.getD i []))
    let new := (List.range n).foldl turn ends
    if new = ends then ends else flowSettle n next out want k new

/-- A node's successors by number; a CALL goes on at the next instruction when it returns. -/
def nodeStep (ns : List FlowNode) (i : Nat) : List Nat :=
  match ns[i]? with
  | some n => n.next.filterMap fun pc => ns.findIdx? fun m => m.pc == pc
  | none => []
/-- The same with what a RET leads to, the instruction after any CALL, and a BRX, any instruction of its segment (DEDUCED,
log 161). -/
def nodeNext (ns : List FlowNode) (i : Nat) : List Nat :=
  match ns[i]? with
  | none => []
  | some n =>
    let back := if among n.row [Rows.ret] then
      (ns.filter fun (m : FlowNode) => among m.row [Rows.call]).map fun (m : FlowNode) => m.pc.plus (4 * m.len) else []
    let anywhere := if among n.row [Rows.brx] && !squashed n.x then
      (ns.filter fun (m : FlowNode) => m.pc.seg = n.pc.seg).map fun (m : FlowNode) => m.pc else []
    nodeStep ns i ++ (back ++ anywhere).filterMap fun pc => ns.findIdx? fun m => m.pc == pc
/-- The nodes that a kernel's warnings concern (R193): its reachable instructions, with what only a BRX reaches, namely every
instruction of its segment from which the checks of `reach` hold (DEDUCED, log 161). -/
def warnNodes (segs : KMap (List W32)) (k : Kernel) : List FlowNode :=
  let ns := (groupNodes segs k).getD []
  let far := ((ns.filter fun n => among n.row [Rows.brx] && !squashed n.x).map fun n => n.pc.seg).eraseDups
  let starts (g : Nat) : List Pc :=
    let l := startBits 0 ((kget segs g).getD [])
    ((List.range l.length).filter fun i => l.getD i false).map fun i => ⟨g, 4 * i⟩
  let more := (far.map starts).flatten.filter fun pc => (reach segs k false (reachFuel segs) [pc] []).isSome
  if more.isEmpty then ns
  else ((reach segs k false (reachFuel segs) (k.entry :: k.trap.toList ++ more) []).getD ns).mergeSort fun a b => !(b.pc.lt a.pc)
/-- The writes that may be outstanding at each node. -/
def nodeDues (ns : List FlowNode) : List (List Due) :=
  flowFix ns.length (nodeNext ns) (fun i dues => match ns[i]? with
    | some n =>
      let o := dueAfter n.row n.x dues
      if n.x.s then o.filter fun (_, t) => decide (2 ≤ t) else o
    | none => []) (ns.map fun _ => []) (ns.length + 1)

/-- The priority with which a node's successor is entered: a branch's own, else the entry's (R211, R212). -/
def edgePrio (n : FlowNode) (at_ : Nat) (pc : Pc) : Nat :=
  let jump := among n.row [Rows.bra, Rows.call, Rows.jfence] && (pc != n.pc.plus (4 * n.len) || n.next.length = 1)
  if jump then n.x.mod6.toNat * 256 + n.x.aux8.toNat else at_
/-- The priorities that may stand at each node. -/
def nodePrios (k : Kernel) (ns : List FlowNode) : List (List Nat) :=
  let next (i : Nat) : List Nat := nodeStep ns i
  let step (ins : List (List Nat)) : List (List Nat) :=
    (List.range ns.length).foldl (fun ins i => match ns[i]? with
      | some n => (next i).foldl (fun ins j => match ns[j]? with
          | some m => ins.modify j fun l =>
              l ++ (((ins.getD i []).map fun p => edgePrio n p m.pc).filter fun p => !l.contains p).eraseDups
          | none => ins) ins
      | none => ins) ins
  (List.range (ns.length + 1)).foldl (fun ins _ => step ins)
    (ns.map fun n => if n.pc = k.entry then [k.prio0.toNat] else [])

/-- R193's warnings of one node: 1 a read of a register whose class V write may be outstanding, 2 a write of a register that has an
outstanding class V or T write (13_issue_and_rewrite's example), 3 a special function's result read before its SFWAIT, 5 a channel amount
above the DEPTH of the kernel's own CHCFG. -/
def nodeWarns (k : Kernel) (depths : List (Nat × Nat)) (n : FlowNode) (dues : List Due) : List Nat :=
  let reads := codesRead n.row n.x
  let left := (dueAfter n.row n.x dues).drop (dueFrom n.row n.x).length
  let srcs := chanSrcs n.row n.x k.width
  (if dues.any fun (c, t) => t == 0 && reads.contains c then [1] else []) ++
  (if (codesWritten n.row n.x).any fun c => left.any fun (d, t) => d == c && t != 1 then [2] else []) ++
  (if dues.any fun (c, t) => decide (2 ≤ t) && reads.contains c then [3] else []) ++
  (if depths.any fun (ch, d) => srcs.any fun (c, _, _) => c == ch && decide (d < (srcAmount srcs ch).1) then [5] else [])
/-- R193's fourth warning: a join point that some predecessor enters with a priority not below that of every predecessor. -/
def joinWarns (ns : List FlowNode) (prios : List (List Nat)) (j : Nat) : Bool :=
  match ns[j]? with
  | none => false
  | some m =>
    let preds := (List.range ns.length).filter fun i => (nodeStep ns i).contains j
    let held (i : Nat) : List Nat := prios.getD i []
    decide (2 ≤ preds.length) && preds.any fun i => match ns[i]? with
      | some n => (held i).any fun p => preds.any fun q => (held q).any fun b => decide (b ≤ edgePrio n p m.pc)
      | none => false
/-- A kernel's warnings (R193), each with the address it concerns. -/
def kernelWarns (segs : KMap (List W32)) (k : Kernel) : List (Nat × Pc) :=
  let ns := warnNodes segs k
  let dues := nodeDues ns
  let prios := nodePrios k ns
  let depths := ns.filterMap fun n => if among n.row [Rows.chcfg] && bits (n.x.lit.getD 0) 62 2 = 1 then
    some (n.x.aux8.toNat, bits (n.x.lit.getD 0) 12 13) else none
  ((List.range ns.length).map fun i => match ns[i]? with
    | some n => ((nodeWarns k depths n (dues.getD i [])) ++ (if joinWarns ns prios i then [4] else [])).map fun w => (w, n.pc)
    | none => []).flatten

end Sys2Proof.Machine
end

