-- ==== Sys2Proof/Machine/Portable.lean ====
section
/-! DEFINITION. Ifeut, the portable form (R344-R346), and the loader's translation of it into a native image (R347-R351). What the
translator may choose (R347), the order of instructions that may be reordered and base or extended forms, is free: one number for
each choice, drawn by its index; the rest of the image follows from the rules. -/
namespace Sys2Proof.Machine
open Sys2Proof

/-- The forms Ifeut allows (R344): by family, memory forms apart. -/
def ifeutPlain : List Row :=
  [Rows.iadd, Rows.isub, Rows.imul, Rows.imulh, Rows.imad, Rows.imin, Rows.imax, Rows.iabs, Rows.iand, Rows.ior, Rows.ixor, Rows.ishl,
   Rows.ishr, Rows.isra, Rows.iclz, Rows.ipopc, Rows.ibfx, Rows.ibfi, Rows.iset, Rows.isel, Rows.fadd, Rows.fsub, Rows.fmul, Rows.ffma,
   Rows.fmin, Rows.fmax, Rows.fset, Rows.fclass, Rows.hadd2, Rows.hmul2, Rows.hfma2, Rows.hmin2, Rows.hmax2, Rows.cvt, Rows.pack4,
   Rows.unpk4, Rows.mov]
def ifeutControl : List Row :=
  [Rows.bra, Rows.call, Rows.ret, Rows.exit, Rows.yld, Rows.nop, Rows.fence]
def ifeutMem : List Row :=
  [Rows.ldg, Rows.stg, Rows.lds, Rows.sts, Rows.ldl, Rows.stl, Rows.ldc, Rows.pfch, Rows.atom, Rows.atomc, Rows.red, Rows.atoms,
   Rows.lda, Rows.strl]
def ifeutCross : List Row := [Rows.shfl, Rows.scang, Rows.matchLanes]
def ifeutSr : List (BitVec 8) := [0x00, 0x01, 0x02, 0x03, 0x04, 0x05, 0x0B]

/-- An instruction of an Ifeut section: where it stands and its length, in words, its row and fields, and whether it reads %frame. -/
structure PortInstr where
  at_ : Nat
  len : Nat
  row : Row
  x : Ext
  frame : Bool

/-- The Ifeut instruction at the head of some words (R344), or nothing where the form is not allowed. The number 0x0D is %frame, a
pair; a CALL's target is a section offset in the literal's low word (R345). -/
def ifeutForm (at_ : Nat) (ws : List W32) : Option PortInstr :=
  match ws with
  | w0 :: w1 :: w2 :: r =>
    let l := w0.extractLsb' 0 2
    let lit := match r with | lo :: hi :: _ => some (literalOf lo hi) | _ => none
    let x := extFields w0 w1 w2 (if l == 2 then lit else none)
    let len := if l == 1 then 3 else 5
    let xop := w0.extractLsb' 3 10
    let plain := !x.s && !x.dcl && !x.acl && !x.bcl && !x.ccl && !x.ecl && !w1.getLsbD 31
    if (l != 1 && l != 2) || (l == 2 && lit.isNone) || !plain then none
    else if xop == Rows.rdsr.xop && x.aux8 == 0x0D then
      if x.always && x.mod6 == 1 && !x.d.getLsbD 0 && x.lit.isNone && { x with aux8 := 0 }.wellFormed Rows.rdsr then
        some ⟨at_, len, Rows.rdsr, x, true⟩ else none
    else if xop == Rows.call.xop then
      if { x with lit := x.lit.map fun _ => 0 }.wellFormed Rows.call && bits (x.lit.getD 0) 32 32 == 0 then
        some ⟨at_, len, Rows.call, x, false⟩ else none
    else
      match decode ws with
      | .error _ => none
      | .ok (i, _) =>
        match instrRow i with
        | none => none
        | some (r, x) =>
          let ok := if among r (ifeutPlain ++ ifeutControl ++ ifeutCross) then true
            else if among r [Rows.plop] then !x.mod6.getLsbD 0
            else if among r rowsT then x.aux8 == 0
            else if among r ifeutMem then !x.mod6.getLsbD 5
            else if among r [Rows.rdsr] then x.mod6.getLsbD 0 && ifeutSr.contains x.aux8
            else if among r [Rows.reconv] then x.lit.isSome
            else if among r [Rows.bars] then x.mod6.extractLsb' 0 2 == 1 && x.d == 0
            else false
          if ok && (!r.gq || x.always) then some ⟨at_, len, r, x, false⟩ else none
  | _ => none

/-- An Ifeut section's instructions. -/
def ifeutSection : Nat → Nat → List W32 → Option (List PortInstr)
  | 0, _, ws => if ws.isEmpty then some [] else none
  | f + 1, at_, ws =>
    if ws.isEmpty then some []
    else (ifeutForm at_ ws).bind fun i => (ifeutSection f (at_ + i.len) (ws.drop i.len)).map fun l => i :: l

/-- The width of a portable kernel's hardware groups, and the NGRP that records must carry (R350, R351). -/
def portableWidth (k : List W64) : Option (Nat × Nat) :=
  let regs := bits (word k 1) 0 9
  let tpb := bits (word k 4) 0 16
  let fit (w : Nat) (step hi n : Nat) : Option (Nat × Nat) :=
    if tpb % step = 0 ∧ step ≤ tpb ∧ tpb ≤ hi then some (w, n) else none
  match bits (word k 0) 5 3 with
  | 0 => if 8 * ceilDiv regs 8 ≤ 128 then fit 64 64 2048 (tpb / 64) else fit 32 64 2048 (tpb / 32)
  | 1 => fit 16 8 512 (tpb / 8)
  | 2 => fit 16 16 1024 (tpb / 16)
  | 3 => fit 32 32 2048 (tpb / 32)
  | 4 => fit 64 64 4096 (tpb / 64)
  | 5 => if regs ≤ 252 then fit 64 128 4096 (tpb / 64) else none
  | _ => none

/-- A section as its functions see it: its instructions, and the word offsets at which a function begins (R345). -/
structure Section where
  ins : List PortInstr
  funcs : List Nat

/-- Where an instruction's branch or call goes, in words of the section. -/
def portGoal (i : PortInstr) : Int :=
  if among i.row [Rows.call] then ((bits (i.x.lit.getD 0) 0 32 / 4 : Nat) : Int) else (i.at_ : Int) + (i.x.lit.getD 0).toInt / 4
/-- The function that holds a word of the section. -/
def Section.funcOf (c : Section) (w : Nat) : Nat := (c.funcs.filter fun f => decide (f ≤ w)).foldl max 0
/-- A function's instructions. -/
def Section.body (c : Section) (f : Nat) : List PortInstr := c.ins.filter fun i => c.funcOf i.at_ = f
/-- The functions that some functions reach by calls. -/
def Section.closure (c : Section) : Nat → List Nat → List Nat
  | 0, fs => fs
  | n + 1, fs =>
    let more := (fs.map fun f => (c.body f).filterMap fun i =>
      if among i.row [Rows.call] then some (c.funcOf (portGoal i).toNat) else none).flatten
    c.closure n (fs ++ (more.eraseDups.filter fun f => !fs.contains f))
/-- The functions a kernel's groups may run. -/
def Section.ofKernel (c : Section) (k : List W64) : List Nat :=
  c.closure c.funcs.length
    (c.funcOf (bits (word k 0) 16 24) :: (if bit (word k 0) 2 then [c.funcOf (bits (word k 4) 16 24)] else []))

/-- The section of a portable file when R344, R345, R350 and R351 allow it: its forms, branches within their function, calls and
entries at instructions, and each kernel's own conditions. -/
def portableSection (m : CodeFile) : Option Section :=
  (ifeutSection (((kget m.segs 0).getD []).length + 1) 0 ((kget m.segs 0).getD [])).bind fun ins =>
    let starts := ins.map (·.at_)
    let calls := ins.filter fun i => among i.row [Rows.call]
    let entries := m.kerns.map fun k => bits (word k 0) 16 24
    let traps := m.kerns.filterMap fun k => if bit (word k 0) 2 then some (bits (word k 4) 16 24) else none
    let funcs := (entries ++ calls.map fun i => (portGoal i).toNat).eraseDups.mergeSort
    let c : Section := ⟨ins, if funcs.contains 0 then funcs else 0 :: funcs⟩
    let inFunc (a b : Nat) : Bool := starts.contains b && c.funcOf a == c.funcOf b
    let wide (k : List W64) : Bool := bits (word k 0) 5 3 == 5
    let bare (k : List W64) : Bool := bits (word k 0) 5 3 == 0
    if (funcs ++ traps).all (fun f => starts.contains f) && calls.all (fun i => bits (i.x.lit.getD 0) 0 2 == 0) &&
        ins.all (fun i =>
          (!among i.row [Rows.bra] || (decide (0 ≤ portGoal i) && (i.x.lit.getD 0).toInt % 4 == 0 && inFunc i.at_ (portGoal i).toNat)) &&
          ((among i.row [Rows.bra, Rows.ret, Rows.exit] && i.x.always) || inFunc i.at_ (i.at_ + i.len))) &&
        m.kerns.all (fun k => (portableWidth k).isSome && (c.ofKernel k).all fun f => (c.body f).all fun i =>
          !(wide k && among i.row [Rows.reconv]) && !(bare k && among i.row ifeutCross)) then
      some c
    else none

/-- How a function is translated: plainly, or for a kernel of width 128 with its REGS and its scratchpad share (R351). -/
abbrev Mode := Option (Nat × Nat)
def modeOf (k : List W64) : Mode := if bits (word k 0) 5 3 = 5 then some (bits (word k 1) 0 9, bits (word k 2) 0 32) else none
/-- The ways in which a function is translated: one for each way some kernel runs it. -/
def Section.modes (c : Section) (ks : List (List W64)) (f : Nat) : List Mode :=
  let l := ((ks.filter fun k => (c.ofKernel k).contains f).map modeOf).eraseDups
  if l.isEmpty then [none] else l

/-- An instruction of the native stream: row and fields, the Ifeut word it comes from, whether it is the first that does, and the
Ifeut word that a branch or call goes to. -/
structure NatInstr where
  row : Row
  x : Ext
  org : Nat
  head : Bool
  goal : Option Nat

/-- An instruction with every field zero and no guard. -/
def bareExt : Ext :=
  { s := false, g0 := 7, g0n := false, g1 := 7, g1n := false, gc := false, hint := 0, d := 0, dcl := false, a := 0, acl := false
    apop := false, b := 0, bcl := false, bpop := false, c := 0, ccl := false, cpop := false, e := 0, ecl := false, epop := false
    ty := 0, rm := 0, sat := false, mod6 := 0, aux8 := 0, lit := none }
/-- Three-operand forms with a register or a literal for B. -/
def opReg (ty : BitVec 4) (d a b : Nat) : Ext := { bareExt with ty := ty, d := BitVec.ofNat 8 d, a := BitVec.ofNat 8 a, b := BitVec.ofNat 8 b }
def opLit (ty : BitVec 4) (d a v : Nat) : Ext := { bareExt with ty := ty, d := BitVec.ofNat 8 d, a := BitVec.ofNat 8 a, lit := some (BitVec.ofNat 64 v) }
/-- RDSR into a uniform register, and into a vector register. -/
def readUni (d n : Nat) : Ext := { bareExt with d := BitVec.ofNat 8 d, aux8 := BitVec.ofNat 8 n }
def readVec (d n : Nat) : Ext := { bareExt with d := BitVec.ofNat 8 d, aux8 := BitVec.ofNat 8 n, mod6 := 1 }
/-- S2V of a register, and of a pair. -/
def spread (d s : Nat) : Ext := { bareExt with d := BitVec.ofNat 8 d, b := BitVec.ofNat 8 s }
def spreadPair (d s : Nat) : Ext := { spread d s with mod6 := 1 }

/-- The round that a cross-lane instruction becomes at width 128 (R351): the operand and the ballot stored in this half of the pair's
area, the release, 1 added to the counter word by one lane, the wait for twice the round number, and the acquire. The counter is the
area's last doubleword, and the area's arrangement the model's own (DESIGN CHOICE, log 163). s8 holds the round number; v(REGS) to
v(REGS+3) and s9 to s15 are working registers. -/
def roundOpen (regs scratch : Nat) (x : Ext) (wide : Bool) : List (Row × Ext) :=
  let e := if regs % 2 = 0 then regs else regs + 1
  let t := if regs % 2 = 0 then regs + 2 else regs
  let u := regs + 3
  [(Rows.rdsr, readUni 9 1), (Rows.uand, opLit 0 10 9 1), (Rows.ushr, opLit 0 9 9 1), (Rows.ushl, opLit 0 9 9 12),
   (Rows.uadd, opLit tyU64 9 9 scratch), (Rows.uand, opLit 0 11 8 1), (Rows.ushl, opLit 0 11 11 11), (Rows.uadd, opReg tyU64 11 11 9),
   (Rows.uadd, opLit tyU64 8 8 1), (Rows.ushl, opLit 0 12 10 9), (Rows.uadd, opReg tyU64 12 12 11),
   (Rows.rdsr, readVec t 0), (Rows.ishl, opLit 0 t t 3), (Rows.s2v, spread u 12), (Rows.iadd, opReg tyU32 t t u),
   (Rows.sts, { x with d := 0, a := BitVec.ofNat 8 t, b := 0, c := x.a, ty := if wide then tyU64 else tyB32, rm := 0, mod6 := 0, lit := none }),
   (Rows.vote, { x with d := 13, a := 7, b := 0, c := 0, ty := 0, rm := 0, mod6 := 2, lit := none }),
   (Rows.s2v, spreadPair e 13), (Rows.ushl, opLit 0 14 10 3), (Rows.uadd, opReg tyU64 14 14 11), (Rows.s2v, spread t 14),
   (Rows.sts, { bareExt with a := BitVec.ofNat 8 t, c := BitVec.ofNat 8 e, ty := tyU64, lit := some 1024 })] ++
  [(Rows.fence, { bareExt with mod6 := 2, aux8 := 2 }),
   (Rows.vote, { bareExt with d := 14, a := 7, mod6 := 2 }),
   (Rows.umov, { bareExt with d := 15, lit := some 0 }), (Rows.usub, opReg tyU64 15 15 14), (Rows.uand, opReg 0 14 14 15),
   (Rows.usub, opLit tyU64 14 14 1), (Rows.upopc, { bareExt with d := 14, a := 14 }), (Rows.s2v, spread u 14), (Rows.rdsr, readVec t 0),
   (Rows.ixor, opReg 0 u u t), (Rows.imin, opLit tyU32 u u 1), (Rows.ixor, opLit 0 u u 1), (Rows.s2v, spread t 9),
   (Rows.atoms, { bareExt with d := BitVec.ofNat 8 e, a := BitVec.ofNat 8 t, c := BitVec.ofNat 8 u, ty := tyU32, lit := some 4088 }),
   (Rows.uadd, opLit tyU64 15 9 4088), (Rows.marm, { bareExt with a := 15, mod6 := 1 }), (Rows.ushl, opLit 0 15 8 1),
   (Rows.mwait, { bareExt with d := 15, a := 15, aux8 := 0x20 }), (Rows.fence, { bareExt with mod6 := 1, aux8 := 2 })]

/-- Instructions from words, or nothing where they do not decode. -/
def rowsOfWords : Nat → List W32 → Option (List (Row × Ext))
  | 0, ws => if ws.isEmpty then some [] else none
  | f + 1, ws =>
    if ws.isEmpty then some []
    else match decode ws with
      | .ok (i, rest) => (instrRow i).bind fun p => (rowsOfWords f rest).map fun l => p :: l
      | .error _ => none

/-- The end of a SHFL's round (R249, R351): the source lane among 128, the lane itself where that is none or is not in L, and its
operand loaded from the area. Lane numbers are compared below 2^32 after the operand is cut to 128, which changes no source lane
that exists. -/
def shuffleTail (regs : Nat) (x : Ext) (wide : Bool) : List (Row × Ext) :=
  let e := if regs % 2 = 0 then regs else regs + 1
  let t := if regs % 2 = 0 then regs + 2 else regs
  let u := regs + 3
  let n (k : Nat) : BitVec 8 := BitVec.ofNat 8 k
  let mode := (x.mod6.extractLsb' 0 2).toNat
  let op := match mode with | 1 => Rows.isub | 2 => Rows.iadd | 3 => Rows.ixor | _ => Rows.ior
  let ty := if mode = 1 ∨ mode = 2 then tyU32 else 0
  let b : Row × Ext := match x.lit with
    | some v => (Rows.mov, { bareExt with d := n u, lit := some (BitVec.ofNat 64 (min (bits v 0 32) 128)) })
    | none => (Rows.imin, opLit tyU32 u x.b.toNat 128)
  [(Rows.rdsr, readVec t 0), (Rows.ushl, opLit 0 12 10 6), (Rows.s2v, spread e 12), (Rows.iadd, opReg tyU32 t t e), b] ++
  (if mode = 0 then [] else [(op, opReg ty u t u)]) ++
  [(Rows.imin, opLit tyU32 u u 128), (Rows.s2v, spread e 11), (Rows.ishr, opLit 0 (e + 1) u 3), (Rows.iadd, opReg tyU32 e e (e + 1)),
   (Rows.lds, { bareExt with d := n e, a := n e, ty := tyU8, lit := some 1024 }), (Rows.iand, opLit 0 (e + 1) u 7),
   (Rows.ishr, opReg 0 e e (e + 1)), (Rows.iand, opLit 0 e e 1), (Rows.ishr, opLit 0 (e + 1) u 7), (Rows.ixor, opLit 0 (e + 1) (e + 1) 1),
   (Rows.iand, opReg 0 e e (e + 1)), (Rows.iadd, opLit tyU32 e e 0xFFFFFFFF), (Rows.ixor, opLit 0 e e 0xFFFFFFFF),
   (Rows.ixor, opReg 0 u u t), (Rows.iand, opReg 0 u u e), (Rows.ixor, opReg 0 t t u), (Rows.ishl, opLit 0 t t 3),
   (Rows.s2v, spread e 11), (Rows.iadd, opReg tyU32 t t e),
   (Rows.lds, { x with a := n t, b := 0, c := 0, ty := if wide then tyU64 else tyB32, rm := 0, mod6 := 0, lit := some 0 })]
/-- The rows that the free end of a round may use: register work and loads of the scratchpad. -/
def tailRows : List Row :=
  ifeutPlain ++ ifeutCross ++ [Rows.plop, Rows.rdsr, Rows.lds, Rows.s2v, Rows.v2s, Rows.redg, Rows.uadd, Rows.usub, Rows.umul, Rows.uand,
    Rows.uor, Rows.uxor, Rows.ushl, Rows.ushr, Rows.usra, Rows.umov, Rows.upopc]
/-- An instruction of the free end of a round for `x` keeps to R347 and R349: it writes the destination of `x` or the translator's
own registers, s9 to s15 and v(REGS) to v(REGS+3), and no memory, barrier or frontier. -/
def tailAllows (regs : Nat) (x : Ext) (p : Row × Ext) : Bool :=
  among p.1 tailRows && (codesWritten p.1 p.2).all fun c =>
    c == x.d.toNat || c == x.d.toNat + 1 || (decide (regs ≤ c) && decide (c < regs + 4)) || (decide (256 + 9 ≤ c) && decide (c ≤ 256 + 15))
/-- A wide kernel's first instructions (R351): every group writes 0 into its pair's counter word, and no round begins before all have,
for which they meet at block barrier 0, whose generation Ifeut code cannot read (DESIGN CHOICE, log 163). -/
def counterStart (scratch : Nat) : List (Row × Ext) :=
  [(Rows.rdsr, readUni 9 1), (Rows.ushr, opLit 0 9 9 1), (Rows.ushl, opLit 0 9 9 12), (Rows.uadd, opLit tyU64 9 9 scratch),
   (Rows.umov, { bareExt with d := 15, lit := some 0 }),
   (Rows.ust, { bareExt with a := 9, c := 15, ty := tyU32, mod6 := 0x21, lit := some 4088 }),
   (Rows.bars, { bareExt with d := 15, mod6 := 1 })]

/-- The native instructions of one Ifeut instruction (R348, R349, R351): `slot` is a special function's token slot. The code that
computes R252 and R253 over the union of a round's ballots is the translator's own, and free within `tailAllows` (log 42). -/
def synthesise (mode : Mode) (slot : Nat) (i : PortInstr) : Option (List (Row × Ext)) :=
  if i.frame then some [(Rows.s2v, { i.x with a := 0, b := 0, aux8 := 0, mod6 := 1 })]
  else if among i.row [Rows.bars] then some [(i.row, { i.x with d := 15 })]
  else if among i.row rowsT then some [(i.row, { i.x with aux8 := BitVec.ofNat 8 slot })]
  else match mode with
    | none => some [(i.row, i.x)]
    | some (regs, scratch) =>
      let d := i.x.d.toNat
      if among i.row ifeutCross then
        let wide := pairOf i.row.a i.x
        let words := Config.roundTail i.row.xop.toNat regs (encodeExt i.row i.x)
        let tail := if among i.row [Rows.shfl] then shuffleTail regs i.x wide
          else ((rowsOfWords words.length words).getD []).filter (tailAllows regs i.x)
        some (roundOpen regs scratch i.x wide ++ tail)
      else if among i.row [Rows.rdsr] then
        some (match i.x.aux8.toNat with
          | 0 => [(i.row, i.x), (Rows.rdsr, readVec (regs + 3) 1), (Rows.iand, opLit 0 (regs + 3) (regs + 3) 1),
                  (Rows.ishl, opLit 0 (regs + 3) (regs + 3) 6), (Rows.iadd, opReg tyU32 d d (regs + 3))]
          | 1 => [(i.row, i.x), (Rows.ishr, opLit 0 d d 1)]
          | 0x0B => [(Rows.mov, { bareExt with d := i.x.d, lit := some 128 })]
          | _ => [(i.row, i.x)])
      else some [(i.row, i.x)]

/-- Each instruction with its token slot: i mod 8, i counting the function's special functions in program order (R348). -/
def withSlots : Nat → List PortInstr → List (PortInstr × Nat)
  | _, [] => []
  | n, i :: r => (i, n % 8) :: withSlots (if among i.row rowsT then n + 1 else n) r

/-- The codes an Ifeut instruction writes: RDSR of %frame writes a pair. -/
def portWritten (i : PortInstr) : List Nat := codesWritten i.row i.x ++ if i.frame then [i.x.d.toNat + 1] else []
/-- The registers an instruction reads or writes. -/
def codesTouched (r : Row) (x : Ext) : List Nat := codesRead r x ++ codesWritten r x
/-- An instruction that touches no memory, no barrier and no frontier state (R347). -/
def movable (i : PortInstr) : Bool := among i.row (ifeutPlain ++ rowsT ++ [Rows.plop, Rows.rdsr] ++ ifeutCross)
/-- Two such instructions between which no register or predicate dependency lies (R347). -/
def mayPass (a b : PortInstr) : Bool :=
  let touched (i : PortInstr) : List Nat := codesRead i.row i.x ++ portWritten i
  movable a && movable b && (portWritten a).all (fun c => !(touched b).contains c) && (portWritten b).all fun c => !(touched a).contains c
/-- The instructions of a stretch without labels in a free order that R347 allows: each in turn is one that may pass all before it. -/
def reorder (pick : Nat → Nat) : Nat → List (PortInstr × Nat) → List (PortInstr × Nat)
  | 0, l => l
  | n + 1, l =>
    match l with
    | [] => []
    | a :: r =>
      let firsts := (List.range l.length).filter fun j => match l[j]? with
        | some b => (l.take j).all fun c => mayPass c.1 b.1
        | none => false
      let j := firsts.getD (pick (2 * a.1.at_) % max 1 firsts.length) 0
      match l[j]? with
      | some b => b :: reorder pick n (l.take j ++ l.drop (j + 1))
      | none => a :: reorder pick n r
/-- A function's instructions cut before every label; an instruction that is not movable holds its place as R347 says. -/
def cutAt (labels : List Nat) : List (PortInstr × Nat) → List (List (PortInstr × Nat))
  | [] => []
  | i :: r => match cutAt labels r with
    | [] => [[i]]
    | p :: t => if (p.head?.map fun j => labels.contains j.1.at_) == some true then [i] :: p :: t else (i :: p) :: t

/-- One function's native instructions before SFWAITs (R347, R349); `entry` where a kernel of this way begins with it, which at width
128 starts with `counterStart`. A stretch's label stays at its head. -/
def functionBody (pick : Nat → Nat) (c : Section) (labels : List Nat) (entry : Bool) (f : Nat) (mode : Mode) : Option (List NatInstr) :=
  let first : List NatInstr := match mode with
    | some (_, scratch) => if entry then (counterStart scratch).map fun (r, x) => ⟨r, x, f, false, none⟩ else []
    | none => []
  let parts := cutAt labels (withSlots 0 (c.body f))
  let order : List (PortInstr × Nat × Nat) := (parts.map fun (p : List (PortInstr × Nat)) =>
    let q := reorder pick p.length p
    ((List.range q.length).zip q).map fun (n, i, k) => (i, k, if n = 0 then (p.head?.map fun j => j.1.at_).getD i.at_ else i.at_)).flatten
  let natOf (p : PortInstr × Nat × Nat) : Option (List NatInstr) :=
    (synthesise mode p.2.1 p.1).map fun l => ((List.range l.length).zip l).map fun (n, r, x) =>
      ⟨r, x, p.2.2, n = 0, if among p.1.row [Rows.bra, Rows.call] then some (portGoal p.1).toNat else none⟩
  (order.mapM natOf).map fun l => first ++ l.flatten

/-- The successors of a native instruction inside its function, by number. -/
def natNext (l : List NatInstr) (j : Nat) : List Nat :=
  match l[j]? with
  | none => []
  | some n =>
    let jump := if among n.row [Rows.bra] then (l.findIdx? fun m => m.head && some m.org == n.goal).toList else []
    jump ++ (if endsGroup n.row && n.x.always then [] else if j + 1 < l.length then [j + 1] else [])
/-- SFWAITs put in (R348): before the first instruction that reads or writes a result whose token may be out, and before a CALL, RET
or EXIT; one SFWAIT names every slot that an instruction needs. -/
def withWaits (l : List NatInstr) : List NatInstr :=
  let needs (n : NatInstr) (dues : List Due) : List Nat :=
    ((dues.filter fun (c, _) => among n.row [Rows.call, Rows.ret, Rows.exit] || (codesTouched n.row n.x).contains c).map (·.2)).eraseDups
  let out (j : Nat) (need : List Nat) (dues : List Due) : List Due := match l[j]? with
    | some n => (dueAfter n.row n.x (dues.filter fun (_, t) => !need.contains t)).filter fun (_, t) => decide (2 ≤ t)
    | none => []
  let want (j : Nat) (dues : List Due) : List Nat := ((l[j]?).map fun n => needs n dues).getD []
  let slots := flowSettle l.length (natNext l) out want (l.length + 1) (l.map fun _ => [])
  ((List.range l.length).zip l |>.map fun (j, n) =>
    match slots.getD j [] with
    | [] => [n]
    | need =>
      let mask := need.foldl (fun m t => m ||| 2 ^ (t - 2)) 0
      [⟨Rows.sfwait, { bareExt with aux8 := BitVec.ofNat 8 mask }, n.org, n.head, none⟩, { n with head := false }]).flatten

/-- The base form of an instruction among the given base opcodes. A 32-bit operand's literal counts by its low word. -/
def baseFormOf (r : Row) (x : Ext) (forms : List BaseRow) : Option (BaseRow × Base) :=
  let narrow := r.b == .v || (r.b == .vp0 && !x.mod6.getLsbD 0)
  let cut (l : Option W64) : Option W64 := if narrow then l.map fun w => w &&& 0xFFFFFFFF#64 else l
  forms.findSome? fun q =>
    let b : Base :=
      { s := false, d := x.d.setWidth 7, a := x.a.setWidth 7
        b := match q.b with
          | .reg => x.b.setWidth 7
          | .imm => (x.lit.getD 0).setWidth 7
          | .off => x.aux8.setWidth 7
        lit := if q.b = .imm then none else x.lit }
    let y := b.toExt q
    if q.row.xop == r.xop && decide ({ y with lit := cut y.lit } = { x with lit := cut x.lit, s := false }) && b.wellFormed q then
      some (q, b) else none
/-- The base form of an instruction where the mapping and R191 allow one: the imm7 form before the literal one. -/
def baseForm (r : Row) (x : Ext) : Option (BaseRow × Base) :=
  let zero : Base := ⟨false, 0, 0, 0, none⟩
  let forms := baseTable.filterMap fun (_, f) => match (f zero).form with | .base q _ => some q | _ => none
  (baseFormOf r x (forms.filter fun q => q.b = .imm)).orElse fun _ => baseFormOf r x (forms.filter fun q => q.b ≠ .imm)
/-- An instruction's words, in its base form where it has one and the translator takes it. -/
def natWords (pick : Nat → Nat) (n : NatInstr) : List W32 :=
  match baseForm n.row n.x with
  | some (q, b) => if pick (2 * n.org + 1) % 2 = 0 then encodeBase q { b with s := n.x.s } else encodeExt n.row n.x
  | none => encodeExt n.row n.x

/-- A function as translated: its word in the section, the way, and its instructions. -/
structure NatFunction where
  org : Nat
  mode : Mode
  code : List NatInstr

/-- Where each function goes (R349): whole in one segment, in file order, each segment filled before the next; nothing where one
passes 16 KiB. -/
def layOut (pick : Nat → Nat) : Nat → Nat → List NatFunction → Option (List (Pc × NatFunction))
  | _, _, [] => some []
  | seg, off, f :: r =>
    let n := ((f.code.map fun i => (natWords pick i).length).sum) * 4
    if 16384 < n then none
    else
      let p : Pc := if off + n ≤ 16384 then ⟨seg, off⟩ else ⟨seg + 1, 0⟩
      (layOut pick p.seg (p.off + n) r).map fun l => (p, f) :: l
/-- The addresses of a function's instructions. -/
def natPlaces (pick : Nat → Nat) : Pc → List NatInstr → List (Pc × NatInstr)
  | _, [] => []
  | p, i :: r => (p, i) :: natPlaces pick (p.plus (4 * (natWords pick i).length)) r

/-- A native image before its S bits: every instruction with its address and its function's way. -/
abbrev Placed := List (Pc × Mode × NatInstr)
/-- The address that an Ifeut word has in the image, for a way of translation. -/
def nativePlace (l : Placed) (mode : Mode) (org : Nat) : Pc :=
  ((l.find? fun (_, m, i) => m == mode && i.head && i.org == org).map (·.1)).getD ⟨0, 0⟩
/-- The address at which a kernel that begins with an Ifeut word starts: its function's first instruction, `counterStart` included. -/
def nativeStart (l : Placed) (mode : Mode) (org : Nat) : Pc :=
  ((l.find? fun (_, m, i) => m == mode && i.org == org).map (·.1)).getD ⟨0, 0⟩
/-- Branch and call targets recomputed (R347); priorities keep their encodings. -/
def retarget (l : Placed) : Placed :=
  l.map fun (p, m, i) => match i.goal with
    | some g =>
      let q := nativePlace l m g
      let lit := if among i.row [Rows.call] then q.toTarget else BitVec.ofInt 64 ((q.off : Int) - (p.off : Int))
      (p, m, { i with x := { i.x with lit := some lit } })
    | none => (p, m, i)

/-- The instructions that may follow one in the native stream, by number: in line, at its target, and after a RET at every
instruction that follows a CALL (DEDUCED, log 161). -/
def placedNext (l : Placed) (j : Nat) : List Nat :=
  match l[j]? with
  | none => []
  | some (_, m, n) =>
    let goal := match n.goal with
      | some g => (l.findIdx? fun (_, q, i) => q == m && i.head && i.org == g).toList
      | none => []
    let back := if among n.row [Rows.ret] then (List.range l.length).filter fun k => decide (1 ≤ k) &&
      match l[k - 1]? with | some (_, _, i) => among i.row [Rows.call] | none => false else []
    let inLine := if (endsGroup n.row || among n.row [Rows.call]) && n.x.always then [] else if j + 1 < l.length then [j + 1] else []
    goal ++ back ++ inLine
/-- S bits (R348): set exactly where an instruction that follows reads or writes a register whose class V or A write is still
outstanding after the instruction issues. -/
def markS (l : Placed) : Placed :=
  let after (j : Nat) (dues : List Due) : List Due := match l[j]? with
    | some (_, _, n) => (dueAfter n.row n.x dues).filter fun (_, t) => decide (t < 2)
    | none => []
  let marked (j : Nat) (dues : List Due) : Bool :=
    (placedNext l j).any fun k => match l[k]? with
      | some (_, _, n) => (after j dues).any fun (c, _) => (codesTouched n.row n.x).contains c
      | none => false
  let marks := flowSettle l.length (placedNext l) (fun j ends dues => if ends.isEmpty then after j dues else [])
    (fun j dues => if marked j dues then [0] else []) (l.length + 1) (l.map fun _ => [])
  (List.range l.length).zip l |>.map fun (j, p, m, n) => (p, m, { n with x := { n.x with s := !(marks.getD j []).isEmpty } })

/-- A kernel's entry in the native image (R350, R351): the width of its groups, its entry and handler, and at width 128 four more
registers and a larger share. -/
def nativeKernel (l : Placed) (k : List W64) (nameAt : Nat) : List W64 :=
  let m := modeOf k
  let word_ (p : Pc) : Nat := p.seg * 4096 + p.off / 4
  let entry := word_ (nativeStart l m (bits (word k 0) 16 24))
  let trap := if bit (word k 0) 2 then word_ (nativePlace l m (bits (word k 4) 16 24)) else 0
  let code := match bits (word k 0) 5 3, (portableWidth k).map (·.1) with | 1, _ => 1 | _, some 16 => 2 | _, some 32 => 3 | _, _ => 4
  let pairs := bits (word k 4) 0 16 / 128
  let regs := bits (word k 1) 0 9 + (if m.isSome then 4 else 0)
  let scratch := bits (word k 2) 0 32 + (if m.isSome then 65536 * ceilDiv (4096 * pairs) 65536 else 0)
  [BitVec.ofNat 64 (entry * 2 ^ 16 + code * 2 ^ 5) ||| (word k 0 &&& 0x1D#64),
   (word k 1 &&& ~~~0x1FF#64) ||| BitVec.ofNat 64 regs, (word k 2 &&& ~~~0xFFFFFFFF#64) ||| BitVec.ofNat 64 scratch, 0,
   BitVec.ofNat 64 (trap * 2 ^ 16), word k 5, word k 6, BitVec.ofNat 64 nameAt]

/-- The words of a segment. -/
def segmentWords (pick : Nat → Nat) (l : Placed) (n : Nat) : List W32 :=
  ((l.filter fun (p, _, _) => p.seg = n).map fun (_, _, i) => natWords pick i).flatten
/-- The image's file: header, segment table, kernel table, segments and names in that order (DESIGN CHOICE, log 162). -/
def nativeFile (segs : List (List W32)) (kerns : List (List W64)) (names : List (List Byte)) : List Byte :=
  let kernAt := 64 + 64 * ceilDiv (16 * segs.length) 64
  let codeAt := kernAt + 64 * kerns.length
  let segAt (n : Nat) : Nat := codeAt + ((segs.take n).map fun ws => 4 * ws.length).sum
  let head := [0x4F435143 + 2 ^ 32, segs.length + kerns.length * 2 ^ 16, 64, kernAt, 0, 0, 0, 0]
  let table := ((List.range segs.length).zip segs).map fun (n, ws) => leBytes 8 (segAt n) ++ leBytes 8 (4 * ws.length)
  let tables := (head.map fun v => leBytes 8 v).flatten ++ table.flatten
  tables ++ List.replicate (kernAt - tables.length) 0 ++ (kerns.map fun k => (k.map fun w => leBytes 8 w.toNat).flatten).flatten ++
    (segs.map fun ws => (ws.map bytesOfWord).flatten).flatten ++ names.flatten

/-- A kernel's name with its final zero, or nothing (R339). -/
def kernelName (bs : List Byte) (k : List W64) : List Byte :=
  if word k 7 = 0 then [] else (bs.drop (word k 7).toNat).takeWhile (fun b => b != 0) ++ [0]

/-- The translation of a portable file (R347 to R351) for some choices of the translator: the native image's file, its segments, and
its kernels' words; nothing where R344, R345, R349 or R350 refuses the file. -/
def translateWith (pick : Nat → Nat) (bs : List Byte) (m : CodeFile) : Option (List Byte × KMap (List W32) × List (List W64)) :=
  (portableSection m).bind fun c =>
    let labels := c.funcs ++ (m.kerns.filterMap fun k => if bit (word k 0) 2 then some (bits (word k 4) 16 24) else none) ++
      c.ins.filterMap fun i => if among i.row [Rows.bra] then some (portGoal i).toNat else none
    let entryOf (f : Nat) (q : Mode) : Bool := m.kerns.any fun k => modeOf k == q && bits (word k 0) 16 24 == f
    let work := (c.funcs.map fun f => (c.modes m.kerns f).map fun q => (f, q)).flatten
    let made : Option (List NatFunction) := work.mapM fun (f, q) => (functionBody pick c labels (entryOf f q) f q).map fun l => ⟨f, q, withWaits l⟩
    made.bind fun fs =>
      (layOut pick 0 0 fs).bind fun placed =>
        let all : Placed := (placed.map fun (p, f) => (natPlaces pick p f.code).map fun (a, i) => (a, f.mode, i)).flatten
        let l := markS (retarget all)
        let nseg := (l.map fun (p, _, _) => p.seg + 1).foldl max 0
        if 8 < nseg then none
        else
          let segs := (List.range nseg).map (segmentWords pick l)
          let names := m.kerns.map (kernelName bs)
          let nameBase := 64 + 64 * ceilDiv (16 * nseg) 64 + 64 * m.kerns.length + (segs.map fun ws => 4 * ws.length).sum
          let nameAt (i : Nat) : Nat := if (names.getD i []).isEmpty then 0 else nameBase + ((names.take i).map List.length).sum
          let kerns := (List.range m.kerns.length).zip m.kerns |>.map fun (i, k) => nativeKernel l k (nameAt i)
          some (nativeFile segs kerns names, (List.range nseg).zip segs, kerns)

end Sys2Proof.Machine
end

