-- ==== Sys2Proof/Machine/Loader.lean ====
section
/-! DEFINITION. Loading and unloading code objects (R340-R342). -/
namespace Sys2Proof.Machine
open Sys2Proof

/-- A native image's file: the data image removed (R340 step 4). -/
def nativeImage (bs : List Byte) (m : CodeFile) : List Byte :=
  let bs := if m.dataLen = 0 then bs else bs.take m.dataOff ++ bs.drop (m.dataOff + m.dataLen)
  bs.take 32 ++ leBytes 8 0 ++ leBytes 8 0 ++ bs.drop 48

/-- Bytes stored at a tenant's addresses by the loader, page by page (R340 step 7): what was stored stands, and the copy fails at
a page that does not translate for a write, is sealed or poisoned. -/
def copyOut (s : State) (t va : Nat) : Nat → List Byte → State × Bool
  | 0, bs => (s, bs.isEmpty)
  | f + 1, bs =>
    if bs.isEmpty then (s, true)
    else
      let n := min bs.length (128 - va % 128)
      match walk s t va true with
      | (s, .ok pa _ _) =>
        if !lineReadable s t (lineOf pa) || sealed s t va n then (s, false)
        else copyOut (homeStore s t pa (bs.take n)) t (va + n) f (bs.drop n)
      | (s, .fail _ _ _ _) => (s, false)
/-- The same with as many lines as the bytes can touch. -/
def putBytes (s : State) (t va : Nat) (bs : List Byte) : State × Bool := copyOut s t va (bs.length / 128 + 2) bs

/-- A native image (R340 steps 1 to 3): its file, segments and kernels, and what the load report says of it: the verifier's warnings, and
each portable kernel's width and NGRP. -/
structure Native where
  file : List Byte
  segs : KMap (List W32)
  kernels : List Kernel
  widths : List (Nat × Nat)

/-- What a file's code becomes (R340 steps 1 to 3), or the status. The translation depends only on the file (R341). -/
def nativeOf (bs : List Byte) : Except Nat Native :=
  match readFile bs with
  | none => .error 1
  | some m =>
    let made : Option Native :=
      if m.portable then (translateWith (Config.translatorPick bs) bs m).map fun (nb, segs, ks) =>
        ⟨nb, segs, ks.map kernelOf, m.kerns.map fun k => (portableWidth k).getD (0, 0)⟩
      else some ⟨nativeImage bs m, m.segs, m.kerns.map kernelOf, (m.kerns.map kernelOf).map fun k => (k.width, 0)⟩
    match made with
    | none => .error 3
    | some n => if verified n.segs n.kernels then .ok n else .error 2

/-- The segments of the code store in use (R340 step 5). -/
def storeUsed (s : State) : Nat := (s.images.map fun (_, m) => m.segs.length).sum

/-- The load report's bytes (R340): their arrangement is not given. A warning names its kind and address. -/
def loadReport (status index : Nat) (hash : BitVec 256) (n : Option Native) : List Byte :=
  let warns := match n with
    | some x => ((x.kernels.map (kernelWarns x.segs)).flatten.map fun (w, p) => (w, p.toTarget)).eraseDups
    | none => []
  Config.reportBytes status index hash warns ((n.map fun x => x.widths).getD [])

/-- How a LOAD ends (R340, R387): the status, the index and the hash, and the load report with the place in the tenant's memory where
it goes, if the file could be read. -/
structure LoadEnd where
  status : Nat
  index : Nat
  hash : BitVec 256
  report : List Byte
  size : Option Nat

/-- R340 steps 4 to 7 for a native image and a data image. -/
def loadNative (s : State) (t dest : Nat) (n : Native) (portable : Bool) (data : List Byte) : State × LoadEnd :=
  let s := sweepImages s
  let hash := sha256 n.file
  let ended (s : State) (status index : Nat) : State × LoadEnd :=
    (s, ⟨status, index, hash, loadReport status index hash (some n), some data.length⟩)
  let known := (s.images.find? fun (_, i) => i.hash == hash).map (·.1)
  if known.isNone && decide (32768 < storeUsed s + n.segs.length) then ended s 4 0
  else
    let id := known.getD (freeKey s.images)
    let s := match known with
      | some i => { s with images := kupd s.images i fun x => { x with refs := x.refs + 1 } }
      | none =>
        let im : Image := { hash := hash, refs := 1, segs := n.segs, kernels := n.kernels
                            nseg := (n.segs.map fun (i, _) => i + 1).foldl max 0, portable := portable }
        { s with images := kset s.images id im }
    let index := freeKey (s.ten t).codes
    if 65536 ≤ index then ended (dropImage s id) 5 0
    else
      let s := s.updTen t fun n => { n with codes := kset n.codes index id }
      match putBytes s t dest data with
      | (s, true) => ended s 0 index
      | (s, false) => ended (dropImage (s.updTen t fun n => { n with codes := kdel n.codes index }) id) 6 0

/-- A loaded object (R340): a file that cannot be read counts as one that fails step 1. -/
def loadObject (s : State) (t va len dest : Nat) : State × LoadEnd :=
  match tenantBytes s t va len with
  | (s, none) => (s, ⟨1, 0, 0, [], none⟩)
  | (s, some bs) =>
    let file := readFile bs
    match nativeOf bs with
    | .error e => (s, ⟨e, 0, 0, loadReport e 0 0 none, file.map fun f => f.dataLen⟩)
    | .ok n =>
      loadNative s t dest n ((file.map fun f => f.portable).getD false) ((file.map fun f => (bs.drop f.dataOff).take f.dataLen).getD [])

/-- UNLOAD (R342, R387). -/
def unloadObject (s : State) (t index : Nat) : State × Nat :=
  match kget (s.ten t).codes index with
  | some i => (dropImage (s.updTen t fun n => { n with codes := kdel n.codes index }) i, 0)
  | none => (s, 1)

end Sys2Proof.Machine
end

