-- ==== Sys2Proof/Machine/Commands.lean ====
section
/-! DEFINITION. The tenant commands (R386, R387): LOAD, UNLOAD, FWSET, UNPOISON, LVLFREE, RULES and ATTEST. -/
namespace Sys2Proof.Machine
open Sys2Proof

/-- Statuses that any command may end with (R386). -/
def stUnknown : Nat := 0xFF
def stReserved : Nat := 0xFE

/-- The command at the head of a tenant's command ring (R381, R386): its words. Commands wait while the Postmaster is replaced (R414). -/
def headCommand (s : State) (t : Nat) : State × Option (List W64) :=
  let r := (s.ten t).ring ringCQ
  if (s.ten t).st != 1 || !r.en || r.count = 0 || s.mod.fwFetch.isSome then (s, none) else tenantWords s t (r.slot r.head 64) 8
def cmdOp (w : List W64) : Nat := bits (word w 0) 0 8

/-- Word 0 of a command that has ended (R386). -/
def doneWord (w : List W64) (status : Nat) : W64 := BitVec.ofNat 64 (bits (word w 0) 0 55 + 2 ^ 55 + status * 2 ^ 56)
/-- A command ends: its result words, then word 0 with DONE, then HEAD, then vector 2 (R386). From then
on the tenant counts as used (R388, log 121). -/
def endCommand (s : State) (t : Nat) (w : List W64) (status : Nat) (results : List (Nat × W64)) : State :=
  let r := (s.ten t).ring ringCQ
  let a := r.slot r.head 64
  let s := results.foldl (fun s (i, v) => (deviceStore s t (a + 8 * i) [v]).getD s) s
  let s := (deviceStore s t a [doneWord w status]).getD s
  ((s.updRing t ringCQ fun r => { r with head := r.head + 1 }).updTen t fun n => { n with clean := false }).msix (s.ten t).fn 2

/-- The tenant commands: OP, the last operand word, and the words that results alone use (R387). -/
def tenantOps : List (Nat × Nat × List Nat) :=
  [(1, 3, [4, 5, 6]), (2, 1, []), (3, 6, []), (4, 1, []), (5, 1, []), (6, 2, []), (7, 2, [])]
/-- Reserved fields of a command are zero (R386): bits [54:8] of word 0, and the words it does not use. -/
def cmdPlain (w : List W64) (last : Nat) (res : List Nat) : Bool :=
  zeroBits (word w 0) 8 47 && (List.range 8).all fun i => decide (i ≤ last) || res.contains i || word w i == 0

/-- The head command of a tenant is carried out when its OP is `op`; an unknown OP ends with 0xFF and a reserved field with
0xFE. Where the ring's entry cannot be read, or the head is another command, nothing happens. -/
def runCommand (s : State) (t op : Nat) (act : State → List W64 → State × Nat × List (Nat × W64)) : State :=
  match headCommand s t with
  | (s, none) => s
  | (s, some w) =>
    match tenantOps.find? fun q => q.1 == cmdOp w with
    | none => endCommand s t w stUnknown []
    | some (_, last, res) =>
      if cmdOp w != op then s
      else if !cmdPlain w last res then endCommand s t w stReserved []
      else
        let (s, status, results) := act s w
        endCommand s t w status results

/-- LOAD (R340, R387). -/
def cmdLoad (s : State) (t : Nat) : State :=
  runCommand s t 1 fun s w =>
    let dest := (word w 3).toNat
    let (s, e) := loadObject s t (word w 1).toNat (word w 2).toNat dest
    let s := match e.size with | some n => (putBytes s t (dest + n) e.report).1 | none => s
    (s, e.status, if e.status = 0 then [(4, BitVec.ofNat 64 e.index), (5, e.hash.extractLsb' 0 64), (6, e.hash.extractLsb' 64 64)] else [])

/-- UNLOAD (R342, R387). -/
def cmdUnload (s : State) (t : Nat) : State :=
  runCommand s t 2 fun s w =>
    let (s, st) := unloadObject s t (word w 1).toNat
    (s, st, [])

/-- A write of EN = 1 to a window is refused (R63). -/
def windowRefused (d : Nat) (w : List W64) : Bool :=
  let fmt := bits (word w 0) 4 4
  let rows := bits (word w 2) 40 24
  let pitch := bits (word w 2) 20 20
  let kl := bits (word w 2) 0 20
  let base := bits (word w 1) 0 52
  let scale := bits (word w 3) 0 52
  let band := bits (word w 4) 0 52
  let inDom (a n : Nat) : Bool := decide (d * domBytes ≤ a) && decide (a + n ≤ (d + 1) * domBytes)
  !([1, 2, 3].contains fmt) || rows = 0 || kl = 0 || decide (pitch < kl) ||
    (if fmt = 1 then scale % 32 != 0 || !inDom scale (rows * 32 * kl) else scale != 0) ||
    band % 2 != 0 || (band != 0 && !inDom band (2 * ceilDiv rows 64)) || !inDom base (rows * pitch * 128)
/-- The registers of a window after a FWSET of its tenant, and the status (R62, R63, R387). -/
def writeWindow (d : Nat) (old new : List W64) : List W64 × Nat :=
  if bit (word old 0) 0 then (if bit (word new 0) 0 then old else windowOff old, 0)
  else
    let ctl := word new 0 &&& ~~~3#64
    if !bit (word new 0) 0 then (setAt new 0 (ctl ||| (word old 0 &&& 2)), 0)
    else if windowRefused d new then (setAt new 0 (ctl ||| 2), 2)
    else (setAt new 0 (ctl ||| 1), 0)
/-- FWSET (R62, R63, R387). -/
def cmdFwset (s : State) (t : Nat) : State :=
  runCommand s t 3 fun s w =>
    let d := bits (word w 1) 0 6
    let n := bits (word w 1) 8 4
    let new := (w.drop 2).take 5
    let old := (kget (s.dom d).fw n).getD (zeros 5)
    let vni := (s.ten t).vni
    if !(zeroBits (word w 1) 6 2 && zeroBits (word w 1) 12 52 && zeroBits (word new 0) 28 36 && zeroBits (word new 0) 12 4 &&
        zeroBits (word new 0) 8 4 && zeroBits (word new 0) 2 2 && zeroBits (word new 1) 52 12 && zeroBits (word new 1) 0 7 &&
        zeroBits (word new 3) 52 12 && zeroBits (word new 4) 52 12) then (s, stReserved, [])
    else if bits (word new 0) 16 12 != vni || !(s.ten t).domains.contains d ||
        (bit (word old 0) 0 && bits (word old 0) 16 12 != vni) then (s, 1, [])
    else
      let (regs, st) := writeWindow d old new
      let s := if bit (word regs 0) 0 then s else dropWindow s d n
      (s.updDom d fun x => { x with fw := kset x.fw n regs }, st, [])

/-- A line is a tenant's when its page tables map it (DEDUCED). -/
def ownsLine (s : State) (t line : Nat) : Bool :=
  mapsAny s.mem (fun a n => decide (a ≤ lineBase line) && decide (lineBase line < a + n)) (s.ten t).root walkLevels
/-- A poison mark cleared by command (R70, R387). What memory holds after an error, or without power, is free. -/
def clearPoison (s : State) (line : Nat) : State :=
  if s.poisoned line then
    let bs := (List.range 128).map fun i => (i, Config.dramByte s.tick i)
    { s.unpoison line with
      mem := patchMem s.mem line bs
      domains := kmap s.domains fun _ (d : Domain) => { d with guest := d.guest.filter fun (l, g) => !(l == line && g.bad) } }
  else s
/-- UNPOISON (R70, R387). -/
def cmdUnpoison (s : State) (t : Nat) : State :=
  runCommand s t 4 fun s w =>
    let line := lineOf (word w 1).toNat
    if ownsLine s t line then (clearPoison s line, 0, []) else (s, 1, [])

/-- LVLFREE (R31, R387): a CANCELLED counter and the CANCELLED ones it encloses become FREE. -/
def cmdLvlfree (s : State) (t : Nat) : State :=
  runCommand s t 5 fun s w =>
    let lvl := bits (word w 1) 0 2
    let id := bits (word w 1) 2 12
    if !zeroBits (word w 1) 14 50 then (s, stReserved, [])
    else if ((s.ten t).counter lvl id).st == lvCancelled then (s.updTen t fun n => freeCounter (releaseCancelled n lvl id) lvl id, 0, [])
    else (s, 1, [])

/-- RULES (R333, R334): a table in force until another is loaded; a refused image changes nothing. -/
def cmdRules (s : State) (t : Nat) : State :=
  runCommand s t 6 fun s w =>
    match tenantBytes s t (word w 1).toNat (word w 2).toNat with
    | (s, none) => (s, 1, [])
    | (s, some bs) => match readRules bs with
      | some rs => (s.updTen t fun n => { n with rules := some rs }, 0, [])
      | none => (s, 1, [])

/-- A 256-bit number as bytes. -/
def hashBytes (h : BitVec 256) : List Byte := leBytes 32 h.toNat
/-- The placement map of R388: one 16-bit mask per bay. -/
def placementMap (n : Tenant) : List Byte :=
  ((List.range 576).map fun i =>
    leBytes 2 ((List.range 16).map fun c => if n.holds (coreName (i / 9) (i % 9) c) then 2 ^ c else 0).sum).flatten
/-- The image of a loaded rule table (R330). -/
def rulesImage (rs : List (List W64)) : List Byte :=
  let body := bytesOf (rs.map fun r => (List.range 16).map (word r)).flatten
  let head (crc : Nat) : List Byte := bytesOf ([BitVec.ofNat 64 (0x7E525743 + 2 ^ 32 + rs.length * 2 ^ 48), BitVec.ofNat 64 crc] ++ zeros 6)
  head (crc32c (head 0 ++ body)) ++ body

/-- A report of R416, with its signature, public key and certificate signature: the boot's key pair signs the report's bytes, the identity key
the public key. -/
def attestReport (s : State) (nonce : List Byte) (tenant : Option Nat) : List Byte :=
  let m := s.mod
  let n := tenant.map s.ten
  let svn := BitVec.ofNat 64 (m.pmSvn.toNat + m.sorterSvn.toNat * 2 ^ 8 + m.svnMin.toNat * 2 ^ 16 + s.nlive % 128 * 2 ^ 32 +
    m.topoVer.toNat * 2 ^ 48)
  let head := bytesOf [BitVec.ofNat 64 (0x41545152 + 2 ^ 32 + n.isSome.toNat * 2 ^ 48)]
  let body := head ++ nonce ++ hashBytes (sha256 Config.identityKey) ++ hashBytes (sha256 m.running) ++
    hashBytes (sha256 m.sorter) ++ hashBytes (sha256 (Config.tableBytes m.deadFields m.deadCores m.badStitches m.fieldOf m.bays)) ++ bytesOf [svn] ++
    (match n with | some x => hashBytes (sha256 (placementMap x)) | none => List.replicate 32 0) ++
    (match n.bind fun x => x.rules with | some rs => hashBytes (sha256 (rulesImage rs)) | none => List.replicate 32 0) ++
    bytesOf [match n with | some x => BitVec.ofNat 64 x.vni | none => 0] ++ List.replicate 264 0
  let key := (List.range 56).map (Config.attestKeyByte m.attestKey)
  body ++ (List.range attestSig).map (Config.attestSignByte m.attestKey m.attests body) ++ key ++ (List.range attestSig).map (Config.certByte key)
where
  /-- Bytes of an LMS_SHA256_M32_H15 signature with LMOTS_SHA256_N32_W8; a public key has 56 (RFC 8554). -/
  attestSig : Nat := 1612

/-- The number of reports the boot's attestation key can sign (R416). -/
def attestMax : Nat := 32768

/-- ATTEST of a tenant (R387, R416). Where an address does not translate nothing is written, and the status is free. -/
def cmdAttest (s : State) (t : Nat) : State :=
  runCommand s t 7 fun s w =>
    if attestMax ≤ s.mod.attests then (s, 2, [])
    else
      match tenantBytes s t (word w 1).toNat 32 with
      | (s, none) => (s, Config.choice s.tick % 256, [])
      | (s, some nonce) =>
        let r := attestReport s nonce (some t)
        match putBytes s t (word w 2).toNat r with
        | (s, true) => (s.updMod fun m => { m with attests := m.attests + 1 }, 0, [])
        | (s, false) => (s, Config.choice s.tick % 256, [])

def execLoad (t : Nat) (s : State) : Host.Outcome State Fault Refusal := .next (cmdLoad s t)
def execUnload (t : Nat) (s : State) : Host.Outcome State Fault Refusal := .next (cmdUnload s t)
def execFwset (t : Nat) (s : State) : Host.Outcome State Fault Refusal := .next (cmdFwset s t)
def execUnpoison (t : Nat) (s : State) : Host.Outcome State Fault Refusal := .next (cmdUnpoison s t)
def execLvlfree (t : Nat) (s : State) : Host.Outcome State Fault Refusal := .next (cmdLvlfree s t)
def execRules (t : Nat) (s : State) : Host.Outcome State Fault Refusal := .next (cmdRules s t)
def execAttest (t : Nat) (s : State) : Host.Outcome State Fault Refusal := .next (cmdAttest s t)

end Sys2Proof.Machine
end

