-- ==== Sys2Proof/Machine/Admin.lean ====
section
/-! DEFINITION. The admin commands (R388, R412-R417): ADMIT and RETIRE, repairs in service, firmware, attestation and migration; and
CORE_FAILURE with the AND-tree's own steps (R105-R109). -/
namespace Sys2Proof.Machine
open Sys2Proof

/-- Words of physical memory read at their home. -/
def physWords (s : State) (pa n : Nat) : List W64 := readWords (homeRead s 0 pa (8 * n)).1.mem pa n
/-- Bytes of physical memory read at their home. -/
def physBytes (s : State) (pa n : Nat) : List Byte := if n = 0 then [] else (homeRead s 0 pa n).2

/-- An admin command is in hand: a repair that drains (R413), or an update that waits for an image (R414). -/
def inHand (s : State) : Bool := !s.mod.drains.isEmpty || s.mod.fwFetch.isSome
/-- The command at the head of the admin ring (R388), which lies at physical addresses. Commands are taken once READY is set (R366); with EN
clear the one in hand is still ended (R381). -/
def adminHead (s : State) : Option (List W64) :=
  let r := s.mod.ring ringCQ
  if !s.mod.ready || (!r.en && !inHand s) || r.count = 0 then none else some (physWords s (r.slot r.head 64) 8)
/-- An admin command ends (R386, R388): word 0, HEAD, vector 2. -/
def endAdmin (s : State) (w : List W64) (status : Nat) : State :=
  let r := s.mod.ring ringCQ
  let s := homeStore s 0 (r.slot r.head 64) (bytesOf [doneWord w status])
  (s.updPfRing ringCQ fun r => { r with head := r.head + 1 }).msix 0 2
/-- The admin commands: OP and the last operand word (R388, R412). -/
def adminOps : List (Nat × Nat) :=
  [(0x10, 6), (0x11, 1), (0x20, 2), (0x21, 2), (0x22, 2), (0x23, 2), (0x24, 2), (0x25, 3), (0x26, 3)]
/-- What a command comes to: it ends with a status, or stays at the ring's head while a repair drains. -/
inductive Ended where
  | done (s : State) (status : Nat)
  | waits (s : State)
/-- The head admin command is carried out when its OP is `op` (R386). -/
def runAdmin (s : State) (op : Nat) (act : State → List W64 → Ended) : State :=
  match adminHead s with
  | none => s
  | some w =>
    match adminOps.find? fun q => q.1 == cmdOp w with
    | none => endAdmin s w stUnknown
    | some (_, last) =>
      if cmdOp w != op then s
      else if !cmdPlain w last [] then endAdmin s w stReserved
      else match act s w with
        | .done s st => endAdmin s w st
        | .waits s => s

/-- The cores of a placement map (R388). -/
def mapCores (bs : List Byte) : List Nat :=
  ((List.range 576).map fun i =>
    let m := leNat ((bs.drop (2 * i)).take 2)
    ((List.range 16).filter fun n => m / 2 ^ n % 2 == 1).map fun n => coreName (i / 9) (i % 9) n).flatten
/-- A logical core that its bay advertises. -/
def advertises (s : State) (c : Nat) : Bool := decide (coreDomain c < s.nlive) && decide (c % 16 < s.bayCount (coreDomain c) (coreBay c))

/-- A VNI permitted on every router's ports, or no longer (R375): a tenant's memory may lie in any domain (DESIGN CHOICE, log 159). -/
def permitVni (s : State) (vni : Nat) (on : Bool) : State :=
  (List.range s.nlive).foldl (fun s d => s.updDom d fun x =>
    { x with vnis := if on then addMember x.vnis vni else x.vnis.filter fun v => v != vni }) s

/-- ADMIT (R375, R388): the first check that fails gives the status; else the tenant is ACTIVE and its page is published. -/
def admitCommand (s : State) (w : List W64) : Ended :=
  let t := (word w 1).toNat
  let vni := (word w 2).toNat
  let home := bits (word w 5) 0 6
  let vf := bits (word w 5) 8 6
  let port := (word w 6).toNat
  let cs := mapCores (physBytes s (word w 3).toNat 1152)
  if 64 ≤ t || !zeroBits (word w 5) 6 2 || !zeroBits (word w 5) 14 50 then .done s stReserved
  else if (s.ten t).st != 0 then .done s 1
  else if vni = 0 || 4096 ≤ vni || s.tenants.any (fun (_, n) => n.st != 0 && n.vni == vni) then .done s 2
  else if cs.any fun c => !advertises s c || (ownerOf s c).isSome then .done s 3
  else if !(cs.any fun c => coreDomain c == home) then .done s 4
  else if s.mod.numVfs.getD port 0 ≤ vf then .done s 5
  else
    let n := { Tenant.fresh with st := 1, vni := vni, placement := cs, root := (word w 4).toNat, pthome := home, port := port, vf := vf
                                 topopa := Config.topoPage t % 2 ^ 36 * 65536 }
    let s := { s with tenants := kset s.tenants t n }
    let s := cs.foldl (fun s c => s.updCore c fun k => { k with tenant := some t, clear := List.range 8 }) s
    let s := permitVni s vni true
    .done (publishLat (publishPage s t) t) 0

/-- A block of the tenant is queued or resident. -/
def jobBusy (s : State) (t : Nat) : Bool :=
  let n := s.ten t
  !n.again.isEmpty || !n.hold.isEmpty || n.queues.any (fun (_, rs) => !rs.isEmpty) ||
    (s.domains.any fun (_, d) => d.queue.any fun u => u.tenant == t) ||
    s.cores.any fun (_, k) => (k.blocks ++ k.kept).any fun (_, b) => b.tenant == t
/-- RETIRE (R376, R388): refused in ACTIVE and RESETTING; a tenant whose reset has completed, and for which no command has ended and no record
has been accepted since, becomes FREE (DEDUCED, log 121). -/
def retire (s : State) (w : List W64) : Ended :=
  let t := (word w 1).toNat
  let n := s.ten t
  if n.st = 0 then .done s 0
  else if n.st != 1 || !n.clean then .done s 1
  else
    let s := n.placement.foldl (fun s c => s.updCore c fun k => { Core.fresh with retired := k.retired }) s
    .done (permitVni { s with tenants := kdel s.tenants t } n.vni false) 0

/-- The repair under way. -/
def theDrain (s : State) : Option Drain := s.mod.drains.head?
/-- A deadline operand in ns (R412). -/
def drainNs (w : List W64) : Nat := 1000 * (if bits (word w 2) 0 32 = 0 then 200 else bits (word w 2) 0 32)
/-- Region of a domain is STACKED or FALLBACK (R412). -/
def regionServes (s : State) (d : Nat) : Bool := [0#3, 3#3].contains (s.region (s.prg d)).st

/-- The core that is drained with another because its bay has no healthy spare (R413). -/
def alsoDrained (s : State) (c : Nat) : List Nat :=
  let d := coreDomain c
  let b := coreBay c
  let bay := (kget s.mod.bays (d * 16 + b)).getD []
  if !deadCore s d b 15 && !bay.contains 15 then [] else [coreName d b (bay.length - 1)]
/-- The cores a repair empties. -/
def drainCores (s : State) (x : Drain) : List Nat :=
  if x.op = 0x20 then x.target :: alsoDrained s x.target else coresIn s [x.target]
/-- Nothing is resident where a repair is to act. -/
def drained (s : State) (x : Drain) : Bool := (drainCores s x).all fun c => (s.core c).blocks.isEmpty
/-- DRAIN_DEADLINE (R413): what is still resident is handled as at the end of DRAINING. -/
def expireDrain (s : State) : State :=
  match theDrain s with
  | some x => if x.deadline ≤ s.now then (drainCores s x).foldl deadlineCore s else s
  | none => s
/-- DRAIN of a domain, a change of its error block (R409, R413). -/
def setDrain (s : State) (d : Nat) (on : Bool) : State := (s.updDom d fun x => { x with drain := on }).countErr d id
/-- A repair starts (R413 step 1): the cores or the domain take no new block. -/
def startDrain (s : State) (op target ns : Nat) : State :=
  let x : Drain := ⟨op, target, s.now + ns⟩
  let s := s.updMod fun m => { m with drains := [x] }
  if op = 0x20 then (drainCores s x).foldl (fun s c => s.updCore c fun k => { k with retired := true }) s
  else raiseTopo (setDrain s target true)
/-- A repair ends. -/
def endDrain (s : State) (x : Drain) : State :=
  let s := s.updMod fun m => { m with drains := [] }
  if x.op = 0x20 then s else raiseTopo (setDrain s x.target false)

/-- DRAINCORE (R412, R413): the number moves to the spare, or the bay is shortened. -/
def drainCoreCmd (s : State) (w : List W64) : Ended :=
  let c := bits (word w 1) 0 14
  match theDrain s with
  | some x =>
    if !drained s x || (failedCore s c && standsAnywhere s c) then .waits s
    else
      let s := if failedCore s c then s else
        let s := drainCore s c
        markDead (postRetired (breakChannels (orphanKept s c) c) c 2 (launchOn s c)) c
      let (s, st) := remapCore 16 s c
      .done (endDrain s x) st
  | none =>
    if !zeroBits (word w 1) 14 50 || !zeroBits (word w 2) 32 32 then .done s stReserved
    else if !advertises s c then .done s 2
    else if !regionServes s (coreDomain c) then .done s 3
    else .waits (startDrain s 0x20 c (drainNs w))

/-- RETRAIN and RECAL (R412, R413): the domain drains, then its memory is trained, or its islands are calibrated anew. -/
def domainRepair (s : State) (op ok : Nat) (w : List W64) : Ended :=
  let d := bits (word w 1) 0 6
  match theDrain s with
  | some x =>
    if !drained s x then .waits s
    else
      let s := endDrain s x
      if op = 0x21 && ok = 0 then .done (loseDomain s d 2) 1 else .done s 0
  | none =>
    if !zeroBits (word w 1) 6 58 || !zeroBits (word w 2) 32 32 then .done s stReserved
    else if s.nlive ≤ d then .done s 2
    else if !regionServes s d then .done s 3
    else .waits (startDrain s op d (drainNs w))

/-- A firmware image's header, and what it carries (R365). -/
def imageKind (bs : List Byte) : Nat := bits (fileWord bs 8) 8 8
def imageSvn (bs : List Byte) : BitVec 8 := (fileWord bs 8).extractLsb' 0 8
def imageLen (bs : List Byte) : Nat := bits (fileWord bs 0) 32 32
/-- An image passes its checks (R365): header, security version, root key and LMS signature. -/
def imageOk (svnMin : BitVec 8) (kind : Nat) (bs : List Byte) : Bool :=
  let keyLen := bits (fileWord bs 16) 32 32
  let sigLen := bits (fileWord bs 16) 0 32
  let key := piece bs (64 + imageLen bs) keyLen
  decide (64 + imageLen bs + keyLen + sigLen ≤ bs.length) && bits (fileWord bs 0) 0 32 == 0x4D465147 && zeroBits (fileWord bs 8) 16 48 &&
    imageKind bs == kind && decide (svnMin ≤ imageSvn bs) && (List.range 5).all (fun i => fileWord bs (24 + 8 * i) == 0) &&
    sha256 key == sha256 Config.rootKey && lmsVerifies (bs.take (64 + imageLen bs)) key (piece bs (64 + imageLen bs + keyLen) sigLen)
/-- The fused minimum after an image has run (R365). -/
def raiseSvn (m : Module) (bs : List Byte) : Module := { m with svnMin := if m.svnMin < imageSvn bs then imageSvn bs else m.svnMin }

/-- FWUPDATED (R410). -/
def postFirmware (s : State) (bs : List Byte) (status : Nat) : State :=
  postEvent s 11 0 [BitVec.ofNat 64 (imageKind bs + (imageSvn bs).toNat * 2 ^ 8), BitVec.ofNat 64 status, 0, 0, 0, 0]
/-- FWUPDATE ends with an image that failed its check replaced by another (R414 step 5). -/
def fallBack (s : State) (im : List Byte) : Ended :=
  .done (postFirmware (s.updMod fun m => { m with running := im, pmSvn := imageSvn im, mailbox := none, fwFetch := none }) im 2) 2
/-- FWUPDATE (R414): verified, started from ROM, and kept in the flash only after its check has passed. Else the ROM fetches an image from
port 0's mailbox for 1 s; without a good one it reloads the flash's, and where that is not good either it goes on polling, as at boot
(R366; DEDUCED, log 182). -/
def updateFirmware (s : State) (w : List W64) : Ended :=
  match s.mod.fwFetch with
  | some limit =>
    match s.mod.mailbox.filter fun im => imageOk s.mod.svnMin 1 im with
    | some im => fallBack s im
    | none => if limit ≤ s.now && imageOk s.mod.svnMin 1 s.mod.flash then fallBack s s.mod.flash else .waits s
  | none =>
    let bs := physBytes s (word w 1).toNat (word w 2).toNat
    if !imageOk s.mod.svnMin 1 bs then .done s 1
    else if Config.imageStarts bs s.tick then
      let s := s.updMod fun m => raiseSvn { m with flash := bs, running := bs, pmSvn := imageSvn bs } bs
      .done (postFirmware s bs 0) 0
    else .waits (s.updMod fun m => { m with fwFetch := some (s.now + 1000000000) })
/-- SORTERLOAD (R415): `ok` is whether the new Sorter sends its 100 heartbeats in time. -/
def loadSorter (s : State) (ok : Nat) (w : List W64) : Ended :=
  let bs := physBytes s (word w 1).toNat (word w 2).toNat
  if !imageOk s.mod.svnMin 2 bs then .done s 1
  else if ok = 0 then .done (s.updMod fun m => { m with beats := 0, lastBeat := s.now }) 2
  else .done (s.updMod fun m => raiseSvn { m with sorter := bs, sorterSvn := imageSvn bs, beats := 100, lastBeat := s.now, sorterUp := true } bs) 0

/-- ATTEST of the module, or of a tenant by the PF (R416). -/
def attestModule (s : State) (w : List W64) : Ended :=
  if !zeroBits (word w 3) 6 2 || !zeroBits (word w 3) 9 55 then .done s stReserved
  else if attestMax ≤ s.mod.attests then .done s 2
  else
    let nonce := physBytes s (word w 1).toNat 32
    let r := attestReport s nonce (if bit (word w 3) 8 then some (bits (word w 3) 0 6) else none)
    .done ((homeStore s 0 (word w 2).toNat r).updMod fun m => { m with attests := m.attests + 1 }) 0

/-- The architectural words name nothing that this module does not provide (R417, R222). -/
def archProvided (ws : List W64) : Bool :=
  let fieldUp (w : W64) (lo n : Nat) (m : W64) : Bool := decide (bits w lo n ≤ bits m lo n)
  decide ((word ws 0).toNat ≤ Config.arch.toNat) && word ws 1 &&& ~~~Config.feat == 0 &&
    (bits (word ws 2) 0 8 &&& (255 - bits Config.limits 0 8)) == 0 && fieldUp (word ws 2) 8 8 Config.limits &&
    fieldUp (word ws 2) 16 8 Config.limits && fieldUp (word ws 2) 24 8 Config.limits && zeroBits (word ws 2) 32 32 &&
    decide ((word ws 3).toNat ≤ Config.saveVer.toNat) && decide ((word ws 4).toNat ≤ Config.ruleVer.toNat) &&
    (List.range 11).all fun i => word ws (5 + i) == 0
/-- MIGSET (R417). -/
def migrate (s : State) (w : List W64) : Ended :=
  let t := (word w 1).toNat
  let ws := physWords s (word w 2).toNat 16
  if 64 ≤ t then .done s stReserved
  else if ((s.ten t).counter 3 0).st == lvOpen && jobBusy s t then .done s 1
  else if !archProvided ws then .done s 2
  else .done (s.updTen t fun n => { n with archWords := ws, migGen := word w 3 }) 0

/-- CORE_FAILURE (R109, R413). A core that fails while a repair drains it is remapped by that repair, which ends with the same status. -/
def coreFails (s : State) (c : Nat) : State :=
  match theDrain s with
  | some x => if x.op = 0x20 && x.target = c && failedCore s c then s else failCore s c
  | none => failCore s c

def execAdmit (s : State) : Host.Outcome State Fault Refusal := .next (runAdmin s 0x10 admitCommand)
def execRetire (s : State) : Host.Outcome State Fault Refusal := .next (runAdmin s 0x11 retire)
def execDraincore (s : State) : Host.Outcome State Fault Refusal := .next (runAdmin s 0x20 drainCoreCmd)
def execRetrain (ok : Nat) (s : State) : Host.Outcome State Fault Refusal := .next (runAdmin s 0x21 fun s => domainRepair s 0x21 ok)
def execRecal (s : State) : Host.Outcome State Fault Refusal := .next (runAdmin s 0x22 fun s => domainRepair s 0x22 1)
def execDrainDeadline (s : State) : Host.Outcome State Fault Refusal := .next (expireDrain s)
def execFwupdate (s : State) : Host.Outcome State Fault Refusal := .next (runAdmin s 0x23 updateFirmware)
def execSorterload (ok : Nat) (s : State) : Host.Outcome State Fault Refusal := .next (runAdmin s 0x24 fun s => loadSorter s ok)
def execAdminAttest (s : State) : Host.Outcome State Fault Refusal := .next (runAdmin s 0x25 attestModule)
def execMigset (s : State) : Host.Outcome State Fault Refusal := .next (runAdmin s 0x26 migrate)
def execCoreFailure (c : Nat) (s : State) : Host.Outcome State Fault Refusal := .next (coreFails s c)
def execAndTreeArrival (t l n node : Nat) (s : State) : Host.Outcome State Fault Refusal := .next (treeArrive s t l n node)
def execAndTreeRelease (t l n : Nat) (s : State) : Host.Outcome State Fault Refusal := .next (treeRelease s t l n)

end Sys2Proof.Machine
end

