-- ==== Sys2Proof/Machine/BarrierOps.lean ====
section
/-! DEFINITION. Barrier instructions (R97-R104, R110, R276-R278). A waiting entry is released by the step BARRIER_RELEASE. -/
namespace Sys2Proof.Machine
open Sys2Proof

/-- Level and number of a barrier instruction (R276). -/
def barLvl (x : Ext) : Nat := (x.mod6.extractLsb' 0 2).toNat
def barNum (x : Ext) : Nat := (x.aux8.extractLsb' 0 4).toNat
/-- G of the barrier an instruction names. -/
def barGen (s : State) (h : Here) (x : Ext) : BitVec 16 :=
  match s.block h.c h.b with
  | some k => (getBar s k h.g (barLvl x) (barNum x)).gen
  | none => 0

/-- A status or generation with no active lane (R180, R277): to a register; a channel moves no word. -/
def emptyUni (r : Row) (x : Ext) (v : Here → State → W64) (h : Here) (s : State) : Out :=
  if x.dcl || !regOk h r.d x x.d.toNat x.dcl then .fin s
  else .fin (s.updGroup h.c h.b h.g fun g => g.putS h.tick x.d.toNat (v h s))

/-- The arrival's half of the edge of R95: the thread's stores have reached the L2. -/
def barRelease (s : State) (c lvl : Nat) : State := if lvl = 0 then s else drainCore s c
/-- BARA (R276, R277). -/
def bodyBara : ExtBody := fun x =>
  vecBody Rows.bara x false (emptyUni Rows.bara x fun h s => (barGen s h x).zeroExtend 64) fun h s m =>
    match arriveLanes (barRelease s h.c (barLvl x)) h.c h.b h.g (barLvl x) (barNum x) m false with
    | none => .park s .barrier
    | some (s, gen) => .fin (pendUni s h Rows.bara x (gen.zeroExtend 64) 0)

/-- Waiting on a generation (R101): done at once, or the entry waits. A channel destination's space is held (R140). -/
def waitBar (s : State) (h : Here) (r : Row) (x : Ext) (gen : BitVec 16) (step : Bool) (s0 : State) : Out :=
  if barDone (barGen s h x) gen then finPush s0 x (dstUni (barAcquire s h.c h.ten (barLvl x)) h r x 0)
  else
    let s := if x.dcl then reservePush s h.c x.d.toNat 2 else s
    .went (waitAt s h (.bar (barLvl x) (barNum x) gen x.dcl x.d.toNat (h.ent.pc.plus (extLen x)) step))

/-- BARW (R276, R277). -/
def bodyBarw : ExtBody := fun x =>
  vecBody Rows.barw x false (emptyUni Rows.barw x fun _ _ => 0) fun h s m =>
    let q := fetchSrcs s h Rows.barw x (laneList h.width m)
    waitBar q.2 h Rows.barw x ((q.1.a 0).setWidth 16) false s

/-- BARS and SSTEP: arrive, then wait on the generation of the arrival (R101, R110). -/
def arriveWait (r : Row) (step : Bool) : ExtBody := fun x =>
  vecBody r x false (emptyUni r x fun _ _ => 0) fun h s m =>
    let stream := barLvl x == 1 && (getBar s h.blk h.g 1 (barNum x)).arrived.contains 64
    match arriveLanes (barRelease s h.c (barLvl x)) h.c h.b h.g (barLvl x) (barNum x) m step with
    | none => .park s .barrier
    | some (t, gen) =>
      let t := if stream && barDone (barGen t h x) gen then
          t.updGroup h.c h.b h.g fun g => { g with fflags := g.fflags ||| h.blk.tileFlags }
        else t
      waitBar t h r x gen step s
def bodyBars : ExtBody := arriveWait Rows.bars false
def bodySstep : ExtBody := arriveWait Rows.sstep true

/-- BARGEN (R276). -/
def bodyBargen : ExtBody := fun x =>
  uniBody Rows.bargen x false anyMode fun h s => .fin (pendUni s h Rows.bargen x ((barGen s h x).zeroExtend 64) 0)

/-- BARCFG (R104, R278). -/
def bodyBarcfg : ExtBody := fun x =>
  uniBody Rows.barcfg x false anyMode fun h s =>
    let (v, s1) := fetchSrcs s h Rows.barcfg x []
    let e := (v.a 0).toNat
    if e < 1 || 65 < e then .trap s xIllop 0
    else
      let bar := getBar s h.blk h.g 1 (barNum x)
      if !bar.arrived.isEmpty then .trap s xBarbusy (BitVec.ofNat 64 (16 + barNum x))
      else .fin (setBar s1 h.c h.b h.blk h.g 1 (barNum x) { bar with exp := e, custom := true })

def execBara (x : Ext) (s : State) := runExt bodyBara x s
def execBarw (x : Ext) (s : State) := runExt bodyBarw x s
def execBars (x : Ext) (s : State) := runExt bodyBars x s
def execBargen (x : Ext) (s : State) := runExt bodyBargen x s
def execBarcfg (x : Ext) (s : State) := runExt bodyBarcfg x s
def execSstep (x : Ext) (s : State) := runExt bodySstep x s

end Sys2Proof.Machine
end

