-- ==== Sys2Proof/Machine/Elementary.lean ====
section
/-! DEFINITION. The special functions (R169-R172): the exact results of the special-input tables, and elsewhere a free value kept
within the bounds of R170. -/
namespace Sys2Proof.Machine
open Sys2Proof

/-- Integer square root by bits, from bit `k` down: the largest r with r² ≤ n. -/
def isqrtFrom (n : Nat) : Nat → Nat → Nat
  | 0, r => r
  | k + 1, r => let r' := r + 2 ^ k; if r' * r' ≤ n then isqrtFrom n k r' else isqrtFrom n k r

/-- SQRT of a finite positive value, correctly rounded by rne (R170): the root is bracketed to 2^-60 relative, with a
sticky part for the inexact case. -/
def sqrtCode (n d : Nat) : Nat :=
  let e := log2Frac n d / 2
  let sh := 40 - e
  let num := n * pow2Num (2 * sh)
  let den := d * pow2Den (2 * sh)
  let q := num / den
  let r := isqrtFrom q 48 0
  let exact := decide (r * r = q) && decide (num % den = 0)
  let m := 2 * r + (if exact then 0 else 1)
  let k := -(sh + 1)
  (roundFmt (.fin false (m * pow2Num k) (pow2Den k)) fmtF32 0 false).1

/-- A fraction lies within relative 2^-23 of 1 (R170). -/
def nearOne (n d : Nat) : Bool :=
  decide (n * 2 ^ 23 ≤ d * (2 ^ 23 + 1)) && decide (d * (2 ^ 23 - 1) ≤ n * 2 ^ 23)

/-- The free result of RCP, kept within its bound: a candidate outside it is replaced by the rounded reciprocal
(R170), as is a subnormal one (R172). -/
def rcpCode (c n d : Nat) : Nat :=
  match decodeFp fmtF32 c with
  | .fin false m e => if nearOne (m * n) (e * d) && decide (e ≤ m * 2 ^ 126) then c else (roundFmt (.fin false d n) fmtF32 0 false).1
  | _ => (roundFmt (.fin false d n) fmtF32 0 false).1

/-- The free result of RSQ, kept within its bound (R170): c²·x within (1 ± 2^-23)². -/
def rsqCode (c n d : Nat) : Nat :=
  let fall :=
    let e := log2Frac n d
    let sh := 40 + e / 2
    let num := d * pow2Num (2 * sh)
    let den := n * pow2Den (2 * sh)
    let r := isqrtFrom (num / den) 48 0
    (roundFmt (.fin false (r * pow2Num (-sh)) (pow2Den (-sh))) fmtF32 0 false).1
  match decodeFp fmtF32 c with
  | .fin false m e =>
    if m * m * n * 2 ^ 46 ≤ e * e * d * (2 ^ 23 + 1) ^ 2 && e * e * d * (2 ^ 23 - 1) ^ 2 ≤ m * m * n * 2 ^ 46 then c
    else fall
  | _ => fall

/-- A finite value is an integer, and the integer. -/
def intOf (v : Val) : Option Int :=
  match v with
  | .fin neg n d => if n % d = 0 then some (if neg then -((n / d : Nat) : Int) else (n / d : Nat)) else none
  | _ => none

/-- A finite value doubled is an odd integer: x = k/2 with k odd, and k. -/
def halfOf (v : Val) : Option Int :=
  match v with
  | .fin neg n d =>
    if (2 * n) % d = 0 && (2 * n / d) % 2 = 1 then some (if neg then -((2 * n / d : Nat) : Int) else (2 * n / d : Nat))
    else none
  | _ => none

/-- x ≥ k for an integer k. -/
def geInt (v : Val) (k : Int) : Bool := !ltVal v (valOfInt k)

/-- |x|. -/
def Val.abs : Val → Val
  | .nan => .nan
  | .inf _ => .inf false
  | .fin _ n d => .fin false n d

/-- The code of 2^k (R171). -/
def codeOfPow2 (k : Int) : Nat := (roundFmt (.fin false (pow2Num k) (pow2Den k)) fmtF32 0 false).1

/-- Codes that the special-input tables name. -/
def codeOne : Nat := 0x3F800000
def codeInf : Nat := 0x7F800000
def codeNan : Nat := 0x7FC00000
def codeNeg : Nat := 0x80000000

/-- Fixed point with 400 fraction bits: ln 2 and π, rounded down. The sums below keep each value within 2^-380 of the exact one. -/
def fxOne : Nat := 2 ^ 400
def fxLn2 : Nat := 1789879222497203190815761498240779176894896805856420935579692301363062920687047601279850318367644315849030039181347319086
def fxPi : Nat := 8112377246730971238862271351300894519161151600179265203591191037615230905373990498745523360926816815427566779727327576236

/-- e^t for a fixed t below 1, by its series from term `i` on. -/
def expSeries (t : Nat) : Nat → Nat → Nat → Nat
  | 0, _, _ => 0
  | n + 1, i, term => term + expSeries t n (i + 1) (term * t / (fxOne * (i + 1)))
/-- 2^u for a fixed u: the exponent and the fixed significand in [1, 2). -/
def exp2Fixed (u : Int) : Int × Nat :=
  (u / fxOne, expSeries ((u % fxOne).toNat * fxLn2 / fxOne) 85 0 fxOne)
/-- e^x for x = ± n/d, as 2^(x / ln 2). -/
def expFrac (neg : Bool) (n d : Nat) : Int × Nat :=
  let u : Int := (n * fxOne * fxOne / (d * fxLn2) : Nat)
  exp2Fixed (if neg then -u else u)
/-- atanh z for a fixed z of at most 1/3, by its series. -/
def atanhSeries (z2 : Nat) : Nat → Nat → Nat → Nat
  | 0, _, _ => 0
  | n + 1, i, pow => pow / (2 * i + 1) + atanhSeries z2 n (i + 1) (pow * z2 / fxOne)
/-- log2 of a fixed m in [1, 2). -/
def log2Fixed (m : Nat) : Nat :=
  let z := (m - fxOne) * fxOne / (m + fxOne)
  2 * atanhSeries (z * z / fxOne) 130 0 z * fxOne / fxLn2
/-- sin t for a fixed t of at most π/2, by its series. -/
def sinSeries (t2 : Nat) : Nat → Nat → Nat → Int
  | 0, _, _ => 0
  | n + 1, i, term => (term : Int) - sinSeries t2 n (i + 1) (term * t2 / (fxOne * ((2 * i + 2) * (2 * i + 3))))
/-- sin πr for a fixed r in [0, 1/2]. -/
def sinHalf (r : Nat) : Nat :=
  let t := r * fxPi / fxOne
  (sinSeries (t * t / fxOne) 50 0 t).toNat
/-- sin πx, x = n/d ≥ 0: sign and fixed magnitude. -/
def sinPi (n d : Nat) : Bool × Nat :=
  let r := n * fxOne / d % (2 * fxOne)
  let q := r % fxOne
  (decide (fxOne ≤ r), sinHalf (if 2 * q ≤ fxOne then q else fxOne - q))
/-- cos πx. -/
def cosPi (n d : Nat) : Bool × Nat := sinPi (2 * n + d) (2 * d)

/-- The free code of a special function, kept within its bound (R170): only a candidate that provably lies within the tolerance
tn/td of y stands, any other is replaced by y rounded. Here y = ± m · 2^(k - 400), known to 2^(k - 380), which the test takes off the tolerance. -/
def within (c : Nat) (neg : Bool) (k : Int) (m : Nat) (tn td : Nat) : Nat :=
  let yn := m * pow2Num (k - 400)
  let yd := pow2Den (k - 400)
  match decodeFp fmtF32 c with
  | .fin cneg a b =>
    let x : Int := if cneg then -((a * yd : Nat) : Int) else ((a * yd : Nat) : Int)
    let y : Int := if neg then -((yn * b : Nat) : Int) else ((yn * b : Nat) : Int)
    let sn := tn * pow2Den (k - 380) - td * pow2Num (k - 380)
    let sd := td * pow2Den (k - 380)
    if (x - y).natAbs * sd ≤ sn * (b * yd) then c else (roundFmt (.fin neg yn yd) fmtF32 0 false).1
  | _ => (roundFmt (.fin neg yn yd) fmtF32 0 false).1

/-- Two ulps of y = m · 2^(k - 400), as a fraction (R169). -/
def twoUlp (k : Int) (m : Nat) : Nat × Nat :=
  let e := max (log2Frac (m * pow2Num (k - 400)) (pow2Den (k - 400))) (-126) - 22
  (pow2Num e, pow2Den e)
/-- The larger of two ulps of y and 2^-24 (R170). -/
def twoUlpOr24 (k : Int) (m : Nat) : Nat × Nat :=
  let (n, d) := twoUlp k m
  if n * 2 ^ 24 ≤ d then (1, 2 ^ 24) else (n, d)

/-- EXP2 within 2 ulp. -/
def exp2Code (c : Nat) (neg : Bool) (n d : Nat) : Nat :=
  let u : Int := (n * fxOne / d : Nat)
  let (k, m) := exp2Fixed (if neg then -u else u)
  let (tn, td) := twoUlp k m
  within c false k m tn td
/-- LOG2 within 2 ulp, or absolute 2^-22 for x in [0.5, 2]. -/
def log2Code (c n d : Nat) : Nat :=
  let k := log2Frac n d
  let y : Int := k * (fxOne : Int) + (log2Fixed (n * pow2Den k * fxOne / (d * pow2Num k)) : Int)
  let (tn, td) := if d ≤ 2 * n && n ≤ 2 * d then (1, 2 ^ 22) else twoUlp 0 y.natAbs
  within c (decide (y < 0)) 0 y.natAbs tn td
/-- TANH. -/
def tanhCode (c : Nat) (neg : Bool) (n d : Nat) : Nat :=
  let (k, m) := expFrac true (2 * n) d
  let e := m * pow2Num k / pow2Den k
  let y := (fxOne - e) * fxOne / (fxOne + e)
  let (tn, td) := twoUlpOr24 0 y
  within c neg 0 y tn td
/-- LGST. -/
def lgstCode (c : Nat) (neg : Bool) (n d : Nat) : Nat :=
  let (k, m) := expFrac true n d
  let e := m * pow2Num k / pow2Den k
  let y := (if neg then e else fxOne) * fxOne / (fxOne + e)
  let (tn, td) := twoUlpOr24 0 y
  within c false 0 y tn td
/-- SINP and COSP within absolute 2^-22. -/
def sinpCode (c : Nat) (neg : Bool) (n d : Nat) : Nat := within c (neg != (sinPi n d).1) 0 (sinPi n d).2 1 (2 ^ 22)
def cospCode (c : Nat) (n d : Nat) : Nat := within c (cosPi n d).1 0 (cosPi n d).2 1 (2 ^ 22)

/-- A special function of one FP32 code (R169-R172): the result and flags. The XOP names the function. RCP of ±2^-128 is infinity with OF
(DEDUCED, log 190). -/
def specialFn (xop : Nat) (c : Nat) : Nat × Flags :=
  let v := decodeFp fmtF32 c
  let sg := if v.neg then codeNeg else 0
  let free := (Config.sfApprox xop (BitVec.ofNat 32 c)).toNat
  match v with
  | .nan => (codeNan, 0)
  | _ =>
  match xop with
  | 0x150 => -- EXP2
    match v with
    | .inf neg => (if neg then 0 else codeInf, 0)
    | .nan => (codeNan, 0)
    | .fin neg n d =>
      if v.isZero then (codeOne, 0)
      else if geInt v 128 then (codeInf, flagOF)
      else if ltVal v (valOfInt (-150)) then (0, flagUF)
      else match intOf v with
        | some k => if -149 ≤ k then (codeOfPow2 k, 0) else (exp2Code free neg n d, 0)
        | none => (exp2Code free neg n d, 0)
  | 0x151 => -- LOG2
    match v with
    | .inf neg => if neg then (codeNan, flagIV) else (codeInf, 0)
    | .fin neg n d =>
      if n = 0 then (codeNeg + codeInf, flagDZ)
      else if neg then (codeNan, flagIV)
      else
        let k := log2Frac n d
        if n * pow2Den k = d * pow2Num k then ((roundFmt (valOfInt k) fmtF32 0 false).1, 0) else (log2Code free n d, 0)
    | .nan => (codeNan, 0)
  | 0x152 => -- RCP
    match v with
    | .inf _ => (sg, 0)
    | .fin _ n d =>
      if n = 0 then (sg + codeInf, flagDZ)
      else if ltVal (.fin false (2 ^ 126) 1) v.abs then (sg, flagUF)
      else if decide (n * 2 ^ 128 ≤ d) then (sg + codeInf, flagOF)
      else
        let r := rcpCode free n d
        if r = codeInf then (sg + codeInf, flagOF) else (sg + r, 0)
    | .nan => (codeNan, 0)
  | 0x153 => -- RSQ
    match v with
    | .inf neg => if neg then (codeNan, flagIV) else (0, 0)
    | .fin neg n d =>
      if n = 0 then (sg + codeInf, flagDZ) else if neg then (codeNan, flagIV) else (rsqCode free n d, 0)
    | .nan => (codeNan, 0)
  | 0x154 => -- SQRT
    match v with
    | .inf neg => if neg then (codeNan, flagIV) else (codeInf, 0)
    | .fin neg n d => if n = 0 then (sg, 0) else if neg then (codeNan, flagIV) else (sqrtCode n d, 0)
    | .nan => (codeNan, 0)
  | 0x155 => -- TANH
    match v with
    | .inf _ => (sg + codeOne, 0)
    | .fin neg n d =>
      if n = 0 then (c, 0)
      else if geInt v.abs 10 then (sg + codeOne, 0)
      else if n * 2 ^ 12 < d then (c, 0)
      else (tanhCode free neg n d, 0)
    | .nan => (codeNan, 0)
  | 0x156 => -- LGST
    match v with
    | .inf neg => (if neg then 0 else codeOne, 0)
    | .nan => (codeNan, 0)
    | .fin neg n d =>
      if v.isZero then (0x3F000000, 0)
      else if geInt v 17 then (codeOne, 0)
      else if ltVal v (valOfInt (-104)) then (0, flagUF)
      else (lgstCode free neg n d, 0)
  | 0x157 => -- SINP
    match v with
    | .inf _ => (codeNan, flagIV)
    | .nan => (codeNan, 0)
    | .fin neg n d =>
      match intOf v, halfOf v with
      | some _, _ => (sg, 0)
      | none, some k => (if (k - 1) / 2 % 2 = 0 then codeOne else codeNeg + codeOne, 0)
      | none, none => (sinpCode free neg n d, 0)
  | _ => -- COSP
    match v with
    | .inf _ => (codeNan, flagIV)
    | .nan => (codeNan, 0)
    | .fin _ n d =>
      match intOf v, halfOf v with
      | some k, _ => (if k % 2 = 0 then codeOne else codeNeg + codeOne, 0)
      | none, some _ => (0, 0)
      | none, none => (cospCode free n d, 0)

end Sys2Proof.Machine
end

