-- ==== Sys2Proof/Machine/CrossLane.lean ====
section
/-! DEFINITION. Cross-lane instructions (R247-R253), of class V: they see only the active lanes of the issuing entry, and
those with a uniform destination write it even when there are none (R180). -/
namespace Sys2Proof.Machine
open Sys2Proof

/-- A uniform result of class V on its way: to a uniform predicate, a register or a channel. -/
def pendCross (s : State) (h : Here) (r : Row) (x : Ext) (v : W64) (f : Flags) : State :=
  match isPred r.d x with
  | some _ => s.updGroup h.c h.b h.g fun g => addPend g h.tick (.upred x.d.toNat (v != 0)) f
  | none => pendUni s h r x v f

/-- A cross-lane instruction with a uniform destination (R247, R250, R251): with no active lane it moves no channel word
and raises nothing, and its result goes to a register; `reads` says that it reads A even then, and so waits for a held register (R260). -/
def crossUni (r : Row) (reads : Bool) (f : Ext → Here → Srcs → List Nat → W64 × Flags) : ExtBody := fun x =>
  vecBody r x false
    (fun h s =>
      let none_ : Srcs := ⟨fun _ => 0, if x.bcl then fun _ => BitVec.ofNat 64 (Config.choice h.tick)
        else (fetchSrcs s h r x []).1.b, fun _ => 0, fun _ => 0⟩
      if reads && scoreboardHolds h r x false then .park s .scoreboard
      else if x.dcl || !regOk h r.d x x.d.toNat x.dcl then .fin s else .fin (pendCross s h r x (f x h none_ []).1 0))
    (fun h s m =>
      let ls := laneList h.width m
      let q := fetchSrcs s h r x ls
      let o := f x h q.1 ls
      .fin (pendCross q.2 h r x o.1 o.2))

/-- A cross-lane instruction with a vector destination (R249, R252, R253). -/
def crossVec (r : Row) (f : Ext → Here → Srcs → List Nat → List (Nat × W64) × Flags) : ExtBody := fun x =>
  vecBody r x false idle fun h s m =>
    let ls := laneList h.width m
    let q := fetchSrcs s h r x ls
    let o := f x h q.1 ls
    .fin (pendVec q.2 h r x o.1 o.2)

/-- V2S (R247): lane j = s(B) mod W of A, whether or not it is active. -/
def bodyV2s : ExtBody := crossUni Rows.v2s true fun x h v _ =>
  let j := (v.b 0).toNat % h.width
  (if x.mod6.getLsbD 0 then h.grp.rv2 h.tick x.a.toNat j else of32 (h.grp.rv h.tick x.a.toNat j), 0)

/-- SHFL's source lane, computed exactly (R249). -/
def shflLane (mode : BitVec 2) (l b : Nat) : Int :=
  match mode with
  | 0#2 => b
  | 1#2 => (l : Int) - b
  | 2#2 => (l : Int) + b
  | _ => ((l ^^^ b : Nat) : Int)
/-- SHFL (R249). -/
def bodyShfl : ExtBody := crossVec Rows.shfl fun x h v ls =>
  (ls.map fun l =>
    let j := shflLane (x.mod6.extractLsb' 0 2) l (lo32 (v.b l)).toNat
    (l, v.a (if decide (0 ≤ j) && decide (j < h.width) && ls.contains j.toNat then j.toNat else l)), 0)

/-- VOTE (R250). -/
def bodyVote : ExtBody := crossUni Rows.vote false fun x h _ ls =>
  let yes (l : Nat) : Bool := h.grp.rp x.a.toNat l
  match x.mod6.extractLsb' 0 2 with
  | 0#2 => (truth (ls.all yes), 0)
  | 1#2 => (truth (ls.any yes), 0)
  | 2#2 => (lanesOf (ls.filter yes), 0)
  | _ => (truth (ls.all yes || ls.all fun l => !yes l), 0)

/-- The identity of a group operation (R251). -/
def groupIdentity (t : BitVec 4) (op : BitVec 3) : Nat :=
  if t == tyF32 then (match op with | 0#3 => 0 | 1#3 => 0x7F800000 | _ => 0xFF800000)
  else match op with
    | 1#3 => if t == tyS32 then 0x7FFFFFFF else 0xFFFFFFFF
    | 2#3 => if t == tyS32 then 0x80000000 else 0
    | 3#3 => 0xFFFFFFFF
    | _ => 0
/-- A NaN code made canonical. -/
def canonNan (c : Nat) : Nat := if fpVal tyF32 c == .nan then codeNan else c
/-- One integer step of a group operation (R251). -/
def groupStep (t : BitVec 4) (op : BitVec 3) (a b : W32) : W32 :=
  match op with
  | 0#3 => a + b
  | 1#3 => if iVal t b < iVal t a then b else a
  | 2#3 => if iVal t a < iVal t b then b else a
  | 3#3 => a &&& b
  | 4#3 => a ||| b
  | _ => a ^^^ b
/-- A group operation over values (R251): exact sums round once, and NaNs lose a minimum or maximum. -/
def groupOp (t : BitVec 4) (op rm : BitVec 3) (vs : List W32) : Nat × Flags :=
  match vs with
  | [] => (groupIdentity t op, 0)
  | a :: r =>
    if t == tyF32 then
      if op == 0#3 then
        let q := sumVals (vs.map fun c => fpVal tyF32 c.toNat) rm
        let o := roundFmt q.1 fmtF32 rm false
        (o.1, q.2 ||| o.2)
      else (canonNan (r.foldl (fun m c => fpMinMax tyF32 (op == 2#3) m c.toNat) a.toNat), 0)
    else ((r.foldl (groupStep t op) a).toNat, 0)

/-- REDG (R251). -/
def bodyRedg : ExtBody := crossUni Rows.redg false fun x _ v ls =>
  let o := groupOp x.ty (x.mod6.extractLsb' 0 3) x.rm (ls.map fun l => lo32 (v.a l))
  let w : W32 := BitVec.ofNat 32 o.1
  (if x.ty == tyS32 then w.signExtend 64 else w.zeroExtend 64, o.2)

/-- SCANG (R252): lane l(i) takes the operation over l(0) to l(i), or to l(i-1). -/
def bodyScang : ExtBody := crossVec Rows.scang fun x _ v ls =>
  let vs := ls.map fun l => lo32 (v.a l)
  let out := ((List.range ls.length).zip ls).map fun (i, l) =>
    (l, fpOut (groupOp x.ty (x.mod6.extractLsb' 0 3) x.rm (vs.take (if x.mod6.getLsbD 3 then i else i + 1))))
  (out.map fun o => (o.1, o.2.1), out.foldl (fun (a : Flags) o => a ||| o.2.2) 0)

/-- MATCH (R253). -/
def bodyMatchLanes : ExtBody := crossVec Rows.matchLanes fun x _ v ls =>
  let key (l : Nat) : W64 := if x.mod6.getLsbD 0 then v.a l else of32 (lo32 (v.a l))
  (ls.map fun l => (l, lanesOf (ls.filter fun j => key j == key l)), 0)

def execV2s (x : Ext) (s : State) := runExt bodyV2s x s
def execShfl (x : Ext) (s : State) := runExt bodyShfl x s
def execVote (x : Ext) (s : State) := runExt bodyVote x s
def execRedg (x : Ext) (s : State) := runExt bodyRedg x s
def execScang (x : Ext) (s : State) := runExt bodyScang x s
def execMatchLanes (x : Ext) (s : State) := runExt bodyMatchLanes x s

end Sys2Proof.Machine
end

