-- ==== Sys2Proof/Machine/BaseForms.lean ====
section
/-! DEFINITION. The base instructions (R176, R177, R202): each means what its extended form means, at its own length. -/
namespace Sys2Proof.Machine
open Sys2Proof

def execNopBase (x : Base) (s : State) := runBase BaseRows.nopBase bodyNop x s
def execMovBase (x : Base) (s : State) := runBase BaseRows.movBase bodyMov x s
def execIaddS32Base (x : Base) (s : State) := runBase BaseRows.iaddS32Base bodyIadd x s
def execIaddS32ImmBase (x : Base) (s : State) := runBase BaseRows.iaddS32ImmBase bodyIadd x s
def execIsubS32Base (x : Base) (s : State) := runBase BaseRows.isubS32Base bodyIsub x s
def execImulS32Base (x : Base) (s : State) := runBase BaseRows.imulS32Base bodyImul x s
def execImulS32ImmBase (x : Base) (s : State) := runBase BaseRows.imulS32ImmBase bodyImul x s
def execImulhS32Base (x : Base) (s : State) := runBase BaseRows.imulhS32Base bodyImulh x s
def execIminS32Base (x : Base) (s : State) := runBase BaseRows.iminS32Base bodyImin x s
def execImaxS32Base (x : Base) (s : State) := runBase BaseRows.imaxS32Base bodyImax x s
def execIminU32Base (x : Base) (s : State) := runBase BaseRows.iminU32Base bodyImin x s
def execImaxU32Base (x : Base) (s : State) := runBase BaseRows.imaxU32Base bodyImax x s
def execIandBase (x : Base) (s : State) := runBase BaseRows.iandBase bodyIand x s
def execIorBase (x : Base) (s : State) := runBase BaseRows.iorBase bodyIor x s
def execIxorBase (x : Base) (s : State) := runBase BaseRows.ixorBase bodyIxor x s
def execIshlBase (x : Base) (s : State) := runBase BaseRows.ishlBase bodyIshl x s
def execIshlImmBase (x : Base) (s : State) := runBase BaseRows.ishlImmBase bodyIshl x s
def execIshrBase (x : Base) (s : State) := runBase BaseRows.ishrBase bodyIshr x s
def execIshrImmBase (x : Base) (s : State) := runBase BaseRows.ishrImmBase bodyIshr x s
def execIsraBase (x : Base) (s : State) := runBase BaseRows.israBase bodyIsra x s
def execIsraImmBase (x : Base) (s : State) := runBase BaseRows.israImmBase bodyIsra x s
def execIandImmBase (x : Base) (s : State) := runBase BaseRows.iandImmBase bodyIand x s
def execFaddBase (x : Base) (s : State) := runBase BaseRows.faddBase bodyFadd x s
def execFsubBase (x : Base) (s : State) := runBase BaseRows.fsubBase bodyFsub x s
def execFmulBase (x : Base) (s : State) := runBase BaseRows.fmulBase bodyFmul x s
def execFminBase (x : Base) (s : State) := runBase BaseRows.fminBase bodyFmin x s
def execFmaxBase (x : Base) (s : State) := runBase BaseRows.fmaxBase bodyFmax x s
def execHadd2F16Base (x : Base) (s : State) := runBase BaseRows.hadd2F16Base bodyHadd2 x s
def execHmul2F16Base (x : Base) (s : State) := runBase BaseRows.hmul2F16Base bodyHmul2 x s
def execHadd2Bf16Base (x : Base) (s : State) := runBase BaseRows.hadd2Bf16Base bodyHadd2 x s
def execHmul2Bf16Base (x : Base) (s : State) := runBase BaseRows.hmul2Bf16Base bodyHmul2 x s
def execS2vBase (x : Base) (s : State) := runBase BaseRows.s2vBase bodyS2v x s
def execV2sBase (x : Base) (s : State) := runBase BaseRows.v2sBase bodyV2s x s
def execUaddS64Base (x : Base) (s : State) := runBase BaseRows.uaddS64Base bodyUadd x s
def execUaddS64ImmBase (x : Base) (s : State) := runBase BaseRows.uaddS64ImmBase bodyUadd x s
def execUsubS64Base (x : Base) (s : State) := runBase BaseRows.usubS64Base bodyUsub x s
def execUmulS64Base (x : Base) (s : State) := runBase BaseRows.umulS64Base bodyUmul x s
def execUandBase (x : Base) (s : State) := runBase BaseRows.uandBase bodyUand x s
def execUorBase (x : Base) (s : State) := runBase BaseRows.uorBase bodyUor x s
def execUxorBase (x : Base) (s : State) := runBase BaseRows.uxorBase bodyUxor x s
def execUshlImmBase (x : Base) (s : State) := runBase BaseRows.ushlImmBase bodyUshl x s
def execUshrImmBase (x : Base) (s : State) := runBase BaseRows.ushrImmBase bodyUshr x s
def execUminS64Base (x : Base) (s : State) := runBase BaseRows.uminS64Base bodyUmin x s
def execUmaxS64Base (x : Base) (s : State) := runBase BaseRows.umaxS64Base bodyUmax x s
def execUmovBase (x : Base) (s : State) := runBase BaseRows.umovBase bodyUmov x s
def execLdsB32Base (x : Base) (s : State) := runBase BaseRows.ldsB32Base bodyLds x s
def execLdgB32Base (x : Base) (s : State) := runBase BaseRows.ldgB32Base bodyLdg x s
def execLdgU64Base (x : Base) (s : State) := runBase BaseRows.ldgU64Base bodyLdg x s
def execUldU64Base (x : Base) (s : State) := runBase BaseRows.uldU64Base bodyUld x s
def execIsetLtS32Base (x : Base) (s : State) := runBase BaseRows.isetLtS32Base bodyIset x s
def execIsetGeS32Base (x : Base) (s : State) := runBase BaseRows.isetGeS32Base bodyIset x s
def execIsetEqS32Base (x : Base) (s : State) := runBase BaseRows.isetEqS32Base bodyIset x s
def execIsetNeS32Base (x : Base) (s : State) := runBase BaseRows.isetNeS32Base bodyIset x s
def execUcmpLtS64Base (x : Base) (s : State) := runBase BaseRows.ucmpLtS64Base bodyUcmp x s
def execUcmpEqS64Base (x : Base) (s : State) := runBase BaseRows.ucmpEqS64Base bodyUcmp x s
def execUcmpLtS64ImmBase (x : Base) (s : State) := runBase BaseRows.ucmpLtS64ImmBase bodyUcmp x s
def execExitBase (x : Base) (s : State) := runBase BaseRows.exitBase (bodyExit (baseLen x)) x s
def execYldBase (x : Base) (s : State) := runBase BaseRows.yldBase (bodyYld (baseLen x)) x s
def execRetBase (x : Base) (s : State) := runBase BaseRows.retBase (bodyRet (baseLen x)) x s
def execUmovImmBase (x : Base) (s : State) := runBase BaseRows.umovImmBase bodyUmov x s
def execMovImmBase (x : Base) (s : State) := runBase BaseRows.movImmBase bodyMov x s
def execLdcB32Base (x : Base) (s : State) := runBase BaseRows.ldcB32Base bodyLdc x s
def execUsraImmBase (x : Base) (s : State) := runBase BaseRows.usraImmBase bodyUsra x s
def execUpopcBase (x : Base) (s : State) := runBase BaseRows.upopcBase bodyUpopc x s

end Sys2Proof.Machine
end

