-- ==== Sys2Proof/Machine/MemEvents.lean ====
section
/-! DEFINITION. The memory system's own steps: write-combining entries drain (R84), the directory serves guests (R89, R356),
and errors in the memories (R68, R70, R409). -/
namespace Sys2Proof.Machine
open Sys2Proof

/-- R89: a guest's read miss or write reaches the home directory; the bytes of a write follow it. The tenant is one of the
guest's domain. -/
def directoryRequest (s : State) (e line write : Nat) : State :=
  match tenantsOf s e with
  | t :: _ =>
    if isPeer (lineBase line) || s.home t (lineBase line) == e || s.homeDown t (lineBase line) then s
    else if write != 0 then l2Write s t e line []
    else if (kget (s.dom e).guest line).isSome then s else guestRead s t e line
  | [] => s

/-- The homes that may hold an entry for a line: a line of the host window has one for each root port (R66, R406). -/
def dropHomes (s : State) (line : Nat) : List Nat :=
  if lineBase line < hostBase then [s.home 0 (lineBase line)] else s.mod.hostHome.eraseDups
/-- GUEST_DROP_REPORT (R356): a guest L2 that has dropped its last line of an entry reports it to the home, which clears its presence
bit. -/
def guestDrop (s : State) (e line : Nat) : State :=
  if isPeer (lineBase line) then s
  else (dropHomes s line).foldl (fun s h => if h = e then s else reportDrop s h line e) s

/-- A line is poisoned at its home (R70), and counted there. -/
def poisonLine (s : State) (line : Nat) : State :=
  ({ s with poison := addMember s.poison line }).countErr (s.home 0 (lineBase line)) fun e => { e with poison := satAdd 16 e.poison }

/-- The levels of MEMORY_ERROR: where `loc` lies in each. L1 and L2 name a line 2^14 above the core, or domain; the instruction
memory, the registers with the hold tier and the scratchpad name a core; the memories a line. -/
def lvlL1 : Nat := 0
def lvlL2 : Nat := 1
def lvlImem : Nat := 2
def lvlDram : Nat := 3
def lvlEdge : Nat := 4
def lvlReg : Nat := 5
def lvlSpad : Nat := 6

/-- An error in a line of a domain's L2 (R68): a clean line is refetched; a dirty line is corrected, or poisoned at its home. -/
def l2Error (s : State) (d line : Nat) (ok : Bool) : State :=
  let count (s : State) : State := s.countErr d fun e => { e with ceL2 := satAdd 32 e.ceL2 }
  match kget (s.dom d).guest line with
  | some g =>
    if g.dirty != 0 then
      if ok then count s else poisonLine (s.updDom d fun x => x.without line) line
    else
      let s := (count s).updDom d fun x => x.without line
      match s.tenants.find? fun (_, n) => n.st != 0 && n.vni == g.vni with
      | some (t, _) => if s.homeDown t (lineBase line) then s else guestRead s t d line
      | none => s
  | none =>
    if (s.dom d).l2.contains line then
      if ok || !(s.dom d).hdirty.contains line then count s else poisonLine s line
    else s

/-- R68: an error in the L1, L2, instruction memory, domain memory or edge memory, and a corrected error in the registers, the hold tier
or a scratchpad (one that is not corrected there is HOLD_ECC_ERROR's, SCRATCHPAD_ECC_ERROR's). Every error is counted: an L1 line that
is refetched with the corrected errors of the L1, an error that an edge device corrects with those of its home's memory (DEDUCED,
log 155). -/
def memoryError (s : State) (level loc correctable : Nat) : State :=
  let unit := loc % 2 ^ 14
  let line := loc / 2 ^ 14
  let ok := correctable != 0
  let sram (s : State) : State := s.countErr (coreDomain unit) fun e => { e with ceSram := satAdd 32 e.ceSram }
  if level = lvlL1 then
    if ok then sram s else (sram s).updCore unit fun k => { k with l1 := kdel k.l1 line }
  else if level = lvlL2 then l2Error s unit line ok
  else if level = lvlImem then s.countErr (coreDomain unit) fun e => { e with imemPar := satAdd 16 e.imemPar }
  else if level = lvlDram ∨ level = lvlEdge then
    if ok then s.countErr (s.home 0 (lineBase loc)) fun e => { e with ceDram := satAdd 32 e.ceDram } else poisonLine s loc
  else if level = lvlReg then
    if ok then s.countErr (coreDomain unit) fun e => { e with ceReg := satAdd 32 e.ceReg } else s
  else if level = lvlSpad then
    if ok then sram s else s
  else s

/-- A PF write of zero to a word of an error block clears its counters (R409). -/
def clearCounters (s : State) (d w : Nat) : State :=
  if s.nlive ≤ d || 3 < w then s
  else s.countErr d fun e =>
    match w with
    | 0 => { e with ceSram := 0, ceReg := 0 }
    | 1 => { e with ceDram := 0, ceL2 := 0 }
    | 2 => { e with imemPar := 0, poison := 0, ueSram := 0, ueReg := 0 }
    | 3 => { e with vniDrops := 0, reroutes := 0, replays := 0 }
    | _ => e

def execWriteCombiningDrain (c line : Nat) (s : State) : Host.Outcome State Fault Refusal := .next (drainLine s c line)
def execDirectoryRequest (e line write : Nat) (s : State) : Host.Outcome State Fault Refusal := .next (directoryRequest s e line write)
def execGuestDropReport (e line : Nat) (s : State) : Host.Outcome State Fault Refusal := .next (guestDrop s e line)
def execMemoryError (level loc correctable : Nat) (s : State) : Host.Outcome State Fault Refusal := .next (memoryError s level loc correctable)
def execErrorCounterClear (d word : Nat) (s : State) : Host.Outcome State Fault Refusal := .next (clearCounters s d word)

end Sys2Proof.Machine
end

