-- ==== Sys2Proof/Machine/HostIo.lean ====
section
/-! DEFINITION. What the host does to the module through its functions' BARs (R379-R381) and registers (R11, R369, R380, R395, R396,
R403, R409-R411). -/
namespace Sys2Proof.Machine
open Sys2Proof

/-- A ring's registers lie in 32 bytes: BASE, LOG2N with EN and ERR, TAIL, HEAD (R380). Host-produced rings are 0 to 4, device-produced
ones 5 and 6 (R381). -/
def hostRing (q : Nat) : Bool := decide (q ≤ ringCQ)

/-- A TAIL write to a host-produced ring (R381): ignored with ERR set where it would overfill the ring or move TAIL backwards. -/
def Ring.writeTail (r : Ring) (v : Nat) : Ring :=
  let t : W32 := BitVec.ofNat 32 v
  if r.size < (t - r.head).toNat || (t - r.head).toNat < r.count then { r with err := true } else { r with tail := t }
/-- A write to one of a ring's registers (R11, R380, R381). -/
def Ring.write (r : Ring) (host : Bool) (sub v : Nat) : Ring :=
  let w : W64 := BitVec.ofNat 64 v
  if sub = 0 then (if r.en then r else { r with base := bits w 6 50 * 64 })
  else if sub = 8 then
    let n := bits w 0 5
    { r with en := bit w 31, err := r.err && !bit w 30, log2n := if !r.en && decide (4 ≤ n) && decide (n ≤ 16) then n else r.log2n }
  else if sub = 16 then (if host then r.writeTail v else r)
  else if sub = 24 then (if host then r else { r with head := BitVec.ofNat 32 v })
  else r

/-- The ring whose registers an offset of a tenant window lies in (R380). -/
def windowRing (o : Nat) : Option Nat :=
  if 0x100 ≤ o ∧ o < 0x180 then some ((o - 0x100) / 32)
  else if 0x180 ≤ o ∧ o < 0x1A0 then some ringCQ
  else if 0x200 ≤ o ∧ o < 0x220 then some ringFQ
  else if 0x240 ≤ o ∧ o < 0x260 then some ringDQ
  else none

/-- A host write to a tenant's window (R380): write-one-to-clear bits clear, reserved and read-only fields stay, and TAIL writes are
ignored unless the tenant is ACTIVE (R377). -/
def writeTenantWindow (s : State) (t o v : Nat) : State :=
  let w : W64 := BitVec.ofNat 64 v
  match windowRing o with
  | some q =>
    if o % 32 = 16 ∧ (s.ten t).st ≠ 1 then s
    else
      let s := s.updRing t q fun r => r.write (hostRing q) (o % 32) v
      if q = ringFQ then postWaiting s t (s.ten t).fqWait.length else s
  | none =>
    if o = 0x000 then s.updTen t fun n => { n with rstDone := n.rstDone && !bit w 2 }
    else if o = 0x008 then (if bit w 0 then resetTenant s t else s)
    else if o = 0x010 then raiseTopo (s.updTen t fun n => { n with wd := w.extractLsb' 0 16, wq := w.extractLsb' 16 16 })
    else if o = 0x020 then s.updTen t fun n => { n with apbase := bits w 36 20 * 2 ^ 36 }
    else if o = 0x308 then s.updTen t fun n => { n with esum := n.esum &&& ~~~w.extractLsb' 0 7 }
    else s

/-- A host write to the module block of domain 0 (R396). -/
def writeModuleBlock (s : State) (o v : Nat) : State :=
  let w : W64 := BitVec.ofNat 64 v
  if o = 0xC000 then
    let s := s.updMod fun m => { m with pctl := w &&& 0x6000FFFF0000003F }
    let s := if bit w 63 then preemptGo s else s
    if bit w 60 then resumeGo s (bits w 0 6) else s
  else if o = 0xC008 then writeLimit s v
  else if 0xC100 ≤ o ∧ o < 0xC300 ∧ o % 8 = 0 then
    (if bit w 3 then s.updTen ((o - 0xC100) / 8) fun n => { n with perr := false } else s)
  else if 0xC300 ≤ o ∧ o < 0xC500 ∧ o % 8 = 0 then s.updTen ((o - 0xC300) / 8) fun n => { n with pctx := bits w 21 31 * 2 ^ 21 }
  else s

/-- An offset of a control space that holds a block of R369. -/
def controlBlock (o : Nat) : Bool :=
  decide (o < 8) || (decide (0x100 ≤ o) && decide (o < 0x148)) || (decide (0x4000 ≤ o) && decide (o < 0x4400) && decide (o % 64 < 40)) ||
    (decide (0x4800 ≤ o) && decide (o < 0x4808)) || decide (0x8000 ≤ o)
/-- A host write to a domain's control space (R369): outside the blocks it is ignored and entered in the violation log; the blocks
the Postmaster or the Sorter writes are read-only to the host. -/
def writeControl (s : State) (d o v : Nat) : State :=
  let w : W64 := BitVec.ofNat 64 v
  if s.nlive ≤ d || !controlBlock o then s.updMod fun m => { m with violations := m.violations ++ [⟨3, d * 65536 + o, v⟩] }
  else if o = 0x8000 then s.updDom d fun x => { x with xinva := w &&& 0x00FFFFFFFFFF0000 }
  else if o = 0x8008 then s.updDom d fun x => { x with xinvn := w &&& 0x3FFFFFFF }
  else if o = 0x8010 then
    let s := if bit w 61 then s.updDom d fun x => { x with xinvErr := false } else s
    if bit w 63 then invalidateGo s d else s
  else if o = 0xA008 then
    let s := if bit w 1 then forceFallback s (s.prg d) else s
    if bit w 0 then restack s (s.prg d) else s
  else if d = 0 then writeModuleBlock s o v
  else s

/-- A write to the PF's BAR0 (R379). -/
def writePf (s : State) (o v : Nat) : State :=
  let w : W64 := BitVec.ofNat 64 v
  if o < 0x40000 then writeTenantWindow s (o / 0x1000) (o % 0x1000) v
  else if o = 0x40008 then s.updMod fun m => { m with apbase := bits w 36 20 * 2 ^ 36 }
  else if 0x40180 ≤ o ∧ o < 0x401A0 then s.updPfRing ringCQ fun r => r.write true (o % 32) v
  else if 0x40200 ≤ o ∧ o < 0x40220 then s.updPfRing ringFQ fun r => r.write false (o % 32) v
  else if 0x50000 ≤ o ∧ o < 0x51000 then (if v % 2 ^ 64 = 0 ∧ o % 8 = 0 then clearCounters s ((o - 0x50000) / 64) (o % 64 / 8) else s)
  else if o = 0x51000 then
    if 9 < bits w 8 8 then s
    else
      let s := s.updMod fun m => { m with spareMin := w.extractLsb' 8 8 }
      (List.range s.nlive).foldl checkSpares s
  else if 0x400000 ≤ o ∧ o < 0x800000 then writeControl s ((o - 0x400000) / 65536) (o % 65536) v
  else s

/-- A write to a function's BAR4 (R379): the MSI-X table, four entries of 16 bytes from offset 0; the PBA is read-only. An entry unmasked
while its vector is pending sends it. The layout is PCI Express's (PRESUMED, log 164). -/
def writeBar4 (s : State) (fn o v : Nat) : State :=
  let w : W64 := BitVec.ofNat 64 v
  let vec := o / 16
  if 4 ≤ vec then s
  else s.updMod fun m =>
    let e := m.vector fn vec
    let e := if o % 16 = 0 then (w &&& ~~~3#64, e.2) else if o % 16 = 8 then (e.1, w &&& 0x1FFFFFFFF#64) else e
    let due := !bit e.2 32 && m.pba.contains (fn, vec)
    { m with msixTab := kset m.msixTab (fn * 4 + vec) e, msix := if due then m.msix ++ [(fn, vec)] else m.msix
             pba := if due then m.pba.filter fun p => p != (fn, vec) else m.pba }
/-- A write to a port's NumVFs (R378): the four values together do not exceed 64; one that would make them is ignored (DESIGN CHOICE,
log 164). -/
def writeNumVfs (s : State) (port v : Nat) : State :=
  let l := setAt s.mod.numVfs port v
  if port < 4 ∧ l.sum ≤ 64 then s.updMod fun m => { m with numVfs := l } else s

/-- A function is a port's physical function (R378): 0, and 65 to 67 for ports 1 to 3 (DESIGN CHOICE, log 164). They share BAR0, BAR2 and the
rings; each has its own BAR4. -/
def isPf (fn : Nat) : Bool := (vectorFns 0).contains fn
/-- REGISTER_WRITE (R11): function n + 1 is VF n, whose BAR0 is its tenant's window. Offsets from 2^32 on are BAR4's, and of a PF from 2^33 on
the ports' NumVFs (DESIGN CHOICE, log 164). -/
def writeRegister (s : State) (fn off v : Nat) : State :=
  if isPf fn ∧ 2 ^ 33 ≤ off then writeNumVfs s (off - 2 ^ 33) v
  else if 2 ^ 32 ≤ off then writeBar4 s fn (off - 2 ^ 32) v
  else if isPf fn then writePf s off v
  else match vfTenant s (fn - 1) with
    | some t => if off < 0x1000 then writeTenantWindow s t off v else s
    | none => s

/-- The TAIL of a ring at an offset of a function's BAR0, if one lies there (R380, R388). -/
def isTail (fn off : Nat) : Bool :=
  let o := if isPf fn && decide (off < 0x40000) then off % 0x1000 else off
  o % 32 == 16 && (if isPf fn && decide (0x40000 ≤ off) then off == 0x40190 || off == 0x40210 else (windowRing o).isSome)
/-- RING_TAIL_WRITE (R377, R381). -/
def writeRingTail (s : State) (fn off v : Nat) : State := if isTail fn off then writeRegister s fn off v else s

/-- An address of a VF's BAR2 translated for a host access (R379): a failure posts an XFAULT that is not replayed; one that finds the
ring full waits for room (R383). The walker is that of the host port's home. -/
def hostXlat (s : State) (t va : Nat) (write : Bool) : State × Option Nat :=
  let d := s.mod.hostHome.getD (s.ten t).port 0
  match translate s d t va write with
  | (s, .ok pa _ _) => (s, some pa)
  | (s, .fail cause level ptepa pte) =>
    if cause = 0 then (s, none)
    else
      let fid := (s.dom d).nextFid
      let s := s.updDom d fun k => { k with nextFid := (k.nextFid + 1) % 2 ^ 32 }
      let ws := recordHead s 1 0 0 ++ xfaultWords d va cause level ptepa 4 fid pte write false
      let s := s.updTen t fun n => { n with fqWait := n.fqWait ++ [ws] }
      (postWaiting s t (s.ten t).fqWait.length, none)

/-- What a host access is completed with (R379, R393): the bytes read, or an Unsupported Request. -/
def State.complete (s : State) (r : Option (List Byte)) : State := s.updMod fun m => { m with completion := r }
/-- A host access to a physical address (R379, R406): a payload is a weak write performed in order, none is a read of a byte. Where no memory lies
it is an Unsupported Request; nothing is performed where memory is down, and what a read returns there, or of a poisoned line, is free (DESIGN CHOICE, log 193). -/
def hostAccess (s : State) (t pa : Nat) (payload : List Byte) : State :=
  if !s.memoryAt pa then s.complete none
  else if payload.isEmpty then
    if s.homeDown t pa || s.poisoned (lineOf pa) then s.complete (some [Config.dramByte s.tick (pa % 128)])
    else let (s, bs) := homeRead s t pa 1; s.complete (some bs)
  else (if s.homeDown t pa then s else homeStore s t pa payload).complete (some [])

/-- HOST_BAR2_ACCESS (R379): a PF's window is physical, a VF's its tenant's virtual addresses. A request crosses no 4 KiB boundary
(PRESUMED), and a write into a sealed range has no effect (R91). -/
def hostBar2 (s : State) (fn addr : Nat) (payload : List Byte) : State :=
  let a := addr % 2 ^ 36
  let bs := payload.take (4096 - a % 4096)
  if isPf fn then hostAccess s 0 (s.mod.apbase + a) bs
  else match vfTenant s (fn - 1) with
    | none => s.complete none
    | some t =>
      let va := (s.ten t).apbase + a
      match hostXlat s t va (!bs.isEmpty) with
      | (s, some pa) => if !bs.isEmpty && sealed s t va bs.length then s.complete (some []) else hostAccess s t pa bs
      | (s, none) => s.complete none

def execRegisterWrite (fn off val : Nat) (s : State) : Host.Outcome State Fault Refusal := .next (writeRegister s fn off val)
def execRingTailWrite (fn off val : Nat) (s : State) : Host.Outcome State Fault Refusal := .next (writeRingTail s fn off val)
def execHostBar2Access (fn addr : Nat) (payload : List Byte) (s : State) : Host.Outcome State Fault Refusal :=
  .next (hostBar2 s fn addr payload)

end Sys2Proof.Machine
end

