-- ==== Sys2Proof/Machine/Boot.lean ====
section
/-! DEFINITION. From power-on to READY (R363-R368), the Sorter's heartbeat and mailbox (R364), and the refresh of the published
figures (R370). -/
namespace Sys2Proof.Machine
open Sys2Proof

/-- The fields in snake order (R2): rows alternate direction. -/
def snake : List Nat := ((List.range 8).map fun y => (List.range 8).map fun x => 8 * y + (if y % 2 = 0 then x else 7 - x)).flatten
/-- The physical cores of a bay that are live, and the map of its logical cores (R367). -/
def bayMap (dead : List (Nat × Nat × Nat)) (f b : Nat) : List Nat :=
  let live := (List.range 16).filter fun n => !dead.contains (f, b, n)
  if live.length = 16 then List.range 15 else live.take 15
/-- A field that passes step 3 advertises at least one logical core (R368). -/
def fieldPasses (m : Module) (f : Nat) : Bool :=
  !m.deadFields.contains f && bayList.any fun b => !(bayMap m.deadCores f b).isEmpty

/-- The fields joined by working stitches to some of a set (R368). -/
def joined (m : Module) (live : List Nat) (set : List Nat) : List Nat :=
  live.filter fun f => set.contains f || set.any fun g => m.stitched f g
/-- The connected set of a field. -/
def component (m : Module) (live : List Nat) (f : Nat) : List Nat := (List.range 64).foldl (fun set _ => joined m live set) [f]
/-- The largest connected set; of equal ones that of field (0,0), else the one whose first field in snake order is earliest
(R368). -/
def mainSet (m : Module) (live : List Nat) : List Nat :=
  live.foldl (fun best f =>
    let c := component m live f
    if best.length < c.length || (best.length = c.length && c.contains 0 && !best.contains 0) then c else best) []

/-- The maps of the bays of the live domains (R367, R369). -/
def bayMaps (m : Module) (fields : List Nat) : KMap (List Nat) :=
  ((List.range fields.length).map fun d => bayList.map fun b => (d * 16 + b, bayMap m.deadCores (fields.getD d 0) b)).flatten
/-- The fields of the module as it stands mapped to logical domains in snake order (R2, R366). -/
def mapFields (s : State) (fields : List Nat) : State :=
  s.updMod fun m => { m with fieldOf := fields, bays := bayMaps m fields }

/-- A live pair without a route under either model, in either direction: the later in snake order is made dead, until every pair
has one (R368); of several such fields the first in snake order goes first (DEDUCED). -/
def pruneRoutes (s : State) : Nat → State
  | 0 => s
  | n + 1 =>
    let ds := List.range s.nlive
    match ds.find? fun e => ds.any fun d => decide (d < e) && ((routeOf s d e).isNone || (routeOf s e d).isNone) with
    | some e => pruneRoutes (mapFields s (s.mod.fieldOf.eraseIdx e)) n
    | none => s

/-- Boot step 3 (R366): what self-test finds dead, with what was known, is recorded. What it finds is free. -/
def selfTest (m : Module) : Module :=
  let dead := ((List.range 64).map fun f => (bayList.map fun b => (List.range 16).filterMap fun n =>
    if Config.coreDead f b n then some (f, b, n) else none).flatten).flatten
  { m with deadFields := m.deadFields ++ (List.range 64).filter fun f => Config.fieldDead f && !m.deadFields.contains f
           deadCores := m.deadCores ++ dead.filter fun c => !m.deadCores.contains c
           badStitches := m.badStitches ++ ((List.range 64).map fun f => (List.range 64).filterMap fun g =>
             if f < g ∧ adjacentFields f g ∧ Config.stitchDead f g ∧ !m.badStitches.contains (f, g) then some (f, g) else none).flatten }
/-- Boot steps 4 and 5 (R366-R368): maps, and routes computed and loaded. A field that is not mapped is dead from then on. -/
def remapAll (s : State) : State :=
  let live := snake.filter fun f => fieldPasses s.mod f && (mainSet s.mod (snake.filter (fieldPasses s.mod))).contains f
  let s := pruneRoutes (mapFields s live) 64
  loadRoutes (s.updMod fun m =>
    { m with deadFields := m.deadFields ++ (List.range 64).filter fun f => !m.fieldOf.contains f && !m.deadFields.contains f })
/-- Boot step 6 (R366): a domain that fails its training is dead, and steps 4 and 5 are repeated once. -/
def trainAll (s : State) : State :=
  let bad := s.mod.fieldOf.filter Config.dramDead
  if bad.isEmpty then s else remapAll (s.updMod fun m => { m with deadFields := m.deadFields ++ bad })
/-- Too few live domains or cores (R5, R366 step 4). -/
def tooFew (s : State) : Bool := decide (s.nlive < 62) || decide (advertised s < 8192)
/-- Boot ends with error 0x04, and the module asks for its replacement (R366, R411). -/
def bootShort (s : State) : State :=
  let s := s.updMod fun m => { m with bootErr := 4, svc := m.svc ||| 1 }
  postEvent s 9 0 [0, BitVec.ofNat 64 (s.nlive + advertised s % 2 ^ 14 * 2 ^ 16), 0, 0, 0, 0]

/-- Boot steps 3 to 10 with verified images (R366). A Postmaster image has run successfully once READY is set (DEDUCED). -/
def bootFrom (s : State) (image sorter : List Byte) : State :=
  let s := s.updMod fun m => selfTest { m with running := image, pmSvn := imageSvn image, mailbox := none, bootErr := 0, bootStep := 3 }
  let s := remapAll s
  if tooFew s then bootShort s
  else
    let s := trainAll (s.updMod fun m => { m with bootStep := 5 })
    if tooFew s then bootShort s
    else
      let s := s.updMod fun m =>
        { m with bootStep := 8, latNs := (List.range 8).map Config.latencyNs, pwMax := Config.pwMaxSet
                 hostHome := (List.range 4).map fun p => Config.hostHomeAt p % 64
                 hostUp := (List.range 4).map Config.hostPortUp
                 pfPage := some (Config.topoPage 64 % 2 ^ 36 * 65536)
                 cxl := (List.range 32).map fun p => (p, Config.edgeAtBoot p)
                 peers := (List.range 24).map fun p =>
                   let q := Config.peerAtBoot p
                   (p, (q.1, q.2.1, q.2.1 && q.2.2 != 0, q.2.2)) }
      let s := (List.range s.nlive).foldl checkSpares (publishAll (takeFigures s))
      if imageOk s.mod.svnMin 2 sorter then
        s.updMod fun m => raiseSvn { m with bootStep := 10, ready := true, sorter := sorter, sorterSvn := imageSvn sorter, beats := 0
                                            lastBeat := s.now, sorterUp := true, attestKey := s.tick
                                            limits := sorterControls.map fun o => (o, Config.sorterLimit o) } image
      else s.updMod fun m => { m with bootErr := 9 }
where
  /-- The controls that the Sorter writes (R363, R364): VXPOL and RCTL of each domain by their offsets in PF BAR0, its operating points and
  residency budgets, the tenants' weights, the regions' ballast and throttle. -/
  sorterControls : List Nat :=
    ((List.range 64).map fun d => [0x400000 + 65536 * d + 0x4800, 0x400000 + 65536 * d + 0xA008, ctlPoint d 0, ctlPoint d 1]).flatten ++
    (List.range 64).map ctlWeight ++ ((List.range 64).map fun d => (List.range 64).map (ctlBudget d)).flatten ++
    ((List.range 16).map fun r => [ctlBallast r, ctlThrottle r]).flatten

/-- POWER_ON_BOOT (R366): from the ROM; without a valid image in the flash the mailbox is polled, with error 0x02 while it holds none. -/
def powerOn (s : State) (image sorter : List Byte) : State :=
  if s.mod.bootStep != 0 then s
  else
    let s := s.updMod fun m => { m with bootStep := 1, flash := image, sorter := sorter }
    if imageOk s.mod.svnMin 1 image then bootFrom s image sorter
    else match s.mod.mailbox with
      | some im => if imageOk s.mod.svnMin 1 im then bootFrom s im sorter else s.updMod fun m => { m with bootErr := 2 }
      | none => s.updMod fun m => { m with bootErr := 2 }
/-- HOST_MAILBOX_IMAGE (R366, R414): an image in port 0's mailbox; the ROM that polls it verifies it and boots from it. -/
def mailboxImage (s : State) (image : List Byte) : State :=
  if s.mod.bootStep = 1 && s.mod.bootErr = 2 && imageOk s.mod.svnMin 1 image then bootFrom s image s.mod.sorter
  else s.updMod fun m => { m with mailbox := some image }

/-- SORTER_HEARTBEAT (R364). The Sorter has run successfully with its 100th beat (R415): the fused minimum follows its SVN (R365; DEDUCED). -/
def heartbeat (s : State) : State :=
  s.updMod fun m =>
    let m := { m with beats := m.beats + 1, lastBeat := s.now, sorterUp := true }
    if m.beats = 100 then raiseSvn m m.sorter else m
/-- SORTER_HEARTBEAT_TIMEOUT (R364): after 10 ms without one the Sorter is restarted and SORTERRESTART is posted. Its controls keep
their values, and the figures stay until it beats again. -/
def heartbeatLost (s : State) : State :=
  if s.mod.ready && decide (s.mod.lastBeat + 10000000 ≤ s.now) then
    let s' := postEvent s 8 0 [BitVec.ofNat 64 s.mod.beats, 0, 0, 0, 0, 0]
    s'.updMod fun m => { m with beats := 0, lastBeat := s.now, sorterUp := false }
  else s

/-- What a control's write does (R363): VXPOL, RCTL, a weight, which the topology tables show, a budget in lines, an operating point, ballast
or throttle. -/
def performControl (s : State) (off v : Nat) : State :=
  let d := (off - 0x400000) / 65536
  if 0x5000000 ≤ off then s.updRegion (off - 0x5000000) fun k => { k with throttle := min 2 v }
  else if 0x4000000 ≤ off then s.updRegion (off - 0x4000000) fun k => { k with ballast := v != 0 }
  else if 0x3000000 ≤ off then
    let d := (off - 0x3000000) / 2
    if 7 < v || s.nlive ≤ d then s
    else s.updDom d fun x => if off % 2 = 0 then { x with cpt := BitVec.ofNat 8 v } else { x with bpt := BitVec.ofNat 8 v }
  else if 0x2000000 ≤ off then
    let k := off - 0x2000000
    fitAll (s.updMod fun m => { m with budgets := kset m.budgets k (min v (786432 - budgetsGiven s (k / 64) (k % 64))) }) (k / 64)
  else if 0x1000000 ≤ off then raiseTopo (s.updMod fun m => { m with weights := kset m.weights (off - 0x1000000) v })
  else if s.nlive ≤ d then s
  else if off % 65536 = 0x4800 then s.updDom d fun x => { x with ueFirst := v % 2 = 1 }
  else writeControl s d 0xA008 v
/-- SORTER_MAILBOX_WRITE (R363, R364): a control within the limits the Postmaster set for it. -/
def mailboxWrite (s : State) (off v : Nat) : State := sorterSets s off v fun s => performControl s off v

/-- TOPOLOGY_REFRESH (R364, R370): the Sorter takes the figures anew and every page is rewritten under GEN. -/
def refreshTopology (s : State) : State := if s.mod.sorterUp && s.mod.fwFetch.isNone then publish1 (takeFigures s) else s

def execPowerOnBoot (image sorter : List Byte) (s : State) : Host.Outcome State Fault Refusal := .next (powerOn s image sorter)
def execHostMailboxImage (image : List Byte) (s : State) : Host.Outcome State Fault Refusal := .next (mailboxImage s image)
def execSorterHeartbeat (s : State) : Host.Outcome State Fault Refusal := .next (heartbeat s)
def execSorterHeartbeatTimeout (s : State) : Host.Outcome State Fault Refusal := .next (heartbeatLost s)
def execSorterMailboxWrite (off val : Nat) (s : State) : Host.Outcome State Fault Refusal := .next (mailboxWrite s off val)
def execTopologyRefresh (s : State) : Host.Outcome State Fault Refusal := .next (refreshTopology s)

end Sys2Proof.Machine
end

