-- ==== Sys2Proof/Machine/ChannelOps.lean ====
section
/-! DEFINITION. Channel configuration and status, command submission and idempotent regions (R138, R142-R145, R284-R286). -/
namespace Sys2Proof.Machine
open Sys2Proof

/-- A configuration word obeys its column "Rule" (R138). -/
def chanWordOk (s : State) (t share : Nat) (w : W64) : Bool :=
  let kind := bits w 62 2
  let mesh := kind = 1 || kind = 2
  zeroBits w 0 12 &&
  (if mesh then (s.ten t).holds (bits w 48 14) else zeroBits w 48 14 && zeroBits w 42 6) &&
  (if kind = 1 then decide (1 ≤ bits w 12 13) && decide (bits w 12 13 ≤ 4096) && decide (4 * (bits w 25 17 + bits w 12 13) ≤ share)
   else zeroBits w 12 13 && zeroBits w 25 17)

/-- A mesh-out entry's unused credits return to the mesh-in it names (R138). -/
def giveBack (s : State) (c ch : Nat) (e : Chan) : State :=
  let o := (s.core e.peer).chan e.peerCh
  if e.kind == 2 && o.kind == 1 && o.peer == c && o.peerCh == ch then
    s.updChan e.peer e.peerCh fun o => { o with kept := o.kept + e.credits }
  else s

/-- A checked word written into an entry (R138), with the credits that are granted at once. A vertical-queue entry that stays one keeps
the part of a record that it holds; else the part is discarded (DESIGN CHOICE, log 151). -/
def configChan (s : State) (c b ch : Nat) (w : W64) : State :=
  let e := (s.core c).chan ch
  let kind := bits w 62 2
  let same := e.kind == 2 && kind == 2 && bits w 42 20 == bits e.word 42 20
  let s := if same then s else giveBack s c ch e
  let n : Chan := { Chan.fresh with word := w, owner := some b, kept := if kind = 1 then bits w 12 13 else 0
                                    credits := if same then e.credits else 0, peerDepth := if same then e.peerDepth else none }
  let s := s.updCore c fun k => { k with chans := if kind = 0 then kdel k.chans ch else kset k.chans ch n
                                         asm := if kind = 3 then k.asm else kdel k.asm ch }
  if kind = 1 then grantCredits s c ch else if kind = 2 then grantCredits s (bits w 48 14) (bits w 42 6) else s

/-- CHCFG (R138, R284). -/
def bodyChcfg : ExtBody := fun x =>
  uniBody Rows.chcfg x false anyMode fun h s =>
    let (v, s1) := fetchSrcs s h Rows.chcfg x []
    let ch := (x.aux8.extractLsb' 0 6).toNat
    let e := (s.core h.c).chan ch
    let busy := (e.kind == 1 && e.count != 0) || (e.kind == 2 && e.outstanding != 0) || (e.kind == 3 && e.reserved != 0)
    if (e.owner.isSome && e.owner != some h.b) || busy || !chanWordOk s h.ten h.blk.kern.scratch (v.a 0) then
      .trap s xChanerr (BitVec.ofNat 64 ch)
    else .fin (configChan s1 h.c h.b ch (v.a 0))

/-- CHSTAT's word (R142). -/
def chanStatus (k : Core) (b ch : Nat) : W64 :=
  let e := k.chan ch
  let count := match e.kind with
    | 1 => e.count
    | 2 => e.credits
    | 3 => 16 * (32 - k.vqCount) - ((kget k.asm ch).getD []).length
    | _ => 0
  BitVec.ofNat 64 (e.kind * 2 ^ 62 + e.broken.toNat * 2 ^ 61 + (e.owner == some b).toNat * 2 ^ 60 + count)

/-- CHSTAT (R142, R284). -/
def bodyChstat : ExtBody := fun x =>
  uniBody Rows.chstat x false anyMode fun h s =>
    .fin (pendUni s h Rows.chstat x (chanStatus (s.core h.c) h.b (x.aux8.extractLsb' 0 6).toNat) 0)

/-- VQSEND (R143, R285). -/
def bodyVqsend : ExtBody := fun x =>
  uniBody Rows.vqsend x false anyMode fun h s =>
    let w := octet h x
    if !cmdOk w then .trap s xChanerr 0
    else if (s.core h.c).vqFree < 16 || !lockRoom (s.core h.c) w then .park s .full
    else .fin (enqueueCmd s h.c h.b h.g h.ten w)

/-- The block may just have come inside a region it is to be discarded in (R397). -/
def finRegion (s : State) (h : Here) : Out :=
  let s := maybeDiscard s h.c h.b
  if (s.group h.c h.b h.g).isSome then .fin s else .gone s

/-- IDMB (R286). -/
def bodyIdmb : ExtBody := fun x =>
  uniBody Rows.idmb x false anyMode fun h s =>
    let r : Restart := { pc := h.ent.pc.plus (extLen x), prio := h.ent.prio, mask := h.ent.mask
                         s17 := (List.range 7).map fun i => h.grp.rs h.tick (i + 1) }
    finRegion (s.updGroup h.c h.b h.g fun g => { g with restart := some r }) h

/-- IDME (R286). -/
def bodyIdme : ExtBody := fun x =>
  uniBody Rows.idme x false anyMode fun h s => .fin (s.updGroup h.c h.b h.g fun g => { g with restart := none })

def execChcfg (x : Ext) (s : State) := runExt bodyChcfg x s
def execChstat (x : Ext) (s : State) := runExt bodyChstat x s
def execVqsend (x : Ext) (s : State) := runExt bodyVqsend x s
def execIdmb (x : Ext) (s : State) := runExt bodyIdmb x s
def execIdme (x : Ext) (s : State) := runExt bodyIdme x s

end Sys2Proof.Machine
end

