-- ==== Sys2Proof/Machine/SpecialFn.lean ====
section
/-! DEFINITION. Special-function instructions and their tokens (R254-R258). -/
namespace Sys2Proof.Machine
open Sys2Proof

/-- The instructions in a group's special-function queue (R254): those of its partition's groups whose slots share it. -/
def queueTokens (s : State) (c g slot : Nat) : List Token :=
  (((s.core c).blocks.map fun (_, k) => (k.groups.filter fun (i, x) => i % 4 == g % 4 && x.slot / 4 == slot / 4).map
    fun (_, x) => x.tokens.map (·.2)).flatten).flatten

/-- R255 step 1: the named slot is empty and the queue has room. -/
def tokenFree (s : State) (h : Here) (x : Ext) : Bool :=
  (kget h.grp.tokens (x.aux8.extractLsb' 0 3).toNat).isNone && decide ((queueTokens s h.c h.g h.grp.slot).length < 8)

/-- A special function enters its queue (R255, R258): of a lane that an outstanding class V write also names, either value
remains. -/
def placeToken (g : Group) (tick : Nat) (slot : Nat) (k : Token) : Group :=
  let held (l : Nat) : Bool := g.pend.any fun (_, p) => (p.wb.vecAt k.r l).isSome
  let wins := k.vals.filter fun (l, _) => !held l || Config.takesNew tick k.r l
  let lose (w : WriteBack) : WriteBack := wins.foldl (fun w (l, _) => w.loseVec k.r l) w
  { g with pend := kmap g.pend fun _ p => { p with wb := lose p.wb }
           tokens := kset g.tokens slot { k with vals := wins } }

/-- A special function (R255, R256); with no active lane it waits for its slot and queue alike, and writes nothing. -/
def specialBody (r : Row) : ExtBody := fun x =>
  vecBody r x false
    (fun h s => if tokenFree s h x then .fin s else .park s .token)
    (fun h s m =>
      if !tokenFree s h x then .park s .token
      else
        let ls := laneList h.width m
        let q := fetchSrcs s h r x ls
        let out := ls.map fun l => (l, specialFn r.xop.toNat (lo32 (q.1.a l)).toNat)
        let k : Token := { r := x.d.toNat, vals := out.map fun o => (o.1, BitVec.ofNat 32 o.2.1)
                           flags := out.foldl (fun (a : Flags) o => a ||| o.2.2) 0, order := h.tick }
        .fin (q.2.updGroup h.c h.b h.g fun g => placeToken g h.tick (x.aux8.extractLsb' 0 3).toNat k))

def bodyExp2 : ExtBody := specialBody Rows.exp2
def bodyLog2 : ExtBody := specialBody Rows.log2
def bodyRcp : ExtBody := specialBody Rows.rcp
def bodyRsq : ExtBody := specialBody Rows.rsq
def bodySqrt : ExtBody := specialBody Rows.sqrt
def bodyTanh : ExtBody := specialBody Rows.tanh
def bodyLgst : ExtBody := specialBody Rows.lgst
def bodySinp : ExtBody := specialBody Rows.sinp
def bodyCosp : ExtBody := specialBody Rows.cosp

/-- SFWAIT (R257): the group parks until every named slot is empty. -/
def bodySfwait : ExtBody := fun x =>
  vecBody Rows.sfwait x false idle fun h s _ =>
    if h.grp.tokens.any fun (k, _) => x.aux8.getLsbD k then .park s .sfwait else .fin s

def execExp2 (x : Ext) (s : State) := runExt bodyExp2 x s
def execLog2 (x : Ext) (s : State) := runExt bodyLog2 x s
def execRcp (x : Ext) (s : State) := runExt bodyRcp x s
def execRsq (x : Ext) (s : State) := runExt bodyRsq x s
def execSqrt (x : Ext) (s : State) := runExt bodySqrt x s
def execTanh (x : Ext) (s : State) := runExt bodyTanh x s
def execLgst (x : Ext) (s : State) := runExt bodyLgst x s
def execSinp (x : Ext) (s : State) := runExt bodySinp x s
def execCosp (x : Ext) (s : State) := runExt bodyCosp x s
def execSfwait (x : Ext) (s : State) := runExt bodySfwait x s

end Sys2Proof.Machine
end

