-- ==== Sys2Proof/Machine/GroupEvents.lean ====
section
/-! DEFINITION. The steps that a core takes beside issue: results return (R255, R260, R319), entries are promoted and released
(R19, R21, R101, R129), groups move between file and hold tier (R324), traps are delivered (R224), segments land (R216), and
damage to a group's or block's own storage (R52, R69). A step whose condition does not hold leaves the state as it is (log 17). -/
namespace Sys2Proof.Machine
open Sys2Proof

/-- R19: an entry whose wait count has reached 4,096 is promoted. -/
def promoteEntries (s : State) (c b g : Nat) : State :=
  s.updGroup c b g fun x => { x with frontier := x.frontier.map fun e =>
    if 4096 ≤ e.count && e.ready then { e with promoted := true } else e }

/-- R21: every entry waits in RECONV and none can proceed: all go on unmerged. -/
def releaseReconv (s : State) (c b g : Nat) : State :=
  match s.block c b, s.group c b g with
  | some k, some x =>
    let stuck := !x.frontier.isEmpty && x.frontier.all fun e => match e.wait with
      | some (.reconv _ _) => (reconvMet x k.kern.width e).isNone
      | _ => false
    if stuck then
      let es := x.frontier.map fun e => match e.wait with
        | some (.reconv _ next) => { e with pc := next, wait := none }
        | _ => e
      s.updGroup c b g fun x => { x with frontier := es.foldl addEntry [] }
    else s
  | _, _ => s

/-- A result's words cannot be pushed yet: they complete a record that finds no range locks free (R137). -/
def pushStuck (s : State) (c : Nat) (wb : WriteBack) : Bool := match wb with | .push ch _ => vqStuck s c ch | _ => false
/-- The traps that wait for a group's next switch point. -/
def lateCount (s : State) (c b g : Nat) : Nat := ((s.group c b g).map fun x => x.late.length).getD 0
/-- A class V result returns (R140, R319) and raises its flags (R223); one whose push traps raises none (R143, R163). -/
def returnResult (s : State) (c b g i : Nat) : State :=
  match s.block c b, (s.group c b g).bind fun x => kget x.pend i with
  | some k, some p =>
    let s0 := s
    let old := sentWords (s.core c) b
    let s := s.updGroup c b g fun x => { x with pend := kdel x.pend i }
    let s := landWrite s c b g p.wb
    if pushStuck s c p.wb then s0
    else
      let trapped := lateCount s c b g != lateCount s0 c b g
      let s := if k.held.isEmpty then s else heldPushed s c b g i ((sentWords (s.core c) b).filter fun w => !old.contains w)
      if trapped then s else raiseFlags s c b g k.tenant p.flags
  | _, _ => s

/-- A split-phase value returns (R260): over another outstanding write to its register, either value remains (R322). A slot in
which a lane met SBFAULT leaves the trap pending for the entry that holds the lane (R279). -/
def returnBoard (s : State) (c b g i : Nat) : State :=
  match (s.group c b g).bind fun x => x.board.find? fun k => k.id == i with
  | some k =>
    if k.left != 0 then s
    else
      let s := s.updGroup c b g fun x => { x with board := x.board.filter fun j => j.id != i }
      let s := match k.wb with
        | .vec r pair vals => s.updGroup c b g fun x => vals.foldl (fun x (l, v) =>
            if pair then x.putV2 s.tick r l v else x.putV s.tick r l (v.extractLsb' 0 32)) x
        | .uni r v => s.updGroup c b g fun x => x.putS s.tick r v
        | w => landWrite s c b g w
      match k.fault with
      | some (l, a) => s.updGroup c b g fun x =>
        { x with late := x.late ++ [⟨⟨BitVec.ofNat 8 xSbfault, a⟩, none, some l, x.handler.isSome⟩] }
      | none => s
  | none => s

/-- A special function leaves its queue's head (R254, R255): results, flags, and its token slot is empty. -/
def completeToken (s : State) (c b g k : Nat) : State :=
  match s.block c b, s.group c b g with
  | some blk, some x =>
    match kget x.tokens k with
    | some t =>
      if (queueTokens s c g x.slot).all fun u => decide (t.order ≤ u.order) then
        let s := s.updGroup c b g fun x => { x with tokens := kdel x.tokens k }
        let s := landWrite s c b g (.vec t.r false (t.vals.map fun (l, v) => (l, v.zeroExtend 64)))
        raiseFlags s c b g blk.tenant t.flags
      else s
    | none => s
  | _, _ => s

/-- R323: after 4,096 instructions without a switch point the next one acts as if S were set. -/
def forceSwitch (s : State) (c b g : Nat) : State :=
  s.updGroup c b g fun x => if 4096 ≤ x.sinceSwitch then { x with forced := true } else x

/-- The groups of a partition of a core: block, group and state. -/
def partition (s : State) (c p : Nat) : List (Nat × Nat × Group) :=
  ((s.core c).blocks.map fun (b, k) => (k.groups.filter fun (i, _) => i % 4 == p).map fun (i, x) => (b, i, x)).flatten
/-- Gres (R23). -/
def residentGroups (k : Kernel) : Nat := min 16 (16384 / max 1 (8 * ceilDiv k.regs 8 * k.width))
/-- The partition's register file has room for another group (R23). -/
def fileRoom (s : State) (c b g : Nat) : Bool :=
  match s.block c b with
  | some k => decide (((partition s c (g % 4)).filter fun (_, _, x) => x.resident && !x.ended).length < residentGroups k.kern)
  | none => false
/-- A group is parked, or every entry of it waits (R318). -/
def Group.idle (x : Group) : Bool := x.park.isSome || (selectEntry x).isNone
/-- R324: with no room for a ready group, the resident group parked longest goes to the hold tier; a group whose wait is over is not
parked, as the beginning of the step notes. -/
def demoteGroup (s : State) (c b g : Nat) : State :=
  match s.group c b g with
  | some x =>
    let part := partition s c (g % 4)
    let since (y : Group) : Nat := y.parked.getD s.tick
    let want := part.any fun (_, _, y) => !y.resident && !y.ended && y.ready.isSome
    let first := part.all fun (_, _, y) => !(y.resident && !y.ended && y.parked.isSome) || decide (since x ≤ since y)
    if x.resident && !x.ended && x.parked.isSome && want && !fileRoom s c b g && first then
      s.updGroup c b g fun x => { x with resident := false, ready := none }
    else s
  | none => s
/-- R324: where the file has room, the group outside it that became ready first is recalled. -/
def recallGroup (s : State) (c b g : Nat) : State :=
  match s.group c b g with
  | some x =>
    let first := (partition s c (g % 4)).all fun (_, _, y) =>
      y.resident || y.ended || y.ready.isNone || decide (x.ready.getD s.tick ≤ y.ready.getD s.tick)
    if !x.resident && !x.ended && x.ready.isSome && fileRoom s c b g && first then
      s.updGroup c b g fun x => { x with resident := true, ready := none }
    else s
  | none => s

/-- A due trap, or a pending PREEMPT at a switch point, is delivered (R224, R228, R320). -/
def deliverPending (s : State) (c b g : Nat) : State :=
  match s.group c b g with
  | some x =>
    if x.ended then s
    else match deliverDue s c b g with
      | some s => s
      | none =>
        let atPoint := x.quiet && (x.park == some .switchPoint || (selectEntry x).isNone ||
          match x.park with | some (.fault _) => true | some (.channel _) => true | _ => false)
        if x.preempt && atPoint then (atSwitchPoint s c b g).getD s else s
  | none => s

/-- An error that cannot be corrected in a group's vector registers (R52): they hold unspecified values, and HOLDECC is
delivered when the group is next selected. -/
def holdError (s : State) (c b g key : Nat) : State :=
  let s := s.countErr (coreDomain c) fun e => { e with ueReg := satAdd 16 e.ueReg }
  s.updGroup c b g fun x =>
    { x with v := zset x.v (key % 16384) ((Config.eccWord s.tick key).extractLsb' 0 32)
             late := x.late ++ [⟨⟨BitVec.ofNat 8 xHoldecc, 0⟩, none, none, x.handler.isSome⟩] }

/-- An error that cannot be corrected in a block's share or write-combining bytes (R69): the block is killed, and relaunched on
another core at most twice where its kernel is idempotent; in a cancelled launch it only goes. -/
def scratchError (s : State) (c b : Nat) : State :=
  let s := s.countErr (coreDomain c) fun e => { e with ueSram := satAdd 16 e.ueSram }
  match s.block c b with
  | some k =>
    if k.kern.idem && decide (k.relaunches < 2) && k.draining then killBlock s c b
    else if k.kern.idem && decide (k.relaunches < 2) then relaunch s c b (standing s c k)
    else killAndFail s c b 0x40 [0, 0, 0, 0]
  | none => s

/-- A fetched segment lands (R210, R216); entries already in another slot that holds it stay there (R209). -/
def landSegment (s : State) (c i : Nat) : State :=
  match kget (s.core c).slots i, (s.core c).code with
  | some w, some (_, im) =>
    match (if w.state == slotFetching then w.pending else none) with
    | some seg =>
      let ws := (segmentOf s im seg).getD []
      let full : Slot := { state := slotLoaded, seg := seg, words := ws, starts := startBits 0 ws, pending := none }
      s.updCore c fun k => { k.stay seg i with slots := kset k.slots i full }
    | none => s
  | _, _ => s
/-- A deferred fetch starts (R216). -/
def startDeferred (s : State) (c i : Nat) : State :=
  match kget (s.core c).slots i with
  | some w =>
    if w.state == slotDeferred && !(s.core c).occupied i then
      let fetching : Slot := { w with state := slotFetching, seg := 0, words := [], starts := [] }
      s.updCore c fun k => { k with slots := kset k.slots i fetching }
    else s
  | none => s

/-- A group's monitor tests its waiting MWAITs (R129). -/
def testMonitor (s : State) (c b g m : Nat) : State :=
  match s.block c b, s.group c b g with
  | some k, some x =>
    (x.frontier.filter fun e => match e.wait with | some (.mon i _ _ _ _ _ _) => i == m | _ => false).foldl (fun s e =>
      match e.wait with
      | some (.mon _ on v scope ch d next) =>
        match monRead s c b k.tenant on with
        | (s, none) => poisonKill s c b (lineOf on.addr)
        | (s, some w) =>
          if monHit w v then
            match (s.group c b g).bind fun x => (x.frontier.find? fun y => y.pc == e.pc && y.wait == e.wait).map fun y => (x, y) with
            | some (x, e) =>
              let h : Here := { c := c, b := b, g := g, blk := k, grp := x, ent := e, tick := s.tick }
              (monAcquire s h on scope w).updGroup c b g fun x => x.proceed k.kern.width s.tick e ch d (BitVec.ofNat 64 w) next
            | none => s
          else s
      | _ => s) s
  | _, _ => s

/-- The head of a home's waiting takes and gives is served (R115-R117). -/
def serveBook (s : State) (d : Nat) : State :=
  match (s.dom d).sbReqs with
  | r :: rest =>
    let s := s.updDom d fun x => { x with sbReqs := rest }
    sbServe s (s.coreTenant r.core) r
  | [] => s

/-- R327: the oldest pending tile instruction issues. -/
def windowTimeout (s : State) (c b : Nat) : State :=
  match s.tile c b with
  | some t =>
    let held := match t.park with | some (.fault (_ :: _)) => true | _ => false
    if t.ended || t.saved || held then s
    else match issueOldest s c b with
      | .ok s => s
      | .stop s => s
  | none => s

def execEntryPromotion (c b g : Nat) (s : State) : Host.Outcome State Fault Refusal := .next (promoteEntries s c b g)
def execReconvDeadlockRelease (c b g : Nat) (s : State) : Host.Outcome State Fault Refusal := .next (releaseReconv s c b g)
def execVariableLatencyReturn (c b g i : Nat) (s : State) : Host.Outcome State Fault Refusal := .next (returnResult s c b g i)
def execScoreboardReturn (c b g i : Nat) (s : State) : Host.Outcome State Fault Refusal := .next (returnBoard s c b g i)
def execTokenComplete (c b g k : Nat) (s : State) : Host.Outcome State Fault Refusal := .next (completeToken s c b g k)
def execForcedSwitch (c b g : Nat) (s : State) : Host.Outcome State Fault Refusal := .next (forceSwitch s c b g)
def execGroupDemotion (c b g : Nat) (s : State) : Host.Outcome State Fault Refusal := .next (demoteGroup s c b g)
def execGroupRecall (c b g : Nat) (s : State) : Host.Outcome State Fault Refusal := .next (recallGroup s c b g)
def execTrapDelivery (c b g : Nat) (s : State) : Host.Outcome State Fault Refusal := .next (deliverPending s c b g)
def execHoldEccError (c b g key : Nat) (s : State) : Host.Outcome State Fault Refusal := .next (holdError s c b g key)
def execScratchpadEccError (c b : Nat) (s : State) : Host.Outcome State Fault Refusal := .next (scratchError s c b)
def execSegmentFetchComplete (c slot : Nat) (s : State) : Host.Outcome State Fault Refusal := .next (landSegment s c slot)
def execDeferredFetchStart (c slot : Nat) (s : State) : Host.Outcome State Fault Refusal := .next (startDeferred s c slot)
def execBarrierRelease (c b lvl n : Nat) (s : State) : Host.Outcome State Fault Refusal := .next (releaseBarrier s c b lvl n)
def execMonitorWake (c b g m : Nat) (s : State) : Host.Outcome State Fault Refusal := .next (testMonitor s c b g m)
def execMonitorPoll (c b g m : Nat) (s : State) : Host.Outcome State Fault Refusal := .next (testMonitor s c b g m)
def execStampBookHomeRequest (d : Nat) (s : State) : Host.Outcome State Fault Refusal := .next (serveBook s d)
def execRewriteWindowTimeout (c b : Nat) (s : State) : Host.Outcome State Fault Refusal := .next (windowTimeout s c b)

end Sys2Proof.Machine
end

