-- ==== Sys2Proof/Machine/Hierarchy.lean ====
section
/-! DEFINITION. SPAWN, JOIN, CANCEL and LVLRD: the levels above the launch (R30-R38, R218-R221). -/
namespace Sys2Proof.Machine
open Sys2Proof

/-- The lane in whose name a group's own operation acts: the lowest of the issuing entry. -/
def Here.lane0 (h : Here) : Nat := ((laneList 64 h.ent.mask).head?).getD 0

/-- SPAWN (R37, R38, R218): the group's earlier stores are published, and the record goes to its queue, to the dead-letter ring, or
to the empty parked slot of a join counter that is not zero. -/
def bodySpawn : ExtBody := fun x =>
  uniBody Rows.spawn x false anyMode fun h s =>
    let w := (List.range 8).map fun i => h.grp.rs h.tick (x.a.toNat + i)
    match joinGate (beforePublish s h true) h.ten w with
    | (s1, .accept) => if presentable s1 h.ten w 1 0 h.c then .fin (acceptRecord s1 h.ten w 1 0 h.c) else .park s .full
    | (s1, .refuse code) => .fin (refuseRecord s1 h.ten w code 1 0 h.c)
    | (s1, .park pa) =>
      let s1 := strongPrep s1 h.c pa true
      let s1 := (List.range 8).foldl (fun s i => strongWrite s h.ten h.dom (pa + 8 * i) 8 (word w i).toNat) s1
      .fin (releaseWafer s1 h pa 8)

/-- JOIN (R37, R38, R219): the count falls by one at its home, and the parked record is accepted when it reaches zero. -/
def bodyJoin : ExtBody := fun x =>
  uniBody Rows.join x false anyMode fun h s0 =>
    let v := (fetchSrcs s0 h Rows.join x []).1
    let done (s : State) : Out := .fin (fetchSrcs s h Rows.join x []).2
    afterCheck (checkAccess s0 h .global 128 128 true false [(0, v.a 0)]) fun s1 oks =>
      match oks with
      | (_, _, pa) :: _ =>
        if !lineReadable s1 h.ten (lineOf pa) then .gone (poisonKill s1 h.c h.b (lineOf pa))
        else
          let s := strongPrep (beforePublish s1 h true) h.c pa true
          let n := homeValue s pa 8
          if n = 0 then done (releaseWafer (s.setEsum h.ten esJoinUnder) h pa 8)
          else
            let slot := readWords s.mem (pa + 64) 8
            let release := n = 1 && slot != zeros 8
            if release && !presentable s h.ten slot 2 0 h.c then .park s1 .full
            else
              let s := strongWrite s h.ten h.dom pa 8 (n - 1)
              let s := if release then
                (List.range 8).foldl (fun s i => strongWrite s h.ten h.dom (pa + 64 + 8 * i) 8 0) s else s
              let s := releaseWafer s h pa 8
              done (if release then acceptRecord s h.ten slot 2 0 h.c else s)
      | [] => done s1

/-- The identifier of a level (R220): 12, 8, 4 or no bits; a bit above is ILLOP. -/
def levelId (lvl : Nat) (w : W64) : Option Nat :=
  let n := match lvl with | 0 => 4096 | 1 => 256 | 2 => 16 | _ => 1
  if w.toNat < n then some w.toNat else none

/-- CANCEL (R33, R220). -/
def bodyCancel : ExtBody := fun x =>
  uniBody Rows.cancel x false anyMode fun h s =>
    let (v, s1) := fetchSrcs s h Rows.cancel x []
    let lvl := (x.aux8.extractLsb' 0 2).toNat
    match levelId lvl (v.a 0) with
    | none => .trap s xIllop 0
    | some i => .fin (cancelLevel s1 h.ten lvl i)

/-- The word of LVLRD (R221). -/
def levelWord (c : Counter) : W64 :=
  BitVec.ofNat 64 (c.st.toNat * 2 ^ 62 + c.alrDone.toNat * 2 ^ 61 + min c.discards 8191 * 2 ^ 48 + c.value % 2 ^ 48)

/-- LVLRD (R221): a DONE or CANCELLED counter is acquired at wafer scope, by the conservative path. -/
def bodyLvlrd : ExtBody := fun x =>
  uniBody Rows.lvlrd x false anyMode fun h s =>
    let (v, s1) := fetchSrcs s h Rows.lvlrd x []
    let lvl := (x.aux8.extractLsb' 0 2).toNat
    match levelId lvl (v.a 0) with
    | none => .trap s xIllop 0
    | some i =>
      let c := (s1.ten h.ten).counter lvl i
      let s1 := if c.st == lvDone || c.st == lvCancelled then acquireAll s1 h.c h.ten else s1
      .fin (pendUni s1 h Rows.lvlrd x (levelWord c) 0)

def execSpawn (x : Ext) (s : State) := runExt bodySpawn x s
def execJoin (x : Ext) (s : State) := runExt bodyJoin x s
def execCancel (x : Ext) (s : State) := runExt bodyCancel x s
def execLvlrd (x : Ext) (s : State) := runExt bodyLvlrd x s

end Sys2Proof.Machine
end

