-- ==== Sys2Proof/Machine/Dispatch.lean ====
section
/-! DEFINITION. One arm per instruction: the call of its meaning. -/
namespace Sys2Proof.Machine
open Sys2Proof

def exec (i : Instr) (s : State) : Host.Outcome State Fault Refusal :=
  match i with
  | .uadd x => Sys2Proof.Machine.execUadd x s
  | .usub x => Sys2Proof.Machine.execUsub x s
  | .umul x => Sys2Proof.Machine.execUmul x s
  | .umulh x => Sys2Proof.Machine.execUmulh x s
  | .umad x => Sys2Proof.Machine.execUmad x s
  | .uand x => Sys2Proof.Machine.execUand x s
  | .uor x => Sys2Proof.Machine.execUor x s
  | .uxor x => Sys2Proof.Machine.execUxor x s
  | .ushl x => Sys2Proof.Machine.execUshl x s
  | .ushr x => Sys2Proof.Machine.execUshr x s
  | .usra x => Sys2Proof.Machine.execUsra x s
  | .umin x => Sys2Proof.Machine.execUmin x s
  | .umax x => Sys2Proof.Machine.execUmax x s
  | .uclz x => Sys2Proof.Machine.execUclz x s
  | .upopc x => Sys2Proof.Machine.execUpopc x s
  | .ulea x => Sys2Proof.Machine.execUlea x s
  | .usel x => Sys2Proof.Machine.execUsel x s
  | .ucmp x => Sys2Proof.Machine.execUcmp x s
  | .umov x => Sys2Proof.Machine.execUmov x s
  | .uld x => Sys2Proof.Machine.execUld x s
  | .ust x => Sys2Proof.Machine.execUst x s
  | .bra x => Sys2Proof.Machine.execBra x s
  | .brx x => Sys2Proof.Machine.execBrx x s
  | .call x => Sys2Proof.Machine.execCall x s
  | .ret x => Sys2Proof.Machine.execRet x s
  | .jfence x => Sys2Proof.Machine.execJfence x s
  | .cfetch x => Sys2Proof.Machine.execCfetch x s
  | .exit x => Sys2Proof.Machine.execExit x s
  | .yld x => Sys2Proof.Machine.execYld x s
  | .reconv x => Sys2Proof.Machine.execReconv x s
  | .nop x => Sys2Proof.Machine.execNop x s
  | .spawn x => Sys2Proof.Machine.execSpawn x s
  | .join x => Sys2Proof.Machine.execJoin x s
  | .cancel x => Sys2Proof.Machine.execCancel x s
  | .lvlrd x => Sys2Proof.Machine.execLvlrd x s
  | .capq x => Sys2Proof.Machine.execCapq x s
  | .rdsr x => Sys2Proof.Machine.execRdsr x s
  | .wrsr x => Sys2Proof.Machine.execWrsr x s
  | .trap x => Sys2Proof.Machine.execTrap x s
  | .eret x => Sys2Proof.Machine.execEret x s
  | .preack x => Sys2Proof.Machine.execPreack x s
  | .iadd x => Sys2Proof.Machine.execIadd x s
  | .isub x => Sys2Proof.Machine.execIsub x s
  | .imul x => Sys2Proof.Machine.execImul x s
  | .imulh x => Sys2Proof.Machine.execImulh x s
  | .imad x => Sys2Proof.Machine.execImad x s
  | .imin x => Sys2Proof.Machine.execImin x s
  | .imax x => Sys2Proof.Machine.execImax x s
  | .iabs x => Sys2Proof.Machine.execIabs x s
  | .iand x => Sys2Proof.Machine.execIand x s
  | .ior x => Sys2Proof.Machine.execIor x s
  | .ixor x => Sys2Proof.Machine.execIxor x s
  | .ishl x => Sys2Proof.Machine.execIshl x s
  | .ishr x => Sys2Proof.Machine.execIshr x s
  | .isra x => Sys2Proof.Machine.execIsra x s
  | .iclz x => Sys2Proof.Machine.execIclz x s
  | .ipopc x => Sys2Proof.Machine.execIpopc x s
  | .ibfx x => Sys2Proof.Machine.execIbfx x s
  | .ibfi x => Sys2Proof.Machine.execIbfi x s
  | .iset x => Sys2Proof.Machine.execIset x s
  | .isel x => Sys2Proof.Machine.execIsel x s
  | .fadd x => Sys2Proof.Machine.execFadd x s
  | .fsub x => Sys2Proof.Machine.execFsub x s
  | .fmul x => Sys2Proof.Machine.execFmul x s
  | .ffma x => Sys2Proof.Machine.execFfma x s
  | .fmin x => Sys2Proof.Machine.execFmin x s
  | .fmax x => Sys2Proof.Machine.execFmax x s
  | .fset x => Sys2Proof.Machine.execFset x s
  | .fclass x => Sys2Proof.Machine.execFclass x s
  | .hadd2 x => Sys2Proof.Machine.execHadd2 x s
  | .hmul2 x => Sys2Proof.Machine.execHmul2 x s
  | .hfma2 x => Sys2Proof.Machine.execHfma2 x s
  | .hmin2 x => Sys2Proof.Machine.execHmin2 x s
  | .hmax2 x => Sys2Proof.Machine.execHmax2 x s
  | .cvt x => Sys2Proof.Machine.execCvt x s
  | .pack4 x => Sys2Proof.Machine.execPack4 x s
  | .unpk4 x => Sys2Proof.Machine.execUnpk4 x s
  | .plop x => Sys2Proof.Machine.execPlop x s
  | .mov x => Sys2Proof.Machine.execMov x s
  | .s2v x => Sys2Proof.Machine.execS2v x s
  | .v2s x => Sys2Proof.Machine.execV2s x s
  | .shfl x => Sys2Proof.Machine.execShfl x s
  | .vote x => Sys2Proof.Machine.execVote x s
  | .redg x => Sys2Proof.Machine.execRedg x s
  | .scang x => Sys2Proof.Machine.execScang x s
  | .matchLanes x => Sys2Proof.Machine.execMatchLanes x s
  | .exp2 x => Sys2Proof.Machine.execExp2 x s
  | .log2 x => Sys2Proof.Machine.execLog2 x s
  | .rcp x => Sys2Proof.Machine.execRcp x s
  | .rsq x => Sys2Proof.Machine.execRsq x s
  | .sqrt x => Sys2Proof.Machine.execSqrt x s
  | .tanh x => Sys2Proof.Machine.execTanh x s
  | .lgst x => Sys2Proof.Machine.execLgst x s
  | .sinp x => Sys2Proof.Machine.execSinp x s
  | .cosp x => Sys2Proof.Machine.execCosp x s
  | .sfwait x => Sys2Proof.Machine.execSfwait x s
  | .ldg x => Sys2Proof.Machine.execLdg x s
  | .stg x => Sys2Proof.Machine.execStg x s
  | .lds x => Sys2Proof.Machine.execLds x s
  | .sts x => Sys2Proof.Machine.execSts x s
  | .ldl x => Sys2Proof.Machine.execLdl x s
  | .stl x => Sys2Proof.Machine.execStl x s
  | .ldc x => Sys2Proof.Machine.execLdc x s
  | .pfch x => Sys2Proof.Machine.execPfch x s
  | .atom x => Sys2Proof.Machine.execAtom x s
  | .atomc x => Sys2Proof.Machine.execAtomc x s
  | .red x => Sys2Proof.Machine.execRed x s
  | .atoms x => Sys2Proof.Machine.execAtoms x s
  | .lda x => Sys2Proof.Machine.execLda x s
  | .strl x => Sys2Proof.Machine.execStrl x s
  | .fence x => Sys2Proof.Machine.execFence x s
  | .objdecl x => Sys2Proof.Machine.execObjdecl x s
  | .objdrop x => Sys2Proof.Machine.execObjdrop x s
  | .sealRange x => Sys2Proof.Machine.execSealRange x s
  | .unsealRange x => Sys2Proof.Machine.execUnsealRange x s
  | .rsdecl x => Sys2Proof.Machine.execRsdecl x s
  | .rsset x => Sys2Proof.Machine.execRsset x s
  | .rsevict x => Sys2Proof.Machine.execRsevict x s
  | .bara x => Sys2Proof.Machine.execBara x s
  | .barw x => Sys2Proof.Machine.execBarw x s
  | .bars x => Sys2Proof.Machine.execBars x s
  | .bargen x => Sys2Proof.Machine.execBargen x s
  | .barcfg x => Sys2Proof.Machine.execBarcfg x s
  | .sstep x => Sys2Proof.Machine.execSstep x s
  | .sbinit x => Sys2Proof.Machine.execSbinit x s
  | .sbtake x => Sys2Proof.Machine.execSbtake x s
  | .sbgive x => Sys2Proof.Machine.execSbgive x s
  | .sbread x => Sys2Proof.Machine.execSbread x s
  | .sbclose x => Sys2Proof.Machine.execSbclose x s
  | .cpy x => Sys2Proof.Machine.execCpy x s
  | .cpyr x => Sys2Proof.Machine.execCpyr x s
  | .cpym x => Sys2Proof.Machine.execCpym x s
  | .mack x => Sys2Proof.Machine.execMack x s
  | .chain x => Sys2Proof.Machine.execChain x s
  | .marm x => Sys2Proof.Machine.execMarm x s
  | .mwait x => Sys2Proof.Machine.execMwait x s
  | .chcfg x => Sys2Proof.Machine.execChcfg x s
  | .chstat x => Sys2Proof.Machine.execChstat x s
  | .vqsend x => Sys2Proof.Machine.execVqsend x s
  | .idmb x => Sys2Proof.Machine.execIdmb x s
  | .idme x => Sys2Proof.Machine.execIdme x s
  | .tset x => Sys2Proof.Machine.execTset x s
  | .tdesc x => Sys2Proof.Machine.execTdesc x s
  | .tzero x => Sys2Proof.Machine.execTzero x s
  | .tldacc x => Sys2Proof.Machine.execTldacc x s
  | .tmma x => Sys2Proof.Machine.execTmma x s
  | .tmmab x => Sys2Proof.Machine.execTmmab x s
  | .tscale x => Sys2Proof.Machine.execTscale x s
  | .ttrans x => Sys2Proof.Machine.execTtrans x s
  | .tadd x => Sys2Proof.Machine.execTadd x s
  | .tcvt x => Sys2Proof.Machine.execTcvt x s
  | .tstore x => Sys2Proof.Machine.execTstore x s
  | .tbar x => Sys2Proof.Machine.execTbar x s
  | .tloop x => Sys2Proof.Machine.execTloop x s
  | .tend x => Sys2Proof.Machine.execTend x s
  | .tfence x => Sys2Proof.Machine.execTfence x s
  | .rwperm x => Sys2Proof.Machine.execRwperm x s
  | .tsave x => Sys2Proof.Machine.execTsave x s
  | .trstr x => Sys2Proof.Machine.execTrstr x s
  | .tnop x => Sys2Proof.Machine.execTnop x s
  | .texit x => Sys2Proof.Machine.execTexit x s
  | .nopBase x => Sys2Proof.Machine.execNopBase x s
  | .movBase x => Sys2Proof.Machine.execMovBase x s
  | .iaddS32Base x => Sys2Proof.Machine.execIaddS32Base x s
  | .iaddS32ImmBase x => Sys2Proof.Machine.execIaddS32ImmBase x s
  | .isubS32Base x => Sys2Proof.Machine.execIsubS32Base x s
  | .imulS32Base x => Sys2Proof.Machine.execImulS32Base x s
  | .imulS32ImmBase x => Sys2Proof.Machine.execImulS32ImmBase x s
  | .imulhS32Base x => Sys2Proof.Machine.execImulhS32Base x s
  | .iminS32Base x => Sys2Proof.Machine.execIminS32Base x s
  | .imaxS32Base x => Sys2Proof.Machine.execImaxS32Base x s
  | .iminU32Base x => Sys2Proof.Machine.execIminU32Base x s
  | .imaxU32Base x => Sys2Proof.Machine.execImaxU32Base x s
  | .iandBase x => Sys2Proof.Machine.execIandBase x s
  | .iorBase x => Sys2Proof.Machine.execIorBase x s
  | .ixorBase x => Sys2Proof.Machine.execIxorBase x s
  | .ishlBase x => Sys2Proof.Machine.execIshlBase x s
  | .ishlImmBase x => Sys2Proof.Machine.execIshlImmBase x s
  | .ishrBase x => Sys2Proof.Machine.execIshrBase x s
  | .ishrImmBase x => Sys2Proof.Machine.execIshrImmBase x s
  | .israBase x => Sys2Proof.Machine.execIsraBase x s
  | .israImmBase x => Sys2Proof.Machine.execIsraImmBase x s
  | .iandImmBase x => Sys2Proof.Machine.execIandImmBase x s
  | .faddBase x => Sys2Proof.Machine.execFaddBase x s
  | .fsubBase x => Sys2Proof.Machine.execFsubBase x s
  | .fmulBase x => Sys2Proof.Machine.execFmulBase x s
  | .fminBase x => Sys2Proof.Machine.execFminBase x s
  | .fmaxBase x => Sys2Proof.Machine.execFmaxBase x s
  | .hadd2F16Base x => Sys2Proof.Machine.execHadd2F16Base x s
  | .hmul2F16Base x => Sys2Proof.Machine.execHmul2F16Base x s
  | .hadd2Bf16Base x => Sys2Proof.Machine.execHadd2Bf16Base x s
  | .hmul2Bf16Base x => Sys2Proof.Machine.execHmul2Bf16Base x s
  | .s2vBase x => Sys2Proof.Machine.execS2vBase x s
  | .v2sBase x => Sys2Proof.Machine.execV2sBase x s
  | .uaddS64Base x => Sys2Proof.Machine.execUaddS64Base x s
  | .uaddS64ImmBase x => Sys2Proof.Machine.execUaddS64ImmBase x s
  | .usubS64Base x => Sys2Proof.Machine.execUsubS64Base x s
  | .umulS64Base x => Sys2Proof.Machine.execUmulS64Base x s
  | .uandBase x => Sys2Proof.Machine.execUandBase x s
  | .uorBase x => Sys2Proof.Machine.execUorBase x s
  | .uxorBase x => Sys2Proof.Machine.execUxorBase x s
  | .ushlImmBase x => Sys2Proof.Machine.execUshlImmBase x s
  | .ushrImmBase x => Sys2Proof.Machine.execUshrImmBase x s
  | .uminS64Base x => Sys2Proof.Machine.execUminS64Base x s
  | .umaxS64Base x => Sys2Proof.Machine.execUmaxS64Base x s
  | .umovBase x => Sys2Proof.Machine.execUmovBase x s
  | .ldsB32Base x => Sys2Proof.Machine.execLdsB32Base x s
  | .ldgB32Base x => Sys2Proof.Machine.execLdgB32Base x s
  | .ldgU64Base x => Sys2Proof.Machine.execLdgU64Base x s
  | .uldU64Base x => Sys2Proof.Machine.execUldU64Base x s
  | .isetLtS32Base x => Sys2Proof.Machine.execIsetLtS32Base x s
  | .isetGeS32Base x => Sys2Proof.Machine.execIsetGeS32Base x s
  | .isetEqS32Base x => Sys2Proof.Machine.execIsetEqS32Base x s
  | .isetNeS32Base x => Sys2Proof.Machine.execIsetNeS32Base x s
  | .ucmpLtS64Base x => Sys2Proof.Machine.execUcmpLtS64Base x s
  | .ucmpEqS64Base x => Sys2Proof.Machine.execUcmpEqS64Base x s
  | .ucmpLtS64ImmBase x => Sys2Proof.Machine.execUcmpLtS64ImmBase x s
  | .exitBase x => Sys2Proof.Machine.execExitBase x s
  | .yldBase x => Sys2Proof.Machine.execYldBase x s
  | .retBase x => Sys2Proof.Machine.execRetBase x s
  | .umovImmBase x => Sys2Proof.Machine.execUmovImmBase x s
  | .movImmBase x => Sys2Proof.Machine.execMovImmBase x s
  | .ldcB32Base x => Sys2Proof.Machine.execLdcB32Base x s
  | .usraImmBase x => Sys2Proof.Machine.execUsraImmBase x s
  | .upopcBase x => Sys2Proof.Machine.execUpopcBase x s
  | .entryPromotion c b g => Sys2Proof.Machine.execEntryPromotion c b g s
  | .reconvDeadlockRelease c b g => Sys2Proof.Machine.execReconvDeadlockRelease c b g s
  | .launchRecord t ring => Sys2Proof.Machine.execLaunchRecord t ring s
  | .queuePromotion t => Sys2Proof.Machine.execQueuePromotion t s
  | .blockDispatch t => Sys2Proof.Machine.execBlockDispatch t s
  | .patienceExpiry t l => Sys2Proof.Machine.execPatienceExpiry t l s
  | .regionAdmissionStep => Sys2Proof.Machine.execRegionAdmissionStep s
  | .blockStart d => Sys2Proof.Machine.execBlockStart d s
  | .blockComplete c b => Sys2Proof.Machine.execBlockComplete c b s
  | .scheduleSetSelection t l => Sys2Proof.Machine.execScheduleSetSelection t l s
  | .variableLatencyReturn c b g n => Sys2Proof.Machine.execVariableLatencyReturn c b g n s
  | .scoreboardReturn c b g n => Sys2Proof.Machine.execScoreboardReturn c b g n s
  | .tokenComplete c b g k => Sys2Proof.Machine.execTokenComplete c b g k s
  | .forcedSwitch c b g => Sys2Proof.Machine.execForcedSwitch c b g s
  | .groupDemotion c b g => Sys2Proof.Machine.execGroupDemotion c b g s
  | .groupRecall c b g => Sys2Proof.Machine.execGroupRecall c b g s
  | .trapDelivery c b g => Sys2Proof.Machine.execTrapDelivery c b g s
  | .writeCombiningDrain c line => Sys2Proof.Machine.execWriteCombiningDrain c line s
  | .directoryRequest e line write => Sys2Proof.Machine.execDirectoryRequest e line write s
  | .guestDropReport e line => Sys2Proof.Machine.execGuestDropReport e line s
  | .scratchpadEccError c b => Sys2Proof.Machine.execScratchpadEccError c b s
  | .holdEccError c b g key => Sys2Proof.Machine.execHoldEccError c b g key s
  | .barrierRelease c b lvl n => Sys2Proof.Machine.execBarrierRelease c b lvl n s
  | .andTreeArrival t l n node => Sys2Proof.Machine.execAndTreeArrival t l n node s
  | .andTreeRelease t l n => Sys2Proof.Machine.execAndTreeRelease t l n s
  | .coreFailure c => Sys2Proof.Machine.execCoreFailure c s
  | .stampBookHomeRequest d => Sys2Proof.Machine.execStampBookHomeRequest d s
  | .chainRecordFetch c slot => Sys2Proof.Machine.execChainRecordFetch c slot s
  | .xferNop c id => Sys2Proof.Machine.execXferNop c id s
  | .copy c id => Sys2Proof.Machine.execCopy c id s
  | .reduce c id => Sys2Proof.Machine.execReduce c id s
  | .mcast c id => Sys2Proof.Machine.execMcast c id s
  | .multicastDeliveryAck c id rank => Sys2Proof.Machine.execMulticastDeliveryAck c id rank s
  | .copyOperationComplete c id => Sys2Proof.Machine.execCopyOperationComplete c id s
  | .monitorWake c b g m => Sys2Proof.Machine.execMonitorWake c b g m s
  | .monitorPoll c b g m => Sys2Proof.Machine.execMonitorPoll c b g m s
  | .linkPacketReceive d unit seqno crcOk vni red pa payload => Sys2Proof.Machine.execLinkPacketReceive d unit seqno crcOk vni red pa payload s
  | .linkReplay d unit rerouted => Sys2Proof.Machine.execLinkReplay d unit rerouted s
  | .channelWordArrival c ch => Sys2Proof.Machine.execChannelWordArrival c ch s
  | .creditGrant c ch => Sys2Proof.Machine.execCreditGrant c ch s
  | .gather c id => Sys2Proof.Machine.execGather c id s
  | .scatteradd c id => Sys2Proof.Machine.execScatteradd c id s
  | .topk c id => Sys2Proof.Machine.execTopk c id s
  | .hist c id => Sys2Proof.Machine.execHist c id s
  | .blockq c id => Sys2Proof.Machine.execBlockq c id s
  | .req c id => Sys2Proof.Machine.execReq c id s
  | .trans c id => Sys2Proof.Machine.execTrans c id s
  | .verticalWindow c askers => Sys2Proof.Machine.execVerticalWindow c askers s
  | .verticalWireFailure d spareLeft => Sys2Proof.Machine.execVerticalWireFailure d spareLeft s
  | .rewriteWindowTimeout c b => Sys2Proof.Machine.execRewriteWindowTimeout c b s
  | .segmentFetchComplete c slot => Sys2Proof.Machine.execSegmentFetchComplete c slot s
  | .deferredFetchStart c slot => Sys2Proof.Machine.execDeferredFetchStart c slot s
  | .pageWalkComplete d t va write agent core l => Sys2Proof.Machine.execPageWalkComplete d t va write agent core l s
  | .faultResponse t => Sys2Proof.Machine.execFaultResponse t s
  | .xinvGo d => Sys2Proof.Machine.execXinvGo d s
  | .xinvComplete d => Sys2Proof.Machine.execXinvComplete d s
  | .preemptGo => Sys2Proof.Machine.execPreemptGo s
  | .preemptDeadline t => Sys2Proof.Machine.execPreemptDeadline t s
  | .resume t => Sys2Proof.Machine.execResume t s
  | .pwstepWrite val => Sys2Proof.Machine.execPwstepWrite val s
  | .droopAlarm r => Sys2Proof.Machine.execDroopAlarm r s
  | .droopRecovery r => Sys2Proof.Machine.execDroopRecovery r s
  | .imbalanceSample pair => Sys2Proof.Machine.execImbalanceSample pair s
  | .forcefb r => Sys2Proof.Machine.execForcefb r s
  | .restack r => Sys2Proof.Machine.execRestack r s
  | .drainingEnd r => Sys2Proof.Machine.execDrainingEnd r s
  | .switchingEnd r => Sys2Proof.Machine.execSwitchingEnd r s
  | .regionTrip r => Sys2Proof.Machine.execRegionTrip r s
  | .trippedEnd r => Sys2Proof.Machine.execTrippedEnd r s
  | .restartingEnd r pass => Sys2Proof.Machine.execRestartingEnd r pass s
  | .domainLoss d cause => Sys2Proof.Machine.execDomainLoss d cause s
  | .operatingPointChange d tier pt => Sys2Proof.Machine.execOperatingPointChange d tier pt s
  | .timeReferencePulse => Sys2Proof.Machine.execTimeReferencePulse s
  | .cxlLinkDown p => Sys2Proof.Machine.execCxlLinkDown p s
  | .peerAccess m vni va size write val => Sys2Proof.Machine.execPeerAccess m vni va size write val s
  | .hostBar2Access fn addr payload => Sys2Proof.Machine.execHostBar2Access fn addr payload s
  | .powerOnBoot image sorter => Sys2Proof.Machine.execPowerOnBoot image sorter s
  | .sorterHeartbeat => Sys2Proof.Machine.execSorterHeartbeat s
  | .sorterHeartbeatTimeout => Sys2Proof.Machine.execSorterHeartbeatTimeout s
  | .sorterMailboxWrite off val => Sys2Proof.Machine.execSorterMailboxWrite off val s
  | .topologyRefresh => Sys2Proof.Machine.execTopologyRefresh s
  | .tenantReset t => Sys2Proof.Machine.execTenantReset t s
  | .functionLevelReset vf => Sys2Proof.Machine.execFunctionLevelReset vf s
  | .load t => Sys2Proof.Machine.execLoad t s
  | .unload t => Sys2Proof.Machine.execUnload t s
  | .fwset t => Sys2Proof.Machine.execFwset t s
  | .unpoison t => Sys2Proof.Machine.execUnpoison t s
  | .lvlfree t => Sys2Proof.Machine.execLvlfree t s
  | .rules t => Sys2Proof.Machine.execRules t s
  | .attest t => Sys2Proof.Machine.execAttest t s
  | .admitTenant => Sys2Proof.Machine.execAdmit s
  | .retire => Sys2Proof.Machine.execRetire s
  | .draincore => Sys2Proof.Machine.execDraincore s
  | .retrain ok => Sys2Proof.Machine.execRetrain ok s
  | .recal => Sys2Proof.Machine.execRecal s
  | .drainDeadline => Sys2Proof.Machine.execDrainDeadline s
  | .fwupdate => Sys2Proof.Machine.execFwupdate s
  | .sorterload ok => Sys2Proof.Machine.execSorterload ok s
  | .adminAttest => Sys2Proof.Machine.execAdminAttest s
  | .migset => Sys2Proof.Machine.execMigset s
  | .errorCounterClear d word => Sys2Proof.Machine.execErrorCounterClear d word s
  | .registerWrite fn off val => Sys2Proof.Machine.execRegisterWrite fn off val s
  | .memoryError level loc correctable => Sys2Proof.Machine.execMemoryError level loc correctable s
  | .courierLinkDown port => Sys2Proof.Machine.execCourierLinkDown port s
  | .hostMailboxImage image => Sys2Proof.Machine.execHostMailboxImage image s
  | .ringTailWrite fn off val => Sys2Proof.Machine.execRingTailWrite fn off val s

end Sys2Proof.Machine
end

