-- ==== Sys2Proof/Machine/Events.lean ====
section
/-! DEFINITION. The events of the schedule and the rows of the opcode table they are. -/
namespace Sys2Proof.Machine
open Sys2Proof

/-- What an event of the schedule does: the meaning of its row. -/
def stepEvent (e : Event) (s : State) : Host.Outcome State Fault Refusal :=
  match e with
  | .entryPromotion c b g => execEntryPromotion c b g s
  | .reconvDeadlockRelease c b g => execReconvDeadlockRelease c b g s
  | .launchRecord t ring => execLaunchRecord t ring s
  | .queuePromotion t => execQueuePromotion t s
  | .blockDispatch t => execBlockDispatch t s
  | .patienceExpiry t l => execPatienceExpiry t l s
  | .regionAdmissionStep => execRegionAdmissionStep s
  | .blockStart d => execBlockStart d s
  | .blockComplete c b => execBlockComplete c b s
  | .scheduleSetSelection t l => execScheduleSetSelection t l s
  | .variableLatencyReturn c b g i => execVariableLatencyReturn c b g i s
  | .scoreboardReturn c b g i => execScoreboardReturn c b g i s
  | .tokenComplete c b g k => execTokenComplete c b g k s
  | .forcedSwitch c b g => execForcedSwitch c b g s
  | .groupDemotion c b g => execGroupDemotion c b g s
  | .groupRecall c b g => execGroupRecall c b g s
  | .trapDelivery c b g => execTrapDelivery c b g s
  | .writeCombiningDrain c line => execWriteCombiningDrain c line s
  | .directoryRequest e line write => execDirectoryRequest e line write s
  | .guestDropReport e line => execGuestDropReport e line s
  | .scratchpadEccError c b => execScratchpadEccError c b s
  | .holdEccError c b g key => execHoldEccError c b g key s
  | .barrierRelease c b lvl n => execBarrierRelease c b lvl n s
  | .andTreeArrival t l n node => execAndTreeArrival t l n node s
  | .andTreeRelease t l n => execAndTreeRelease t l n s
  | .coreFailure c => execCoreFailure c s
  | .stampBookHomeRequest d => execStampBookHomeRequest d s
  | .chainRecordFetch c slot => execChainRecordFetch c slot s
  | .xferNop c id => execXferNop c id s
  | .copy c id => execCopy c id s
  | .reduce c id => execReduce c id s
  | .mcast c id => execMcast c id s
  | .multicastDeliveryAck c id rank => execMulticastDeliveryAck c id rank s
  | .copyOperationComplete c id => execCopyOperationComplete c id s
  | .monitorWake c b g m => execMonitorWake c b g m s
  | .monitorPoll c b g m => execMonitorPoll c b g m s
  | .linkPacketReceive d unit seqno crcOk vni red pa payload => execLinkPacketReceive d unit seqno crcOk vni red pa payload s
  | .linkReplay d unit rerouted => execLinkReplay d unit rerouted s
  | .channelWordArrival c ch => execChannelWordArrival c ch s
  | .creditGrant c ch => execCreditGrant c ch s
  | .gather c id => execGather c id s
  | .scatteradd c id => execScatteradd c id s
  | .topk c id => execTopk c id s
  | .hist c id => execHist c id s
  | .blockq c id => execBlockq c id s
  | .req c id => execReq c id s
  | .trans c id => execTrans c id s
  | .verticalWindow c askers => execVerticalWindow c askers s
  | .verticalWireFailure d spareLeft => execVerticalWireFailure d spareLeft s
  | .rewriteWindowTimeout c b => execRewriteWindowTimeout c b s
  | .segmentFetchComplete c slot => execSegmentFetchComplete c slot s
  | .deferredFetchStart c slot => execDeferredFetchStart c slot s
  | .pageWalkComplete d t va write agent core l => execPageWalkComplete d t va write agent core l s
  | .faultResponse t => execFaultResponse t s
  | .xinvGo d => execXinvGo d s
  | .xinvComplete d => execXinvComplete d s
  | .preemptGo => execPreemptGo s
  | .preemptDeadline t => execPreemptDeadline t s
  | .resume t => execResume t s
  | .pwstepWrite val => execPwstepWrite val s
  | .droopAlarm r => execDroopAlarm r s
  | .droopRecovery r => execDroopRecovery r s
  | .imbalanceSample pair => execImbalanceSample pair s
  | .forcefb r => execForcefb r s
  | .restack r => execRestack r s
  | .drainingEnd r => execDrainingEnd r s
  | .switchingEnd r => execSwitchingEnd r s
  | .regionTrip r => execRegionTrip r s
  | .trippedEnd r => execTrippedEnd r s
  | .restartingEnd r pass => execRestartingEnd r pass s
  | .domainLoss d cause => execDomainLoss d cause s
  | .operatingPointChange d tier pt => execOperatingPointChange d tier pt s
  | .timeReferencePulse => execTimeReferencePulse s
  | .cxlLinkDown p => execCxlLinkDown p s
  | .peerAccess m vni va size write val => execPeerAccess m vni va size write val s
  | .hostBar2Access fn addr payload => execHostBar2Access fn addr payload s
  | .powerOnBoot image sorter => execPowerOnBoot image sorter s
  | .sorterHeartbeat => execSorterHeartbeat s
  | .sorterHeartbeatTimeout => execSorterHeartbeatTimeout s
  | .sorterMailboxWrite off val => execSorterMailboxWrite off val s
  | .topologyRefresh => execTopologyRefresh s
  | .tenantReset t => execTenantReset t s
  | .functionLevelReset vf => execFunctionLevelReset vf s
  | .load t => execLoad t s
  | .unload t => execUnload t s
  | .fwset t => execFwset t s
  | .unpoison t => execUnpoison t s
  | .lvlfree t => execLvlfree t s
  | .rules t => execRules t s
  | .attest t => execAttest t s
  | .admitTenant => execAdmit s
  | .retire => execRetire s
  | .draincore => execDraincore s
  | .retrain ok => execRetrain ok s
  | .recal => execRecal s
  | .drainDeadline => execDrainDeadline s
  | .fwupdate => execFwupdate s
  | .sorterload ok => execSorterload ok s
  | .adminAttest => execAdminAttest s
  | .migset => execMigset s
  | .errorCounterClear d word => execErrorCounterClear d word s
  | .registerWrite fn off val => execRegisterWrite fn off val s
  | .memoryError level loc correctable => execMemoryError level loc correctable s
  | .courierLinkDown port => execCourierLinkDown port s
  | .hostMailboxImage image => execHostMailboxImage image s
  | .ringTailWrite fn off val => execRingTailWrite fn off val s

/-- The event an instruction is, if its row is one. -/
def eventOf (i : Instr) : Option Event :=
  match i with
  | .entryPromotion c b g => some (.entryPromotion c b g)
  | .reconvDeadlockRelease c b g => some (.reconvDeadlockRelease c b g)
  | .launchRecord t ring => some (.launchRecord t ring)
  | .queuePromotion t => some (.queuePromotion t)
  | .blockDispatch t => some (.blockDispatch t)
  | .patienceExpiry t l => some (.patienceExpiry t l)
  | .regionAdmissionStep => some (.regionAdmissionStep)
  | .blockStart d => some (.blockStart d)
  | .blockComplete c b => some (.blockComplete c b)
  | .scheduleSetSelection t l => some (.scheduleSetSelection t l)
  | .variableLatencyReturn c b g i => some (.variableLatencyReturn c b g i)
  | .scoreboardReturn c b g i => some (.scoreboardReturn c b g i)
  | .tokenComplete c b g k => some (.tokenComplete c b g k)
  | .forcedSwitch c b g => some (.forcedSwitch c b g)
  | .groupDemotion c b g => some (.groupDemotion c b g)
  | .groupRecall c b g => some (.groupRecall c b g)
  | .trapDelivery c b g => some (.trapDelivery c b g)
  | .writeCombiningDrain c line => some (.writeCombiningDrain c line)
  | .directoryRequest e line write => some (.directoryRequest e line write)
  | .guestDropReport e line => some (.guestDropReport e line)
  | .scratchpadEccError c b => some (.scratchpadEccError c b)
  | .holdEccError c b g key => some (.holdEccError c b g key)
  | .barrierRelease c b lvl n => some (.barrierRelease c b lvl n)
  | .andTreeArrival t l n node => some (.andTreeArrival t l n node)
  | .andTreeRelease t l n => some (.andTreeRelease t l n)
  | .coreFailure c => some (.coreFailure c)
  | .stampBookHomeRequest d => some (.stampBookHomeRequest d)
  | .chainRecordFetch c slot => some (.chainRecordFetch c slot)
  | .xferNop c id => some (.xferNop c id)
  | .copy c id => some (.copy c id)
  | .reduce c id => some (.reduce c id)
  | .mcast c id => some (.mcast c id)
  | .multicastDeliveryAck c id rank => some (.multicastDeliveryAck c id rank)
  | .copyOperationComplete c id => some (.copyOperationComplete c id)
  | .monitorWake c b g m => some (.monitorWake c b g m)
  | .monitorPoll c b g m => some (.monitorPoll c b g m)
  | .linkPacketReceive d unit seqno crcOk vni red pa payload => some (.linkPacketReceive d unit seqno crcOk vni red pa payload)
  | .linkReplay d unit rerouted => some (.linkReplay d unit rerouted)
  | .channelWordArrival c ch => some (.channelWordArrival c ch)
  | .creditGrant c ch => some (.creditGrant c ch)
  | .gather c id => some (.gather c id)
  | .scatteradd c id => some (.scatteradd c id)
  | .topk c id => some (.topk c id)
  | .hist c id => some (.hist c id)
  | .blockq c id => some (.blockq c id)
  | .req c id => some (.req c id)
  | .trans c id => some (.trans c id)
  | .verticalWindow c askers => some (.verticalWindow c askers)
  | .verticalWireFailure d spareLeft => some (.verticalWireFailure d spareLeft)
  | .rewriteWindowTimeout c b => some (.rewriteWindowTimeout c b)
  | .segmentFetchComplete c slot => some (.segmentFetchComplete c slot)
  | .deferredFetchStart c slot => some (.deferredFetchStart c slot)
  | .pageWalkComplete d t va write agent core l => some (.pageWalkComplete d t va write agent core l)
  | .faultResponse t => some (.faultResponse t)
  | .xinvGo d => some (.xinvGo d)
  | .xinvComplete d => some (.xinvComplete d)
  | .preemptGo => some (.preemptGo)
  | .preemptDeadline t => some (.preemptDeadline t)
  | .resume t => some (.resume t)
  | .pwstepWrite val => some (.pwstepWrite val)
  | .droopAlarm r => some (.droopAlarm r)
  | .droopRecovery r => some (.droopRecovery r)
  | .imbalanceSample pair => some (.imbalanceSample pair)
  | .forcefb r => some (.forcefb r)
  | .restack r => some (.restack r)
  | .drainingEnd r => some (.drainingEnd r)
  | .switchingEnd r => some (.switchingEnd r)
  | .regionTrip r => some (.regionTrip r)
  | .trippedEnd r => some (.trippedEnd r)
  | .restartingEnd r pass => some (.restartingEnd r pass)
  | .domainLoss d cause => some (.domainLoss d cause)
  | .operatingPointChange d tier pt => some (.operatingPointChange d tier pt)
  | .timeReferencePulse => some (.timeReferencePulse)
  | .cxlLinkDown p => some (.cxlLinkDown p)
  | .peerAccess m vni va size write val => some (.peerAccess m vni va size write val)
  | .hostBar2Access fn addr payload => some (.hostBar2Access fn addr payload)
  | .powerOnBoot image sorter => some (.powerOnBoot image sorter)
  | .sorterHeartbeat => some (.sorterHeartbeat)
  | .sorterHeartbeatTimeout => some (.sorterHeartbeatTimeout)
  | .sorterMailboxWrite off val => some (.sorterMailboxWrite off val)
  | .topologyRefresh => some (.topologyRefresh)
  | .tenantReset t => some (.tenantReset t)
  | .functionLevelReset vf => some (.functionLevelReset vf)
  | .load t => some (.load t)
  | .unload t => some (.unload t)
  | .fwset t => some (.fwset t)
  | .unpoison t => some (.unpoison t)
  | .lvlfree t => some (.lvlfree t)
  | .rules t => some (.rules t)
  | .attest t => some (.attest t)
  | .admitTenant => some (.admitTenant)
  | .retire => some (.retire)
  | .draincore => some (.draincore)
  | .retrain ok => some (.retrain ok)
  | .recal => some (.recal)
  | .drainDeadline => some (.drainDeadline)
  | .fwupdate => some (.fwupdate)
  | .sorterload ok => some (.sorterload ok)
  | .adminAttest => some (.adminAttest)
  | .migset => some (.migset)
  | .errorCounterClear d word => some (.errorCounterClear d word)
  | .registerWrite fn off val => some (.registerWrite fn off val)
  | .memoryError level loc correctable => some (.memoryError level loc correctable)
  | .courierLinkDown port => some (.courierLinkDown port)
  | .hostMailboxImage image => some (.hostMailboxImage image)
  | .ringTailWrite fn off val => some (.ringTailWrite fn off val)
  | _ => none

end Sys2Proof.Machine
end

