-- ==== Sys2Proof/Machine/Schedule.lean ====
section
/-! DEFINITION. What a turn of the schedule does, and which turn comes when the schedule names none (log 3). -/
namespace Sys2Proof.Machine
open Sys2Proof

/-- The agent whose turn it is issues its next instruction, if it may. -/
def tryAgent (s : State) : Host.Outcome State Fault Refusal :=
  match readyAgent s with
  | (s, false) => .next s
  | (s, true) =>
    match nextPc s with
    | none => .next s
    | some pc =>
      match fetch (s.core s.cur.core) pc with
      | .instr i => exec i s
      | .bad => .next (streamIllop s)
      | .missing => .next (streamMissing s)

/-- A group stands parked by what it tried last (R318); a park at a switch point or for PREACK ends an instruction that has issued. -/
def Group.heldBack (x : Group) : Bool :=
  match x.park with
  | none | some .switchPoint | some .preack => false
  | _ => true
/-- The group's next turn issues an instruction (R317): it is resident and not parked, or what it is parked for has ended, and its
instruction then does not park. -/
def mayIssue (s : State) (c b g : Nat) : Bool :=
  let v := { s with cur := ⟨c, b, some g⟩ }
  (readyAgent v).2 && match tryAgent v with
    | .next u => (u.group c b g).all fun x => !x.heldBack
    | _ => true
/-- Another group of the partition is picked before this one (R317): its last issue is older, or as old in a lower slot, and it may
issue as well. -/
def outranked (s : State) (c b g : Nat) : Bool :=
  match s.group c b g with
  | some x =>
    (partition s c (g % 4)).any fun (d, i, y) =>
      !(d == b && i == g) && y.resident && !y.ended &&
        (decide (y.lastIssue < x.lastIssue) || (y.lastIssue == x.lastIssue && (decide (y.slot < x.slot) || (y.slot == x.slot && decide (d < b))))) &&
        mayIssue s c d i
  | none => false

/-- The turn of an agent; a group issues only as its partition's pick (R317). -/
def stepAgent (s : State) : Host.Outcome State Fault Refusal :=
  if s.cur.grp.any fun g => outranked s s.cur.core s.cur.block g then .next s else tryAgent s

/-- A turn: an agent's instruction, a step of another agent of the device, or time. -/
def stepTurn (s : State) (t : Turn) : Host.Outcome State Fault Refusal :=
  match t with
  | .agent a => stepAgent { s with cur := a }
  | .event e => stepEvent e s
  | .elapse n => .next { s with now := s.now + n }

/-- Whether a turn would do anything: it stops, or what it leaves differs in more than whose turn it is. -/
def turnMoves (s : State) (t : Turn) : Bool :=
  match stepTurn s t with
  | .next u => u != { s with cur := u.cur }
  | _ => true

/-- A group outside the register file is ready (R324): were it in the file, its turn would issue, or enter its handler. -/
def becomesReady (s : State) (c b g : Nat) : Bool :=
  let v := { s.updGroup c b g fun x => { x with resident := true } with cur := ⟨c, b, some g⟩ }
  match readyAgent v with
  | (u, false) => u != v
  | (_, true) => mayIssue v c b g
/-- What a group has been since when: parked or waiting in the file, ready outside it (R324), where `ready` says that it may issue; a group
whose every entry waits is at a switch point (R320, R323). -/
def Group.noted (x : Group) (tick : Nat) (ready : Bool) : Group :=
  let x := { x with parked := if x.resident && !x.ended && x.idle && !ready then some (x.parked.getD tick) else none
                    ready := if ready && !x.resident then some (x.ready.getD tick) else none }
  if (selectEntry x).isNone then { x with sinceSwitch := 0, forced := false } else x
/-- A group that may issue: of those in the file only the ones that stand parked or waiting are asked. -/
def notesReady (s : State) (c b g : Nat) (y : Group) : Bool :=
  !y.ended && if y.resident then y.idle && mayIssue s c b g else becomesReady s c b g
/-- Every group noted, at the beginning of each step. -/
def noteGroups (s : State) : State :=
  { s with cores := kmap s.cores fun c (k : Core) =>
      { k with blocks := kmap k.blocks fun b (x : Block) =>
          { x with groups := kmap x.groups fun g y => y.noted s.tick (notesReady s c b g y) } } }

/-- Results of a group that are on their way (R255, R260, R319). -/
def returnEvents (c b g : Nat) (x : Group) : List Event :=
  (x.pend.map fun (i, _) => .variableLatencyReturn c b g i) ++ (x.board.map fun k => .scoreboardReturn c b g k.id) ++
  (x.tokens.map fun (i, _) => .tokenComplete c b g i)

/-- The barriers that entries of a group wait at (R101). -/
def barrierEvents (c b : Nat) (x : Group) : List Event :=
  x.frontier.filterMap fun e => match e.wait with
    | some (.bar lvl n _ _ _ _ _) => some (.barrierRelease c b lvl n)
    | _ => none

/-- The steps of a block's groups and tile stream beside issue; `over`: a group of the core lies in the hold tier. -/
def blockEvents (gone : Bool) (c b : Nat) (k : Block) : List Event :=
  (k.groups.map fun (g, x) => returnEvents c b g x).flatten ++ (k.groups.map fun (_, x) => barrierEvents c b x).flatten ++
  (match k.tile.bind fun t => t.bar with | some (n, _) => [.barrierRelease c b 1 n] | none => []) ++
  (k.groups.map fun (g, x) => (if x.late.isEmpty && !x.preempt then [] else [.trapDelivery c b g]) ++
    (if !x.resident then [.groupRecall c b g] else if gone then [.groupDemotion c b g] else [])).flatten ++
  (if k.groups.all fun (_, x) => x.ended then [.blockComplete c b] else [])

/-- The steps of an operation in flight (R121, R144). -/
def opEvents (c : Nat) (o : Op) : List Event :=
  [.xferNop c o.id, .copy c o.id, .reduce c o.id, .mcast c o.id, .gather c o.id, .scatteradd c o.id, .topk c o.id, .hist c o.id,
   .blockq c o.id, .req c o.id, .trans c o.id] ++
  (o.acks.map fun r => .multicastDeliveryAck c o.id r) ++ [.copyOperationComplete c o.id]

/-- The steps of a core's engines, channels, strong writes and overlay slots. -/
def coreEvents (c : Nat) (k : Core) : List Event :=
  (k.ops.map (opEvents c)).flatten ++ (k.chains.map fun (i, _) => .chainRecordFetch c i) ++
  (k.flight.map fun w => .channelWordArrival c w.ch) ++ (k.chans.map fun (ch, _) => .creditGrant c ch) ++
  (k.strong.map fun w => .writeCombiningDrain c (lineOf w.pa)) ++
  (k.slots.map fun (i, _) => [.segmentFetchComplete c i, .deferredFetchStart c i]).flatten ++
  (k.blocks.map fun (b, x) => blockEvents (k.blocks.any fun (_, y) => y.groups.any fun (_, z) => !z.resident) c b x).flatten

/-- The steps of the AND-tree for a launch's slots (R106). -/
def treeEvents (s : State) : List Event :=
  (s.tree.map fun x => ((List.range 8).map fun n =>
    ((launchCores s x.tenant x.launch).map fun c => .andTreeArrival x.tenant x.launch n c) ++
    [.andTreeArrival x.tenant x.launch n x.node, .andTreeRelease x.tenant x.launch n]).flatten).flatten

/-- Guests that have dropped their last line of a directory entry report it (R356); a granule's entry is named by its first line that
no object's entry tracks (R88). -/
def dropEvents (d : Domain) : List Event :=
  let own (g : Nat) : Nat :=
    (((List.range 32).map fun i => 32 * g + i).find? fun l => !d.objs.any fun (_, o) => o.lines.contains l).getD (32 * g)
  (d.dir.map fun (g, e) => (presentList e.present).map fun x => .guestDropReport x (own g)).flatten ++
  (d.objs.map fun (_, o) => (presentList o.dir.present).map fun x => .guestDropReport x ((o.lines.head?).getD 0)).flatten

/-- The steps of a tenant's dispatch and of the Postmaster for it (R34-R47, R386, R393). -/
def tenantEvents (t : Nat) (n : Tenant) : List Event :=
  let queued := !n.again.isEmpty || n.queues.any fun (_, q) => !q.isEmpty
  ((n.rings.filter fun (r, x) => decide (r < 4) && x.count != 0).map fun (r, _) => .launchRecord t r) ++
  (if queued then .queuePromotion t :: (n.launches.map fun (l, x) => .scheduleSetSelection t l ::
    (if !x.patience.isEmpty then [.patienceExpiry t l] else [])).flatten ++ [.blockDispatch t] else []) ++
  (if (n.ring ringCQ).count = 0 then [] else
    [.load t, .unload t, .fwset t, .unpoison t, .lvlfree t, .rules t, .attest t]) ++
  [.faultResponse t] ++ (if n.pstat = 1 then [.preemptDeadline t] else if n.pstat = 3 then [.resume t] else [])

/-- The steps of the Postmaster for the module (R388, R401, R412). -/
def moduleEvents (s : State) : List Event :=
  (if (s.mod.ring ringCQ).count = 0 then [] else
    [.admitTenant, .retire, .draincore, .retrain 1, .recal, .drainDeadline, .fwupdate, .sorterload 1, .adminAttest, .migset]) ++
  [.sorterHeartbeatTimeout] ++
  ((s.cores.filter fun (c, _) => failedCore s c && !standsAnywhere s c).map fun (c, _) => .coreFailure c) ++
  (s.regions.map fun (r, _) => [.drainingEnd r, .switchingEnd r]).flatten

/-- What follows only when nothing else moves (R21, R84, R129, R327). -/
def lastEvents (s : State) : List Event :=
  (s.cores.map fun (c, k) =>
    (k.blocks.map fun (b, x) =>
      (x.groups.map fun (g, y) => .reconvDeadlockRelease c b g :: (y.monitors.map fun (m, _) => .monitorPoll c b g m)).flatten ++
      [.rewriteWindowTimeout c b]).flatten ++
    (k.wc.map fun (l, _) => .writeCombiningDrain c l)).flatten

/-- The streams in the order of their last issue, the oldest first (R317), the tile streams after the groups. -/
def agentTurns (s : State) : List Turn :=
  let groups := (s.cores.map fun (c, k) => (k.blocks.map fun (b, x) => x.groups.map fun (g, y) => (y.lastIssue, Agent.mk c b (some g))).flatten).flatten
  let tiles := (s.cores.map fun (c, k) => (k.blocks.filter fun (_, x) => x.tile.isSome).map fun (b, _) => Agent.mk c b none).flatten
  ((groups.mergeSort fun x y => decide (x.1 ≤ y.1)).map fun (_, a) => a).map .agent ++ tiles.map .agent

/-- The turn taken when the schedule names none (log 3): the first that does anything of what is on its way, the dispatchers
and the Postmaster, the streams, and what only follows when nothing else moves. Time passes only by `elapse`. -/
def defaultTurn (s : State) : Option Turn :=
  let first := (s.cores.map fun (c, k) => coreEvents c k).flatten ++ treeEvents s ++
    (s.domains.map fun (d, x) => [.stampBookHomeRequest d, .xinvComplete d, .blockStart d] ++ dropEvents x).flatten ++ [.regionAdmissionStep] ++
    (s.tenants.map fun (t, n) => tenantEvents t n).flatten ++ moduleEvents s
  (first.map Turn.event ++ agentTurns s ++ (lastEvents s).map Turn.event).find? (turnMoves s)

end Sys2Proof.Machine
end

