-- ==== Sys2Proof/Machine/Step.lean ====
section
/-! DEFINITION. One step of the module: the next turn of its schedule. -/
namespace Sys2Proof.Machine
open Sys2Proof

/-- One step: the head of the schedule, or the default turn; with neither, nothing moves. Every step draws new free
values and first notes what each group is. -/
def step (s : State) : Host.Outcome State Fault Refusal :=
  let s := noteGroups { s with tick := s.tick + 1 }
  match s.turns with
  | t :: r => stepTurn { s with turns := r } t
  | [] => match defaultTurn s with
    | some t => stepTurn s t
    | none => .next s

/-- The instruction whose bits are `w` stored where the next step fetches it: a module past its boot with one tenant, one
launch and one block on core D0.b0.c0, the words in overlay slot 0 at the address of group 0, or of the tile stream when
they are a tile instruction, and that agent's turn (log 1). -/
def State.withFetchWord (s : State) (_nbits w : Nat) : State :=
  let block := (Block.start 0 0 0 [0, 0, 0, 0, 0x0000010001000001, 0, 0, 0] 0 probeKernel 1 0).readied
  let core := { Core.fresh with tenant := some 0, code := some (0, 0), launch := some (0, 0), slots := [(0, probeSlot w)]
                                blocks := [(0, block)] }
  let ten := { Tenant.fresh with st := 1, vni := 1, placement := [0] }
  { s with cores := kset s.cores 0 core, tenants := kset s.tenants 0 ten
           mod := { s.mod with ready := true, fieldOf := List.range 64 }
           turns := [.agent ⟨0, 0, if isTileWord w then none else some 0⟩] }

end Sys2Proof.Machine
end

