-- ==== Sys2Proof/Safety.lean ====
section
/-! DEFINITION. The terms in which claims are stated: the invariant that every step keeps, safe runs, and what an instruction
reads and leaves. -/
namespace Sys2Proof
open Sys2Proof.Machine

/-- The fields of an extended instruction that writes none of them: every field zero, and the guards p7 and q7 (R179). -/
def Ext.plain : Ext :=
  { s := false, g0 := 7, g0n := false, g1 := 7, g1n := false, gc := false, hint := 0, d := 0, dcl := false, a := 0, acl := false
    apop := false, b := 0, bcl := false, bpop := false, c := 0, ccl := false, cpop := false, e := 0, ecl := false, epop := false
    ty := 0, rm := 0, sat := false, mod6 := 0, aux8 := 0, lit := none }

/-- The row, the fields and the length in bytes of a group or tile instruction; a base form is its extended form at its own
length (R177). -/
def Instr.issued (i : Instr) : Option (Row × Ext × Nat) :=
  match i.form with
  | .ext r x => some (r, x, extLen x)
  | .base r x => some (r.row, x.toExt r, baseLen x)
  | .event => none

end Sys2Proof

namespace Sys2Proof.Machine
open Sys2Proof

/-- The memory keeps its canonical form, and so two memories with the same bytes are equal data. -/
def State.Inv (s : State) : Prop := Memory.wf s.mem = true

/-- A run of `n` steps that ends in a state, with no fault and no refusal on the way. -/
def runs (n : Nat) (s t : State) : Prop :=
  match n with
  | 0 => s = t
  | n + 1 => ∃ u, step s = .next u ∧ runs n u t

/-- The lanes a p-guarded instruction acts on, in increasing order (R180, R204). -/
def Here.lanes (h : Here) (x : Ext) : List Nat := laneList h.width (h.active x)

/-- The group with the issue opportunity counted (R19, R20). -/
def Here.counted (h : Here) : Group := countIssue h.grp h.ent.pc

/-- A group with other vector registers, uniform registers, lane predicates or uniform predicates, or with flags raised (R162). -/
def Group.setV (g : Group) (v : ZMap 32) : Group := { g with v := v }
def Group.setS (g : Group) (v : ZMap 64) : Group := { g with s := v }
def Group.setP (g : Group) (v : ZMap 64) : Group := { g with p := v }
def Group.setQ (g : Group) (v : BitVec 7) : Group := { g with q := v }
def Group.raised (g : Group) (f : Flags) : Group := { g with fflags := g.fflags ||| f }

/-- The group `g` that an instruction's effect left, after the issue is completed: the entry stands `len` bytes on, the
opportunity is counted toward the forced switch, and an S bit or a forced switch parks the group at the switch point (R187,
R320, R321, R323). -/
def Here.advanced (h : Here) (len : Nat) (sbit : Bool) (g : Group) : Group :=
  let m := moveEntry g h.width h.ent.pc (h.ent.pc.plus len)
  { m with sinceSwitch := m.sinceSwitch + 1, lastIssue := h.tick
           park := if sbit || m.forced || decide (4096 ≤ m.sinceSwitch) then some .switchPoint else none }

/-- An instruction passes the checks that precede its operands' use: its registers are allocated (R50), the scoreboard holds
none of them (R260), and its channels have the words and the space for `lanes` lanes (R140). -/
def Here.mayIssue (h : Here) (s : State) (r : Row) (x : Ext) (glob : Bool) (lanes : Nat) : Prop :=
  regsOk h r x glob = true ∧ scoreboardHolds h r x glob = false ∧
  chanCheck s h (chanSrcs r x lanes) (pushAmount r x lanes) = .ok

/-- A p-guarded instruction with active lanes that passes its checks. -/
def Here.vecIssues (h : Here) (s : State) (r : Row) (x : Ext) (glob : Bool) : Prop :=
  squashed x = false ∧ h.active x ≠ 0 ∧ h.mayIssue s r x glob (laneCount (h.active x))

/-- A q-guarded instruction whose guard is true and that passes its checks. -/
def Here.uniIssues (h : Here) (s : State) (r : Row) (x : Ext) (glob : Bool) : Prop :=
  squashed x = false ∧ h.guardQ x = true ∧ h.mayIssue s r x glob (laneCount h.ent.mask)

/-- No result is on its way to the instruction's vector destination (R319). -/
def Here.destIdle (h : Here) (r : Row) (x : Ext) : Prop :=
  ∀ l, h.grp.coming x.d.toNat l = [] ∧ (pairOf r.d x = true → h.grp.coming (x.d.toNat + 1) l = [])

/-- No result is on its way to a uniform register (R319). -/
def Group.uniIdle (g : Group) (i : Nat) : Prop := ∀ p ∈ g.pend, ∀ v, p.2.wb ≠ .uni i v

/-- What a class F vector instruction writes (R183, R188): lane `l` of the active lanes takes `val l` in register D, or its
two halves in the pair from D; every other register of a lane keeps its value. -/
def vecWritten (before after : ZMap 32) (pair : Bool) (d : Nat) (ls : List Nat) (val : Nat → W64) : Prop :=
  (∀ l ∈ ls, zget after (vKey d l) = (val l).extractLsb' 0 32 ∧
    (pair = true → zget after (vKey (d + 1) l) = (val l).extractLsb' 32 32)) ∧
  (∀ i l, l < 64 → ¬(l ∈ ls ∧ (i = d ∨ (pair = true ∧ i = d + 1))) → zget after (vKey i l) = zget before (vKey i l))

/-- What a predicate destination takes (R50): the active lanes' bits of p(D); p7 discards; every other bit is kept. -/
def predWritten (before after : ZMap 64) (d : Nat) (ls : List Nat) (val : Nat → Bool) : Prop :=
  ∀ i l, l < 64 → (zget after i).getLsbD l =
    if l ∈ ls ∧ i = d ∧ d ≠ 7 then val l else (zget before i).getLsbD l

/-- The flags that the lanes of an instruction raise together (R164). -/
def laneFlags (f : Nat → W64 × Flags) (ls : List Nat) : Flags := ls.foldl (fun a l => a ||| (f l).2) 0

/-- What a lane takes and raises, of an instruction's fields, the group and the source operands (R188). -/
abbrev LaneFn := Ext → Here → Srcs → Nat → W64 × Flags

/-- A p-guarded, or a q-guarded, instruction of a row that is found issuing and passes its checks. -/
def VecIssue (i : Instr) (s : State) (r : Row) (x : Ext) (len : Nat) (h : Here) (glob : Bool) : Prop :=
  i.issued = some (r, x, len) ∧ here s = some h ∧ h.vecIssues s r x glob
def UniIssue (i : Instr) (s : State) (r : Row) (x : Ext) (len : Nat) (h : Here) (glob : Bool) : Prop :=
  i.issued = some (r, x, len) ∧ here s = some h ∧ h.uniIssues s r x glob

/-- The state `u` that an instruction's effect left, once its entry has moved `len` bytes on and the issue is completed (R187,
R320, R323). -/
def Here.completed (h : Here) (len : Nat) (sbit : Bool) (u : State) : State :=
  finishIssue (u.updGroup h.c h.b h.g fun g => moveEntry g h.width h.ent.pc (h.ent.pc.plus len)) h sbit

/-- A class F vector instruction of row `r` with a register destination completes (R229): the active lanes take their values,
the flags of all of them are raised once (R162, R164), the entry goes on, and nothing else changes but what the sources pop. -/
def vecCompletes (r : Row) (f : LaneFn) : Prop :=
  ∀ (i : Instr) (x : Ext) (len : Nat) (s : State) (h : Here), VecIssue i s r x len h false → x.dcl = false → h.destIdle r x →
    let q := fetchSrcs s h r x (h.lanes x)
    let fl := laneFlags (f x h q.1) (h.lanes x)
    ∃ v, exec i s = .next (countFlags (q.2.updGroup h.c h.b h.g fun _ =>
        h.advanced len x.s ((h.counted.setV v).raised fl)) h.ten fl) ∧
      vecWritten h.grp.v v (pairOf r.d x) x.d.toNat (h.lanes x) (fun l => (f x h q.1 l).1)

/-- The words that a lane list pushes, lower lanes first, a pair low word first (R139). -/
def lanePush (pair : Bool) (ls : List Nat) (val : Nat → W64) : List W32 := (ls.map fun l => laneWords pair (val l)).flatten

/-- The same with a channel as destination (R139, R140, R143): the space is taken, the words leave in lane order, and a vertical
queue takes the records they complete, where their range locks are free (R137). -/
def vecPushes (r : Row) (f : LaneFn) : Prop :=
  ∀ (i : Instr) (x : Ext) (len : Nat) (s u : State) (h : Here), VecIssue i s r x len h false → x.dcl = true →
    let q := fetchSrcs s h r x (h.lanes x)
    let ws := lanePush (pairOf r.d x) (h.lanes x) fun l => (f x h q.1 l).1
    pushWords (reservePush (openIssue q.2 h) h.c x.d.toNat ws.length) h.c h.b h.g h.ten x.d.toNat ws = (u, true) →
    vqStuck u h.c x.d.toNat = false →
    exec i s = .next (h.completed len x.s (raiseFlags u h.c h.b h.g h.ten (laneFlags (f x h q.1) (h.lanes x))))

/-- The same of an instruction with a lane predicate destination. -/
def predCompletes (r : Row) (f : LaneFn) : Prop :=
  ∀ (i : Instr) (x : Ext) (len : Nat) (s : State) (h : Here), VecIssue i s r x len h false → x.dcl = false →
    (r.d = .pq → x.mod6.getLsbD 0 = false) →
    let q := fetchSrcs s h r x (h.lanes x)
    ∃ p, exec i s = .next (q.2.updGroup h.c h.b h.g fun _ => h.advanced len x.s (h.counted.setP p)) ∧
      predWritten h.grp.p p x.d.toNat (h.lanes x) (fun l => (f x h q.1 l).1 != 0)

/-- What a class F uniform instruction computes of its fields and operands. -/
abbrev UniFn := Ext → W64 → W64 → W64 → W64

/-- A class F uniform instruction of row `r` with a register destination completes (R204, R206): s(D) takes the value, the
entry goes on, and nothing else changes but what the sources pop. -/
def uniCompletes (r : Row) (f : UniFn) : Prop :=
  ∀ (i : Instr) (x : Ext) (len : Nat) (s : State) (h : Here), UniIssue i s r x len h false → x.dcl = false →
    h.grp.uniIdle x.d.toNat →
    let q := fetchSrcs s h r x []
    exec i s = .next (q.2.updGroup h.c h.b h.g fun _ => h.advanced len x.s
      (h.counted.setS (zset h.grp.s x.d.toNat (f x (q.1.a 0) (q.1.b 0) (q.1.c 0)))))

/-- The same with a channel as destination: one word or two by the type (R139). -/
def uniPushes (r : Row) (f : UniFn) : Prop :=
  ∀ (i : Instr) (x : Ext) (len : Nat) (s u : State) (h : Here), UniIssue i s r x len h false → x.dcl = true →
    let q := fetchSrcs s h r x []
    let ws := laneWords (uniWords r x = 2) (f x (q.1.a 0) (q.1.b 0) (q.1.c 0))
    pushWords (reservePush (openIssue q.2 h) h.c x.d.toNat ws.length) h.c h.b h.g h.ten x.d.toNat ws = (u, true) →
    vqStuck u h.c x.d.toNat = false → exec i s = .next (h.completed len x.s u)

/-- The typed forms of R206: exact on the operands as their type reads them, then wrapped and widened by the type. -/
def uniTyped (f : Nat → Int → Int → Int → Int) : UniFn := fun x a b c =>
  uWrap x.ty (f (uBits x.ty) (uVal x.ty a) (uVal x.ty b) (uVal x.ty c))
/-- The integer forms of R231 on 32-bit words. -/
def laneInt (f : Int → Int → Int → Int) : LaneFn := fun x _ v l =>
  (of32 (BitVec.ofInt 32 (iSat x (f (iVal x.ty (lo32 (v.a l))) (iVal x.ty (lo32 (v.b l))) (iVal x.ty (lo32 (v.c l)))))), 0)
/-- The forms of R232 and R233 on 32-bit words. -/
def laneWord (f : Ext → W32 → W32 → W32 → W32) : LaneFn := fun x _ v l =>
  (of32 (f x (lo32 (v.a l)) (lo32 (v.b l)) (lo32 (v.c l))), 0)
/-- The FP32 forms of R235 and R237 on codes. -/
def laneFp (f : Ext → Nat → Nat → Nat → Nat × Flags) : LaneFn := fun x _ v l =>
  fpOut (f x (lo32 (v.a l)).toNat (lo32 (v.b l)).toNat (lo32 (v.c l)).toNat)
/-- The packed forms of R240: the FP32 form's function on each half in the type's format. -/
def laneHalf (f : Ext → Nat → Nat → Nat → Nat × Flags) : LaneFn := laneFp fun x a b c =>
  ((f x (a % 2 ^ 16) (b % 2 ^ 16) (c % 2 ^ 16)).1 + 2 ^ 16 * (f x (a / 2 ^ 16) (b / 2 ^ 16) (c / 2 ^ 16)).1,
   (f x (a % 2 ^ 16) (b % 2 ^ 16) (c % 2 ^ 16)).2 ||| (f x (a / 2 ^ 16) (b / 2 ^ 16) (c / 2 ^ 16)).2)

/-- The typed uniform arithmetic (R206). -/
def uniTypedRows : List (Row × UniFn) :=
  [(Rows.uadd, uniTyped fun _ a b _ => a + b), (Rows.usub, uniTyped fun _ a b _ => a - b),
   (Rows.umul, uniTyped fun _ a b _ => a * b), (Rows.umulh, uniTyped fun n a b _ => a * b / 2 ^ n),
   (Rows.umad, uniTyped fun _ a b c => a * b + c), (Rows.umin, uniTyped fun _ a b _ => min a b),
   (Rows.umax, uniTyped fun _ a b _ => max a b)]
/-- The untyped uniform forms (R206). -/
def uniWordRows : List (Row × UniFn) :=
  [(Rows.uand, fun _ a b _ => a &&& b), (Rows.uor, fun _ a b _ => a ||| b), (Rows.uxor, fun _ a b _ => a ^^^ b),
   (Rows.ushl, fun _ a b _ => if b.toNat < 64 then a <<< b.toNat else 0),
   (Rows.ushr, fun _ a b _ => if b.toNat < 64 then a >>> b.toNat else 0),
   (Rows.usra, fun _ a b _ => a.sshiftRight (min b.toNat 64)),
   (Rows.uclz, fun _ a _ _ => BitVec.ofNat 64 (leadZeros 64 a.toNat)),
   (Rows.upopc, fun _ a _ _ => BitVec.ofNat 64 (popCount 64 a.toNat)),
   (Rows.ulea, fun x a b _ => a + (b <<< (x.mod6.extractLsb' 0 2).toNat)),
   (Rows.usel, fun _ a b c => if c != 0 then a else b), (Rows.umov, fun _ _ b _ => b)]
/-- Integer arithmetic of lanes (R231). -/
def intRows : List (Row × LaneFn) :=
  [(Rows.iadd, laneInt fun a b _ => a + b), (Rows.isub, laneInt fun a b _ => a - b), (Rows.imul, laneInt fun a b _ => a * b),
   (Rows.imulh, laneInt fun a b _ => a * b / 2 ^ 32), (Rows.imad, laneInt fun a b c => a * b + c),
   (Rows.imin, laneInt fun a b _ => min a b), (Rows.imax, laneInt fun a b _ => max a b),
   (Rows.iabs, laneInt fun a _ _ => a.natAbs)]
/-- Logic, shifts, counts and bit fields of lanes (R232, R233). -/
def wordRows : List (Row × LaneFn) :=
  [(Rows.iand, laneWord fun _ a b _ => a &&& b), (Rows.ior, laneWord fun _ a b _ => a ||| b),
   (Rows.ixor, laneWord fun _ a b _ => a ^^^ b),
   (Rows.ishl, laneWord fun _ a b _ => if b.toNat < 32 then a <<< b.toNat else 0),
   (Rows.ishr, laneWord fun _ a b _ => if b.toNat < 32 then a >>> b.toNat else 0),
   (Rows.isra, laneWord fun _ a b _ => a.sshiftRight (min b.toNat 32)),
   (Rows.iclz, laneWord fun _ a _ _ => BitVec.ofNat 32 (leadZeros 32 a.toNat)),
   (Rows.ipopc, laneWord fun _ a _ _ => BitVec.ofNat 32 (popCount 32 a.toNat)),
   (Rows.ibfx, laneWord fun x a _ _ => ibfx x a), (Rows.ibfi, laneWord fun x a b _ => ibfi x a b)]
/-- FP32 arithmetic of lanes (R235, R237). -/
def fpRows : List (Row × LaneFn) :=
  [(Rows.fadd, laneFp fun x a b _ => fpAdd tyF32 x.rm a b), (Rows.fsub, laneFp fun x a b _ => fpSub tyF32 x.rm a b),
   (Rows.fmul, laneFp fun x a b _ => fpMul tyF32 x.rm a b), (Rows.ffma, laneFp fun x a b c => fpFma tyF32 x.rm a b c),
   (Rows.fmin, laneFp fun _ a b _ => (fpMinMax tyF32 false a b, 0)), (Rows.fmax, laneFp fun _ a b _ => (fpMinMax tyF32 true a b, 0))]
/-- Packed arithmetic of lanes (R240). -/
def halfRows : List (Row × LaneFn) :=
  [(Rows.hadd2, laneHalf fun x a b _ => fpAdd x.ty x.rm a b), (Rows.hmul2, laneHalf fun x a b _ => fpMul x.ty x.rm a b),
   (Rows.hfma2, laneHalf fun x a b c => fpFma x.ty x.rm a b c), (Rows.hmin2, laneHalf fun x a b _ => (fpMinMax x.ty false a b, 0)),
   (Rows.hmax2, laneHalf fun x a b _ => (fpMinMax x.ty true a b, 0))]
/-- Moves and selections of lanes (R234, R246). -/
def moveRows : List (Row × LaneFn) :=
  [(Rows.isel, fun _ _ v l => (of32 (lo32 (if v.c l != 0 then v.a l else v.b l)), 0)),
   (Rows.mov, fun x _ v l => (if x.mod6.getLsbD 0 then v.b l else of32 (lo32 (v.b l)), 0)),
   (Rows.s2v, fun x _ v l => (if x.mod6.getLsbD 0 then v.b l else of32 (lo32 (v.b l)), 0))]
/-- Conversions of lanes (R241-R244): a narrow source or result is its sub-element of the register. -/
def convertRows : List (Row × LaneFn) :=
  [(Rows.cvt, fun x h v l =>
     let n := (x.mod6.extractLsb' 0 2).toNat
     let a := (lo32 (v.a l)).toNat
     let src := match narrowBits (x.aux8.extractLsb' 0 4) with
       | some w => a / 2 ^ (w * n) % 2 ^ w
       | none => a
     let r := convert (x.aux8.extractLsb' 0 4) x.ty x.rm x.sat src
     match narrowBits x.ty with
     | some w => fpOut (putBits (if x.dcl then 0 else (h.grp.rv h.tick x.d.toNat l).toNat) (w * n) w r.1, r.2)
     | none => fpOut r),
   (Rows.pack4, fun x _ v l =>
     let a := (lo32 (v.a l)).toNat
     let c := if x.aux8.extractLsb' 0 4 == tyF32 then a else a % 65536
     let r := roundFmt (fpVal (x.aux8.extractLsb' 0 4) c) fmtE2m1 x.rm true
     fpOut (putBits (lo32 (v.b l)).toNat (4 * (x.mod6.extractLsb' 0 3).toNat) 4 r.1, r.2)),
   (Rows.unpk4, fun x _ v l =>
     (BitVec.ofNat 64 (roundFmt (fpVal tyE2m1 ((lo32 (v.a l)).toNat / 2 ^ (4 * (x.mod6.extractLsb' 0 3).toNat) % 16))
       (fmtOf x.ty) 0 false).1, 0))]
/-- Every vector form of class F with a value for a vector register. -/
def valueRows : List (Row × LaneFn) := intRows ++ wordRows ++ fpRows ++ halfRows ++ moveRows ++ convertRows
/-- The forms with a lane predicate for result (R234, R238, R239, R245). -/
def testRows : List (Row × LaneFn) :=
  [(Rows.iset, fun x _ v l => (truth (intCompare (cmpCode x) (iVal x.ty (lo32 (v.a l))) (iVal x.ty (lo32 (v.b l)))), 0)),
   (Rows.fset, fun x _ v l =>
     (truth (fpCompare (cmpCode x) (fpVal tyF32 (lo32 (v.a l)).toNat) (fpVal tyF32 (lo32 (v.b l)).toNat)), 0)),
   (Rows.fclass, fun x _ v l => (truth (match fpClass fmtF32 (lo32 (v.a l)).toNat with
     | some k => x.aux8.getLsbD k
     | none => x.mod6.getLsbD 0), 0)),
   (Rows.plop, fun x _ v l => (truth (plopBit x (v.a l != 0) (v.b l != 0) (v.c l != 0)), 0))]

/-- The group after the handler entry of R224: the frontier set aside, one entry at the `.trap` label with the highest priority and
the entry's lanes, and %xpc, %xprio, %xcode, %xinfo and %xmask written. -/
def Here.trapped (h : Here) (target : Pc) (code : Nat) (info : W64) (xpc : Pc) : Group :=
  { h.grp with
    handler := some { saved := h.grp.frontier, trapped := some h.ent, resumed := false }
    frontier := [{ pc := target, prio := 0x3FFF, mask := h.ent.mask, count := 0, promoted := false, demoted := false, wait := none }]
    xpc := xpc.toTarget, xprio := h.ent.prio.setWidth 32, xcode := BitVec.ofNat 32 code, xinfo := info, xmask := h.ent.mask
    park := none, sinceSwitch := 0, forced := false }

/-- The handler may be entered at once: the code object has a `.trap` entry, the group is not inside its handler, and nothing of
it is on its way (R224, R258, R320). -/
def Here.mayTrap (h : Here) (target : Pc) : Prop :=
  h.blk.kern.trap = some target ∧ h.grp.handler = none ∧ h.grp.mayEnter = true

/-- An instruction traps with a code and detail (R224): with a `.trap` entry the group enters it with %xpc at `xpc`, or, while a
result of it is on its way, the trap is held and the group parks (R258, R320); with no entry, or inside the handler, the
block is killed and its launch fails with the code. -/
def trapsWith (i : Instr) (s : State) (h : Here) (code : Nat) (info : W64) (xpc : Pc) : Prop :=
  (∀ target, h.mayTrap target →
    exec i s = .next (s.updGroup h.c h.b h.g fun _ => h.trapped target code info xpc)) ∧
  (h.blk.kern.trap ≠ none → h.grp.handler = none → h.grp.mayEnter = false →
    exec i s = .next (s.updGroup h.c h.b h.g fun _ => { h.grp with
      late := h.grp.late ++ [⟨⟨BitVec.ofNat 8 code, info⟩, some xpc, (laneList 64 h.ent.mask).head?, false⟩]
      park := some .switchPoint })) ∧
  (h.blk.kern.trap = none ∨ h.grp.handler ≠ none →
    exec i s = .next (killAndFail (s.updGroup h.c h.b h.g fun _ => h.grp) h.c h.b code [h.ent.pc.toTarget, 0, 0, 0]))

/-- The agent `a` takes the turn that the schedule names (log 3), and may issue, from `u`: a tick has passed, every group is noted
(R324), and a group is its partition's pick (R317). -/
def takesTurn (s : State) (a : Agent) (u : State) : Prop :=
  ∃ r, s.turns = .agent a :: r ∧
    let v : State := { noteGroups { s with tick := s.tick + 1 } with turns := r, cur := a }
    (∀ g, a.grp = some g → outranked v a.core a.block g = false) ∧ readyAgent v = (u, true)

/-- The state after an instruction that moved its group's frontier itself: the issue is completed (R187, R320, R323). -/
def Here.departed (h : Here) (sbit : Bool) (u : State) : State := finishIssue u h sbit

/-- The group whose effect left `g` with the frontier already moved, once the issue is completed. -/
def Here.ending (h : Here) (sbit : Bool) (g : Group) : Group :=
  { g with sinceSwitch := g.sinceSwitch + 1, lastIssue := h.tick
           park := if sbit || g.forced || decide (4096 ≤ g.sinceSwitch) then some .switchPoint else none }

/-- The state `u` that the return of result `i` left: where the block holds superstep arrivals, they take note of it and of the words it
sent (R110, R140). -/
def returned (s u : State) (c b g i : Nat) (k : Block) : State :=
  if k.held.isEmpty then u
  else heldPushed u c b g i ((sentWords (u.core c) b).filter fun w => !(sentWords (s.core c) b).contains w)

/-- No stamp-book request of a core on a line waits at a home (R116). -/
def noRequest (s : State) (c line : Nat) : Prop := ∀ d, ∀ r ∈ (s.dom d).sbReqs, r.core = c → lineOf r.pa ≠ line

/-- A byte of memory is what it was, or what a domain's dirty copy of its line has written back (R89). -/
def State.onlyWrittenBack (s u : State) (a : Nat) : Prop :=
  zget u.mem a = zget s.mem a ∨ ∃ d g, kget (s.dom d).guest (lineOf a) = some g ∧ g.dirty.getLsbD (a % 128) = true ∧
    zget u.mem a = g.bytes.getD (a % 128) 0

/-- The value of an open counter as its home and the domains' books hold it (R114): RESERVE and the content of every book. -/
def sbTotal (s : State) (pa : Nat) (k : SbHome) : Nat := sbReserve s pa + (k.books.map fun p => sbBook s p.1 pa).sum

/-- The stamp-book lanes of an instruction, in lane order (R119, R279): each lane's read is noted, its operation is made, and it
publishes what a releasing FENCE before it releases. -/
def stampLanes (s : State) (h : Here) (r : Row) (x : Ext) (op : Nat) (v : Srcs) (oks : List (Nat × Nat × Nat)) : State :=
  let slot := h.grp.board.foldl (fun m b => max m (b.id + 1)) 0
  let u0 := beforePublish s h (releases h.grp false (oks.map (·.1)))
  afterPublish (oks.foldl (fun u o =>
    publishAt (sbLane (noteRead u h 6 o.1 o.2.2 8) h op slot o.1 o.2.1 o.2.2 (v.c o.1).toNat) h (publishScope h.grp false 6 o.1)
      (sigNow u0 h.c h.b) o.1 o.2.2 8)
    (addBoard u0 h r x (oks.map fun o => (o.1, 0)) oks.length none)) h (oks.any fun o => (publishScope h.grp false 6 o.1).isSome)

/-- A tile instruction of a row whose stream's turn it is, with its core, block, block state and stream (R288). -/
def TileIssue (i : Instr) (s : State) (r : Row) (x : Ext) (len c b : Nat) (k : Block) (t : Tile) : Prop :=
  i.issued = some (r, x, len) ∧ s.cur = ⟨c, b, none⟩ ∧ s.block c b = some k ∧ k.tile = some t ∧ t.ended = false
/-- The state `u` of a tile instruction that goes on to the next (R290). -/
def tileOn (u : State) (c b len : Nat) (pc : Pc) : State := u.updTile c b fun t => { t with pc := pc.plus len }
/-- What an instruction is when it enters the window: x values are captured at decode (R325). -/
def entering (t : Tile) (xop : BitVec 10) (x : Ext) (s : Bool) : WinEntry :=
  let o : TileOp := { pc := t.pc, xop := xop, x := x, va := if xop == opTdesc then zget t.x x.a.toNat else 0
                      vb := if xop == opTdesc || xop == opTscale then xB t x else 0, vc := 0 }
  { rule := none, ops := [o], orig := [o], perm := (t.order, t.round), matched := s }

end Sys2Proof.Machine
end

