-- ==== Sys2Proof/Certificates/Slice0/Obligations.lean ====
section
/-! DEFINITION. The statements for the provers. -/
namespace Sys2Proof
open Sys2Proof.Machine

end Sys2Proof
open Sys2Proof Sys2Proof.Machine

/-- R206: the typed uniform forms compute exactly on the operands as their type reads them, and the result wraps and widens by
the type; the untyped forms act on the words. The result goes into a register or through a mesh-out entry; nothing else changes but
what the sources pop. Base forms included. -/
def Obligations.UniformResult : Prop :=
  (∀ p ∈ uniTypedRows, uniCompletes p.1 p.2 ∧ uniPushes p.1 p.2) ∧
  (∀ p ∈ uniWordRows, uniCompletes p.1 p.2 ∧ uniPushes p.1 p.2)

/-- R229-R246: arithmetic, logic, shifts, bit fields, floating point with its flags, moves, selections and conversions of lanes:
the active lanes take their values, and nothing else changes but what the sources pop. Base forms included. -/
def Obligations.VectorResult : Prop :=
  (∀ p ∈ intRows ++ wordRows, vecCompletes p.1 p.2) ∧
  (∀ p ∈ fpRows ++ halfRows, vecCompletes p.1 p.2) ∧
  (∀ p ∈ moveRows ++ convertRows, vecCompletes p.1 p.2)

/-- R138-R141: a vector instruction of class F with a channel destination sends its lanes' words in lane order; words pushed
through a mesh-out entry leave in order toward its peer entry with the tenant's VNI, on credits that are no longer free; those pushed toward
a retired core go nowhere. -/
def Obligations.ChannelPush : Prop :=
  (∀ p ∈ valueRows, vecPushes p.1 p.2) ∧
  (∀ i x len s u h, UniIssue i s Rows.rdsr x len h false → specialMode x h = true → x.dcl = true →
    let ws := if x.mod6.getLsbD 0 then lanePush false (laneList h.width h.ent.mask) fun l => readSpecial s h x.aux8 l
      else laneWords (uniWords Rows.rdsr x = 2) (readSpecial s h x.aux8 0)
    pushWords (reservePush (openIssue s h) h.c x.d.toNat ws.length) h.c h.b h.g h.ten x.d.toNat ws = (u, true) →
    vqStuck u h.c x.d.toNat = false → exec i s = .next (h.completed len x.s u)) ∧
  (∀ s c b g t ch (ws : List W32), ws ≠ [] → ((kget (s.core c).asm ch).getD []).length + ws.length < 16 →
    pushVq s c b g t ch ws = (s.updCore c fun k => { k with asm := kset k.asm ch (((kget k.asm ch).getD []) ++ ws) }, true)) ∧
  ((∀ s c ch ws, ((s.core c).chan ch).broken = false → ∃ fs,
    pushMesh s c ch ws = s.updCore c (fun k => { k with flight := k.flight ++ fs }) ∧
    fs.map (fun f => (f.ch, f.dst, f.dstCh, f.vni, f.word)) = ws.map fun w => (ch, ((s.core c).chan ch).peer,
      ((s.core c).chan ch).peerCh, (s.ten (s.coreTenant c)).vni, w)) ∧
  (∀ s c ch ws, ((s.core c).chan ch).broken = true → ((pushMesh s c ch ws).core c).flight = (s.core c).flight) ∧
  (∀ s c ch e n, kget (s.core c).chans ch = some e → e.kind = 2 →
    ((reservePush s c ch n).core c).chan ch = { e with credits := e.credits - n, outstanding := e.outstanding + n } ∧
    ((reservePush s c ch n).core c).flight = (s.core c).flight ∧
    ∀ j, j ≠ ch → ((reservePush s c ch n).core c).chan j = (s.core c).chan j))

/-- R234, R238, R239, R245: ISET, FSET, FCLASS and PLOP write the truth value of each active lane to its bit of p(D), p7 discards, and
nothing else changes but what the sources pop; no flag is raised. FCLASS's MOD6[5:1] is reserved. -/
def Obligations.VectorPredicateResult : Prop :=
  (∀ p ∈ testRows, predCompletes p.1 p.2) ∧ (∀ x, (Instr.fclass x).WellFormed = true → x.mod6.extractLsb' 1 5 = 0)

/-- R207, R245: UCMP writes the comparison by its code and type to the one uniform predicate bit D, and q7 discards; the codes ord and
uno raise ILLOP; base opcodes 0x35 to 0x37 give lt and eq for s64. The uniform form of PLOP writes its one bit too. -/
def Obligations.UniformPredicateResult : Prop :=
    (∀ i x len s h, UniIssue i s Rows.ucmp x len h false → x.d.toNat < 7 → (∀ p ∈ h.grp.pend, ∀ v, p.2.wb ≠ .upred x.d.toNat v) →
    let q := fetchSrcs s h Rows.ucmp x []
    exec i s = .next (q.2.updGroup h.c h.b h.g fun _ => h.advanced len x.s (h.counted.setQ (setBit7 h.grp.q x.d.toNat
      (intCompare (cmpCode x) (uVal x.ty (q.1.a 0)) (uVal x.ty (q.1.b 0))))))) ∧
  (∀ i x len s h, UniIssue i s Rows.ucmp x len h false → x.d.toNat = 7 →
    exec i s = .next ((fetchSrcs s h Rows.ucmp x []).2.updGroup h.c h.b h.g fun _ => h.advanced len x.s h.counted)) ∧
  (∀ i x len s h, i.issued = some (Rows.plop, x, len) → here s = some h → x.mod6.getLsbD 0 = true → squashed x = false →
    x.d.toNat < 7 → (∀ p ∈ h.grp.pend, ∀ v, p.2.wb ≠ .upred x.d.toNat v) →
    exec i s = .next (s.updGroup h.c h.b h.g fun _ => h.advanced len x.s (h.counted.setQ (setBit7 h.grp.q x.d.toNat
      (plopBit x (h.grp.rq h.tick x.a.toNat) (h.grp.rq h.tick x.b.toNat) (h.grp.rq h.tick x.c.toNat)))))) ∧
  (∀ (q : BitVec 7) n v j, n < 7 → (setBit7 q n v).getLsbD j = if j = n then v else q.getLsbD j) ∧
  ((∀ a b : Int, intCompare 0 a b = decide (a = b) ∧ intCompare 1 a b = decide (a ≠ b) ∧ intCompare 2 a b = decide (a < b) ∧
      intCompare 3 a b = decide (a ≤ b) ∧ intCompare 4 a b = decide (b < a) ∧ intCompare 5 a b = decide (b ≤ a)) ∧
    (∀ s a u pc h rest (x : Ext), takesTurn s a u → nextPc u = some pc → here u = some h →
      x.mod6 = 6 ∨ x.mod6 = 7 → (u.core u.cur.core).wordsAt pc = some (true, encodeExt Rows.ucmp x ++ rest) →
      step s = .next (raiseTrap u h xIllop 0 h.ent.pc)) ∧
    (BaseRows.ucmpLtS64Base.bop = 0x35 ∧ BaseRows.ucmpEqS64Base.bop = 0x36 ∧ BaseRows.ucmpLtS64ImmBase.bop = 0x37 ∧
      ∀ p ∈ ([(.ucmpLtS64Base, 2), (.ucmpEqS64Base, 0), (.ucmpLtS64ImmBase, 2)] : List ((Base → Instr) × BitVec 3)), ∀ b,
        ∃ x len, (p.1 b).issued = some (Rows.ucmp, x, len) ∧ cmpCode x = p.2 ∧ x.ty = tyS64 ∧ x.d = b.d.setWidth 8 ∧
          x.a = b.a.setWidth 8))

/-- R180, R204, R217: a squashed instruction, a uniform one whose guard is false, a vector one with no active lane that writes
no uniform destination, and NOP only advance: no other part of the state changes. -/
def Obligations.OnlyAdvances : Prop :=
    (∀ i r x len s h, i.issued = some (r, x, len) → here s = some h → r.tile = false →
    squashed x = true ∨ (h.guardQ x = false ∧ r ∈ (uniTypedRows ++ uniWordRows).map (·.1)) ∨
      (h.active x = 0 ∧ r ∈ Rows.nop :: Rows.bra :: (valueRows).map (·.1)) ∨
      (r = Rows.nop ∧ h.vecIssues s r x false) →
    exec i s = .next (s.updGroup h.c h.b h.g fun _ => h.advanced len x.s h.counted))

/-- R211-R215: BRA, CALL and JFENCE take the active lanes to the target with the target priority and leave the others at the
next instruction; CALL writes the link to its pair first; BRX and RET take every active lane to its own target, and lanes with one
target and priority go together. -/
def Obligations.BranchTaken : Prop :=
  ((∀ i x len s h t, VecIssue i s Rows.bra x len h false → nearTarget h.ent.pc (x.lit.getD 0) = .ok t →
    exec i s = .next (h.departed x.s (divide (openIssue s h) h len (h.active x) [(t, targetPrio x, h.active x)]))) ∧
  (∀ i x len s h t, VecIssue i s Rows.jfence x len h false → farTarget s h (x.lit.getD 0) = .ok t →
    exec i s = .next (h.departed x.s (divide (openIssue s h) h len (h.active x) [(t, targetPrio x, h.active x)]))) ∧
  (∀ i x len s h t, VecIssue i s Rows.call x len h false → farTarget s h (x.lit.getD 0) = .ok t → h.destIdle Rows.call x →
    ∃ v, vecWritten h.grp.v v true x.d.toNat (h.lanes x) (fun _ => linkOf h.ent.prio (h.ent.pc.plus len)) ∧
      exec i s = .next (h.departed x.s (divide (s.updGroup h.c h.b h.g fun _ => h.counted.setV v) h len (h.active x)
        [(t, targetPrio x, h.active x)])))) ∧
  ((∀ i x len s h ps, VecIssue i s Rows.brx x len h false →
    allOk ((h.lanes x).map fun l => (l, nearTarget h.ent.pc ((h.grp.rv h.tick x.a.toNat l).signExtend 64))) = .ok ps →
    exec i s = .next (h.departed x.s (divide (openIssue s h) h len (h.active x)
      (gatherParts (ps.map fun p => (p.1, p.2, targetPrio x)))))) ∧
  (∀ i x len s h ps, VecIssue i s Rows.ret x len h false →
    allOk ((h.lanes x).map fun l => (l, linkTarget (h.grp.rv2 h.tick x.a.toNat l))) = .ok ps →
    (∀ p ∈ ps, p.2.1.seg = h.ent.pc.seg ∨ ((s.core h.c).slotOf p.2.1.seg).isSome) →
    exec i s = .next (h.departed x.s (divide (openIssue s h) h len (h.active x) (gatherParts ps)))) ∧
  (∀ (ls : List (Nat × Pc × BitVec 14)) l p pr, (l, p, pr) ∈ ls → l < 64 →
    ∃ m, (p, pr, m) ∈ gatherParts ls ∧ m.getLsbD l = true))

/-- R13, R15, R17: the lanes that a division takes away stand at their target; the entry's other lanes stand at the next
instruction (for a frontier whose entries do not wait, and lanes that are in one entry). -/
def Obligations.DivisionKeepsLanes : Prop :=
    ∀ (g : Group) (w : Nat) (pc : Pc) (e : Entry) (next : Pc) (taken : Lanes) (t : Pc) (pr : BitVec 14) (l : Nat),
    (∀ f ∈ g.frontier, f.wait = none) → entryAt g pc = some e → e.mask.getLsbD l = true →
    let g' := replaceEntry g w pc [{ e with pc := next, mask := e.mask &&& ~~~taken }, { e with pc := t, prio := pr, mask := e.mask &&& taken, slot := none }]
    ∃ f ∈ g'.frontier, f.mask.getLsbD l = true ∧ f.pc = (if taken.getLsbD l then t else next) ∧ f.wait = none

/-- R20-R22, R98, R217: EXIT takes the active lanes out of every entry, set-aside ones included, and the block's barriers excuse
them; YLD demotes its entry for one selection; RECONV's entry waits for the lanes of K. -/
def Obligations.EntryMoves : Prop :=
  (∀ i x len s h, VecIssue i s Rows.exit x len h false →
    let drop (e : Entry) : Entry := { e with mask := e.mask &&& ~~~h.active x }
    let u := s.updGroup h.c h.b h.g fun _ => { h.counted with
      exited := h.grp.exited ||| h.active x
      handler := h.grp.handler.map fun hd => { hd with saved := (hd.saved.map drop).filter fun e => e.mask != 0 } }
    exec i s = .next (h.departed x.s (afterExit (divide u h len (h.active x) []) h.c h.b
      (match h.grp.handler with | some hd => hd.isPreempt && hd.resumed | none => false)))) ∧
  ((∀ i x len s h e, VecIssue i s Rows.yld x len h false → entryAt h.counted h.ent.pc = some e →
    exec i s = .next (s.updGroup h.c h.b h.g fun _ => h.ending x.s
      (replaceEntry h.counted h.width h.ent.pc [{ e with pc := h.ent.pc.plus len, demoted := true }]))) ∧
  (∀ i x len s h, VecIssue i s Rows.reconv x len h false →
    let q := fetchSrcs s h Rows.reconv x (h.lanes x)
    let w : Wait := .reconv (q.1.a 0 &&& lanesBelow h.width) (h.ent.pc.plus len)
    exec i s = .next (q.2.updGroup h.c h.b h.g fun _ => h.ending x.s (settleReconv h.width h.grp.frontier.length
      { h.counted with frontier := h.counted.frontier.map fun e => if e.pc = h.ent.pc then { e with wait := some w } else e }))))

/-- R29, R209, R223, R405: RDSR reads a special register, each with the value that its rule gives it, into a uniform register, or each lane's
into a vector register; WRSR replaces %fflags, clears %gstat.SCOPEMISS where it writes 1, and inside a handler replaces %xpc and %xprio,
and writes nothing else. -/
def Obligations.SpecialRegisters : Prop :=
  ((∀ i x len s h, UniIssue i s Rows.rdsr x len h false → specialMode x h = true → x.dcl = false → x.mod6.getLsbD 0 = false →
    h.grp.uniIdle x.d.toNat →
    exec i s = .next (s.updGroup h.c h.b h.g fun _ => h.advanced len x.s
      (h.counted.setS (zset h.grp.s x.d.toNat (readSpecial s h x.aux8 0))))) ∧
  (∀ i x len s h, UniIssue i s Rows.rdsr x len h false → specialMode x h = true → x.dcl = false → x.mod6.getLsbD 0 = true →
    h.destIdle Rows.rdsr x →
    ∃ v, exec i s = .next (s.updGroup h.c h.b h.g fun _ => h.advanced len x.s (h.counted.setV v)) ∧
      vecWritten h.grp.v v false x.d.toNat (laneList h.width h.ent.mask) (fun l => readSpecial s h x.aux8 l)) ∧
  (∀ s h l, readSpecial s h 0x00 l = BitVec.ofNat 64 l ∧ readSpecial s h 0x01 l = BitVec.ofNat 64 h.g ∧
    readSpecial s h 0x02 l = BitVec.ofNat 64 (h.blk.index % 2 ^ 32) ∧ readSpecial s h 0x06 l = BitVec.ofNat 64 h.blk.rank ∧
    readSpecial s h 0x0B l = BitVec.ofNat 64 h.width ∧ readSpecial s h 0x18 l = h.grp.fflags.zeroExtend 64 ∧
    readSpecial s h 0x20 l = h.grp.xpc ∧ readSpecial s h 0x22 l = h.grp.xcode.zeroExtend 64 ∧
    readSpecial s h 0x23 l = h.grp.xinfo ∧ readSpecial s h 0x24 l = h.grp.xmask) ∧
  (∀ s h l, let w (i lo n : Nat) := bits (word h.blk.record i) lo n
    (0 < w 4 0 24 → 0 < w 4 24 16 → ∀ x y z, x < w 4 0 24 → y < w 4 24 16 → h.blk.index = x + w 4 0 24 * (y + w 4 24 16 * z) →
      readSpecial s h 0x03 l = BitVec.ofNat 64 x ∧ readSpecial s h 0x04 l = BitVec.ofNat 64 y ∧ readSpecial s h 0x05 l = BitVec.ofNat 64 z) ∧
    readSpecial s h 0x07 l = BitVec.ofNat 64 (w 0 10 12) ∧ readSpecial s h 0x08 l = BitVec.ofNat 64 (w 0 22 8) ∧
    readSpecial s h 0x09 l = BitVec.ofNat 64 (w 0 30 4) ∧
    readSpecial s h 0x0A l = BitVec.ofNat 64 (h.c % 2 ^ 14) ∧
    (∀ i < 8, (readSpecial s h 0x0C l).extractLsb' (2 * i) 2 = ((kget (s.core h.c).slots i).map fun k => k.state).getD 0) ∧
    (readSpecial s h 0x0C l).extractLsb' 16 48 = 0 ∧
    readSpecial s h 0x10 l = BitVec.ofInt 64 ((s.now : Int) + (s.dom h.dom).skew) ∧ readSpecial s h 0x11 l = (s.dom h.dom).timeoff ∧
    readSpecial s h 0x19 l = (if h.grp.scopeMiss then 1 else 0) ∧ readSpecial s h 0x21 l = h.grp.xprio.zeroExtend 64)) ∧
  (∀ i x len s h, UniIssue i s Rows.wrsr x len h false → specialMode x h = true →
    let q := fetchSrcs s h Rows.wrsr x []
    let v := q.1.a 0
    let onto (g : Group) := exec i s = .next (q.2.updGroup h.c h.b h.g fun _ => h.advanced len x.s g)
    (x.aux8 = 0x18 → onto { h.counted with fflags := v.extractLsb' 0 5 }) ∧
    (x.aux8 = 0x19 → onto { h.counted with scopeMiss := h.grp.scopeMiss && !v.getLsbD 0 }) ∧
    (x.aux8 = 0x20 → onto { h.counted with xpc := v &&& 0x00000FFF00003FFF }) ∧
    (x.aux8 = 0x21 → onto { h.counted with xprio := v.extractLsb' 0 32 &&& 0x3FFF }))

/-- R50, R185, R223-R228: TRAP takes the handler with code 0x10, its payload as detail and %xpc at the next instruction; a register at or
above the allocated count, or an odd pair, raises ILLOP; ERET outside the handler, PREACK outside one that PREEMPT entered, and RDSR
or WRSR of a register marked H outside a handler raise PRIV, with %xpc at the instruction. -/
def Obligations.SynchronousTraps : Prop :=
  (∀ i x len s h, UniIssue i s Rows.trap x len h false →
    trapsWith i s h 0x10 (x.aux8.zeroExtend 64) (h.ent.pc.plus len)) ∧
  ((∀ i r x len s h, r ∈ valueRows.map (·.1) → i.issued = some (r, x, len) → here s = some h → squashed x = false →
    h.active x ≠ 0 → regsOk h r x false = false → trapsWith i s h 0x01 0 h.ent.pc) ∧
  (∀ i r x len s h, r ∈ (uniTypedRows ++ uniWordRows).map (·.1) → i.issued = some (r, x, len) → here s = some h →
    squashed x = false → h.guardQ x = true → regsOk h r x false = false → trapsWith i s h 0x01 0 h.ent.pc)) ∧
  (∀ i r x len s h, i.issued = some (r, x, len) → here s = some h → squashed x = false → h.guardQ x = true →
    (r = Rows.eret ∧ h.grp.handler = none) ∨
    (r = Rows.preack ∧ (∀ hd, h.grp.handler = some hd → hd.isPreempt = false)) ∨
    ((r = Rows.rdsr ∨ r = Rows.wrsr) ∧ specialMode x h = false) →
    trapsWith i s h 0x02 0 h.ent.pc)

/-- R227, R228, R258: ERET restores the set-aside frontier, the trapped entry at %xpc with %xprio and the lanes of %xmask that have
not exited; lanes that exited in the handler are in no entry; a new PC in a segment that is in no slot raises CODEMISS at its turn;
outside a handler ERET raises PRIV. PREACK in a handler that PREEMPT entered, with no token slot in use, leaves the group
acknowledged and parked. -/
def Obligations.HandlerReturns : Prop :=
  ((∀ i x len s h hd, UniIssue i s Rows.eret x len h false → h.grp.handler = some hd → (hd.isPreempt && hd.resumed) = false →
    exec i s = .next (s.updGroup h.c h.b h.g fun _ => h.ending x.s (returnHandler h.counted h.width hd))) ∧
  (∀ i x len s h hd, UniIssue i s Rows.eret x len h false → h.grp.handler = some hd → (hd.isPreempt && hd.resumed) = true →
    exec i s = .next (h.departed x.s (unfreeze (s.updGroup h.c h.b h.g fun _ => returnHandler h.counted h.width hd) h.c h.b))) ∧
  (∀ (g : Group) (w : Nat) (hd : Handler) (e : Entry), hd.saved = [e] → hd.trapped = some e → e.wait = none →
    g.xmask &&& ~~~g.exited ≠ 0 →
    returnHandler g w hd = { g with
      handler := none
      frontier := [{ e with pc := Pc.ofTarget g.xpc, prio := g.xprio.setWidth 14, mask := g.xmask &&& ~~~g.exited, count := 0, slot := none }] }) ∧
  (∀ (g : Group) (w : Nat) (hd : Handler), (∀ f ∈ hd.saved, f.wait = none) → (∀ t, hd.trapped = some t → t.wait = none) →
    (∀ e ∈ hd.saved, (∀ t, hd.trapped = some t → t.pc ≠ e.pc) → ∀ l, e.mask.getLsbD l = true → g.exited.getLsbD l = false →
      ∃ f ∈ (returnHandler g w hd).frontier, f.pc = e.pc ∧ f.mask.getLsbD l = true) ∧
    (hd.trapped ≠ none → ∀ l, g.xmask.getLsbD l = true → g.exited.getLsbD l = false →
      ∃ f ∈ (returnHandler g w hd).frontier, f.pc = Pc.ofTarget g.xpc ∧ f.mask.getLsbD l = true) ∧
    (returnHandler g w hd).handler = none ∧ ∀ f ∈ (returnHandler g w hd).frontier, f.mask &&& g.exited = 0)) ∧
  ((∀ i x len s h, UniIssue i s Rows.eret x len h false → h.grp.handler = none → trapsWith i s h 0x02 0 h.ent.pc) ∧
  (∀ s a u pc h, takesTurn s a u → nextPc u = some pc → here u = some h → (u.core u.cur.core).wordsAt pc = none →
    step s = .next (raiseTrap u h 0x08 (BitVec.ofNat 64 h.ent.pc.seg) h.ent.pc))) ∧
  (∀ i x len s h hd, UniIssue i s Rows.preack x len h false → h.grp.handler = some hd → hd.isPreempt = true →
    h.grp.tokens = [] →
    let g := moveEntry { h.counted with preacked := true } h.width h.ent.pc (h.ent.pc.plus len)
    exec i s = .next (tryRelease (s.updGroup h.c h.b h.g fun _ => { h.ending x.s g with park := some .preack }) h.c h.b))

/-- R216, R222: CFETCH answers a next state in which the fetch of its segment into its slot has begun: an empty slot or one with other
words goes to FETCHING, an occupied one to DEFERRED, a fetch under way is replaced, a segment already there stays, and no
other slot changes; a segment that the code object has not raises CODEMISS. CAPQ answers a next state in which the word of its
index is on its way to its destination: the architectural words as the spec's table gives them, the placement's words, and zero for
an index of no word. -/
def Obligations.FetchAndCapability : Prop :=
  (∀ i x len s h, UniIssue i s Rows.cfetch x len h false →
    let q := fetchSrcs s h Rows.cfetch x []
    let seg := (q.1.a 0).toNat
    ((segmentOf s h.blk.image seg).isSome → exec i s = .next (h.completed len x.s ((openIssue q.2 h).updCore h.c fun k =>
      startFetch k (x.aux8.extractLsb' 0 3).toNat seg))) ∧
    (segmentOf s h.blk.image seg = none → trapsWith i s h 0x08 (q.1.a 0) h.ent.pc)) ∧
  (∀ (k : Core) n seg, let k' := startFetch k n seg
    let going : Slot := { state := slotFetching, seg := 0, words := [], starts := [], pending := some seg }
    k' = { k with slots := k'.slots } ∧ (∀ j, j ≠ n → kget k'.slots j = kget k.slots j) ∧
    (kget k.slots n = none → kget k'.slots n = some going) ∧
    ∀ w, kget k.slots n = some w →
      (w.state = slotLoaded → w.seg = seg → k' = k) ∧
      (w.state = slotFetching ∨ w.state = slotDeferred → kget k'.slots n = some { w with pending := some seg }) ∧
      (w.state = slotLoaded → w.seg ≠ seg → kget k'.slots n =
        some (if k.occupied n then { w with state := slotDeferred, pending := some seg } else going))) ∧
  (∀ i x len s h, UniIssue i s Rows.capq x len h false → x.dcl = false → h.grp.uniIdle x.d.toNat →
    let q := fetchSrcs s h Rows.capq x []
    ∃ n, kget h.grp.pend n = none ∧ exec i s = .next (q.2.updGroup h.c h.b h.g fun _ => h.advanced len x.s { h.counted with
      pend := kset h.grp.pend n ⟨.uni x.d.toNat (capqWord s h.ten (q.1.a 0).toNat), 0⟩ })) ∧
  (∀ i x len s h, UniIssue i s Rows.capq x len h false → x.dcl = true →
    let q := fetchSrcs s h Rows.capq x []
    exec i s = .next (h.completed len x.s (pendUni (openIssue q.2 h) h Rows.capq x
      (capqWord (openIssue q.2 h) h.ten (q.1.a 0).toNat) 0))) ∧
  (∀ s t, (s.ten t).archWords = [] → capqWord s t 0 = 0x100 ∧ capqWord s t 1 = 0x7F ∧ capqWord s t 2 = 0x05090F07 ∧
    capqWord s t 3 = 1 ∧ capqWord s t 4 = 1 ∧ ∀ i, 4 < i → i < 16 → capqWord s t i = 0) ∧
  (∀ s t, capqWord s t 0x12 = BitVec.ofNat 64 ((s.ten t).pthome % 64) ∧ capqWord s t 0x1F = (s.ten t).migGen ∧
    ((capqWord s t 0x10).extractLsb' 0 14).toNat = (s.ten t).placement.length % 2 ^ 14 ∧
    ((capqWord s t 0x10).extractLsb' 16 7).toNat = (s.ten t).domains.length % 2 ^ 7 ∧
    ((capqWord s t 0x11).extractLsb' 0 7).toNat = s.nlive % 2 ^ 7 ∧
    ∀ i, 0x10 ≤ i → i ∉ [0x10, 0x11, 0x12, 0x1F] → capqWord s t i = 0)

/-- R30-R32, R37-R39, R218: a SPAWN publishes the group's earlier stores and does what its record's join counter says: the record is
presented (one that passes its checks needs room), parked in the counter's slot with a release, or refused. A readable counter of
zero accepts, one above zero parks a record in an empty slot and refuses it with code 0x0C when the slot is taken; a record
without a join counter is accepted. A checked record whose launch counter is OPEN, in the dispatching phase, joins the queue of its
priority. -/
def Obligations.RecordsPresented : Prop :=
  (∀ i x len s h, UniIssue i s Rows.spawn x len h false →
    let w := (List.range 8).map fun j => h.grp.rs h.tick (x.a.toNat + j)
    ∀ u g, joinGate (beforePublish (openIssue s h) h true) h.ten w = (u, g) →
    (g = .accept → presentable u h.ten w 1 0 h.c = true → exec i s = .next (h.completed len x.s (acceptRecord u h.ten w 1 0 h.c))) ∧
    (∀ code, g = .refuse code → exec i s = .next (h.completed len x.s (refuseRecord u h.ten w code 1 0 h.c))) ∧
    (∀ pa, g = .park pa → exec i s = .next (h.completed len x.s (releaseWafer ((List.range 8).foldl (fun u j =>
      strongWrite u h.ten h.dom (pa + 8 * j) 8 (word w j).toNat) (strongPrep u h.c pa true)) h pa 8)))) ∧
  (∀ s t w, recJoin w = 0 → joinGate s t w = (s, .accept)) ∧
  (∀ s t w s1 pa sh e, recJoin w ≠ 0 → recJoin w % 128 = 0 → walk s t (recJoin w) true = (s1, .ok pa sh e) →
    lineReadable s1 t (lineOf pa) = true → sealed (homeAccess s1 t (lineOf pa) false) t (recJoin w + 64) 64 = false →
    let u := homeAccess s1 t (lineOf pa) false
    joinGate s t w = (u, if homeValue u pa 8 = 0 then .accept
      else if readBytes u.mem (pa + 64) 64 = List.replicate 64 0 then .park (pa + 64) else .refuse 12)) ∧
  (∀ s t r, cancelledKeys (s.ten t) r.w = [] → ((s.ten t).counter 0 (recLaunch r.w)).st = lvOpen →
    gridSize (word r.w 4) ≠ 0 → (s.ten t).phase = recPhase r.w →
    ((enterRecord s t r).ten t).queue (recQprio r.w) = (s.ten t).queue (recQprio r.w) ++ [{ r with since := s.now }] ∧
    ∀ l n, (((enterRecord s t r).ten t).counter l n).st = ((s.ten t).counter l n).st ∧
      (((enterRecord s t r).ten t).counter l n).value = ((s.ten t).counter l n).value)

/-- R33, R219-R221: JOIN with a count above one lowers it at its home and releases; CANCEL cancels its level's counter; LVLRD sends
the level's word, after an acquire where the counter is DONE or CANCELLED. -/
def Obligations.LevelOperations : Prop :=
    (∀ i x len s h, UniIssue i s Rows.join x len h false →
    let q := fetchSrcs s h Rows.join x []
    ∀ s1 l va pa, checkAccess (openIssue s h) h .global 128 128 true false [(0, q.1.a 0)] = (s1, .ok [(l, va, pa)]) →
      lineReadable s1 h.ten (lineOf pa) = true →
      let u := strongPrep (beforePublish s1 h true) h.c pa true
      1 < homeValue u pa 8 →
      exec i s = .next (h.completed len x.s
        (fetchSrcs (releaseWafer (strongWrite u h.ten h.dom pa 8 (homeValue u pa 8 - 1)) h pa 8) h Rows.join x []).2)) ∧
  (∀ i x len s h n, UniIssue i s Rows.cancel x len h false →
    let q := fetchSrcs s h Rows.cancel x []
    levelId (x.aux8.extractLsb' 0 2).toNat (q.1.a 0) = some n →
    exec i s = .next (h.completed len x.s (cancelLevel (openIssue q.2 h) h.ten (x.aux8.extractLsb' 0 2).toNat n))) ∧
  (∀ i x len s h n, UniIssue i s Rows.lvlrd x len h false →
    let q := fetchSrcs s h Rows.lvlrd x []
    let c := (s.ten h.ten).counter (x.aux8.extractLsb' 0 2).toNat n
    levelId (x.aux8.extractLsb' 0 2).toNat (q.1.a 0) = some n →
    exec i s = .next (h.completed len x.s (pendUni (if c.st = lvFree ∨ c.st = lvOpen then openIssue q.2 h
      else acquireAll (openIssue q.2 h) h.c h.ten) h Rows.lvlrd x (levelWord c) 0)))

/-- R247-R253: a cross-lane instruction sends what it makes of the active lanes' values; with a uniform destination it does so
with no active lane too, and raises no flag then (R180). -/
def Obligations.CrossLaneResult : Prop :=
    (∀ p ∈ ([(Rows.shfl, fun x h v ls => (ls.map fun l =>
        let j := shflLane (x.mod6.extractLsb' 0 2) l (lo32 (v.b l)).toNat
        (l, v.a (if 0 ≤ j ∧ j < h.width ∧ j.toNat ∈ ls then j.toNat else l)), 0)),
      (Rows.matchLanes, fun x _ v ls =>
        let key (l : Nat) : W64 := if x.mod6.getLsbD 0 then v.a l else of32 (lo32 (v.a l))
        (ls.map fun l => (l, lanesOf (ls.filter fun j => key j == key l)), 0))] :
      List (Row × (Ext → Here → Srcs → List Nat → List (Nat × W64) × Flags))),
    ∀ i x len s h, VecIssue i s p.1 x len h false →
      let q := fetchSrcs s h p.1 x (h.lanes x)
      exec i s = .next (h.completed len x.s (pendVec (openIssue q.2 h) h p.1 x (p.2 x h q.1 (h.lanes x)).1
        (p.2 x h q.1 (h.lanes x)).2))) ∧
  (∀ i x len s h, VecIssue i s Rows.scang x len h false →
    let q := fetchSrcs s h Rows.scang x (h.lanes x)
    let upTo (n : Nat) := groupOp x.ty (x.mod6.extractLsb' 0 3) x.rm
      (((h.lanes x).take (if x.mod6.getLsbD 3 then n else n + 1)).map fun l => lo32 (q.1.a l))
    let ns := List.range (h.lanes x).length
    exec i s = .next (h.completed len x.s (pendVec (openIssue q.2 h) h Rows.scang x
      (ns.map fun n => ((h.lanes x).getD n 0, BitVec.ofNat 64 (upTo n).1)) (ns.foldl (fun f n => f ||| (upTo n).2) 0)))) ∧
  (∀ p ∈ ([(Rows.v2s, fun x h v _ =>
        let j := (v.b 0).toNat % h.width
        (if x.mod6.getLsbD 0 then h.grp.rv2 h.tick x.a.toNat j else of32 (h.grp.rv h.tick x.a.toNat j), 0)),
      (Rows.redg, fun x _ v ls =>
        let o := groupOp x.ty (x.mod6.extractLsb' 0 3) x.rm (ls.map fun l => lo32 (v.a l))
        (if x.ty == tyS32 then (BitVec.ofNat 32 o.1).signExtend 64 else (BitVec.ofNat 32 o.1).zeroExtend 64, o.2)),
      (Rows.vote, fun x h _ ls =>
        let yes (l : Nat) : Bool := h.grp.rp x.a.toNat l
        match x.mod6.extractLsb' 0 2 with
        | 0#2 => (truth (ls.all yes), 0)
        | 1#2 => (truth (ls.any yes), 0)
        | 2#2 => (lanesOf (ls.filter yes), 0)
        | _ => (truth (ls.all yes || ls.all fun l => !yes l), 0))] :
      List (Row × (Ext → Here → Srcs → List Nat → W64 × Flags))),
    (∀ i x len s h, VecIssue i s p.1 x len h false →
      let q := fetchSrcs s h p.1 x (h.lanes x)
      exec i s = .next (h.completed len x.s (pendCross (openIssue q.2 h) h p.1 x (p.2 x h q.1 (h.lanes x)).1
        (p.2 x h q.1 (h.lanes x)).2))) ∧
    (∀ i x len s h, i.issued = some (p.1, x, len) → here s = some h → squashed x = false → h.active x = 0 → x.dcl = false →
      x.bcl = false → (p.1 = Rows.v2s → scoreboardHolds h Rows.v2s x false = false) → regOk h p.1.d x x.d.toNat x.dcl = true →
      exec i s = .next (h.completed len x.s (pendCross (openIssue s h) h p.1 x (p.2 x h (fetchSrcs s h p.1 x []).1 []).1 0)))) ∧
  (∀ x, (Instr.vote x).WellFormed = true → x.mod6.extractLsb' 2 4 = 0)

/-- R251: the result of a group operation over no lane is the identity of its operation and type; an integer sum is that of all lanes
modulo 2^32; minimum and maximum are values of lanes that no other is below or above; a bit of and, or and xor is that of the lanes' bits; an
integer result does not depend on the order of the lanes. Over f32, a sum of two lanes is FADD's, a NaN gives the canonical NaN and
opposite infinities alone the canonical NaN and IV; minimum and maximum take one lane after another as FMIN and FMAX. -/
def Obligations.GroupOperation : Prop :=
    (∀ rm, groupOp tyS32 0 rm [] = (0, 0) ∧ groupOp tyS32 1 rm [] = (0x7FFFFFFF, 0) ∧ groupOp tyS32 2 rm [] = (0x80000000, 0) ∧
      groupOp tyU32 0 rm [] = (0, 0) ∧ groupOp tyU32 1 rm [] = (0xFFFFFFFF, 0) ∧ groupOp tyU32 2 rm [] = (0, 0) ∧
      (∀ t ∈ [tyS32, tyU32], groupOp t 3 rm [] = (0xFFFFFFFF, 0) ∧ groupOp t 4 rm [] = (0, 0) ∧ groupOp t 5 rm [] = (0, 0)) ∧
      groupOp tyF32 0 rm [] = (0, 0) ∧ groupOp tyF32 1 rm [] = (0x7F800000, 0) ∧ groupOp tyF32 2 rm [] = (0xFF800000, 0)) ∧
  (∀ t rm (vs : List W32), t ≠ tyF32 → vs ≠ [] → ∀ i < 32,
    (BitVec.ofNat 32 (groupOp t 3 rm vs).1).getLsbD i = (vs.all fun v => v.getLsbD i) ∧
    (BitVec.ofNat 32 (groupOp t 4 rm vs).1).getLsbD i = (vs.any fun v => v.getLsbD i) ∧
    (BitVec.ofNat 32 (groupOp t 5 rm vs).1).getLsbD i = decide ((vs.countP fun v => v.getLsbD i) % 2 = 1)) ∧
  (∀ t op rm (vs ws : List W32), t ≠ tyF32 → vs.Perm ws → groupOp t op rm vs = groupOp t op rm ws) ∧
  (∀ rm (a b : W32), groupOp tyF32 0 rm [a, b] = fpAdd tyF32 rm a.toNat b.toNat) ∧
  (∀ rm (vs : List W32), (∃ v ∈ vs, fpVal tyF32 v.toNat = .nan) → (groupOp tyF32 0 rm vs).1 = 0x7FC00000) ∧
  (∀ rm (vs : List W32), (∀ v ∈ vs, fpVal tyF32 v.toNat ≠ .nan) → (0x7F800000 : W32) ∈ vs → (0xFF800000 : W32) ∈ vs →
    groupOp tyF32 0 rm vs = (0x7FC00000, flagIV)) ∧
  (∀ rm (vs : List W32) v, vs ≠ [] →
    (groupOp tyF32 1 rm (vs ++ [v])).1 = fpMinMax tyF32 false (groupOp tyF32 1 rm vs).1 v.toNat ∧
    (groupOp tyF32 2 rm (vs ++ [v])).1 = fpMinMax tyF32 true (groupOp tyF32 2 rm vs).1 v.toNat) ∧
  (∀ t rm (vs : List W32), t ≠ tyF32 → vs ≠ [] → groupOp t 0 rm vs = ((vs.map BitVec.toNat).sum % 2 ^ 32, 0)) ∧
  (∀ t rm (vs : List W32), t ≠ tyF32 → vs ≠ [] →
    (∃ v ∈ vs, (groupOp t 1 rm vs).1 = v.toNat ∧ ∀ w ∈ vs, iVal t v ≤ iVal t w) ∧
    (∃ v ∈ vs, (groupOp t 2 rm vs).1 = v.toNat ∧ ∀ w ∈ vs, iVal t w ≤ iVal t v))

/-- R319, R322: a result of class V or A on its way to registers that nothing else is on its way to waits under a number of its own, the
two halves of a pair each under one; it changes no register until it lands, and landing writes exactly its lanes of its register or
pair, its uniform register, or its uniform predicate; q7 is written by nothing. -/
def Obligations.ResultOnItsWay : Prop :=
    (∀ (g : Group) tick d (vals : List (Nat × W64)) f, (∀ l, g.coming d l = []) →
    ∃ n, kget g.pend n = none ∧
      addPend g tick (.vec d false vals) f = { g with pend := kset g.pend n ⟨.vec d false vals, f⟩ }) ∧
  (∀ (g : Group) tick d v f, g.uniIdle d →
    ∃ n, kget g.pend n = none ∧ addPend g tick (.uni d v) f = { g with pend := kset g.pend n ⟨.uni d v, f⟩ }) ∧
  (∀ s (h : Here) (r : Row) (x : Ext) vals f g, x.dcl = false → pairOf r.d x = true → s.group h.c h.b h.g = some g →
    (∀ l, g.coming x.d.toNat l = []) → (∀ l, g.coming (x.d.toNat + 1) l = []) →
    ∃ n m, n ≠ m ∧ kget g.pend n = none ∧ kget g.pend m = none ∧ ∃ lo hi,
      pendVec s h r x vals f = s.updGroup h.c h.b h.g (fun _ => { g with
        pend := kset (kset g.pend n ⟨.vec x.d.toNat false lo, f⟩) m ⟨.vec (x.d.toNat + 1) false hi, 0⟩ }) ∧
      lo.map (fun p => (p.1, p.2.extractLsb' 0 32)) = vals.map (fun p => (p.1, p.2.extractLsb' 0 32)) ∧
      hi.map (fun p => (p.1, p.2.extractLsb' 0 32)) = vals.map (fun p => (p.1, p.2.extractLsb' 32 32))) ∧
  (∀ (g : Group) tick i v f, i < 7 → (∀ p ∈ g.pend, ∀ w, p.2.wb ≠ .upred i w) →
    ∃ n, kget g.pend n = none ∧ addPend g tick (.upred i v) f = { g with pend := kset g.pend n ⟨.upred i v, f⟩ }) ∧
  (∀ (g : Group) tick v f, ∃ n, kget g.pend n = none ∧ addPend g tick (.upred 7 v) f = { g with pend := kset g.pend n ⟨.nothing, f⟩ }) ∧
  (∀ s c b g x d ls val, s.group c b g = some x → ls.Nodup → (∀ l ∈ ls, l < 64) →
    ∃ v, landWrite s c b g (.vec d true (ls.map fun l => (l, val l))) = s.updGroup c b g (fun _ => x.setV v) ∧
      vecWritten x.v v true d ls val) ∧
  (∀ s c b g x i v, s.group c b g = some x → i < 7 →
    ∃ q : BitVec 7, landWrite s c b g (.upred i v) = s.updGroup c b g (fun _ => { x with q := q }) ∧
      ∀ j < 7, q.getLsbD j = if j = i then v else x.q.getLsbD j) ∧
  (∀ s c b g x d ls val, s.group c b g = some x → ls.Nodup → (∀ l ∈ ls, l < 64) →
    ∃ v, landWrite s c b g (.vec d false (ls.map fun l => (l, val l))) = s.updGroup c b g (fun _ => x.setV v) ∧
      vecWritten x.v v false d ls val) ∧
  (∀ s c b g x d v, s.group c b g = some x →
    landWrite s c b g (.uni d v) = s.updGroup c b g (fun _ => x.setS (zset x.s d v)))

/-- R254-R258: a special function with its token slot empty and room in its queue holds its lanes' results in the slot; SFWAIT on
empty slots only advances. -/
def Obligations.SpecialFunction : Prop :=
    (∀ r ∈ [Rows.exp2, Rows.log2, Rows.rcp, Rows.rsq, Rows.sqrt, Rows.tanh, Rows.lgst, Rows.sinp, Rows.cosp],
    ∀ i x len s h, VecIssue i s r x len h false → tokenFree s h x = true → h.destIdle r x →
      let q := fetchSrcs s h r x (h.lanes x)
      let out (l : Nat) := specialFn r.xop.toNat (lo32 (q.1.a l)).toNat
      exec i s = .next (q.2.updGroup h.c h.b h.g fun _ => h.advanced len x.s { h.counted with
        tokens := kset h.grp.tokens (x.aux8.extractLsb' 0 3).toNat
          { r := x.d.toNat, vals := (h.lanes x).map fun l => (l, BitVec.ofNat 32 (out l).1)
            flags := (h.lanes x).foldl (fun f l => f ||| (out l).2) 0, order := h.tick } })) ∧
  (∀ r ∈ [Rows.exp2, Rows.log2, Rows.rcp, Rows.rsq, Rows.sqrt, Rows.tanh, Rows.lgst, Rows.sinp, Rows.cosp],
    ∀ i x len s h, i.issued = some (r, x, len) → here s = some h → squashed x = false → h.active x = 0 → tokenFree s h x = true →
      exec i s = .next (s.updGroup h.c h.b h.g fun _ => h.advanced len x.s h.counted)) ∧
  (∀ i x len s h, VecIssue i s Rows.sfwait x len h false → (∀ p ∈ h.grp.tokens, x.aux8.getLsbD p.1 = false) →
    exec i s = .next (s.updGroup h.c h.b h.g fun _ => h.advanced len x.s h.counted)) ∧
  (∀ i x len s h, VecIssue i s Rows.sfwait x len h false → (∃ p ∈ h.grp.tokens, x.aux8.getLsbD p.1 = true) →
    exec i s = .next (s.updGroup h.c h.b h.g fun _ => { h.grp with park := some .sfwait }))

/-- R46-R49, R208, R263: a load whose lanes pass their checks sends the lanes' values, widened by the type; an LDS of aligned
addresses inside the share, outside every range lock, reads the block's own scratchpad bytes, little-endian, and changes no memory. -/
def Obligations.LoadSends : Prop :=
  ((∀ p ∈ [(Rows.ldg, true, Space.global), (Rows.lds, false, Space.scratch), (Rows.ldl, true, Space.local_),
      (Rows.ldc, false, Space.constant)],
    ∀ i x len s h, VecIssue i s p.1 x len h p.2.1 →
      ∀ s1 oks s2 vs, checkAccess (openIssue s h) h p.2.2 (tySize x.ty) (tySize x.ty) false false
          ((h.lanes x).map fun l => (l, effAddr h x p.2.1 true l)) = (s1, .ok oks) →
        readLanes s1 h p.2.2 (tySize x.ty) x.hint oks = (s2, .ok vs) →
        exec i s = .next (h.completed len x.s (pendVec s2 h p.1 x (vs.map fun v => (v.1, widenVec x.ty v.2)) 0))) ∧
  (∀ i x len s h, UniIssue i s Rows.uld x len h true →
    ∀ s1 oks s2 v, checkAccess (openIssue s h) h (uSpace x) (tySize x.ty) (tySize x.ty) false false
        [(0, effAddr h x true true 0)] = (s1, .ok oks) →
      readLanes s1 h (uSpace x) (tySize x.ty) x.hint oks = (s2, .ok [v]) →
      exec i s = .next (h.completed len x.s (pendUni s2 h Rows.uld x (widenUni x.ty v.2) 0)))) ∧
  (∀ i x len s h, VecIssue i s Rows.lds x len h false →
    let n := tySize x.ty
    let a (l : Nat) := (effAddr h x false true l).toNat
    (∀ l ∈ h.lanes x, a l % n = 0 ∧ a l < h.blk.kern.scratch ∧ rangeLocked s h.c h.b true (a l) n false = false) →
    exec i s = .next (h.completed len x.s (pendVec (openIssue s h) h Rows.lds x
      ((h.lanes x).map fun l => (l, widenVec x.ty (h.blk.scratchNat (a l) n))) 0)))

/-- R46, R55, R185, R208, R263, R265: a store whose lanes pass their checks writes the low bytes of each lane's value, lower lanes
first; PFCH completes whatever its addresses are. -/
def Obligations.StoreWrites : Prop :=
  ((∀ p ∈ [(Rows.stg, true, Space.global), (Rows.sts, false, Space.scratch), (Rows.stl, true, Space.local_)],
    ∀ i x len s h, VecIssue i s p.1 x len h p.2.1 →
      let v := (fetchSrcs s h p.1 x (h.lanes x)).1
      ∀ s1 oks, checkAccess (openIssue s h) h p.2.2 (tySize x.ty) (tySize x.ty) true true
          ((h.lanes x).map fun l => (l, effAddr h x p.2.1 true l)) = (s1, .ok oks) →
        (p.2.2 = .scratch ∨ downLine s1 h.ten oks = none) →
        exec i s = .next (h.completed len x.s (oks.foldl (fun u o =>
          writePlace u h.c h.b p.2.2 o.2.1 o.2.2 (tySize x.ty) (v.c o.1).toNat) (fetchSrcs s1 h p.1 x (h.lanes x)).2))) ∧
  (∀ i x len s h, UniIssue i s Rows.ust x len h true →
    let v := (fetchSrcs s h Rows.ust x []).1
    ∀ s1 oks, checkAccess (openIssue s h) h (uSpace x) (tySize x.ty) (tySize x.ty) true true
        [(0, effAddr h x true true 0)] = (s1, .ok oks) →
      (uSpace x = .scratch ∨ downLine s1 h.ten oks = none) →
      exec i s = .next (h.completed len x.s (oks.foldl (fun u o =>
        writePlace u h.c h.b (uSpace x) o.2.1 o.2.2 (tySize x.ty) (v.c o.1).toNat) (fetchSrcs s1 h Rows.ust x []).2)))) ∧
  (∀ i x len s h, VecIssue i s Rows.pfch x len h true →
    exec i s = .next (h.completed len x.s ((h.lanes x).foldl (fun u l => prefetchLane u h x l) (openIssue s h))))

/-- The frame of a weak store (R84, R85): after the core's own strong writes to the line that are on their way, which come before it,
home memory, every domain, every other core, and every other byte that waits in the core's write-combining entries are as before;
the stored bytes wait there; scratchpad stores change only the block's own bytes of the place. -/
def Obligations.StoreFrame : Prop :=
    (∀ s c b place pa n v sp, sp ≠ .scratch → pa % 128 + n ≤ 128 →
    let u := flushLineOf s c (lineOf pa)
    let t := writePlace s c b sp place pa n v
    t.mem = u.mem ∧ t.domains = u.domains ∧ t.tenants = u.tenants ∧ (∀ e, e ≠ c → t.core e = u.core e) ∧
    (∀ e d g, t.group e d g = u.group e d g) ∧
    (∀ line o, kget ((kget (t.core c).wc line).getD []) o =
      if line = lineOf pa ∧ pa % 128 ≤ o ∧ o < pa % 128 + n then some ((leBytes n v).getD (o - pa % 128) 0)
      else kget ((kget (u.core c).wc line).getD []) o) ∧
    ((∀ w ∈ (s.core c).strong, lineOf w.pa ≠ lineOf pa) → noRequest s c (lineOf pa) → u = s)) ∧
  (∀ s c b k place pa n v, s.block c b = some k →
    ∃ k', writePlace s c b .scratch place pa n v = s.updBlock c b (fun _ => k') ∧ k' = { k with scratch := k'.scratch } ∧
      ∀ o, k'.scratchByte o = if place ≤ o ∧ o < place + n then (leBytes n v).getD (o - place) 0 else k.scratchByte o)

/-- R77: a thread sees its own stores: a weak read of the bytes a weak write stored, by the same core with nothing between,
returns them, whether the L1 holds the line or not (for lines that can be read; a line's bytes number 128 wherever it is held). -/
def Obligations.OwnStoreSeen : Prop :=
    ∀ s c b pa bs hint, 0 < bs.length → pa % 128 + bs.length ≤ 128 →
    let u := flushLineOf s c (lineOf pa)
    (∀ w ∈ (u.core c).strong, lineOf w.pa ≠ lineOf pa) → noRequest u c (lineOf pa) →
    (∀ l, kget (u.core c).l1 (lineOf pa) = some l → l.bytes.length = 128) →
    (∀ g, kget (u.dom (coreDomain c)).guest (lineOf pa) = some g → g.bytes.length = 128) →
    (∀ ps, kget (u.core c).wc (lineOf pa) = some ps → keysAbove 0 ps = true) →
    (l2Read (weakWrite s c b pa bs) (s.coreTenant c) (coreDomain c) (lineOf pa)).2.isSome →
    (weakRead (weakWrite s c b pa bs) c pa bs.length hint).2 = some bs

/-- R83, R260, R261, R266-R269: ATOM, ATOMC and RED whose lanes pass their checks go on their way to the home, lane after lane; ATOM and
ATOMC take a scoreboard slot for the old values, RED returns nothing; ATOMS acts on the block's own scratchpad, lane after lane in
increasing order, each on what the lanes before it left. The model's choice (log 15): an acquiring one acts at the home in its step, an
ATOMC that releases too, and the others wait in Core.strong. -/
def Obligations.AtomicCompletes : Prop :=
  ((∀ p ∈ [(Rows.atom, atomOp), (Rows.atomc, casOp)], ∀ i x len s h, VecIssue i s p.1 x len h true → h.grp.board.length < 8 →
      let v := (fetchSrcs s h p.1 x (h.lanes x)).1
      ∀ s1 oks, checkAccess (openIssue s h) h .global (tySize x.ty) (tySize x.ty) true true
          ((h.lanes x).map fun l => (l, effAddr h x true false l)) = (s1, .ok oks) → badLine s1 h.ten oks = none →
        exec i s = .next (h.completed len x.s (returnStrong p.1 x h s1 (p.2 x v) oks))) ∧
  (∀ i x len s h, VecIssue i s Rows.red x len h true →
    let v := (fetchSrcs s h Rows.red x (h.lanes x)).1
    ∀ s1 oks, checkAccess (openIssue s h) h .global (tySize x.ty) (tySize x.ty) true true
        ((h.lanes x).map fun l => (l, effAddr h x true false l)) = (s1, .ok oks) → badLine s1 h.ten oks = none →
      exec i s = .next (h.completed len x.s (sendStrong s1 h (ordRel x) (scopeOf x) (tySize x.ty) (atomOp x v) none oks))) ∧
  (∀ r x h s o oks, ordAcq x = true →
    let q := strongLanes s h true (ordRel x) true (scopeOf x) (tySize x.ty) oks fun l old => strongResult o.op (o.cmp l) (o.val l) old
    returnStrong r x h s o oks = addBoard q.1 h r x (q.2.map fun w => (w.1, BitVec.ofNat 64 w.2)) 0 none) ∧
  (∀ r x h s o oks, ordAcq x = false → (o.cmp 0 = none ∨ releases h.grp (ordRel x) (oks.map (·.1)) = false) →
    returnStrong r x h s o oks = sendStrong (addBoard s h r x (oks.map fun k => (k.1, 0)) oks.length none) h (ordRel x) (scopeOf x)
      (tySize x.ty) o (some (h.grp.board.foldl (fun m b => max m (b.id + 1)) 0)) oks)) ∧
  (∀ i x len s h, VecIssue i s Rows.atoms x len h false → h.grp.board.length < 8 →
    let n := tySize x.ty
    let at_ (l : Nat) := (effAddr h x false false l).toNat
    (∀ l ∈ h.lanes x, at_ l % n = 0 ∧ at_ l < h.blk.kern.scratch ∧ rangeLocked s h.c h.b true (at_ l) n true = false) →
    let run := (h.lanes x).foldl (fun (p : Block × List (Nat × W64)) l =>
      let old := p.1.scratchNat (at_ l) n
      (p.1.putScratch (at_ l) (leBytes n (atomNew x.ty (x.aux8.extractLsb' 4 4) old ((fetchSrcs s h Rows.atoms x (h.lanes x)).1.c l).toNat)),
        p.2 ++ [(l, BitVec.ofNat 64 old)])) (h.blk, [])
    exec i s = .next (h.completed len x.s (addBoard ((openIssue s h).updBlock h.c h.b fun k => { k with scratch := run.1.scratch })
      h Rows.atoms x run.2 0 none)))

/-- R266, R270: the new values of an atomic for every operation and type: add wraps at the width, minimum and maximum order signed types
signed, and, or and xor are bitwise, exchange takes the operand, inc and dec compare unsigned; f32 adds with one rounding to nearest even
and orders as FMIN and FMAX. Every new value has the type's width. -/
def Obligations.AtomicValue : Prop :=
  (∀ t ∈ [tyS32, tyU32, tyS64, tyU64], ∀ (a b : BitVec (8 * tySize t)),
    let new (op : BitVec 4) (v : BitVec (8 * tySize t)) : Prop := ∀ c : Nat, BitVec.ofNat (8 * tySize t) c = b → atomNew t op a.toNat c = v.toNat
    let less (x y : BitVec (8 * tySize t)) : Bool := if t = tyS32 ∨ t = tyS64 then x.slt y else x.ult y
    new 0 (a + b) ∧ new 1 (if less b a then b else a) ∧ new 2 (if less a b then b else a) ∧
    new 3 (a &&& b) ∧ new 4 (a ||| b) ∧ new 5 (a ^^^ b) ∧ new 6 b ∧
    new 7 (if a.ult b then a + 1 else 0) ∧ new 8 (if a = 0 ∨ b.ult a then b else a - 1)) ∧
  (∀ a b : W32, let new (op : BitVec 4) (v : Nat) : Prop := atomNew tyF32 op a.toNat b.toNat = v
    new 0 (fpAdd tyF32 0 a.toNat b.toNat).1 ∧ new 1 (fpMinMax tyF32 false a.toNat b.toNat) ∧
    new 2 (fpMinMax tyF32 true a.toNat b.toNat) ∧ new 6 b.toNat)

/-- R83, R89: a strong write of n bytes inside a line leaves them at the home, little-endian, and every other byte of memory as it was,
but for bytes that a domain's dirty copy of their line writes back when its turn comes; with the line in its home's L2 every other byte
stays. -/
def Obligations.StrongWriteStores : Prop :=
    ∀ s t d pa n v, pa % 128 + n ≤ 128 →
    let u := strongWrite s t d pa n v
    homeValue u pa n = v % 2 ^ (8 * n) ∧
    (∀ a, ¬(pa ≤ a ∧ a < pa + n) → s.onlyWrittenBack u a) ∧
    (isPeer (lineBase (lineOf pa)) = true ∨ lineOf pa ∈ (s.dom (s.home t (lineBase (lineOf pa)))).l2 →
      ∀ a, ¬(pa ≤ a ∧ a < pa + n) → zget u.mem a = zget s.mem a)

/-- R75, R79, R85, R86, R261, R271, R272: LDA is a strong read with acquire whose values are sent; STRL is a strong write with release
that goes on its way; FENCE completes once the core's earlier stores are performed; with release every later strong write of its lanes is
a release at its scope or a wider one before it; with acquire the earlier strong reads become acquires. Each waits for stamp-book
operations of the group that are at a home. The model's choice: that a releasing FENCE makes every later strong write of its lanes a
release, at the narrower scope of the two, and what an acquiring one takes as earlier reads (log 167); that STRL is queued while LDA acts
in its step (log 15). -/
def Obligations.AcquireRelease : Prop :=
  ((∀ i x len s h, VecIssue i s Rows.lda x len h true →
    ∀ s1 oks, checkAccess (openIssue s h) h .global (tySize x.ty) (tySize x.ty) false false
        ((h.lanes x).map fun l => (l, effAddr h x true false l)) = (s1, .ok oks) → badLine s1 h.ten oks = none →
      let o := strongLanes s1 h true false true (scopeOf x) (tySize x.ty) oks fun _ _ => none
      exec i s = .next (h.completed len x.s (pendVec o.1 h Rows.lda x (o.2.map fun w => (w.1, widenVec x.ty w.2)) 0))) ∧
  (∀ i x len s h, VecIssue i s Rows.strl x len h true →
    let v := (fetchSrcs s h Rows.strl x (h.lanes x)).1
    ∀ s1 oks, checkAccess (openIssue s h) h .global (tySize x.ty) (tySize x.ty) true true
        ((h.lanes x).map fun l => (l, effAddr h x true false l)) = (s1, .ok oks) → downLine s1 h.ten oks = none →
      exec i s = .next (h.completed len x.s (sendStrong s1 h true (scopeOf x) (tySize x.ty) (strlOp x v) none oks)))) ∧
  (∀ s h rel sc n o ret oks, ∃ ws, ((sendStrong s h rel sc n o ret oks).core h.c).strong = (s.core h.c).strong ++ ws ∧
    ws.map (fun w => (w.pa, w.n, w.v, w.op, w.cmp, w.block, w.rel, w.pub, w.ret)) =
      oks.map fun k => (k.2.2, n, o.val k.1, o.op, o.cmp k.1, some h.b, releases h.grp rel (oks.map (·.1)), publishScope h.grp rel sc k.1, ret)) ∧
  (∀ i x len s h, VecIssue i s Rows.fence x len h false →
    let u0 := beforePublish (openIssue s h) h true
    let u := if ordRel x then fenceRelease u0 h (scopeOf x) (h.active x) else u0
    let t := h.completed len x.s (if ordAcq x then fenceAcquires u h (scopeOf x) (h.active x) else u)
    exec i s = .next t ∧
    (ordRel x = true → ordAcq x = false → (s.core h.c).wc = [] → (s.core h.c).strong = [] → (∀ d, (s.dom d).sbReqs = []) →
      ∃ g, t = s.updGroup h.c h.b h.g (fun _ => g) ∧ ∀ l, l < 64 → kget g.fenceRel l =
        if (h.active x).getLsbD l then some (match kget h.grp.fenceRel l with
          | some k => if k.toNat < (scopeOf x).toNat then scopeOf x else k
          | none => scopeOf x)
        else kget h.grp.fenceRel l) ∧
    (ordAcq x = true → ordRel x = false → h.grp.reads = [] → (s.core h.c).wc = [] → (s.core h.c).strong = [] →
      (∀ d, (s.dom d).sbReqs = []) →
      t = s.updGroup h.c h.b h.g fun _ => h.advanced len x.s h.counted))

/-- R90, R273: OBJDECL reads its shape record and sends the declaration's word; OBJDROP drops a declared object; an accepted declaration
answers its home and number, and the object holds the lines of its shape; a record whose fields are out of range answers 4 and declares
nothing. The model's choice (log 66): an accepted object takes the lowest free number (freeKey), and status 4 comes before the others. -/
def Obligations.ObjectOperations : Prop :=
  ((∀ i x len s h, UniIssue i s Rows.objdecl x len h false →
    let q := fetchSrcs s h Rows.objdecl x []
    ∀ s1 l va pa s2 bs, checkAccess (openIssue s h) h .global 32 32 false false [(0, q.1.a 0)] = (s1, .ok [(l, va, pa)]) →
      weakRead s1 h.c pa 32 0 = (s2, some bs) →
      let o := declareObj (fetchSrcs s2 h Rows.objdecl x []).2 h.ten (wordsOf bs 4)
      exec i s = .next (h.completed len x.s (pendUni o.1 h Rows.objdecl x o.2 0))) ∧
  (∀ i x len s h, UniIssue i s Rows.objdrop x len h false →
    let q := fetchSrcs s h Rows.objdrop x []
    let u := openIssue q.2 h
    (∀ l k o, quietLine u h.ten (q.1.a 0).toNat = some l →
      ((u.dom (u.home h.ten (lineBase l))).objs.find? fun p => p.2.tenant == h.ten && p.2.base == (q.1.a 0).toNat) = some (k, o) →
      exec i s = .next (h.completed len x.s (dropObj u h.ten (u.home h.ten (lineBase l)) k o))) ∧
    (quietLine u h.ten (q.1.a 0).toNat = none → exec i s = .next (h.completed len x.s u))) ∧
  (∀ s t h k o, kget ((dropObj s t h k o).dom h).objs k = none)) ∧
  ((∀ s t w, shapeOk w = false → (declareObj s t w).1 = s ∧ bits (declareObj s t w).2 56 8 = 4) ∧
  (∀ s t w lines, shapeOk w = true → allSome ((shapeLines w).map fun va => quietLine s t va) = some lines →
    let h := s.home t (lineBase (lines.head?.getD 0))
    (∀ l ∈ lines, s.home t (lineBase l) = h ∧ objOf s h l = none ∧ dirOf s h l = .empty) → (s.dom h).objs.length < 16384 → h < 64 →
    let k := freeKey (s.dom h).objs
    (declareObj s t w).2 = BitVec.ofNat 64 (h * 2 ^ 16 + k) ∧
    ∃ o, kget ((declareObj s t w).1.dom h).objs k = some o ∧ o.tenant = t ∧ o.base = bits (word w 0) 0 56 ∧ o.lines = lines))

/-- R91, R92, R274: SEAL and UNSEAL of an aligned range whose pages translate answer their status in a uniform register; a full table, an
overlap and an unknown range change nothing. The model's choice (log 68): a full table answers 1 whether or not the range overlaps a
sealed one. -/
def Obligations.SealStatus : Prop :=
    (∀ p ∈ [(Rows.sealRange, sealAct), (Rows.unsealRange, unsealAct)], ∀ i x len s h, UniIssue i s p.1 x len h false →
    let q := fetchSrcs s h p.1 x []
    let a := (q.1.a 0).toNat
    let n := (q.1.b 0).toNat
    a % 65536 = 0 → n % 65536 = 0 → n ≠ 0 → (p.1 = Rows.sealRange → cutsPage (openIssue s h) h.ten a n = false) →
      ∀ s1 oks, translateLanes (openIssue s h) h false (pagesOf a n) = (s1, .ok oks) →
      let o := p.2 (fetchSrcs s1 h p.1 x []).2 h a n (oks.map fun k => k.2.2)
      ∀ u, dstUni o.1 h p.1 x (BitVec.ofNat 64 o.2) = (u, true) →
      (x.dcl = true → vqStuck u h.c x.d.toNat = false) → exec i s = .next (h.completed len x.s u)) ∧
  (∀ s h a n pas, (64 ≤ (s.ten h.ten).seals.length → sealAct s h a n pas = (s, 1)) ∧
    ((s.ten h.ten).seals.length < 64 → sealed s h.ten a n = true → sealAct s h a n pas = (s, 2)) ∧
    ((s.ten h.ten).seals.length < 64 → sealed s h.ten a n = false → (sealAct s h a n pas).2 = 0) ∧
    ((a, n) ∉ (s.ten h.ten).seals → unsealAct s h a n pas = (s, 3)) ∧
    ((a, n) ∈ (s.ten h.ten).seals → (unsealAct s h a n pas).2 = 0))

/-- R60, R275: RSDECL, RSSET and RSEVICT send their status; a declared handle is held with its priority, one that is not declared
answers 5. The model's choice (log 67): RSDECL answers 2 for a declared handle whatever else fails. -/
def Obligations.ResidencyStatus : Prop :=
    (∀ p ∈ [(Rows.rsdecl, rsdeclAct), (Rows.rsset, rssetAct), (Rows.rsevict, rsevictAct)], ∀ i x len s h, UniIssue i s p.1 x len h false →
    let q := fetchSrcs s h p.1 x []
    let o := p.2 (openIssue q.2 h) h x (q.1.a 0) (q.1.b 0)
    exec i s = .next (h.completed len x.s (pendUni o.1 h p.1 x (BitVec.ofNat 64 o.2) 0))) ∧
  (∀ s h x a b, (kget (s.ten h.ten).handles x.aux8.toNat).isSome → rsdeclAct s h x a b = (s, 2)) ∧
  (∀ s h x a b, (rsdeclAct s h x a b).2 = 0 →
    ∃ e, kget ((rsdeclAct s h x a b).1.ten h.ten).handles x.aux8.toNat = some e ∧ e.base = a.toNat ∧ e.len = b.toNat ∧
      e.prio = (x.mod6.extractLsb' 0 3).toNat) ∧
  (∀ s h x a b, kget (s.ten h.ten).handles x.aux8.toNat = none → rssetAct s h x a b = (s, 5) ∧ rsevictAct s h x a b = (s, 5))

/-- R98, R101, R104, R276-R278: BARA arrives and sends the generation it arrived in; BARW, BARS and SSTEP go on at once where that
generation is done and else wait for it; BARGEN sends the generation; BARCFG sets the count of a barrier nobody has arrived at. -/
def Obligations.BarrierOperations : Prop :=
    (∀ i x len s h u gen, VecIssue i s Rows.bara x len h false →
    arriveLanes (barRelease (openIssue s h) h.c (barLvl x)) h.c h.b h.g (barLvl x) (barNum x) (h.active x) false = some (u, gen) →
    exec i s = .next (h.completed len x.s (pendUni u h Rows.bara x (gen.zeroExtend 64) 0))) ∧
  (∀ i x len s h, VecIssue i s Rows.barw x len h false →
    let q := fetchSrcs s h Rows.barw x (h.lanes x)
    let u := openIssue q.2 h
    let gen := (q.1.a 0).setWidth 16
    (∀ t, barDone (barGen s h x) gen = true → dstUni (barAcquire u h.c h.ten (barLvl x)) h Rows.barw x 0 = (t, true) →
      (x.dcl = true → vqStuck t h.c x.d.toNat = false) → exec i s = .next (h.completed len x.s t)) ∧
    (barDone (barGen s h x) gen = false → exec i s = .next (h.departed x.s (waitAt
      (if x.dcl then reservePush u h.c x.d.toNat 2 else u) h
      (.bar (barLvl x) (barNum x) gen x.dcl x.d.toNat (h.ent.pc.plus len) false))))) ∧
  (∀ p ∈ [(Rows.bars, false), (Rows.sstep, true)], ∀ i x len s h u gen, VecIssue i s p.1 x len h false →
    arriveLanes (barRelease (openIssue s h) h.c (barLvl x)) h.c h.b h.g (barLvl x) (barNum x) (h.active x) p.2 = some (u, gen) →
    let stream := barLvl x = 1 ∧ 64 ∈ (getBar (openIssue s h) h.blk h.g 1 (barNum x)).arrived
    let v := if stream then u.updGroup h.c h.b h.g fun g => g.raised h.blk.tileFlags else u
    (barDone (barGen u h x) gen = false → exec i s = .next (h.departed x.s (waitAt
      (if x.dcl then reservePush u h.c x.d.toNat 2 else u) h
      (.bar (barLvl x) (barNum x) gen x.dcl x.d.toNat (h.ent.pc.plus len) p.2)))) ∧
    (∀ t, barDone (barGen u h x) gen = true → dstUni (barAcquire v h.c h.ten (barLvl x)) h p.1 x 0 = (t, true) →
      (x.dcl = true → vqStuck t h.c x.d.toNat = false) → exec i s = .next (h.completed len x.s t))) ∧
  (∀ p ∈ [(Rows.bara, true), (Rows.barw, false), (Rows.bars, false), (Rows.sstep, false)], ∀ i x len s h,
    i.issued = some (p.1, x, len) → here s = some h → squashed x = false → h.active x = 0 → x.dcl = false →
    regOk h p.1.d x x.d.toNat false = true → h.grp.uniIdle x.d.toNat →
    exec i s = .next (s.updGroup h.c h.b h.g fun _ => h.advanced len x.s (h.counted.setS (zset h.grp.s x.d.toNat
      (if p.2 then (barGen s h x).zeroExtend 64 else 0))))) ∧
  (∀ i x len s h, UniIssue i s Rows.bargen x len h false →
    exec i s = .next (h.completed len x.s (pendUni (openIssue s h) h Rows.bargen x ((barGen s h x).zeroExtend 64) 0))) ∧
  (∀ i x len s h, UniIssue i s Rows.barcfg x len h false →
    let q := fetchSrcs s h Rows.barcfg x []
    let bar := getBar s h.blk h.g 1 (barNum x)
    1 ≤ (q.1.a 0).toNat → (q.1.a 0).toNat ≤ 65 → bar.arrived = [] →
    exec i s = .next (h.completed len x.s ((openIssue q.2 h).updBlock h.c h.b fun k =>
      { k with bars := kset k.bars (barNum x) { bar with exp := (q.1.a 0).toNat, custom := true } })))

/-- R98, R101: the wait on a generation is over for the 32,768 generations after it, modulo 2^16; when every non-exited lane of a
group arrives at a group barrier of the default count, its generation completes and nobody has arrived in the new one. -/
def Obligations.BarrierCompletes : Prop :=
  (∀ (t : BitVec 16) n, n < 65536 → (barDone (t + BitVec.ofNat 16 n) t = true ↔ 1 ≤ n ∧ n ≤ 32768)) ∧
  (∀ s c b g n k x, s.block c b = some k → kget k.groups g = some x → k.kern.width ≤ 64 → x.live k.kern.width ≠ 0 →
    kget k.bars (barKey 0 n g) = none →
    let done : Bar := { gen := 1, exp := k.kern.width, custom := false, arrived := [] }
    arriveLanes s c b g 0 n (x.live k.kern.width) false =
      some (s.updBlock c b fun k => { k with bars := kset k.bars (barKey 0 n g) done }, 0))

/-- R96, R112, R113, R119, R279: a stamp-book instruction takes a scoreboard slot and makes its lanes' operations in lane order. The
model's choice: a book operation counts as a strong read at wafer scope (log 70), and it releases where a FENCE of its lanes came before
(log 167). -/
def Obligations.StampCompletes : Prop :=
    ∀ p ∈ [(Rows.sbinit, sbInit), (Rows.sbtake, sbTake), (Rows.sbgive, sbGive), (Rows.sbread, sbRead), (Rows.sbclose, sbClose)],
    ∀ i x len s h, VecIssue i s p.1 x len h true → h.grp.board.length < 8 →
      let v := (fetchSrcs s h p.1 x (h.lanes x)).1
      ∀ s1 oks, checkAccess (openIssue s h) h .global 8 64 true false
          ((h.lanes x).map fun l => (l, effAddr h x true true l)) = (s1, .ok oks) → badLine s1 h.ten oks = none →
        exec i s = .next (h.completed len x.s (stampLanes s1 h p.1 x p.2 v oks))

/-- R114-R118: a take served at the home lowers the counter's value by exactly its amount when it succeeds and leaves the value
when it fails; a read answers the value and leaves it. -/
def Obligations.StampConserves : Prop :=
    ∀ s t pa d n k, pa % 64 = 0 → sbOpen s t pa = some k → keysAbove 0 k.books = true → sbTotal s pa k ≤ sbMax →
    (∀ e g, kget (s.dom e).guest (lineOf pa) = some g → g.dirty = 0) → (kget k.books d = none → sbBook s d pa = 0) →
    (∃ k', sbOpen (sbTakeHome s t pa d n k).1 t pa = some k' ∧
      sbTotal (sbTakeHome s t pa d n k).1 pa k' + (if (sbTakeHome s t pa d n k).2 then n else 0) = sbTotal s pa k) ∧
    (sbReadHome s t pa k).2 = sbTotal s pa k ∧
    ∃ k', sbOpen (sbReadHome s t pa k).1 t pa = some k' ∧ sbTotal (sbReadHome s t pa k).1 pa k' = sbTotal s pa k

/-- R125, R126, R129, R130, R280-R283: an accepted copy is queued after the group's earlier stores are drained; MACK gives a receipt;
CHAIN starts its slot after them; MARM arms its monitor; MWAIT goes on with the word that has reached its value, and else waits. The word
has reached the value within 2^63 steps, or is all ones. -/
def Obligations.CopyOperations : Prop :=
  ((∀ p ∈ [(Rows.cpy, [1, 0]), (Rows.cpyr, [2]), (Rows.cpym, [3])], ∀ i x len s h, UniIssue i s p.1 x len h false →
    let w := 0 :: (octet h x).drop 1
    xOp w ∈ p.2 → xferOk w h.blk.clus h.blk.kern.scratch false = true → copyRoom (s.core h.c) w = true →
    exec i s = .next (h.completed len x.s (acceptXfer (beforePublish (openIssue s h) h true) h.c h.b h.ten h.g w none))) ∧
  (∀ i x len s h, UniIssue i s Rows.mack x len h false →
    let q := fetchSrcs s h Rows.mack x []
    (q.1.a 0).toNat < h.blk.clus →
    exec i s = .next (h.completed len x.s (giveReceipt (beforePublish (openIssue q.2 h) h true) h.blk (q.1.a 0).toNat
      (x.aux8.extractLsb' 0 2).toNat))) ∧
  (∀ i x len s h, UniIssue i s Rows.chain x len h false →
    let q := fetchSrcs s h Rows.chain x []
    let a := (q.1.a 0).toNat
    let n := (x.aux8.extractLsb' 0 2).toNat
    let onto (e : ChainSlot) := exec i s = .next (h.completed len x.s ((beforePublish (openIssue q.2 h) h true).updCore h.c fun y =>
      { y with chains := kset y.chains n e }))
    a % 64 = 0 →
    ((∀ k, kget (s.core h.c).chains n = some k → k.state = 0) → onto ⟨1, h.b, a, a, none⟩) ∧
    (∀ k, kget (s.core h.c).chains n = some k → k.owner = h.b → k.state = 1 ∨ k.state = 2 → onto { k with state := 1, tail := a }) ∧
    (∀ k, kget (s.core h.c).chains n = some k → k.owner = h.b → k.state = 3 → onto { k with state := 1, cur := a, tail := a })) ∧
  (∀ i x len s h, UniIssue i s Rows.marm x len h false →
    let q := fetchSrcs s h Rows.marm x []
    let a := (q.1.a 0).toNat
    let arm (u : State) (at_ : Nat) := exec i s = .next (h.completed len x.s ((fetchSrcs u h Rows.marm x []).2.updGroup h.c h.b h.g
      fun g => { g with monitors := kset g.monitors (x.aux8.extractLsb' 0 2).toNat ⟨at_, x.mod6.getLsbD 0, a⟩ }))
    a % 8 = 0 →
    (x.mod6.getLsbD 0 = true → a < h.blk.kern.scratch → arm (openIssue s h) a) ∧
    (x.mod6.getLsbD 0 = false → ∀ s1 l va pa, translateLanes (openIssue s h) h false [(0, a)] = (s1, .ok [(l, va, pa)]) → arm s1 pa)) ∧
  (∀ i x len s h m, UniIssue i s Rows.mwait x len h false →
    kget h.grp.monitors (x.aux8.extractLsb' 0 2).toNat = some m →
    let q := fetchSrcs s h Rows.mwait x []
    (rangeLocked s h.c h.b m.spad m.va 8 false = true → trapsWith i s h 0x05 (BitVec.ofNat 64 m.va) h.ent.pc) ∧
    ∀ s1 w, rangeLocked s h.c h.b m.spad m.va 8 false = false → monRead (openIssue q.2 h) h.c h.b h.ten m = (s1, some w) →
      (∀ u, monHit w (q.1.a 0) = true →
        dstUni (monAcquire s1 h m (x.aux8.extractLsb' 4 4) w) h Rows.mwait x (BitVec.ofNat 64 w) = (u, true) →
        (x.dcl = true → vqStuck u h.c x.d.toNat = false) → exec i s = .next (h.completed len x.s u)) ∧
      (monHit w (q.1.a 0) = false → exec i s = .next (h.departed x.s (waitAt
        (if x.dcl then reservePush s1 h.c x.d.toNat 2 else s1) h (.mon (x.aux8.extractLsb' 0 2).toNat m (q.1.a 0)
        (x.aux8.extractLsb' 4 4) x.dcl x.d.toNat (h.ent.pc.plus len))))))) ∧
  (∀ (w v : W64), monHit w.toNat v = true ↔ (w - v).toNat < 2 ^ 63 ∨ w = BitVec.allOnes 64)

/-- R138, R142-R145, R284-R286: CHCFG writes an entry that is not in use; CHSTAT sends its word; VQSEND enqueues a checked command;
IDMB and IDME open and close an idempotent region. -/
def Obligations.ChannelOperations : Prop :=
    (∀ i x len s h, UniIssue i s Rows.chcfg x len h false →
    let q := fetchSrcs s h Rows.chcfg x []
    let n := (x.aux8.extractLsb' 0 6).toNat
    kget (s.core h.c).chans n = none → chanWordOk s h.ten h.blk.kern.scratch (q.1.a 0) = true →
    exec i s = .next (h.completed len x.s (configChan (openIssue q.2 h) h.c h.b n (q.1.a 0)))) ∧
  (∀ i x len s h, UniIssue i s Rows.chstat x len h false →
    exec i s = .next (h.completed len x.s (pendUni (openIssue s h) h Rows.chstat x
      (chanStatus (s.core h.c) h.b (x.aux8.extractLsb' 0 6).toNat) 0))) ∧
  (∀ i x len s h, UniIssue i s Rows.vqsend x len h false → cmdOk (octet h x) = true → 16 ≤ (s.core h.c).vqFree →
    lockRoom (s.core h.c) (octet h x) = true →
    exec i s = .next (h.completed len x.s (enqueueCmd (openIssue s h) h.c h.b h.g h.ten (octet h x)))) ∧
  (∀ i x len s h, UniIssue i s Rows.idmb x len h false → (s.ten h.blk.tenant).pstat ≠ 1 →
    exec i s = .next (s.updGroup h.c h.b h.g fun _ => h.advanced len x.s { h.counted with
      restart := some ⟨h.ent.pc.plus len, h.ent.prio, h.ent.mask, (List.range 7).map fun j => h.grp.rs h.tick (j + 1)⟩ })) ∧
  (∀ i x len s h, UniIssue i s Rows.idme x len h false →
    exec i s = .next (s.updGroup h.c h.b h.g fun _ => h.advanced len x.s { h.counted with restart := none }))

/-- R290, R300, R308, R309, R311: TSET, RWPERM, TNOP and TLOOP act on the stream's own state and go on; TLOOP goes back while its
count is above one. -/
def Obligations.StreamOperations : Prop :=
    (∀ i x len s c b k t, TileIssue i s Rows.tset x len c b k t → x.s = false →
    exec i s = .next (s.updTile c b fun _ => { t with x := zset t.x x.d.toNat (xB t x), pc := t.pc.plus len })) ∧
  (∀ i x len s c b k t, TileIssue i s Rows.rwperm x len c b k t → x.s = false →
    exec i s = .next (s.updTile c b fun _ => { t with order := x.aux8.getLsbD 0, round := x.aux8.getLsbD 1, pc := t.pc.plus len })) ∧
  (∀ i x len s c b k t, TileIssue i s Rows.tnop x len c b k t → x.s = false →
    exec i s = .next (s.updTile c b fun _ => { t with pc := t.pc.plus len })) ∧
  (∀ i x len s c b k t, TileIssue i s Rows.tloop x len c b k t → x.s = false →
    let n := zget t.x x.a.toNat
    let onto : Int := t.pc.off + (x.lit.getD 0).toInt
    (n = 0 → exec i s = .next (s.updTile c b fun _ => { t with pc := t.pc.plus len })) ∧
    (n = 1 → exec i s = .next (s.updTile c b fun _ => { t with x := zset t.x x.a.toNat 0, pc := t.pc.plus len })) ∧
    (n ≠ 0 → n ≠ 1 → (x.lit.getD 0).toInt % 4 = 0 → 0 ≤ onto → onto < 16384 →
      exec i s = .next (s.updTile c b fun _ => { t with x := zset t.x x.a.toNat (n - 1), pc := ⟨t.pc.seg, onto.toNat⟩ })))

/-- R325-R328: an instruction of the window enters it with its x values captured, and rules are matched; with S set it is not
matched and issues at once, after the pending ones. -/
def Obligations.WindowEntry : Prop :=
    ∀ r ∈ [Rows.tdesc, Rows.tzero, Rows.tldacc, Rows.tmma, Rows.tmmab, Rows.tscale, Rows.ttrans, Rows.tadd, Rows.tcvt, Rows.tstore],
    (∀ i x len s c b k t, TileIssue i s r x len c b k t → x.s = false → windowOps t < 8 →
      needsFlush k t ((entering t r.xop x false).ops.headD ⟨t.pc, 0, x, 0, 0, 0⟩) = false →
      let u := { t with window := t.window ++ [entering t r.xop x false] }
      exec i s = .next (s.updTile c b fun _ => { u with window := matchWindow k u, pc := t.pc.plus len })) ∧
    (∀ i x len s c b k t v, TileIssue i s r x len c b k t → x.s = true → t.window = [] → k.draining = false →
      let f := s.updTile c b fun _ => { t with rules := rulesOf s k.tenant }
      issueOldest (f.updTile c b fun t => { t with window := [entering t r.xop x true] }) c b = .ok v →
      exec i s = .next (tileOn v c b len t.pc))

/-- R291, R301, R305: TZERO clears the 4,096 elements of its accumulator and its flags; TTRANS transposes; TADD of integers adds
modulo 2^32, and the FP32 forms and conversions take each element's result. -/
def Obligations.TileElements : Prop :=
    ∀ (t : Tile) (o : TileOp), o.x.d.toNat < 8 → let d := o.x.d.toNat
    let e (n : Nat) := ((t.accOf o.x.a.toNat).getD n 0).toNat
    let is (n : Nat) (v : W32) := ((elementwise t o).1.accOf d).getD n 0 = v
    ∀ n < 4096,
      (o.xop = opTzero → is n 0 ∧ zget (elementwise t o).1.flags d = 0) ∧
      (o.xop = opTtrans → is n ((t.accOf o.x.a.toNat).getD (n % 64 * 64 + n / 64) 0)) ∧
      (o.xop = opTadd → o.x.ty ≠ tyF32 → is n ((t.accOf o.x.a.toNat).getD n 0 + (t.accOf o.x.b.toNat).getD n 0)) ∧
      (o.xop = opTadd → o.x.ty = tyF32 →
        is n (BitVec.ofNat 32 (fpAdd tyF32 o.x.rm (e n) ((t.accOf o.x.b.toNat).getD n 0).toNat).1)) ∧
      (o.xop = opTscale → is n (BitVec.ofNat 32 (fpMul tyF32 o.x.rm (e n) (o.vb.extractLsb' 0 32).toNat).1)) ∧
      (o.xop = opTcvt → is n (BitVec.ofNat 32
        (convert (if o.x.ty == tyS8 then tyS32 else tyF32) o.x.ty o.x.rm o.x.sat (e n)).1))

/-- R99, R292, R307-R310, R312-R314: the flush points with nothing pending: TFENCE goes on, TBAR arrives as the stream's member and
waits for its generation, TEND and TEXIT end the stream, TSAVE writes its image and TRSTR takes one back. -/
def Obligations.FlushPoints : Prop :=
    ∀ i r x len s c b k t, TileIssue i s r x len c b k t → x.s = false → t.window = [] → k.draining = false →
    let f := s.updTile c b fun _ => { t with rules := rulesOf s k.tenant }
    (r = Rows.tfence → exec i s = .next (tileOn f c b len t.pc)) ∧
    (r = Rows.tend → exec i s = .next (endTile f c b)) ∧
    (r = Rows.texit → exec i s = .next (endTile s c b)) ∧
    (r = Rows.tbar → let n := (x.aux8.extractLsb' 0 4).toNat
      let gen := (getBar s k 0 1 n).gen
      let u := memberArrive f c b 0 1 n 64
      ∀ k', u.block c b = some k' →
        (barDone (getBar u k' 0 1 n).gen gen = true → exec i s = .next (tileOn u c b len t.pc)) ∧
        (barDone (getBar u k' 0 1 n).gen gen = false →
          exec i s = .next (tileOn (u.updTile c b fun t => { t with bar := some (n, gen) }) c b len t.pc))) ∧
    (r = Rows.tsave → saveAddrOk (zget t.x x.a.toNat) = true →
      let t' := { t with rules := rulesOf s k.tenant }
      ∀ u, writeImage f c b { k with tile := some t' } { t' with pc := t.pc.plus len } (zget t.x x.a.toNat).toNat = .done u →
      exec i s = .next (tileOn u c b len t.pc)) ∧
    (r = Rows.trstr → saveAddrOk (zget t.x x.a.toNat) = true →
      ∀ u y, readImage f c { k with tile := some { t with rules := rulesOf s k.tenant } } t.pc.seg (zget t.x x.a.toNat).toNat =
          (.done u, some y) →
      exec i s = .next (u.updTile c b fun z => { y with rules := z.rules, ready := true }))

/-- R19, R21, R323, R324: a wait count of 4,096 promotes its entry; entries that all wait in RECONV, none of which can proceed,
go on unmerged; 4,096 instructions without a switch point force one; with no room for a group that is ready outside the register
file the resident group parked longest leaves it, and where there is room the group that became ready first comes back. Each step
answers its next state, and changes nothing where its condition does not hold (log 17, the model's choice). Which group is ready
outside the file is noted at the beginning of a step (log 90, the model's choice). -/
def Obligations.GroupSchedulingSteps : Prop :=
  (∀ s c b g x, s.group c b g = some x → exec (.entryPromotion c b g) s = .next (s.updGroup c b g fun _ => { x with
    frontier := x.frontier.map fun e => if e.wait = none ∧ 4096 ≤ e.count then { e with promoted := true } else e })) ∧
  (∀ s c b g k x (onto : Entry → Pc × Lanes), s.block c b = some k → kget k.groups g = some x → x.frontier ≠ [] →
    (∀ e ∈ x.frontier, e.wait = some (.reconv (onto e).2 (onto e).1) ∧ (onto e).2 &&& x.live k.kern.width &&& ~~~e.mask ≠ 0 ∧ e.mask ≠ 0) →
    (x.frontier.map fun e => (onto e).1).Nodup →
    exec (.reconvDeadlockRelease c b g) s = .next (s.updGroup c b g fun _ => { x with
      frontier := x.frontier.map fun e => { e with pc := (onto e).1, wait := none } })) ∧
  (∀ s c b g x, s.group c b g = some x → 4096 ≤ x.sinceSwitch →
    exec (.forcedSwitch c b g) s = .next (s.updGroup c b g fun _ => { x with forced := true })) ∧
  (∀ s c b g x, s.group c b g = some x → x.resident = true → x.frontier ≠ [] → x.parked ≠ none →
    (∃ p ∈ partition s c (g % 4), p.2.2.resident = false ∧ p.2.2.ended = false ∧ p.2.2.ready ≠ none) → fileRoom s c b g = false →
    (∀ p ∈ partition s c (g % 4), p.2.2.resident = true → p.2.2.ended = false → p.2.2.parked ≠ none →
      x.parked.getD s.tick ≤ p.2.2.parked.getD s.tick) →
    exec (.groupDemotion c b g) s = .next (s.updGroup c b g fun _ => { x with resident := false, ready := none })) ∧
  (∀ s c b g x n, s.group c b g = some x → x.resident = false → x.frontier ≠ [] → x.ready = some n → fileRoom s c b g = true →
    (∀ p ∈ partition s c (g % 4), p.2.2.resident = false → p.2.2.ended = false → ∀ m, p.2.2.ready = some m → n ≤ m) →
    exec (.groupRecall c b g) s = .next (s.updGroup c b g fun _ => { x with resident := true, ready := none })) ∧
  (∀ s c b g x, s.group c b g = some x →
    ((∀ e ∈ x.frontier, e.wait ≠ none ∨ e.count < 4096) → exec (.entryPromotion c b g) s = .next (s.updGroup c b g fun _ => x)) ∧
    (x.sinceSwitch < 4096 → exec (.forcedSwitch c b g) s = .next (s.updGroup c b g fun _ => x)) ∧
    (x.parked = none ∨ fileRoom s c b g = true ∨ (∀ p ∈ partition s c (g % 4), p.2.2.ready = none) →
      exec (.groupDemotion c b g) s = .next s) ∧
    (x.ready = none ∨ fileRoom s c b g = false → exec (.groupRecall c b g) s = .next s) ∧
    ((∃ e ∈ x.frontier, e.wait = none) → exec (.reconvDeadlockRelease c b g) s = .next s)) ∧
  (∀ (x : Group) n ready,
    ((x.noted n ready).parked = if x.resident = true ∧ x.ended = false ∧ x.idle = true ∧ ready = false then some (x.parked.getD n) else none) ∧
    ((x.noted n ready).ready = if ready = true ∧ x.resident = false then some (x.ready.getD n) else none) ∧
    (∀ e, selectEntry x = some e → (x.noted n ready).sinceSwitch = x.sinceSwitch ∧ (x.noted n ready).forced = x.forced))

/-- R52, R140, R162, R223, R224, R228, R254, R255, R260, R279, R319: results of class V, of the scoreboard and of special functions reach
their registers or channel and raise their flags; a trap that is due is delivered, and a pending PREEMPT enters the handler at a switch
point; an error in a group's registers leaves one register unspecified and HOLDECC pending. The model's choice: a PREEMPT entry sets
%xmask to the live lanes (log 16), and HOLD_ECC_ERROR names its register by a key (log 92). -/
def Obligations.ResultsReturn : Prop :=
  ((∀ s c b g k x i d f ls (val : Nat → W64), s.block c b = some k → kget k.groups g = some x →
    kget x.pend i = some ⟨.vec d false (ls.map fun l => (l, val l)), f⟩ → ls.Nodup → (∀ l ∈ ls, l < 64) →
    ∃ v, exec (.variableLatencyReturn c b g i) s = .next (raiseFlags
        (returned s (s.updGroup c b g fun _ => { x with pend := kdel x.pend i, v := v }) c b g i k) c b g k.tenant f) ∧
      vecWritten x.v v false d ls val) ∧
  (∀ s c b g k x i d f v, s.block c b = some k → kget k.groups g = some x → kget x.pend i = some ⟨.uni d v, f⟩ →
    exec (.variableLatencyReturn c b g i) s = .next (raiseFlags
      (returned s (s.updGroup c b g fun _ => { x with pend := kdel x.pend i, s := zset x.s d v }) c b g i k) c b g k.tenant f)) ∧
  (∀ s c b g k x i ch ws f u, s.block c b = some k → kget k.groups g = some x → kget x.pend i = some ⟨.push ch ws, f⟩ →
    pushWords (s.updGroup c b g fun _ => { x with pend := kdel x.pend i }) c b g k.tenant ch ws = (u, true) → vqStuck u c ch = false →
    exec (.variableLatencyReturn c b g i) s = .next (raiseFlags (returned s u c b g i k) c b g k.tenant f))) ∧
  ((∀ s c b g x i d v, s.group c b g = some x → x.board.find? (fun k => k.id == i) = some ⟨i, .uni d v, 0, none⟩ → x.uniIdle d →
    exec (.scoreboardReturn c b g i) s = .next (s.updGroup c b g fun _ =>
      { x with board := x.board.filter fun j => j.id != i, s := zset x.s d v })) ∧
  (∀ s c b g x i d pair fault ls (val : Nat → W64), s.group c b g = some x →
    x.board.find? (fun k => k.id == i) = some ⟨i, .vec d pair (ls.map fun l => (l, val l)), 0, fault⟩ → ls.Nodup → (∀ l ∈ ls, l < 64) →
    (∀ l, x.coming d l = [] ∧ (pair = true → x.coming (d + 1) l = [])) →
    ∃ v, exec (.scoreboardReturn c b g i) s = .next (s.updGroup c b g fun _ => { x with
        board := x.board.filter fun j => j.id != i
        v := v
        late := x.late ++ (match fault with
          | some (l, a) => [⟨⟨0x0A, a⟩, none, some l, x.handler.isSome⟩]
          | none => []) }) ∧
      vecWritten x.v v pair d ls val)) ∧
  (∀ s c b g k x i d f ls (val : Nat → W32) order, s.block c b = some k → kget k.groups g = some x →
    kget x.tokens i = some ⟨d, ls.map fun l => (l, val l), f, order⟩ → (∀ t ∈ queueTokens s c g x.slot, order ≤ t.order) →
    ls.Nodup → (∀ l ∈ ls, l < 64) →
    ∃ v, exec (.tokenComplete c b g i) s = .next (raiseFlags
        (s.updGroup c b g fun _ => { x with tokens := kdel x.tokens i, v := v }) c b g k.tenant f) ∧
      vecWritten x.v v false d ls (fun l => (val l).zeroExtend 64)) ∧
  ((∀ s c b g k x e (l : Late) target, s.block c b = some k → kget k.groups g = some x → x.frontier ≠ [] → dueTrap x = some (e, l) →
    x.mayEnter = true → x.handler = none → k.kern.trap = some target →
    let h : Here := { c := c, b := b, g := g, blk := k, ent := e, tick := s.tick
                      grp := { x with late := x.late.filter fun m => m != l, park := none } }
    exec (.trapDelivery c b g) s =
      .next (s.updGroup c b g fun _ => h.trapped target l.trap.code.toNat l.trap.info (l.xpc.getD e.pc))) ∧
  (∀ s c b g k x target, s.block c b = some k → kget k.groups g = some x → x.frontier ≠ [] → dueTrap x = none → x.mayEnter = true →
    x.preempt = true → x.park = some .switchPoint → x.handler = none → k.draining = false → k.kern.trap = some target →
    ∃ u y, exec (.trapDelivery c b g) s = .next u ∧ u.group c b g = some y ∧
      y.handler = some { saved := x.frontier, trapped := none, resumed := false } ∧
      y.frontier = [{ pc := target, prio := 0x3FFF, mask := x.live k.kern.width, count := 0, promoted := false, demoted := false, wait := none }] ∧
      y.xmask = x.live k.kern.width ∧ y.xcode = 0x20 ∧ y.xpc = x.xpc ∧ y.xprio = x.xprio ∧ y.preempt = false)) ∧
  (∀ s c b g key x, s.group c b g = some x →
    ∃ v, exec (.holdEccError c b g key) s = .next ((s.countErr (coreDomain c) fun e => { e with ueReg := satAdd 16 e.ueReg }).updGroup
        c b g fun _ => { x with v := v, late := x.late ++ [⟨⟨0x0C, 0⟩, none, none, x.handler.isSome⟩] }) ∧
      ∀ k, k ≠ key % 16384 → zget v k = zget x.v k)

/-- R101, R105, R106, R129, R307: waiters of a completed generation go on with status 0; a monitor whose word has reached its value lets
its waiter go on with the word; a node of the AND-tree reports upward, and the apex releases the generation. The model's choice (log 73):
a waiter released by a scratchpad word empties the core's L1. -/
def Obligations.BarrierAndMonitorSteps : Prop :=
  ((∀ s c b g k x e lvl n gen d next st, s.block c b = some k → k.groups = [(g, x)] → k.tile = none → x.frontier = [e] → e.mask ≠ 0 →
    e.wait = some (.bar lvl n gen false d next st) → barDone (getBar s k g lvl n).gen gen = true → x.uniIdle d →
    exec (.barrierRelease c b lvl n) s = .next ((barAcquire s c k.tenant lvl).updGroup c b g fun _ => { x with
      s := zset x.s d 0, frontier := [{ e with pc := next, wait := none }] })) ∧
  (∀ s c b k t n gen, s.block c b = some k → k.tile = some t → t.bar = some (n, gen) → (∀ p ∈ k.groups, ∀ e ∈ p.2.frontier, e.wait = none) →
    barDone (getBar s k 0 1 n).gen gen = true →
    exec (.barrierRelease c b 1 n) s = .next (s.updTile c b fun _ => { t with bar := none }))) ∧
  (∀ c b g m, ∀ i ∈ [Instr.monitorWake c b g m, Instr.monitorPoll c b g m], ∀ s k x e on v scope d next, s.block c b = some k →
    kget k.groups g = some x → x.frontier = [e] → e.mask ≠ 0 → e.wait = some (.mon m on v scope false d next) → x.uniIdle d →
    (on.spad = true → let w := k.scratchNat on.addr 8
      monHit w v = true → w ≠ 2 ^ 64 - 1 →
      exec i s = .next ((s.updCore c fun y => { y with l1 := [] }).updGroup c b g fun _ => { x with
        s := zset x.s d (BitVec.ofNat 64 w), frontier := [{ e with pc := next, wait := none }] })) ∧
    (∀ u w y, monRead s c b k.tenant on = (u, some w) → u.group c b g = some y →
      let h : Here := { c := c, b := b, g := g, blk := k, grp := y, ent := e, tick := u.tick }
      (monHit w v = true → exec i s = .next ((monAcquire u h on scope w).updGroup c b g fun z =>
        z.proceed k.kern.width u.tick e false d (BitVec.ofNat 64 w) next)) ∧
      (monHit w v = false → exec i s = .next u))) ∧
  (∀ s t l n node p i, treeParent s node = some (p, i) → node < treeApex s t → (node < 0x10000 → leafArrived s t l n node = true) →
    (0x10000 ≤ node → ∃ y, treeSlot s t l node = some y ∧ slotFull y n = true) →
    let up (y : TreeSlot) : TreeSlot := { y with reports := zset y.reports n (zget y.reports n ||| (childBit i &&& y.part)) }
    exec (.andTreeArrival t l n node) s =
      .next { s with tree := s.tree.map fun y => if y.node = p ∧ y.tenant = t ∧ y.launch = l then up y else y }) ∧
  (∀ s t l n y, s.launch t l = some y → ∃ z, (completeGrid s t l n).launch t l = some z ∧
    let b := (kget y.gridBars n).getD (Bar.fresh y.grid)
    kget z.gridBars n = some { b with gen := b.gen + 1, arrived := [] }) ∧
  (∀ s t l n y z b, treeSlot s t l (treeApex s t) = some y → s.launch t l = some z → kget z.gridBars n = some b → b.arrived ≠ [] →
    slotFull y n = true → apexCount z n = z.grid →
    let u := treeSync (completeGrid s t l n) t l
    let anew (y : TreeSlot) : TreeSlot := { y with reports := kdel y.reports n }
    exec (.andTreeRelease t l n) s =
      .next { u with tree := u.tree.map fun y => if y.tenant = t ∧ y.launch = l then anew y else y })

/-- R52, R69, R109, R210, R216, R327, R413: a fetched segment lands, a deferred fetch starts, the oldest pending tile instruction issues;
a block whose storage is damaged is relaunched at most twice where its kernel is idempotent, and else fails its launch; a core that fails
loses its blocks, its kept blocks wait, its peers' entries break, the tenant is told, and the number is remapped once no arrival of the
core stands. The model's choice: the remap in a later step (log 100), the slot that an entry stays in (log 169), the LAUNCH that
CORERETIRED names (log 139), the bound over all relaunches of a block (log 99), and what becomes of its standing arrivals (log 93). -/
def Obligations.CodeAndCoreSteps : Prop :=
  (∀ s c i w seg t im ws, kget (s.core c).slots i = some w → w.state = slotFetching → w.pending = some seg →
    (s.core c).code = some (t, im) → segmentOf s im seg = some ws →
    let full : Slot := { state := slotLoaded, seg := seg, words := ws, starts := startBits 0 ws, pending := none }
    exec (.segmentFetchComplete c i) s = .next (s.updCore c fun k => { k.stay seg i with slots := kset k.slots i full })) ∧
  (∀ (k : Core) seg i e, e.slot = none → k.stayEntry seg i e = (if e.pc.seg = seg ∧ (k.slotNo seg).any (fun j => decide (i < j)) then
    { e with slot := k.slotNo seg } else e)) ∧
  (∀ s c i w, kget (s.core c).slots i = some w → w.state = slotDeferred → (s.core c).occupied i = false →
    let going : Slot := { state := slotFetching, seg := 0, words := [], starts := [], pending := w.pending }
    exec (.deferredFetchStart c i) s = .next (s.updCore c fun k => { k with slots := kset k.slots i going })) ∧
  (∀ s c b t u, s.tile c b = some t → t.ended = false → t.saved = false → t.park = none → issueOldest s c b = .ok u →
    exec (.rewriteWindowTimeout c b) s = .next u) ∧
  (∀ s c b k, s.block c b = some k →
    let u := s.countErr (coreDomain c) fun e => { e with ueSram := satAdd 16 e.ueSram }
    (k.kern.idem = true → k.relaunches < 2 → k.draining = false →
      exec (.scratchpadEccError c b) s = .next (relaunch u c b (standing u c k))) ∧
    (k.kern.idem = true → k.relaunches < 2 → k.draining = true → exec (.scratchpadEccError c b) s = .next (killBlock u c b)) ∧
    (k.kern.idem = false ∨ 2 ≤ k.relaunches → exec (.scratchpadEccError c b) s = .next (killAndFail u c b 0x40 [0, 0, 0, 0]))) ∧
  (∀ s c phys, physOf s c = some phys → failedCore s c = false →
    let u := markDead (s.updCore c fun k => { k with retired := true }) c
    exec (.coreFailure c) s = .next (postRetired (breakChannels (orphanKept (loseBlocks u c) c) c) c 1 (launchOn u c))) ∧
  (∀ s c, failedCore s c = true → theDrain s = none →
    (standsAnywhere s c = false → exec (.coreFailure c) s = .next (remapCore 16 s c).1) ∧
    (standsAnywhere s c = true → exec (.coreFailure c) s = .next s))

/-- R68, R70, R79, R84, R88, R89, R115, R117, R356, R409: a write-combining entry reaches its L2, and memory where the line's home is
there; a strong write on its way is performed at its home; a guest's miss or write is served by the directory, which notes it; a domain
that has dropped its last line of an entry reports it; the head of a home's waiting takes and gives is served, its core's copy of the line
gone before; errors are counted, clean copies dropped and fetched anew and damaged lines poisoned; the PF clears counters. The model's
choice: the first placed tenant as that of a directory request (log 91), an uncorrectable L1 error counted as corrected SRAM (log 155),
the numbers of the locations (log 92). -/
def Obligations.MemorySystemSteps : Prop :=
  ((∀ s c line ps, kget (s.core c).wc line = some ps → (∀ w ∈ (s.core c).strong, lineOf w.pa ≠ line) → noRequest s c line →
    exec (.writeCombiningDrain c line) s =
    .next (l2Write (s.updCore c fun k => { k with wc := kdel k.wc line }) (s.coreTenant c) (coreDomain c) line ps)) ∧
  (∀ s c line ps, kget (s.core c).wc line = some ps → (∀ w ∈ (s.core c).strong, lineOf w.pa ≠ line) → noRequest s c line → keysAbove 0 ps = true →
    (∀ p ∈ ps, p.1 < 128) → isPeer (lineBase line) = false →
    s.home (s.coreTenant c) (lineBase line) = coreDomain c → s.homeDown (s.coreTenant c) (lineBase line) = false →
    (∀ e g, kget (s.dom e).guest line = some g → g.dirty = 0) →
    ∃ u, exec (.writeCombiningDrain c line) s = .next u ∧ kget (u.core c).wc line = none ∧
      (∀ o < 128, zget u.mem (lineBase line + o) = (kget ps o).getD (zget s.mem (lineBase line + o))) ∧
      ∀ a, lineOf a ≠ line → s.onlyWrittenBack u a) ∧
  (∀ s c w, (s.core c).strong = [w] → (s.core c).wc = [] → w.pa % 128 + w.n ≤ 128 →
    s.homeDown w.who.tenant (lineBase (lineOf w.pa)) = false →
    (∀ e g, kget (s.dom e).guest (lineOf w.pa) = some g → g.dirty = 0) → noRequest s c (lineOf w.pa) →
    let old := homeValue s w.pa w.n
    ∃ u, exec (.writeCombiningDrain c (lineOf w.pa)) s = .next u ∧ (u.core c).strong = [] ∧
      homeValue u w.pa w.n = (match strongResult w.op w.cmp w.v old with | some v => v % 2 ^ (8 * w.n) | none => old) ∧
      (∀ a, ¬(w.pa ≤ a ∧ a < w.pa + w.n) → s.onlyWrittenBack u a) ∧
      ∀ b g l k x d p vals f, w.block = some b → w.who.thread = some (g, l) → w.ret = some k → s.group c b g = some x →
        x.board = [⟨k, .vec d p vals, 1, f⟩] →
        ∃ y, u.group c b g = some y ∧ y.board = [⟨k, .vec d p (vals.map fun q => if q.1 = l then (l, BitVec.ofNat 64 old) else q), 0, f⟩])) ∧
  ((∀ s e line t r, tenantsOf s e = t :: r → isPeer (lineBase line) = false → s.home t (lineBase line) ≠ e →
    s.homeDown t (lineBase line) = false →
    exec (.directoryRequest e line 1) s = .next (l2Write s t e line []) ∧
    (kget (s.dom e).guest line = none → exec (.directoryRequest e line 0) s = .next (guestRead s t e line))) ∧
  (∀ s e line t r, tenantsOf s e = t :: r → isPeer (lineBase line) = false → s.home t (lineBase line) ≠ e →
    s.homeDown t (lineBase line) = false → kget (s.dom e).guest line = none → e < 64 →
    let h := s.home t (lineBase line)
    objOf s h line = none → kget (s.dom h).dir (line / 32) = none → (s.dom h).dir.length < 524288 → sealedLine s line = false →
    (s.dom e).l2.length < 16 → covering s e line = [] → windowOf s line = none →
    ∀ p ∈ [(0, DirState.shared), (1, DirState.owned)], ∃ u, exec (.directoryRequest e line p.1) s = .next u ∧
      dirOf u h line = ⟨p.2, domBit e, s.tick⟩ ∧
      kget (u.dom e).guest line = some ⟨lineBytes s line, 0, (s.ten t).vni, s.poisoned line⟩)) ∧
  (∀ s e line h, dropHomes s line = [h] → let p := (dirOf s h line).present
    (isPeer (lineBase line) = false → h ≠ e → p.getLsbD e = true →
      (∀ l ∈ entryLines s h line, kget (s.dom e).guest l = none) →
      exec (.guestDropReport e line) s = .next (setDir s 0 h line (dirOf s h line).st (p &&& ~~~domBit e)))) ∧
  (∀ s line, lineBase line < hostBase → dropHomes s line = [s.home 0 (lineBase line)]) ∧
  (∀ s e line, (∀ h ∈ dropHomes s line, isPeer (lineBase line) = true ∨ h = e ∨ (dirOf s h line).present.getLsbD e = false ∨
      (∃ l ∈ entryLines s h line, (kget (s.dom e).guest l).isSome)) →
      exec (.guestDropReport e line) s = .next s) ∧
  (∀ s d r rest, (s.dom d).sbReqs = r :: rest →
    let u := (s.updDom d fun x => { x with sbReqs := rest }).updCore r.core fun k => { k with l1 := kdel k.l1 (lineOf r.pa) }
    let o := sbAtHome u (s.coreTenant r.core) r.op r.pa r.domain r.n
    exec (.stampBookHomeRequest d) s = .next (sbDeliver o.1 r o.2)) ∧
  ((∀ s c line, c < 2 ^ 14 →
    let sram := s.countErr (coreDomain c) fun e => { e with ceSram := satAdd 32 e.ceSram }
    exec (.memoryError 0 (line * 2 ^ 14 + c) 0) s = .next (sram.updCore c fun k => { k with l1 := kdel k.l1 line }) ∧
    exec (.memoryError 0 (line * 2 ^ 14 + c) 1) s = .next sram ∧ exec (.memoryError 6 c 1) s = .next sram ∧
    exec (.memoryError 2 c 0) s = .next (s.countErr (coreDomain c) fun e => { e with imemPar := satAdd 16 e.imemPar }) ∧
    exec (.memoryError 5 c 1) s = .next (s.countErr (coreDomain c) fun e => { e with ceReg := satAdd 32 e.ceReg })) ∧
  (∀ s d line g ok, d < 2 ^ 14 → kget (s.dom d).guest line = some g → g.dirty = 0 →
    let v := (s.countErr d fun e => { e with ceL2 := satAdd 32 e.ceL2 }).updDom d fun x => x.without line
    let owner := s.tenants.find? fun p => p.2.st != 0 && p.2.vni == g.vni
    (owner = none → exec (.memoryError 1 (line * 2 ^ 14 + d) ok) s = .next v) ∧
    (∀ t n, owner = some (t, n) → v.homeDown t (lineBase line) = false →
      exec (.memoryError 1 (line * 2 ^ 14 + d) ok) s = .next (guestRead v t d line))) ∧
  (∀ s d line g, d < 2 ^ 14 → kget (s.dom d).guest line = some g → g.dirty ≠ 0 →
    exec (.memoryError 1 (line * 2 ^ 14 + d) 1) s = .next (s.countErr d fun e => { e with ceL2 := satAdd 32 e.ceL2 }) ∧
    ∃ u, exec (.memoryError 1 (line * 2 ^ 14 + d) 0) s = .next u ∧ line ∈ u.poison ∧ kget (u.dom d).guest line = none) ∧
  (∀ s d line, d < 2 ^ 14 → kget (s.dom d).guest line = none → line ∈ (s.dom d).l2 →
    (line ∉ (s.dom d).hdirty →
      exec (.memoryError 1 (line * 2 ^ 14 + d) 0) s = .next (s.countErr d fun e => { e with ceL2 := satAdd 32 e.ceL2 })) ∧
    (line ∈ (s.dom d).hdirty → ∃ u, exec (.memoryError 1 (line * 2 ^ 14 + d) 0) s = .next u ∧ line ∈ u.poison ∧ u.mem = s.mem)) ∧
  (∀ level ∈ [3, 4], ∀ s line, (∃ u, exec (.memoryError level line 0) s = .next u ∧ line ∈ u.poison ∧ u.mem = s.mem) ∧
    exec (.memoryError level line 1) s =
      .next (s.countErr (s.home 0 (lineBase line)) fun e => { e with ceDram := satAdd 32 e.ceDram }))) ∧
  (∀ s d, d < s.nlive → (s.dom d).lost = false →
    let onto (w : Nat) (f : ErrBlock → ErrBlock) := exec (.errorCounterClear d w) s =
      .next (s.updDom d fun k => { k with err := { f k.err with tstamp := s.now } })
    onto 0 (fun e => { e with ceSram := 0, ceReg := 0 }) ∧ onto 1 (fun e => { e with ceDram := 0, ceL2 := 0 }) ∧
    onto 2 (fun e => { e with imemPar := 0, poison := 0, ueSram := 0, ueReg := 0 }) ∧
    onto 3 (fun e => { e with vniDrops := 0, reroutes := 0, replays := 0 }))

/-- R35, R37, R39, R41, R43, R44, R381, R399: a record at a launch ring's HEAD that may be presented is accepted, refused or parked
as its join counter says; a record that has waited 1 ms moves up a queue; at its turn the next unit of a tenant goes to its home
where that has a free core, and else to the cheapest domain, after its patience where it has one; region starts are admitted up to
LIMIT, 200 ns after the step before; a schedule set's variant takes the record's place. A unit that is sent joins the tail of the
domain's queue. The model's choice: a ring's record with a join counter is parked, refused or accepted as a SPAWN's (log 58); the list
of starts and LIMIT 0 (log 97). -/
def Obligations.DispatchSteps : Prop :=
  (∀ s t q u v w g, (s.ten t).st = 1 → q < 4 → ((s.ten t).ring q).en = true → ((s.ten t).ring q).count ≠ 0 →
    tenantWords s t (((s.ten t).ring q).slot ((s.ten t).ring q).head 64) 8 = (u, some w) → joinGate u t w = (v, g) →
    presentable v t w 0 q 0 = true →
    exec (.launchRecord t q) s = .next ((match g with
      | .accept => acceptRecord v t w 0 q 0
      | .refuse code => refuseRecord v t w code 0 q 0
      | .park pa => homeStore v t pa (bytesOf w)).updRing t q fun r => { r with head := r.head + 1 })) ∧
  (∀ s t n q r, s.ten t = n → q < 7 → n.queues = [(q, [r])] → r.since + 1000000 ≤ s.now → (∀ h ∈ n.hold, recPhase h.w ≠ n.phase) →
    ∃ v, exec (.queuePromotion t) s = .next v ∧ (v.ten t).queue q = [] ∧ (v.ten t).queue (q + 1) = [{ r with since := s.now }] ∧
      ∀ p, p ≠ q → p ≠ q + 1 → (v.ten t).queue p = []) ∧
  ((∀ s t u v, (s.ten t).st = 1 → (s.ten t).pstat = 0 → nextUnit s t = some u → ((s.ten t).counter 0 u.w.launch).st ≠ lvCancelled →
    prepareStarts s t u.w.launch = v → ∀ y, treeReady v t u.w.launch u.w.image = some y → served s t = true →
    (∀ h, u.w.home = some h → hasFree v t u.w h = true → exec (.blockDispatch t) s = .next (countServed (sendUnit y t u h) t)) ∧
    (∀ d, cheapest v t u.w = some d → (∀ x, v.launch t u.w.launch = some x → x.starts = []) →
      (u.w.home = none → exec (.blockDispatch t) s = .next (countServed (sendUnit y t u d) t)) ∧
      (∀ h f, u.w.home = some h → hasFree v t u.w h = false → u.patience ≠ 0 →
        (s.launch t u.w.launch).bind (fun x => kget x.patience u.w.first) = some f →
        (v.launch t u.w.launch).bind (fun x => kget x.patience u.w.first) = some f →
        f + u.patience * 10 ≤ s.now → exec (.patienceExpiry t u.w.launch) s = .next (countServed (sendUnit y t u d) t)))) ∧
  (∀ s t u d, ((sendUnit s t u d).dom d).queue = (s.dom d).queue ++ [u.w])) ∧
  ((∀ s t n l x r, s.tenants = [(t, n)] → n.pstat = 0 → n.launches = [(l, x)] → x.starts = [r] → regionReady s r = true →
    (∀ a, s.mod.admitAt = some a → a + 200 ≤ s.now) →
    exec .regionAdmissionStep s = .next ((s.updLaunch t l fun x => { x with admitted := x.admitted ++ [r], starts := [] }).updMod fun m =>
      { m with admitAt := some s.now })) ∧
  (∀ s a, s.mod.admitAt = some a → s.now < a + 200 → exec .regionAdmissionStep s = .next s) ∧
  (∀ s t n l x r p, s.tenants = [(t, n)] → n.pstat = 0 → n.launches = [(l, x)] → x.starts = [r, p] → r ≠ p → regionReady s r = true →
    (∀ a, s.mod.admitAt = some a → a + 200 ≤ s.now) → s.mod.pwLimit ≠ 0 →
    s.mod.pwLimit.toNat < startWeight s t l (launchTile s t l) r + startWeight s t l (launchTile s t l) p →
    exec .regionAdmissionStep s = .next ((s.updLaunch t l fun x => { x with admitted := x.admitted ++ [r], starts := [p] }).updMod fun m =>
      { m with admitAt := some s.now }))) ∧
  (∀ s t l q rs r sel u v, (s.ten t).queues = [(q, rs)] → rs.find? (fun r => r.sel.isSome && recLaunch r.w == l) = some r →
    r.sel = some sel → selectVariant s t sel = (u, .ok v) → gridSize v.grid ≠ 0 →
    exec (.scheduleSetSelection t l) s = .next (((u.updLaunch t l fun x =>
        { x with gridWord := v.grid, grid := gridSize v.grid }).updTen t fun n =>
        n.setCounter 0 l { n.counter 0 l with value := gridSize v.grid }).updTen t fun n =>
        { n with queues := kset n.queues q (((n.queue q).map fun x => if x == r then [applyVariant r v] else [x]).flatten) }))

/-- R26-R28, R38, R42, R130, R343: a placed block whose segments are loaded starts, with an acquire; the head of a domain's queue is placed
on the cores that the dispatcher picks; a complete block leaves its core. The model's choice (log 96): a unit is placed whole, its blocks start
one by one, and units of a pre-empted tenant are passed over. -/
def Obligations.BlockSteps : Prop :=
  (∀ s d c b k, (unstarted s d).find? (fun p => match s.block p.1 p.2 with
      | some k => (needSegs s k.image k.kern).all fun x => ((s.core p.1).slotOf x).isSome
      | none => false) = some (c, b) → s.block c b = some k →
    ∃ u k', exec (.blockStart d) s = .next u ∧ u.block c b = some k' ∧ k'.started = true ∧ (u.core c).l1 = [] ∧
      k'.index = k.index ∧ k'.launch = k.launch ∧ k'.nGroups = k.nGroups) ∧
  (∀ s d u c, unstarted s d = [] → (s.dom d).queue.find? (fun u => (s.ten u.tenant).pstat == 0) = some u → domainTakes s d = true →
    pickCores s d u = some [c] →
    ∃ v b k, exec (.blockStart d) s = .next v ∧ s.block c b = none ∧ v.block c b = some k ∧ k.tenant = u.tenant ∧ k.launch = u.launch ∧
      k.index = u.first ∧ k.kern = u.kern ∧ k.started = false ∧ (v.dom d).queue = (s.dom d).queue.erase u) ∧
  (∀ s c b, blockDone s c b = true → ∃ u, exec (.blockComplete c b) s = .next u ∧ u.block c b = none) ∧
  (∀ s c b k, s.block c b = some k → blockDone s c b = true → (((completeBlock s c b).ten k.tenant).counter 0 k.launch).st ≠ lvDone →
    exec (.blockComplete c b) s = .next (completeBlock s c b))

/-- R121-R136: a chain slot waits at a record that is not valid, reports one that fails its checks and takes one that passes; NOP is done
at once; COPY and REDUCE move their elements one after another, in an order that is free, each from its source to its destination; MCAST
delivers to its ranks, each element once in a free order, and they acknowledge; a complete operation writes its postmark and leaves. -/
def Obligations.CopyUnitSteps : Prop :=
  (∀ s c i n k p pa r, kget (s.core c).chains i = some n → n.state = 1 → n.fault = none → s.block c n.owner = some k →
    k.draining = false →
    engXlat s c k.tenant k.launch 2 64 [(n.cur, false)] = (p, .ok (pa :: r)) → lineReadable p k.tenant (lineOf pa) = true →
    let u := (homeRead (drainLine p c (lineOf pa)) k.tenant pa 64).1
    let v := acquireAt u none (blockWho u c k none) 2 pa
    let w := readWords v.mem pa 8
    (bit (word w 0) 63 = false → exec (.chainRecordFetch c i) s = .next (setSlot v c i { n with state := 2 })) ∧
    (bit (word w 0) 63 = true → xferOk w k.clus k.kern.scratch true = false →
      exec (.chainRecordFetch c i) s = .next (postFault (setSlot v c i { n with state := 3 }) k.tenant 3 c k.launch
        [BitVec.ofNat 64 n.cur, BitVec.ofNat 64 i, 0, 0, 0, 0])) ∧
    (∀ y q, bit (word w 0) 63 = true → xferOk w k.clus k.kern.scratch true = true →
      engXlat v c k.tenant k.launch 2 8 [(n.cur, true)] = (y, .ok q) → copyRoom (y.core c) w = true →
      let next := bits (word w 0) 0 56
      let z := homeAccess (acceptXfer y c n.owner k.tenant 0 w (some (i, n.cur))) k.tenant (lineOf pa) true
      exec (.chainRecordFetch c i) s = .next (setSlot (strongWrite z k.tenant (coreDomain c) pa 8 (bits (word w 0) 0 63)) c i
        { n with cur := next, state := if next = 0 then 0 else if n.cur = n.tail then 2 else 1 }))) ∧
  (∀ s c id op, getOp s c id = some op → op.eng = 0 → op.stage = .waiting → mayStart s c op = true →
    let u := startOp s c op
    (xOp op.w = 0 → let v := updOp u c id fun o => { o with stage := .done }
      exec (.xferNop c id) s = .next (if xPm op.w = 0 then leaveOp v c { op with stage := .done } else v)) ∧
    (xOp op.w = 3 → exec (.mcast c id) s = .next (deliverAll u c id (xCmask op.w))) ∧
    (∀ e ∈ [(Instr.copy c id, 1), (Instr.reduce c id, 2)], xOp op.w = e.2 → exec e.1 s = exec e.1 u)) ∧
  (∀ s c id op, getOp s c id = some op → op.eng = 0 → op.stage = .payload →
    (moveList op).Perm ((List.range (xElems op.w).length).zip (xElems op.w)) ∧
    ∀ e ∈ [(Instr.copy c id, 1), (Instr.reduce c id, 2)], xOp op.w = e.2 → ∀ p v, (moveList op)[op.prog]? = some p →
      moveElem s c id p.1 p.2 = (v, true) →
      exec e.1 s = .next (leaveIfBare (updOp v c id fun o =>
        if o.stage = .payload ∧ (moveList op).length ≤ o.prog then { o with stage := .done } else o) c id)) ∧
  (∀ s c id op k i e, getOp s c id = some op → s.block c op.block = some k → op.olds = [] → xOverlaps op.w = false →
    let n := xEs op.w
    let on (u : State) := moveElem s c id i e = (updOp u c id fun o => { o with prog := o.prog + 1 }, true)
    (xSsp op.w = 1 → xDsp op.w ≠ 0 →
      (xOp op.w = 1 → on (s.updBlock c op.block fun j => j.putScratch (engAddr e.2) (leBytes n (k.scratchNat (engAddr e.1) n)))) ∧
      (xOp op.w = 2 → on (s.updBlock c op.block fun j => j.putScratch (engAddr e.2) (leBytes n
        (redNew (xRop op.w) (xRtype op.w) (j.scratchNat (engAddr e.2) n) (k.scratchNat (engAddr e.1) n)))))) ∧
    (xSsp op.w ≠ 1 → xDsp op.w = 0 → xOp op.w = 1 → ∀ u src dst v x,
      engXlat s c op.tenant k.launch 2 n [(engAddr e.1, false), (engAddr e.2, true)] = (u, .ok [src, dst]) →
      engRead u op.tenant (coreDomain c) src n = (v, some x) →
      on (engWrite v c op.id op.tenant (coreDomain c) dst n x))) ∧
  (∀ s c op rank es vs k rc rb, s.block c op.block = some k →
    rankAt s k.tenant k.launch (k.index / k.clus * k.clus + rank) = .on rc rb →
    ∃ ps : List (Elem × Nat), ps.Perm (es.zip vs) ∧ deliverRank s c op rank es vs = (s.updBlock rc rb fun j =>
      (ps.foldl (fun j p => j.putScratch p.1.dst (leBytes (xEs op.w) p.2)) j).putScratch (xRpm op.w) (leBytes 8 (xVal op.w).toNat),
      true)) ∧
  (∀ s c id op rank, getOp s c id = some op → op.stage = .acks → rank ∈ op.acks →
    let left := op.acks.filter fun x => x != rank
    ((left ≠ [] ∨ op.todo ≠ []) → exec (.multicastDeliveryAck c id rank) s =
      .next (updOp (updOp s c id fun o => { o with acks := o.acks.filter fun x => x != rank }) c id fun o =>
        { o with stage := if o.todo.isEmpty && o.acks.isEmpty then .done else .acks })) ∧
    (left = [] → op.todo = [] → ∃ u, exec (.multicastDeliveryAck c id rank) s = .next u ∧
      ∀ o, getOp u c id = some o → o.stage = .done)) ∧
  (∀ s c id op, getOp s c id = some op → op.stage = .done → earlierOps (s.core c) op = [] →
    (bits (word op.w 6) 0 56 = 0 → exec (.copyOperationComplete c id) s = .next (leaveOp s c op)) ∧
    (∀ u, bits (word op.w 6) 0 56 ≠ 0 → postmark s c op (bits (word op.w 6) 0 56)
        (if op.eng = 0 then xScope op.w else cmdScope op.w) (word op.w 7) (if op.eng = 0 then 2 else 3) = (u, true) →
      exec (.copyOperationComplete c id) s = .next (leaveOp u c op)))

/-- R143-R148, R393: the oldest command of its engine, once all it touches translates in the order of its elements, moves its payload:
GATHER and SCATTERADD by the indices at AUX, TOPK and HIST over the source's elements, BLOCKQ with its scales, REQ as CVT converts, TRANS
with rows and columns exchanged. TOPK's rows are the first K of the elements in the order of values, and of equal ones of indices. -/
def Obligations.UnderSideEngineSteps : Prop :=
  ((∀ s c op rs k u pas v bs, engPieces s c op (cutAll rs) false = (u, .ok pas) →
    readPieces u c op.tenant (pas.zip ((cutAll rs).map (·.2))) = (v, .ok bs) → withBytes s c op rs k = k v bs) ∧
  (∀ s c op (ws : List (Nat × List Byte)) u pas, engPieces s c op (cutAll (ws.map fun p => (p.1, p.2.length))) true = (u, .ok pas) →
    finishCmd s c op ws = updOp (putPieces u c op (pas.zip ((cutAll (ws.map fun p => (p.1, p.2.length))).map (·.2)))
      ((ws.map (·.2)).flatten)) c op.id fun o => { o with stage := .done }) ∧
  (∀ s c op k u pas, engXlat s c op.tenant (opLaunch s c op) 3 1 ((cmdTouches s c op).map (·.2)) = (u, .ok pas) → checked s c op k = k u) ∧
  (∀ s c op k u r, engXlat s c op.tenant (opLaunch s c op) 3 1 ((cmdTouches s c op).map (·.2)) = (u, r) → (∀ pas, r ≠ .ok pas) →
    checked s c op k = engFault u c op false r) ∧
  (∀ s c op, (cmdTouches s c op).Pairwise fun x y => x.1 ≤ y.1)) ∧
  ((∀ s c id op, nextCmd s c id 1 0 = some op → let w := op.w
    exec (.gather c id) s = .next (checked s c op fun s => withBytes s c op (indexRange w) fun u ib =>
      withBytes u c op (((elemsOf 4 ib).filter fun i => i != 0xFFFFFFFF).map fun i => (srcRow w i, rowBytes w)) fun v bs =>
        let ws := ((elemsOf 4 ib).foldl (fun (st : List (List Byte) × List Byte) i =>
          if i = 0xFFFFFFFF then (st.1 ++ [List.replicate (rowBytes w) 0], st.2)
          else (st.1 ++ [st.2.take (rowBytes w)], st.2.drop (rowBytes w))) ([], bs)).1
        finishCmd v c op (((List.range (elemsOf 4 ib).length).zip ws).map fun p => (dstRow w p.1, p.2)))) ∧
  (∀ s c id op, nextCmd s c id 1 1 = some op → let w := op.w
    let size := engSize (cmdTin w)
    exec (.scatteradd c id) s = .next (checked s c op fun s => withBytes s c op (indexRange w) fun u ib =>
      withBytes u c op (srcRows w) fun v bs =>
        addAll v c op size (if cmdTin w = 0 then 4 else if cmdTin w = 1 then 5 else 0)
          (((elemsOf 4 ib).zip (matrixOf w bs)).map fun p =>
            ((List.range p.2.length).zip p.2).map fun q => (dstRow w p.1 + q.1 * size, q.2)).flatten)) ∧
  (∀ s c id op, nextCmd s c id 1 3 = some op → let w := op.w
    exec (.hist c id) s = .next (checked s c op fun s => withBytes s c op (srcRows w) fun u bs => addAll u c op 4 1
      ((elemsOf (engSize (cmdTin w)) bs).filterMap fun v =>
        if 0 ≤ intVal (engTy (cmdTin w)) v ∧ intVal (engTy (cmdTin w)) v < cmdK w
        then some (cmdDst w + 4 * (intVal (engTy (cmdTin w)) v).toNat, 1) else none)))) ∧
  ((∀ s c id op, nextCmd s c id 1 2 = some op → let w := op.w
    let t := engTy (cmdTin w)
    exec (.topk c id) s = .next (checked s c op fun s => withBytes s c op (srcRows w) fun u bs =>
      let rows := (matrixOf w bs).map fun vs => topFirst t (cmdK w) ((List.range vs.length).zip vs)
      finishCmd u c op (((List.range rows.length).zip rows).map fun p =>
        [(dstRow w p.1, elemBytes (engSize (cmdTin w)) (p.2.map fun e => canonical t e.2)),
         (cmdAux w + p.1 * 4 * cmdK w, elemBytes 4 (p.2.map (·.1)))]).flatten)) ∧
  (∀ t n (vs : List Nat), let es := (List.range vs.length).zip vs
    (topFirst t n es).length = min n vs.length ∧ (topFirst t n es).Nodup ∧ ∀ a ∈ topFirst t n es, a ∈ es ∧
      ∀ b ∈ es, b ∉ topFirst t n es → topBefore t a b = true)) ∧
  ((∀ s c id op, nextCmd s c id 2 0 = some op → let w := op.w
    let t := engTy (cmdTin w)
    exec (.blockq c id) s = .next (checked s c op fun s => withBytes s c op (srcRows w) fun u bs =>
      let rows := matrixOf w bs
      let bands := (List.range (ceilDiv rows.length 64)).map fun g =>
        bandScale (fracMax ((((rows.drop (64 * g)).take 64).flatten).map (finMag t)))
      let q (r : Nat) (vs : List Nat) := quantRow t (Config.zeroBlockCode op.id r) vs (bands.getD (r / 64) 0)
      finishCmd u c op ((((List.range rows.length).zip rows).map fun p =>
          [(dstRow w p.1, (q p.1 p.2).2), (cmdAux w + p.1 * (cmdCols w / 8), elemBytes 1 (q p.1 p.2).1)]).flatten ++
        ((List.range bands.length).zip bands).map fun p => (cmdAux w + cmdRows w * (cmdCols w / 8) + 2 * p.1, leBytes 2 p.2)))) ∧
  (∀ s c id op, nextCmd s c id 2 1 = some op → let w := op.w
    exec (.req c id) s = .next (checked s c op fun s => withBytes s c op (srcRows w) fun u bs =>
      let rows := (matrixOf w bs).map fun vs => elemBytes (engSize (cmdTout w))
        (vs.map fun v => (convert (engTy (cmdTin w)) (engTy (cmdTout w)) (cmdRm w) (cmdSat w) v).1)
      finishCmd u c op (((List.range rows.length).zip rows).map fun p => (dstRow w p.1, p.2)))) ∧
  (∀ s c id op, nextCmd s c id 2 2 = some op → let w := op.w
    exec (.trans c id) s = .next (checked s c op fun s => withBytes s c op (srcRows w) fun u bs => finishCmd u c op ((List.range (cmdCols w)).map fun k =>
      (dstRow w k, elemBytes (engSize (cmdTin w)) ((matrixOf w bs).map fun vs => vs.getD k 0))))))

/-- R132, R138, R140, R141, R149, R151, R409, R411: a channel's oldest word arrives at its peer entry, and what waited for it goes on; a
reading end's pops return as credits; a link packet is committed once, a write or a reduction, retained when its CRC is bad or it is
incomplete, and dropped and reported when its VNI is not permitted; a retained packet is sent again; a window gives its askers their
rates; a wire's failure takes a spare or halves the bundle. -/
def Obligations.ChannelAndLinkSteps : Prop :=
  ((∀ s c ch w, (s.core c).flight.find? (fun w => w.ch == ch) = some w →
    frozenTo s c ((s.core c).chan ch).owner w.dst w.dstCh = false →
    exec (.channelWordArrival c ch) s = .next ((((deliverWord s c w).core c).blocks.map (·.1)).foldl (fun s b => settleHeld s c b)
      (deliverWord s c w))) ∧
  (∀ s c w e b, c ≠ w.dst → kget (s.core w.dst).chans w.dstCh = some e → e.kind = 1 → e.peer = c → e.peerCh = w.ch → e.owner = some b →
    (s.ten (s.coreTenant w.dst)).vni = w.vni →
    ((deliverWord s c w).core c).flight = (s.core c).flight.filter (fun x => x.id != w.id) ∧
    kget ((deliverWord s c w).core w.dst).chans w.dstCh = some { e with count := e.count + 1 }) ∧
  (∀ s c ch e o, kget (s.core c).chans ch = some e → kget (s.core e.peer).chans e.peerCh = some o → e.kind = 1 → o.kind = 2 →
    o.peer = c → o.peerCh = ch →
    exec (.creditGrant c ch) s = .next ((s.updChan c ch fun e => { e with kept := 0 }).updChan e.peer e.peerCh fun o =>
      { o with credits := o.credits + e.kept, outstanding := o.outstanding - min o.outstanding e.kept, peerDepth := some e.depth }))) ∧
  ((∀ s d unit seq vni pa bs, seq ∉ (kget (s.dom d).links unit).getD [] → pa % 128 + bs.length ≤ 128 →
    let rest := ((kget (s.dom d).retained unit).getD []).filter fun p => p.head? != some seq
    let u := s.updDom d fun k => { k with links := kset k.links unit ((kget (s.dom d).links unit).getD [] ++ [seq])
                                          retained := kset k.retained unit rest }
    let receive (ok red : Nat) := exec (.linkPacketReceive d unit seq ok vni red pa bs) s
    (vni ∈ (s.dom d).vnis → receive 1 0 = .next (homeStore u ((vniTenant u vni).getD 0) pa bs) ∧
      ∀ red, red ≠ 0 → receive 1 red = .next (applyReduction u ((vniTenant u vni).getD 0) pa red bs)) ∧
    (∀ ok red, ok ≠ 1 → receive ok red = .next (s.updDom d fun k =>
      { k with retained := kset k.retained unit (rest ++ [[seq, vni, red, pa] ++ bs.map fun b => b.toNat]) })) ∧
    (∀ red, vni ∉ (s.dom d).vnis → (∀ p ∈ s.tenants, p.2.st ≠ 0 → p.2.vni ≠ vni) →
      ∃ n < 4096, receive 1 red = .next ((u.updMod fun m =>
        { m with violations := m.violations ++ [⟨2, d, vni + n * 4096⟩] }).countErr d fun e =>
          { e with vniDrops := satAdd 16 e.vniDrops }))) ∧
  (∀ s d unit seq ok vni red pa bs, seq ∈ (kget (s.dom d).links unit).getD [] →
    exec (.linkPacketReceive d unit seq ok vni red pa bs) s = .next s) ∧
  (∀ s d unit seq vni red pa bs r, (kget (s.dom d).retained unit).getD [] = ([seq, vni, red, pa] ++ bs) :: r →
    let u := s.countErr d fun e => { e with replays := satAdd 32 e.replays }
    exec (.linkReplay d unit 0) s = exec (.linkPacketReceive d unit seq 1 vni red pa (bs.map fun n => BitVec.ofNat 8 n)) u)) ∧
  (∀ s c, let onto (v : Bool) (askers rates : Nat) := (s.dom (coreDomain c)).ueFirst = v →
      exec (.verticalWindow c askers) s = .next (s.updCore c fun k =>
        { k with rates := BitVec.ofNat 6 rates, windowAsk := BitVec.ofNat 3 askers })
    onto false 7 0b111001 ∧ onto false 5 0b100001 ∧ onto false 2 0b000100 ∧ onto true 7 0b100111 ∧ onto true 6 0b100100) ∧
  (∀ s d, exec (.verticalWireFailure d 1) s = .next (s.countErr d fun e => { e with vwSpare := satAdd 8 e.vwSpare }) ∧
    exec (.verticalWireFailure d 0) s = .next (requestRepl (s.countErr d fun e => { e with vwHalf := satAdd 8 e.vwHalf }) 4))

/-- R389-R398: a walk ends with a cached translation or, where it may be replayed, with an entry of the fault table; the answer to a fault
frees its entry and lets its accesses walk again or fail; XINV_GO removes exactly the translations that it names, and XINV completes with
the tenant's stores performed, once no stamp-book operation of it is on its way; pre-emption of a tenant with no block ends at once, with
blocks it reaches each of them, kills the rest at its deadline, and RESUME restores them. The model's choice (log 106): what XINV's
completion waits for, that the stores are performed then, and the tenant that the GO named. -/
def Obligations.TranslationAndPreemptionSteps : Prop :=
  ((∀ s d t va wr a c l u pa sh w, va < 2 ^ 56 → tlbFind s d t va (decide (wr ≠ 0)) = none →
    (∀ p ∈ (s.dom d).faults, ¬(p.2.tenant = t ∧ p.2.page = va / 65536 ∧ p.2.write = decide (wr ≠ 0))) →
    walk s t va (decide (wr ≠ 0)) = (u, .ok pa sh w) →
    let n := 2 ^ (sh - 16)
    let e : TlbEntry := ⟨t, va / 65536 / n * n, n, pa / 65536 - va / 65536 % n, w⟩
    exec (.pageWalkComplete d t va wr a c l) s =
      .next (u.updDom d fun k => { k with tlb := e :: k.tlb.filter fun x => !(x.tenant == t && x.vpage == e.vpage) })) ∧
  (∀ s d t va wr a c l u cause level at_ pte, va < 2 ^ 56 → tlbFind s d t va (decide (wr ≠ 0)) = none →
    (∀ p ∈ (s.dom d).faults, ¬(p.2.tenant = t ∧ p.2.page = va / 65536 ∧ p.2.write = decide (wr ≠ 0))) →
    walk s t va (decide (wr ≠ 0)) = (u, .fail cause level at_ pte) → replayable cause = true → (u.dom d).faults.length < 1024 →
    ∃ v, exec (.pageWalkComplete d t va wr a c l) s = .next v ∧
      kget (v.dom d).faults (u.dom d).nextFid = some ⟨t, va / 65536, decide (wr ≠ 0), cause⟩)) ∧
  ((∀ s t u w f d fid, let r := (s.ten t).ring ringFQ
    r.seen ≠ r.head → kget (s.ten t).fqPosted r.seen.toNat = some (d, fid) → deviceLoad s t (r.slot r.seen 64) 8 = (u, some w) →
    let v := (u.updRing t ringFQ fun r => { r with seen := r.seen + 1 }).updTen t fun n => { n with fqPosted := kdel n.fqPosted r.seen.toNat }
    let p := postWaiting v t (v.ten t).fqWait.length
    kget (p.dom d).faults fid = some f → f.tenant = t →
    let q := p.updDom d fun k => { k with faults := kdel k.faults fid }
    exec (.faultResponse t) s = .next (if bits (word w 7) 0 2 < 2 then retryFault q d fid else failFault q d fid)) ∧
  (∀ s d fid c b g x va, s.group c b g = some x → x.park = some (.fault [(d, fid, va)]) →
    (retryFault s d fid).group c b g = some { x with park := some (.fault []) })) ∧
  ((∀ s d, (s.dom d).xinvBusy = false → ∃ u, exec (.xinvGo d) s = .next u ∧ (u.dom d).xinvBusy = true ∧
    (u.dom d).xinvFor = bits (s.dom d).xinvn 24 6 ∧ ∀ e x, x ∈ (u.dom e).tlb ↔
    x ∈ (s.dom e).tlb ∧ ¬(x.tenant = bits (s.dom d).xinvn 24 6 ∧ (bits (s.dom d).xinvn 0 24 = 0 ∨
      (x.vpage < bits (s.dom d).xinva 16 40 + bits (s.dom d).xinvn 0 24 ∧ bits (s.dom d).xinva 16 40 < x.vpage + x.npages)))) ∧
  (∀ s d, (s.dom d).xinvBusy = true →
    exec (.xinvGo d) s = .next (s.updDom d fun k => { k with xinvErr := true }) ∧
    let t := (s.dom d).xinvFor
    ((∀ p ∈ s.domains, ∀ r ∈ p.2.sbReqs, s.coreTenant r.core ≠ t) → exec (.xinvComplete d) s =
      .next ((performStores s t).updDom d fun k => { k with xinvBusy := false, xinvSeq := k.xinvSeq + 1 })) ∧
    ((∃ p ∈ s.domains, ∃ r ∈ p.2.sbReqs, s.coreTenant r.core = t) → exec (.xinvComplete d) s = .next s))) ∧
  ((∀ s, let t := bits s.mod.pctl 0 6
    let style := bits s.mod.pctl 61 2
    let can := (s.ten t).domains.length ≤ 16 ∧ (s.ten t).pctx ≠ 0
    let us := if bits s.mod.pctl 32 16 = 0 then 200 else bits s.mod.pctl 32 16
    let u (st : BitVec 2) := s.updTen t fun n => { n with pstat := 1, pstyle := st, pdeadline := s.now + 1000 * us }
    (((s.ten t).pstat ≠ 0 ∨ style = 3 ∨ (style = 1 ∧ ¬can)) →
      exec .preemptGo s = .next (s.updTen t fun n => { n with perr := true })) ∧
    ((s.ten t).pstat = 0 → style ≠ 3 → ∀ st, st = (if style = 2 ∨ ¬can then 2 else 1) → (style = 1 → can) →
      exec .preemptGo s = .next (settlePreempt ((tenantBlocks (u st) t).foldl (fun s p => preemptBlock s p.1 p.2) (u st)) t)) ∧
    ((s.ten t).pstat = 0 → style = 2 → (∀ p ∈ s.cores, ∀ q ∈ p.2.blocks, q.2.tenant ≠ t) →
      exec .preemptGo s = .next (((u 2).updTen t fun n => { n with pstat := 2 }).msix 0 0))) ∧
  (∀ s t, (s.ten t).pstat = 1 → (s.ten t).pdeadline ≤ s.now → exec (.preemptDeadline t) s =
    .next (settlePreempt ((tenantBlocks s t).foldl (fun s p => killAndFail s p.1 p.2 0x20 [0, 0, 0, 0]) s) t)) ∧
  ((∀ s t, (s.ten t).pstat ≠ 2 → (s.ten t).pstat ≠ 3 → exec (.resume t) s = .next (s.updTen t fun n => { n with perr := true })) ∧
    (∀ s t, (s.ten t).pstat = 2 → exec (.resume t) s = .next (s.updTen t fun n => { n with pstat := 3 })) ∧
    (∀ s t, (s.ten t).pstat = 3 → exec (.resume t) s =
      .next (((keptBlocks s t).foldl (fun s q => restoreBlock s q.1 q.2.1 q.2.2) s).updTen t fun n => { n with pstat := 0 })) ∧
    (∀ s c b k, k.orphan = false → contextLost s c k.tenant = false → k.held = [] → k.tile = none →
      ∃ v, restoreBlock s c b k = recheckBlock v c b ∧ v.block c b =
        some { k with groups := kmap k.groups fun _ g => resumeGroup g, scratch := [], zeros := [], epoch := s.tick })))

/-- R399-R407, R411: LIMIT never exceeds PWMAX; a droop stretches the clock of both regions of a stacked pair, and 4 µs without an alarm
end it; imbalance is balanced and then a shunt fault; the states of a pair follow R401; a lost domain is marked; operating points, time
offsets (of a domain that misses the pulse only the clock's drift, free up to 20 ns: the model's choice, log 174), edge and Courier links
and peer accesses act on what they name. The model's choice besides: a trip in DRAINING or SWITCHING trips both regions and counts for one
(log 115), ballast ends with the throttle (log 114), and the numbers of the controls (logs 126, 164). -/
def Obligations.PowerAndLinkSteps : Prop :=
  ((∀ s val, exec (.pwstepWrite val) s = .next (s.updMod fun m =>
    { m with pwLimit := if m.pwMax.toNat < val % 4096 then m.pwMax else BitVec.ofNat 12 val })) ∧
  (∀ s r, ∃ u, exec (.droopAlarm r) s = .next u ∧ (u.region r).droop = min 2 ((s.region r).droop + 1) ∧ (u.region r).lastAlarm = s.now ∧
    (u.region r).droops = satAdd 32 (s.region r).droops ∧
    (u.region (partner r)).droop = (if (s.region r).st = 0 then min 2 ((s.region r).droop + 1) else (s.region (partner r)).droop)) ∧
  (∀ s r, (s.region r).lastAlarm + 4000 ≤ s.now → ∃ u, exec (.droopRecovery r) s = .next u ∧ (u.region r).droop = 0 ∧
    (u.region (partner r)).droop = (if (s.region r).st = 0 then 0 else (s.region (partner r)).droop))) ∧
  (∀ s p, s.mod.sorterUp = false → exec (.imbalanceSample p) s = .next s) ∧
  (∀ s p, s.mod.sorterUp = true → let a := 2 * p
    let ia := Config.regionCurrent s.tick a % 65536
    let ib := Config.regionCurrent s.tick (a + 1) % 65536
    let diff := 100 * (max ia ib - min ia ib)
    ∃ u, exec (.imbalanceSample p) s = .next u ∧ (u.region a).current = ia ∧ (u.region (a + 1)).current = ib ∧
      ((s.region a).st = 0 → 12 * (ia + ib) < diff →
        ((s.region a).heavySince = none → (u.region a).heavySince = some s.now ∧ (u.region (a + 1)).heavySince = some s.now ∧
          (u.region a).st = 0) ∧
        (∀ f, (s.region a).heavySince = some f →
          (f + 50000 ≤ s.now → (u.region a).st = 1 ∧ (u.region (a + 1)).st = 1 ∧ (u.region a).toStack = false ∧
            (u.region a).shunts = satAdd 16 (s.region a).shunts) ∧
          (f + 2000 ≤ s.now → s.now < f + 50000 → (u.region a).st = 0 ∧ let light := if ia < ib then a else a + 1
            ∀ lo hi, s.mod.fwFetch = none → idleCores s light ≠ 0 → kget s.mod.limits (ctlBallast light) = some (lo, hi) → lo ≤ 1 → 1 ≤ hi →
              (u.region light).ballast = true))) ∧
      (∀ f, (s.region a).st = 0 → diff < 8 * (ia + ib) → (s.region a).lightSince = some f → f + 10000 ≤ s.now → s.mod.fwFetch = none →
        (∀ r ∈ [a, a + 1], ∀ c ∈ [ctlBallast r, ctlThrottle r], ∃ hi, kget s.mod.limits c = some (0, hi)) →
        (u.region a).ballast = false ∧ (u.region (a + 1)).ballast = false ∧ (u.region a).throttle = 0 ∧ (u.region (a + 1)).throttle = 0)) ∧
  ((∀ s r, let drain (toStack : Bool) := updPair s r fun k => { k with
        st := 1, since := s.now, toStack := toStack, ballast := false, throttle := 0, heavySince := none, throttledAt := none, lightSince := none }
    ((s.region r).st = 0 → exec (.forcefb r) s = .next (drain false)) ∧
    ((s.region r).st = 3 → (s.region (partner r)).st = 3 → exec (.restack r) s = .next (drain true))) ∧
  (∀ s r, (s.region r).st = 1 → let cs := coresIn s (s.regionDomains r ++ s.regionDomains (partner r))
    ((∀ c ∈ cs, (s.core c).blocks = []) → exec (.drainingEnd r) s = .next (updPair s r fun k => { k with st := 2, since := s.now })) ∧
    ((s.region r).since + 500000 ≤ s.now →
      exec (.drainingEnd r) s = .next (updPair (cs.foldl deadlineCore s) r fun k => { k with st := 2, since := s.now }))) ∧
  (∀ s r, (s.region r).st = 2 → (s.region r).since + 50000 ≤ s.now → exec (.switchingEnd r) s = .next (updPair s r fun k =>
    { k with st := if k.toStack then 0 else 3, since := s.now, toStack := false })) ∧
  (∀ s r, (s.region r).st ≠ 4 → (s.region r).st ≠ 5 →
    let rs := if (s.region r).st = 3 then [r] else [r, partner r]
    let u := rs.foldl (fun u x => u.updRegion x fun k => { k with
      st := 4, since := s.now, droop := 0, toStack := false, ballast := false, throttle := 0, heavySince := none
      throttledAt := none, lightSince := none, imb := 0 })
      (s.updRegion r fun k => { k with trips := satAdd 16 k.trips })
    exec (.regionTrip r) s = .next (loseDomains u ((rs.map fun x => s.regionDomains x).flatten) 1)) ∧
  (∀ s r, (s.region r).st = 4 → (s.region r).since + 100000000 ≤ s.now →
    exec (.trippedEnd r) s = .next (s.updRegion r fun k => { k with st := 5, since := s.now })) ∧
  (∀ s r, (s.region r).st = 5 → let u := s.updRegion r fun k => { k with st := 3, since := s.now }
    let v := (u.regionDomains r).foldl (fun s d => s.updDom d fun x =>
      { x with lost := false, skew := 0, err := { x.err with tstamp := s.now, frozen := none } }) u
    exec (.restartingEnd r 1) s = .next ((v.regionDomains r).foldl checkSpares (raiseTopo v)))) ∧
  ((∀ s d cause, d < s.nlive → (s.dom d).lost = false → ∃ u, exec (.domainLoss d cause) s = .next u ∧ (u.dom d).lost = true) ∧
  (∀ s d tier pt lo hi, d < s.nlive → pt ≤ 7 → tier ≤ 1 → s.mod.sorterUp = true → s.mod.fwFetch = none → kget s.mod.limits (ctlPoint d tier) = some (lo, hi) →
    (lo ≤ pt → pt ≤ hi → exec (.operatingPointChange d tier pt) s = .next (s.updDom d fun x =>
      if tier = 0 then { x with cpt := BitVec.ofNat 8 pt } else { x with bpt := BitVec.ofNat 8 pt })) ∧
    (pt < lo ∨ hi < pt → exec (.operatingPointChange d tier pt) s = .next (s.updMod fun m =>
      { m with violations := m.violations ++ [⟨1, ctlPoint d tier, pt⟩], refusals := m.refusals + 1 }))) ∧
  (∀ s, s.now < s.mod.lastPulse + 1000000 → exec .timeReferencePulse s = .next s) ∧
  (∀ s, s.mod.lastPulse + 1000000 ≤ s.now → ∃ u, exec .timeReferencePulse s = .next u ∧ u.mod.lastPulse = s.now ∧ ∀ d < s.nlive, s.domDown d = false →
    if Config.pulseMissed (s.tick * 64 + d) then ∃ k : Nat, k ≤ 20 * ((s.now - s.mod.lastPulse) / 1000000) ∧ u.dom d = { s.dom d with skew := (s.dom d).skew + k }
    else ∃ k : Nat, k ≤ 8 ∧ u.dom d = { s.dom d with timeoff := BitVec.ofInt 64 ((s.dom d).skew + k - 4) })) ∧
  ((∀ s p dev home cap, s.cxlPort p = (true, dev, home, cap) →
    exec (.cxlLinkDown p) s = .next (requestRepl (raiseTopo (dropCopies (s.updMod fun m => { m with cxl := kset m.cxl p (false, dev, home, cap) })
      fun pa => decide (edgeBase ≤ pa) && decide (pa < hostBase) && edgePort pa == p)) 5)) ∧
  (∀ s port, (∃ q ∈ s.mod.peers, q.2.2.1 = true ∧ q.2.2.2.2.getLsbD port = true) →
    let mask : W32 := ~~~BitVec.ofNat 32 (2 ^ port)
    let u := s.updMod fun m => { m with peers := kmap m.peers fun _ q =>
      (q.1, q.2.1, q.2.2.1 && (q.2.2.2 &&& mask) != 0, q.2.2.2 &&& mask) }
    ∃ lost : Nat → Bool, (∀ m, lost m = true ↔ ∃ q ∈ s.mod.peers, q.1 = m ∧ q.2.2.1 = true ∧ q.2.2.2.2.getLsbD port = true ∧
        (q.2.2.2.1 && (q.2.2.2.2 &&& mask) != 0) = false) ∧
      exec (.courierLinkDown port) s = .next (requestRepl (tearOps u (tornOps u [] fun pa => isPeer pa && lost (peerOf pa))) 5)) ∧
  (∀ s m vni pa size val t n, Config.peerAdmits vni m = true → isDomainMem s pa = true → s.homeDown 0 pa = false →
    s.tenants.find? (fun p => p.2.st != 0 && p.2.vni == vni) = some (t, n) →
    exec (.peerAccess m vni pa size 1 val) s = .next (homeStore s t pa (leBytes size val)) ∧
    (size ≠ 0 → exec (.peerAccess m vni pa size 0 val) s = .next (homeRead s t pa size).1)))

/-- R11, R364-R370, R375-R381, R396, R411: register writes by what lies at the offset; TAIL only forward and within the ring; host
accesses through a BAR2 window; boot from a verified image to READY, or waiting for one in the mailbox; the Sorter's heartbeat, its loss,
its controls within their limits and the refresh of the figures; the reset of a tenant, by command or by its function. The model's choice:
a payload is cut at 4 KiB (log 129), a reset is one step (log 122), the numbers of the Sorter's controls and of the functions (logs 126,
164). -/
def Obligations.HostSteps : Prop :=
  ((∀ s t v, t < 64 → exec (.registerWrite 0 (t * 0x1000 + 0x010) v) s = .next (raiseTopo (s.updTen t fun n =>
      { n with wd := (BitVec.ofNat 64 v).extractLsb' 0 16, wq := (BitVec.ofNat 64 v).extractLsb' 16 16 })) ∧
    exec (.registerWrite 0 (t * 0x1000 + 0x308) v) s = .next (s.updTen t fun n =>
      { n with esum := n.esum &&& ~~~(BitVec.ofNat 64 v).extractLsb' 0 7 }) ∧
    exec (.registerWrite 0 0x40008 v) s = .next (s.updMod fun m => { m with apbase := bits (BitVec.ofNat 64 v) 36 20 * 2 ^ 36 }) ∧
    (0 < s.nlive → exec (.registerWrite 0 0x40C008 v) s = .next (writeLimit s v))) ∧
  (∀ s vf t v, vfTenant s vf = some t → t < 64 → vf < 64 →
    exec (.registerWrite (vf + 1) 0x010 v) s = exec (.registerWrite 0 (t * 0x1000 + 0x010) v) s) ∧
  (∀ s d o v, d < 64 → o < 65536 → controlBlock o = false → exec (.registerWrite 0 (0x400000 + d * 65536 + o) v) s =
    .next (s.updMod fun m => { m with violations := m.violations ++ [⟨3, d * 65536 + o, v⟩] }))) ∧
  (∀ s t q v, t < 64 → q < 5 → (s.ten t).st = 1 → let r := (s.ten t).ring q
    let by_ : W32 := BitVec.ofNat 32 v - r.head
    let onto (r' : Ring) := exec (.ringTailWrite 0 (t * 0x1000 + 0x100 + 32 * q + 16) v) s = .next (s.updRing t q fun _ => r')
    (by_.toNat ≤ r.size → r.count ≤ by_.toNat → onto { r with tail := BitVec.ofNat 32 v }) ∧
    (r.size < by_.toNat ∨ by_.toNat < r.count → onto { r with err := true })) ∧
  ((∀ s addr bs, let pa := s.mod.apbase + addr % 2 ^ 36
    s.memoryAt pa = true → s.homeDown 0 pa = false → bs ≠ [] →
    exec (.hostBar2Access 0 addr bs) s = .next ((homeStore s 0 pa (bs.take (4096 - addr % 2 ^ 36 % 4096))).complete (some []))) ∧
  (∀ s vf t u pa addr bs, vfTenant s vf = some t → bs ≠ [] → hostXlat s t ((s.ten t).apbase + addr % 2 ^ 36) true = (u, some pa) →
    sealed u t ((s.ten t).apbase + addr % 2 ^ 36) (bs.take (4096 - addr % 2 ^ 36 % 4096)).length = false →
    u.memoryAt pa = true → u.homeDown t pa = false → vf < 64 →
    exec (.hostBar2Access (vf + 1) addr bs) s = .next ((homeStore u t pa (bs.take (4096 - addr % 2 ^ 36 % 4096))).complete (some []))) ∧
  (∀ s vf t u addr bs, vf < 64 → vfTenant s vf = some t → hostXlat s t ((s.ten t).apbase + addr % 2 ^ 36)
      (!(bs.take (4096 - addr % 2 ^ 36 % 4096)).isEmpty) = (u, none) →
    exec (.hostBar2Access (vf + 1) addr bs) s = .next (u.complete none))) ∧
  ((∀ s image sorter, s.mod.bootStep = 0 → let u := s.updMod fun m => { m with bootStep := 1, flash := image, sorter := sorter }
    (imageOk s.mod.svnMin 1 image = true → exec (.powerOnBoot image sorter) s = .next (bootFrom u image sorter)) ∧
    (imageOk s.mod.svnMin 1 image = false →
      (∀ im, s.mod.mailbox = some im → imageOk s.mod.svnMin 1 im = true → exec (.powerOnBoot image sorter) s = .next (bootFrom u im sorter)) ∧
      ((∀ im, s.mod.mailbox = some im → imageOk s.mod.svnMin 1 im = false) →
        exec (.powerOnBoot image sorter) s = .next (u.updMod fun m => { m with bootErr := 2 })))) ∧
  (∀ s image sorter,
    let started (m : Module) : Module := { m with running := image, pmSvn := imageSvn image, mailbox := none, bootErr := 0, bootStep := 3 }
    let u := remapAll (s.updMod fun m => selfTest (started m))
    let v := trainAll (u.updMod fun m => { m with bootStep := 5 })
    (u.nlive < 62 ∨ advertised u < 8192 → bootFrom s image sorter = bootShort u) ∧
    (62 ≤ u.nlive → 8192 ≤ advertised u → (v.nlive < 62 ∨ advertised v < 8192) → bootFrom s image sorter = bootShort v) ∧
    (62 ≤ u.nlive → 8192 ≤ advertised u → 62 ≤ v.nlive → 8192 ≤ advertised v → imageOk v.mod.svnMin 2 sorter = true →
      (bootFrom s image sorter).mod.ready = true ∧ (bootFrom s image sorter).mod.bootStep = 10 ∧
      (bootFrom s image sorter).mod.fieldOf = v.mod.fieldOf ∧ (bootFrom s image sorter).mod.running = image)) ∧
  (∀ s image, (s.mod.bootStep = 1 → s.mod.bootErr = 2 → imageOk s.mod.svnMin 1 image = true →
      exec (.hostMailboxImage image) s = .next (bootFrom s image s.mod.sorter)) ∧
    (s.mod.bootStep ≠ 1 → exec (.hostMailboxImage image) s = .next (s.updMod fun m => { m with mailbox := some image })))) ∧
  ((∀ s, let beat (m : Module) : Module := { m with beats := m.beats + 1, lastBeat := s.now, sorterUp := true }
    (s.mod.beats ≠ 99 → exec .sorterHeartbeat s = .next (s.updMod beat)) ∧
    (s.mod.beats = 99 → exec .sorterHeartbeat s = .next (s.updMod fun m => raiseSvn (beat m) m.sorter)) ∧
    (s.mod.ready = true → s.mod.lastBeat + 10000000 ≤ s.now → exec .sorterHeartbeatTimeout s =
      .next ((postEvent s 8 0 [BitVec.ofNat 64 s.mod.beats, 0, 0, 0, 0, 0]).updMod fun m =>
        { m with beats := 0, lastBeat := s.now, sorterUp := false })) ∧
    (s.mod.sorterUp = true → s.mod.fwFetch = none → exec .topologyRefresh s = .next (publish1 (takeFigures s)))) ∧
  (∀ s d v lo hi, s.mod.sorterUp = true → s.mod.fwFetch = none → d < s.nlive → d < 64 → kget s.mod.limits (0x400000 + 65536 * d + 0x4800) = some (lo, hi) →
    (lo ≤ v → v ≤ hi → exec (.sorterMailboxWrite (0x400000 + 65536 * d + 0x4800) v) s =
      .next (s.updDom d fun x => { x with ueFirst := decide (v % 2 = 1) }))) ∧
  (∀ s t v lo hi, s.mod.sorterUp = true → s.mod.fwFetch = none → t < 64 → kget s.mod.limits (ctlWeight t) = some (lo, hi) → lo ≤ v → v ≤ hi →
    exec (.sorterMailboxWrite (ctlWeight t) v) s = .next (raiseTopo (s.updMod fun m => { m with weights := kset m.weights t v }))) ∧
  (∀ s control v, (s.mod.sorterUp = true → s.mod.fwFetch = none → (∀ p, kget s.mod.limits control = some p → v < p.1 ∨ p.2 < v) →
      exec (.sorterMailboxWrite control v) s = .next (s.updMod fun m =>
        { m with violations := m.violations ++ [⟨1, control, v⟩], refusals := m.refusals + 1 })) ∧
    (s.mod.sorterUp = false ∨ s.mod.fwFetch.isSome → exec (.sorterMailboxWrite control v) s = .next s))) ∧
  ((∀ s t, (s.ten t).st = 1 → ∃ u, exec (.tenantReset t) s = .next u ∧ (u.ten t).st = 1 ∧ (u.ten t).rstDone = true ∧ (u.ten t).clean = true ∧
    (u.ten t).levels = [] ∧ (u.ten t).codes = [] ∧ (u.ten t).seals = [] ∧ (u.ten t).handles = [] ∧ (u.ten t).rings = [] ∧
    (u.ten t).launches = [] ∧ (u.ten t).esum = 0 ∧ (u.ten t).exc = [] ∧ (∀ c, (s.ten t).holds c = true → (u.core c).blocks = []) ∧
    (∀ d, ∀ e ∈ (u.dom d).tlb, e.tenant ≠ t) ∧ ∀ e, e ≠ t → (u.ten e).placement = (s.ten e).placement) ∧
  (∀ s vf t, vfTenant s vf = some t → exec (.functionLevelReset vf) s = exec (.tenantReset t) s))

/-- R31, R62, R63, R70, R330, R340, R342, R386, R387, R416: a tenant command at its ring's HEAD ends with its status and results: LOAD
gives an index and the hash, UNLOAD frees an index, FWSET writes a window, UNPOISON a line the tenant maps, LVLFREE a CANCELLED counter,
RULES a table, ATTEST a report. The model's choice: a refused enable stores the window's other fields and sets ERR (log 119), and a line
is the tenant's by its page table (log 118). -/
def Obligations.TenantCommandSteps : Prop :=
  ((∀ s t p w, headCommand s t = (p, some w) → cmdOp w = 1 → cmdPlain w 3 [4, 5, 6] = true →
    ∀ u e, loadObject p t (word w 1).toNat (word w 2).toNat (word w 3).toNat = (u, e) →
      let v := match e.size with | some n => (putBytes u t ((word w 3).toNat + n) e.report).1 | none => u
      (e.status = 0 → exec (.load t) s = .next (endCommand v t w 0
        [(4, BitVec.ofNat 64 e.index), (5, e.hash.extractLsb' 0 64), (6, e.hash.extractLsb' 64 64)])) ∧
      (e.status ≠ 0 → exec (.load t) s = .next (endCommand v t w e.status []))) ∧
  (∀ s t va len dest u bs f n, tenantBytes s t va len = (u, some bs) → readFile bs = some f → f.dataLen = 0 → nativeOf bs = .ok n →
    let v := sweepImages u
    let i := freeKey (v.ten t).codes
    (∀ p ∈ v.images, p.2.hash ≠ sha256 n.file) → storeUsed v + n.segs.length ≤ 32768 → i < 65536 →
    ∃ x im, loadObject s t va len dest = (x, ⟨0, i, sha256 n.file, loadReport 0 i (sha256 n.file) (some n), some 0⟩) ∧
      kget (x.ten t).codes i = some (freeKey v.images) ∧ kget x.images (freeKey v.images) = some im ∧
      im.hash = sha256 n.file ∧ im.refs = 1 ∧ im.segs = n.segs ∧ im.kernels = n.kernels)) ∧
  ((∀ s t p w i, headCommand s t = (p, some w) → cmdOp w = 2 → cmdPlain w 1 [] = true → kget (p.ten t).codes (word w 1).toNat = some i →
    exec (.unload t) s = .next (endCommand (dropImage (p.updTen t fun n => { n with codes := kdel n.codes (word w 1).toNat }) i) t w 0 [])) ∧
  (∀ s t p w, headCommand s t = (p, some w) → cmdOp w = 3 → cmdPlain w 6 [] = true → word w 1 &&& ~~~0xF3F = 0 →
    let d := bits (word w 1) 0 6
    let n := bits (word w 1) 8 4
    let new := [word w 2, word w 3, word w 4, word w 5, word w 6]
    w.length = 8 → word w 2 &&& ~~~0xFFF00F3 = 0 → bits (word w 2) 16 12 = (p.ten t).vni → word w 3 &&& ~~~0xFFFFFFFFFFF80 = 0 →
    word w 5 &&& ~~~0xFFFFFFFFFFFFF = 0 → word w 6 &&& ~~~0xFFFFFFFFFFFFF = 0 → (p.ten t).domains.contains d = true →
    kget (p.dom d).fw n = none →
    (bit (word w 2) 0 = true → windowRefused d new = false →
      exec (.fwset t) s = .next (endCommand (p.updDom d fun x => { x with fw := kset x.fw n (setAt new 0 ((word w 2 &&& ~~~3#64) ||| 1)) })
        t w 0 [])) ∧
    (bit (word w 2) 0 = true → windowRefused d new = true →
      exec (.fwset t) s = .next (endCommand ((dropWindow p d n).updDom d fun x =>
        { x with fw := kset x.fw n (setAt new 0 ((word w 2 &&& ~~~3#64) ||| 2)) })
        t w 2 []))) ∧
  (∀ s t p w, headCommand s t = (p, some w) → cmdOp w = 4 → cmdPlain w 1 [] = true → ownsLine p t (lineOf (word w 1).toNat) = true →
    exec (.unpoison t) s = .next (endCommand (clearPoison p (lineOf (word w 1).toNat)) t w 0 []))) ∧
  ((∀ s t p w, headCommand s t = (p, some w) → cmdOp w = 5 → cmdPlain w 1 [] = true → zeroBits (word w 1) 14 50 = true →
    let lvl := bits (word w 1) 0 2
    let id := bits (word w 1) 2 12
    (((p.ten t).counter lvl id).st = 3 → exec (.lvlfree t) s =
      .next (endCommand (p.updTen t fun n => freeCounter (releaseCancelled n lvl id) lvl id) t w 0 [])) ∧
    (((p.ten t).counter lvl id).st ≠ 3 → exec (.lvlfree t) s = .next (endCommand p t w 1 []))) ∧
  (∀ s t p w u bs rs, headCommand s t = (p, some w) → cmdOp w = 6 → cmdPlain w 2 [] = true →
    tenantBytes p t (word w 1).toNat (word w 2).toNat = (u, some bs) → readRules bs = some rs →
    exec (.rules t) s = .next (endCommand (u.updTen t fun n => { n with rules := some rs }) t w 0 [])) ∧
  (∀ s t p w u v nonce, headCommand s t = (p, some w) → cmdOp w = 7 → cmdPlain w 2 [] = true → p.mod.attests < 32768 →
    tenantBytes p t (word w 1).toNat 32 = (u, some nonce) → putBytes u t (word w 2).toNat (attestReport u nonce (some t)) = (v, true) →
    exec (.attest t) s = .next (endCommand (v.updMod fun m => { m with attests := m.attests + 1 }) t w 0 [])))

/-- R365, R375, R376, R388, R412-R417: an admin command at the ring's HEAD: ADMIT and RETIRE of a tenant; a repair that starts, drains and
ends; firmware and Sorter images that pass their checks; a report; migration's words. The model's choice: cause 2 of a failed RETRAIN (log
117), and that RETIRE takes an ACTIVE tenant after its reset (log 121). -/
def Obligations.AdminCommandSteps : Prop :=
  (∀ s w, adminHead s = some w →
    (cmdOp w = 0x10 → cmdPlain w 6 [] = true →
      let t := (word w 1).toNat
      let vni := (word w 2).toNat
      let cs := mapCores (physBytes s (word w 3).toNat 1152)
      t < 64 → word w 5 &&& ~~~0x3F3F = 0 → (s.ten t).st = 0 → 0 < vni → vni < 4096 → (∀ p ∈ s.tenants, p.2.st ≠ 0 → p.2.vni ≠ vni) →
      (∀ c ∈ cs, advertises s c = true ∧ ownerOf s c = none) → (∃ c ∈ cs, coreDomain c = bits (word w 5) 0 6) →
      bits (word w 5) 8 6 < s.mod.numVfs.getD (word w 6).toNat 0 →
      ∃ u, exec .admitTenant s = .next (endAdmin u w 0) ∧ (u.ten t).st = 1 ∧ (u.ten t).vni = vni ∧ (u.ten t).placement = cs ∧
        (u.ten t).root = (word w 4).toNat ∧ (u.ten t).pthome = bits (word w 5) 0 6 ∧ ∀ c ∈ cs, (u.core c).tenant = some t) ∧
    (cmdOp w = 0x11 → cmdPlain w 1 [] = true → (s.ten (word w 1).toNat).st = 1 → (s.ten (word w 1).toNat).clean = true →
      ∃ u, exec .retire s = .next (endAdmin u w 0) ∧ kget u.tenants (word w 1).toNat = none ∧
        ∀ c ∈ (s.ten (word w 1).toNat).placement, (u.core c).tenant = none) ∧
    (cmdOp w = 0x11 → cmdPlain w 1 [] = true → (s.ten (word w 1).toNat).st ≠ 0 →
      (s.ten (word w 1).toNat).st ≠ 1 ∨ (s.ten (word w 1).toNat).clean = false →
      exec .retire s = .next (endAdmin s w 1))) ∧
  (∀ s w, adminHead s = some w → cmdPlain w 2 [] = true →
    (∀ e ∈ [(Instr.draincore, 0x20, 14), (Instr.retrain 1, 0x21, 6), (Instr.recal, 0x22, 6)], cmdOp w = e.2.1 → theDrain s = none →
      zeroBits (word w 1) e.2.2 (64 - e.2.2) = true → zeroBits (word w 2) 32 32 = true →
      (e.2.1 = 0x20 → advertises s (bits (word w 1) 0 14) = true ∧ regionServes s (coreDomain (bits (word w 1) 0 14)) = true) →
      (e.2.1 ≠ 0x20 → bits (word w 1) 0 6 < s.nlive ∧ regionServes s (bits (word w 1) 0 6) = true) →
      exec e.1 s = .next (startDrain s e.2.1 (bits (word w 1) 0 e.2.2) (drainNs w))) ∧
    (∀ x, theDrain s = some x → drained s x = true →
      (cmdOp w = 0x20 → let c := bits (word w 1) 0 14
        let y := drainCore s c
        let o := remapCore 16 (markDead (postRetired (breakChannels (orphanKept y c) c) c 2 (launchOn y c)) c) c
        failedCore s c = false → exec .draincore s = .next (endAdmin (endDrain o.1 x) w o.2)) ∧
      (cmdOp w = 0x21 → exec (.retrain 1) s = .next (endAdmin (endDrain s x) w 0) ∧
        exec (.retrain 0) s = .next (endAdmin (loseDomain (endDrain s x) (bits (word w 1) 0 6) 2) w 1)) ∧
      (cmdOp w = 0x22 → exec .recal s = .next (endAdmin (endDrain s x) w 0))) ∧
    (let bs := physBytes s (word w 1).toNat (word w 2).toNat
      let fw (m : Module) : Module := { m with flash := bs, running := bs, pmSvn := imageSvn bs }
      let sort (m : Module) : Module := { m with sorter := bs, sorterSvn := imageSvn bs, beats := 100, lastBeat := s.now, sorterUp := true }
      (cmdOp w = 0x23 → s.mod.fwFetch = none → imageOk s.mod.svnMin 1 bs = true → Config.imageStarts bs s.tick = true →
        exec .fwupdate s = .next (endAdmin (postFirmware (s.updMod fun m => raiseSvn (fw m) bs) bs 0) w 0)) ∧
      (cmdOp w = 0x23 → s.mod.fwFetch = none → imageOk s.mod.svnMin 1 bs = false → exec .fwupdate s = .next (endAdmin s w 1)) ∧
      (cmdOp w = 0x23 → s.mod.fwFetch = none → imageOk s.mod.svnMin 1 bs = true → Config.imageStarts bs s.tick = false →
        exec .fwupdate s = .next (s.updMod fun m => { m with fwFetch := some (s.now + 1000000000) })) ∧
      (∀ im, cmdOp w = 0x23 → s.mod.fwFetch.isSome → s.mod.mailbox = some im → imageOk s.mod.svnMin 1 im = true →
        exec .fwupdate s = .next (endAdmin (postFirmware (s.updMod fun m =>
          { m with running := im, pmSvn := imageSvn im, mailbox := none, fwFetch := none }) im 2) w 2)) ∧
      (cmdOp w = 0x24 → imageOk s.mod.svnMin 2 bs = true → exec (.sorterload 1) s =
        .next (endAdmin (s.updMod fun m => raiseSvn (sort m) bs) w 0)))) ∧
  (∀ s x, theDrain s = some x → x.deadline ≤ s.now → exec .drainDeadline s = .next ((drainCores s x).foldl deadlineCore s)) ∧
  (∀ s w, adminHead s = some w → cmdPlain w 3 [] = true →
    (cmdOp w = 0x25 → word w 3 &&& ~~~0x13F = 0 → s.mod.attests < 32768 →
      let of := if bit (word w 3) 8 then some (bits (word w 3) 0 6) else none
      exec .adminAttest s = .next (endAdmin ((homeStore s 0 (word w 2).toNat (attestReport s (physBytes s (word w 1).toNat 32) of)).updMod
        fun m => { m with attests := m.attests + 1 }) w 0)) ∧
    (let t := (word w 1).toNat
      let ws := physWords s (word w 2).toNat 16
      cmdOp w = 0x26 → t < 64 → (((s.ten t).counter 3 0).st ≠ 1 ∨ jobBusy s t = false) → archProvided ws = true →
      exec .migset s = .next (endAdmin (s.updTen t fun n => { n with archWords := ws, migGen := word w 3 }) w 0)))

/-- R174, R176, R178, R194-R203: decoding and encoding agree, every operand at every value the encoding admits. A well-formed
group or tile instruction's words decode to it and to what follows them, and words that decode are the words of the instruction
they decode to, which is well formed. -/
def Obligations.DecodeAndEncodeAgree : Prop :=
  ∀ (ws rest : List W32) (i : Instr),
    decode ws = .ok (i, rest) ↔ i.form ≠ .event ∧ i.WellFormed = true ∧ ws = encode i ++ rest

/-- R174-R178, R194-R203: words written out from the encodings stand for their instructions, the two worked examples of R203 among
them; a reserved opcode, the reserved bit of w1, a base word of a reserved opcode and a missing literal are refused. -/
def Obligations.SampleWords : Prop :=
  (decodeTableWord 32 0xF6241818 = some (.iaddS32ImmBase ⟨false, 3, 9, 0x7B, none⟩) ∧
    decodeTableWord 96 0x06EC2C0000202006040EF081 = some (.atom { Ext.plain with
      d := 4, a := 6, b := 8, c := 2, ty := 0xB, mod6 := 0x3B, aux8 := 0x06 }) ∧
    decodeTableWord 96 0x00002800_00000801_030EE801 = some (.iadd { Ext.plain with d := 3, a := 1, b := 2, ty := 0xA }) ∧
    decodeTableWord 160 0xFFFFFFFF_FFFFFFF4_08000000_00000000_000EE102 =
      some (.bra { Ext.plain with aux8 := 8, lit := some 0xFFFFFFFFFFFFFFF4 })) ∧
  (decodeTableWord 96 0x000EE099 = none ∧ decodeTableWord 96 0x00002800_80000801_030EE801 = none ∧
    decodeTableWord 32 0x00000200 = none ∧ decodeTableWord 96 0x000EE101 = none)

/-- R174, R185, R210, R227, R317: a step on an agent's turn runs the instruction that its words decode to, and draws new free
values (log 3, the model's own); words that are no instruction raise ILLOP, a segment that is in no slot raises CODEMISS; a step on
another agent's turn is that agent's step, and time passes by what the schedule says. -/
def Obligations.StepRunsTheInstruction : Prop :=
  (∀ s a u pc i, takesTurn s a u → nextPc u = some pc → fetch (u.core u.cur.core) pc = .instr i → step s = exec i u) ∧
  (∀ k pc i rest, k.wordsAt pc = some (true, encode i ++ rest) → i.form ≠ .event → i.WellFormed = true → fetch k pc = .instr i) ∧
  (∀ s a u pc h, takesTurn s a u → nextPc u = some pc → here u = some h →
    ((u.core u.cur.core).wordsAt pc = none → step s = .next (raiseTrap u h xCodemiss (BitVec.ofNat 64 h.ent.pc.seg) h.ent.pc)) ∧
    (∀ ws, (u.core u.cur.core).wordsAt pc = some (false, ws) → step s = .next (raiseTrap u h xIllop 0 h.ent.pc)) ∧
    (∀ ws e, (u.core u.cur.core).wordsAt pc = some (true, ws) → decode ws = .error e → step s = .next (raiseTrap u h xIllop 0 h.ent.pc))) ∧
  (∀ s c b g k x e, s.cur = ⟨c, b, some g⟩ → s.block c b = some k → s.group c b g = some x → k.started = true → x.ended = false →
    x.resident = true → x.park = none → selectEntry x = some e → x.late = [] →
    readyAgent s = (s.updGroup c b g fun y => { y with park := none }, true)) ∧
  (∀ s e i r, s.turns = .event e :: r → eventOf i = some e →
    step s = exec i { noteGroups { s with tick := s.tick + 1 } with turns := r }) ∧
  (∀ s n r, s.turns = .elapse n :: r → step s =
    .next { noteGroups { s with tick := s.tick + 1 } with turns := r, now := s.now + n }) ∧
  (∀ s c b g x, s.group c b g = some x →
    (noteGroups s).group c b g = some (x.noted s.tick (notesReady s c b g x))) ∧
  (∀ s c b g x, notesReady s c b g x = (!x.ended && if x.resident then x.idle && mayIssue s c b g else becomesReady s c b g)) ∧
  (∀ s c b g, (readyAgent { s with cur := ⟨c, b, some g⟩ }).2 = false → mayIssue s c b g = false) ∧
  (∀ s c b g u x, (readyAgent { s with cur := ⟨c, b, some g⟩ }).2 = true → tryAgent { s with cur := ⟨c, b, some g⟩ } = .next u →
    u.group c b g = some x → mayIssue s c b g = !x.heldBack)

/-- The model's memory (log 2, the model's choice of a form): a step leaves memory in its canonical form, addresses rising and no
listed zero, from every state where it has that form; so memories with the same bytes are equal data. -/
def Obligations.MemoryStaysCanonical : Prop := ∀ s t, s.Inv → step s = .next t → t.Inv

/-- R31, R366, R375, R380, R401, R409, R411: the module at power-on has completed no boot step and is not READY; every tenant is FREE with
its window's reset values and every work-hierarchy counter FREE; rings are disabled, regions STACKED, error counters zero, SPAREMIN 2.
Memory in which nothing is listed is canonical and reads zero (log 2, the model's choice). No step completed and no error before step 1
are the model's choice too (log 4). -/
def Obligations.ResetState : Prop :=
  State.reset.Inv ∧ (∀ a, zget State.reset.mem a = 0) ∧
  State.reset.mod.bootStep = 0 ∧ State.reset.mod.bootErr = 0 ∧ State.reset.mod.ready = false ∧ State.reset.mod.spareMin = 2 ∧
  (∀ t, (State.reset.ten t).st = 0 ∧ (State.reset.ten t).wd = 1 ∧ (State.reset.ten t).wq = 200 ∧
    (∀ q, ((State.reset.ten t).ring q).en = false ∧ ((State.reset.ten t).ring q).log2n = 4) ∧
    ∀ l n, ((State.reset.ten t).counter l n).st = 0) ∧
  (∀ c, (State.reset.core c).blocks = []) ∧ (∀ r, (State.reset.region r).st = 0) ∧ ∀ d, (State.reset.dom d).err = ErrBlock.fresh
end

