-- ==== Sys2Proof/Laws/Bytes.lean ====
section
/-! SUPPORT. Values as bytes, and that the bytes of a save image tell the state they encode. -/
namespace Sys2Proof.Machine
open Sys2Proof
/-- The bytes of a value give it back. -/
theorem leNat_leBytes (n v : Nat) : leNat (leBytes n v) = v % 256 ^ n := by
  induction n generalizing v with
  | zero => simp [leBytes, leNat, Nat.mod_one]
  | succ n ih =>
    simp only [leBytes, leNat, ih, BitVec.toNat_ofNat]
    rw [show v % 256 ^ (n + 1) = v % (256 * 256 ^ n) by rw [Nat.pow_succ, Nat.mul_comm], Nat.mod_mul]
theorem leBytes_length (n v : Nat) : (leBytes n v).length = n := by
  induction n generalizing v with
  | zero => rfl
  | succ n ih => simp [leBytes, ih]
/-- An image's bytes tell the state it encodes (R313). -/
theorem imageState_inj {a b : Nat} (ha : a < 2 ^ 64) (hb : b < 2 ^ 64) (h : imageState a = imageState b) : a = b := by
  have h' := List.append_inj_left h (by simp [leBytes_length])
  have := congrArg leNat h'
  rw [leNat_leBytes, leNat_leBytes] at this
  omega
end Sys2Proof.Machine
end

