-- ==== Sys2Proof/Laws/Maps.lean ====
section
/-! SUPPORT. The laws of the sorted maps: what reading after an update gives, and that updates keep the canonical form. -/
namespace Sys2Proof.Machine
open Sys2Proof

theorem kget_kset_self {α : Type} (m : KMap α) (k : Nat) (v : α) : kget (kset m k v) k = some v := by
  induction m with
  | nil => simp [kset, kget]
  | cons p r ih =>
    obtain ⟨j, w⟩ := p
    simp only [kset]
    split
    · simp [kget]
    · split
      · simp [kget]
      · rename_i h1 h2
        simp only [kget]
        rw [if_neg (fun h => h2 h.symm), ih]

theorem kget_kset_ne {α : Type} (m : KMap α) {k j : Nat} (v : α) (h : j ≠ k) : kget (kset m k v) j = kget m j := by
  induction m with
  | nil => simp [kset, kget, Ne.symm h]
  | cons p r ih =>
    obtain ⟨i, w⟩ := p
    simp only [kset]
    split
    · simp [kget, Ne.symm h]
    · split
      · rename_i h2
        simp [kget, ← h2, Ne.symm h]
      · simp only [kget, ih]

theorem kset_kset {α : Type} (m : KMap α) (k : Nat) (v w : α) : kset (kset m k v) k w = kset m k w := by
  induction m with
  | nil => simp [kset]
  | cons p r ih =>
    obtain ⟨i, u⟩ := p
    simp only [kset]
    split
    · simp [kset]
    · split
      · simp [kset]
      · rename_i h1 h2
        simp only [kset, if_neg h1, if_neg h2, ih]

theorem kget_kupd_self {α : Type} (m : KMap α) (k : Nat) (f : α → α) : kget (kupd m k f) k = (kget m k).map f := by
  induction m with
  | nil => simp [kupd, kget]
  | cons p r ih =>
    obtain ⟨i, u⟩ := p
    simp only [kupd]
    split
    · rename_i h; simp [kget, h]
    · rename_i h; simp [kget, Ne.symm h, ih]

theorem kget_kupd_ne {α : Type} (m : KMap α) {k j : Nat} (f : α → α) (h : j ≠ k) : kget (kupd m k f) j = kget m j := by
  induction m with
  | nil => simp [kupd, kget]
  | cons p r ih =>
    obtain ⟨i, u⟩ := p
    simp only [kupd]
    split
    · rename_i hk; simp [kget, ← hk, Ne.symm h]
    · simp only [kget, ih]

theorem kupd_kupd {α : Type} (m : KMap α) (k : Nat) (f g : α → α) : kupd (kupd m k f) k g = kupd m k (fun x => g (f x)) := by
  induction m with
  | nil => simp [kupd]
  | cons p r ih =>
    obtain ⟨i, u⟩ := p
    simp only [kupd]
    split
    · rename_i h; simp [kupd, h]
    · rename_i h; simp [kupd, h, ih]

/-- Only the record at the key matters to an update. -/
theorem kupd_congr {α : Type} (m : KMap α) (k : Nat) (f g : α → α) (h : ∀ x, kget m k = some x → f x = g x) :
    kupd m k f = kupd m k g := by
  induction m with
  | nil => simp [kupd]
  | cons p r ih =>
    obtain ⟨i, u⟩ := p
    simp only [kupd]
    split
    · rename_i hk; rw [h u (by simp [kget, hk])]
    · rename_i hk; rw [ih (fun x hx => h x (by simp [kget, Ne.symm hk, hx]))]

theorem kget_kdel_self {α : Type} (m : KMap α) (k : Nat) : kget (kdel m k) k = none := by
  induction m with
  | nil => simp [kdel, kget]
  | cons p r ih =>
    obtain ⟨i, u⟩ := p
    simp only [kdel]
    split
    · exact ih
    · rename_i h; simp [kget, Ne.symm h, ih]

theorem kget_kdel_ne {α : Type} (m : KMap α) {k j : Nat} (h : j ≠ k) : kget (kdel m k) j = kget m j := by
  induction m with
  | nil => simp [kdel]
  | cons p r ih =>
    obtain ⟨i, u⟩ := p
    simp only [kdel]
    split
    · rename_i hk; simp [kget, ← hk, Ne.symm h, ih]
    · simp only [kget, ih]

/-- A word read at the key it was written to (R50). -/
@[simp] theorem zget_zset_self {w : Nat} (m : ZMap w) (k : Nat) (v : BitVec w) : zget (zset m k v) k = v := by
  unfold zset zget
  split
  · rename_i h; simp [kget_kdel_self, h]
  · simp [kget_kset_self]

/-- A write leaves every other key alone. -/
theorem zget_zset_ne {w : Nat} (m : ZMap w) {k j : Nat} (v : BitVec w) (h : j ≠ k) : zget (zset m k v) j = zget m j := by
  unfold zset zget
  split
  · rw [kget_kdel_ne m h]
  · rw [kget_kset_ne m v h]

theorem keysAbove_mono {α : Type} {m : KMap α} {a b : Nat} (h : a ≤ b) (hm : keysAbove b m = true) : keysAbove a m = true := by
  cases m with
  | nil => rfl
  | cons p r =>
    obtain ⟨i, u⟩ := p
    simp only [keysAbove, Bool.and_eq_true, decide_eq_true_eq] at hm ⊢
    exact ⟨by omega, hm.2⟩

theorem keysAbove_kdel {α : Type} (m : KMap α) (k a : Nat) (h : keysAbove a m = true) : keysAbove a (kdel m k) = true := by
  induction m generalizing a with
  | nil => exact h
  | cons p r ih =>
    obtain ⟨i, u⟩ := p
    simp only [keysAbove, Bool.and_eq_true, decide_eq_true_eq] at h
    simp only [kdel]
    split
    · exact keysAbove_mono (by omega) (ih (i + 1) h.2)
    · simp [keysAbove, h.1, ih (i + 1) h.2]

theorem keysAbove_kset {α : Type} (m : KMap α) (k a : Nat) (v : α) (ha : a ≤ k) (h : keysAbove a m = true) :
    keysAbove a (kset m k v) = true := by
  induction m generalizing a with
  | nil => simp [kset, keysAbove, ha]
  | cons p r ih =>
    obtain ⟨i, u⟩ := p
    simp only [keysAbove, Bool.and_eq_true, decide_eq_true_eq] at h
    simp only [kset]
    split
    · rename_i hk
      simp only [keysAbove, Bool.and_eq_true, decide_eq_true_eq]
      exact ⟨ha, by omega, h.2⟩
    · split
      · rename_i hk
        subst hk
        simp [keysAbove, ha, h.2]
      · simp only [keysAbove, Bool.and_eq_true, decide_eq_true_eq]
        exact ⟨h.1, ih (i + 1) (by omega) h.2⟩

theorem all_kdel {α : Type} (m : KMap α) (k : Nat) (p : Nat × α → Bool) (h : m.all p = true) : (kdel m k).all p = true := by
  induction m with
  | nil => rfl
  | cons q r ih =>
    obtain ⟨i, u⟩ := q
    simp only [List.all_cons, Bool.and_eq_true] at h
    simp only [kdel]
    split
    · exact ih h.2
    · simp [h.1, ih h.2]

theorem all_kset {α : Type} (m : KMap α) (k : Nat) (v : α) (p : Nat × α → Bool) (h : m.all p = true) (hv : p (k, v) = true) :
    (kset m k v).all p = true := by
  induction m with
  | nil => simp [kset, hv]
  | cons q r ih =>
    obtain ⟨i, u⟩ := q
    have h0 := h
    simp only [List.all_cons, Bool.and_eq_true] at h
    simp only [kset]
    split
    · simp [hv, h.1, h.2]
    · split
      · simp [hv, h.2]
      · simp [h.1, ih h.2]

/-- A write keeps a word map's canonical form. -/
theorem zwf_zset {w : Nat} (m : ZMap w) (k : Nat) (v : BitVec w) (h : zwf m = true) : zwf (zset m k v) = true := by
  unfold zwf at h ⊢
  simp only [Bool.and_eq_true] at h ⊢
  unfold zset
  split
  · exact ⟨keysAbove_kdel m k 0 h.1, all_kdel m k _ h.2⟩
  · rename_i hv
    exact ⟨keysAbove_kset m k 0 v (by omega) h.1, all_kset m k v _ h.2 (by simpa using hv)⟩

/-- Stores of consecutive bytes keep memory's canonical form. -/
theorem wf_writeBytes (bs : List Byte) (m : ZMap 8) (a : Nat) (h : Memory.wf m = true) : Memory.wf (writeBytes m a bs) = true := by
  induction bs generalizing m a with
  | nil => exact h
  | cons b r ih => exact ih _ _ (zwf_zset m a b h)

/-- Two canonical word maps that read alike are equal data. -/
theorem zmap_ext {w : Nat} : ∀ (m n : ZMap w) (a : Nat), keysAbove a m = true → keysAbove a n = true →
    (m.all fun (_, v) => v != 0) = true → (n.all fun (_, v) => v != 0) = true →
    (∀ k, zget m k = zget n k) → m = n := by
  have low : ∀ {w : Nat} (m : ZMap w) (a k : Nat), keysAbove a m = true → k < a → kget m k = none := by
    intro w m
    induction m with
    | nil => intros; rfl
    | cons p r ih =>
      obtain ⟨i, u⟩ := p
      intro a k h hk
      simp only [keysAbove, Bool.and_eq_true, decide_eq_true_eq] at h
      simp only [kget]
      rw [if_neg (by omega)]
      exact ih (i + 1) k h.2 (by omega)
  intro m
  induction m with
  | nil =>
    intro n a _ hn _ nz h
    cases n with
    | nil => rfl
    | cons p r =>
      obtain ⟨i, u⟩ := p
      have := h i
      simp only [List.all_cons, Bool.and_eq_true] at nz
      simp [zget, kget] at this
      simp [← this] at nz
  | cons p r ih =>
    obtain ⟨i, u⟩ := p
    intro n a hm hn mz nz h
    simp only [keysAbove, Bool.and_eq_true, decide_eq_true_eq] at hm
    simp only [List.all_cons, Bool.and_eq_true] at mz
    cases n with
    | nil =>
      have := h i
      simp [zget, kget] at this
      simp [this] at mz
    | cons q t =>
      obtain ⟨j, v⟩ := q
      simp only [keysAbove, Bool.and_eq_true, decide_eq_true_eq] at hn
      simp only [List.all_cons, Bool.and_eq_true] at nz
      rcases Nat.lt_trichotomy i j with hij | hij | hij
      · have := h i
        simp [zget, kget, if_neg (Nat.ne_of_gt hij), low t (j + 1) i hn.2 (by omega)] at this
        simp [this] at mz
      · subst hij
        have hv := h i
        simp [zget, kget] at hv
        subst hv
        congr 1
        refine ih t (i + 1) hm.2 hn.2 mz.2 nz.2 fun k => ?_
        by_cases hk : i = k
        · subst hk
          simp [zget, low r (i + 1) i hm.2 (by omega), low t (i + 1) i hn.2 (by omega)]
        · have := h k
          simpa [zget, kget, hk] using this
      · have := h j
        simp [zget, kget, if_neg (Nat.ne_of_gt hij), low r (i + 1) j hm.2 (by omega)] at this
        simp [this] at nz

end Sys2Proof.Machine
end

