-- ==== Sys2Proof/Laws/State.lean ====
section
/-! SUPPORT. What each update of the state leaves in each field, and what is read back after it. -/
namespace Sys2Proof.Machine
open Sys2Proof

@[simp] theorem State.updCore_mem (s : State) (c : Nat) (f : Core → Core) : (s.updCore c f).mem = s.mem := rfl
@[simp] theorem State.updCore_poison (s : State) (c : Nat) (f : Core → Core) : (s.updCore c f).poison = s.poison := rfl
@[simp] theorem State.updCore_domains (s : State) (c : Nat) (f : Core → Core) : (s.updCore c f).domains = s.domains := rfl
@[simp] theorem State.updCore_regions (s : State) (c : Nat) (f : Core → Core) : (s.updCore c f).regions = s.regions := rfl
@[simp] theorem State.updCore_tenants (s : State) (c : Nat) (f : Core → Core) : (s.updCore c f).tenants = s.tenants := rfl
@[simp] theorem State.updCore_images (s : State) (c : Nat) (f : Core → Core) : (s.updCore c f).images = s.images := rfl
@[simp] theorem State.updCore_tree (s : State) (c : Nat) (f : Core → Core) : (s.updCore c f).tree = s.tree := rfl
@[simp] theorem State.updCore_saves (s : State) (c : Nat) (f : Core → Core) : (s.updCore c f).saves = s.saves := rfl
@[simp] theorem State.updCore_past (s : State) (c : Nat) (f : Core → Core) : (s.updCore c f).past = s.past := rfl
@[simp] theorem State.updCore_mod (s : State) (c : Nat) (f : Core → Core) : (s.updCore c f).mod = s.mod := rfl
@[simp] theorem State.updCore_now (s : State) (c : Nat) (f : Core → Core) : (s.updCore c f).now = s.now := rfl
@[simp] theorem State.updCore_turns (s : State) (c : Nat) (f : Core → Core) : (s.updCore c f).turns = s.turns := rfl
@[simp] theorem State.updCore_cur (s : State) (c : Nat) (f : Core → Core) : (s.updCore c f).cur = s.cur := rfl
@[simp] theorem State.updCore_tick (s : State) (c : Nat) (f : Core → Core) : (s.updCore c f).tick = s.tick := rfl

@[simp] theorem State.updDom_mem (s : State) (d : Nat) (f : Domain → Domain) : (s.updDom d f).mem = s.mem := rfl
@[simp] theorem State.updDom_poison (s : State) (d : Nat) (f : Domain → Domain) : (s.updDom d f).poison = s.poison := rfl
@[simp] theorem State.updDom_cores (s : State) (d : Nat) (f : Domain → Domain) : (s.updDom d f).cores = s.cores := rfl
@[simp] theorem State.updDom_regions (s : State) (d : Nat) (f : Domain → Domain) : (s.updDom d f).regions = s.regions := rfl
@[simp] theorem State.updDom_tenants (s : State) (d : Nat) (f : Domain → Domain) : (s.updDom d f).tenants = s.tenants := rfl
@[simp] theorem State.updDom_images (s : State) (d : Nat) (f : Domain → Domain) : (s.updDom d f).images = s.images := rfl
@[simp] theorem State.updDom_tree (s : State) (d : Nat) (f : Domain → Domain) : (s.updDom d f).tree = s.tree := rfl
@[simp] theorem State.updDom_saves (s : State) (d : Nat) (f : Domain → Domain) : (s.updDom d f).saves = s.saves := rfl
@[simp] theorem State.updDom_past (s : State) (d : Nat) (f : Domain → Domain) : (s.updDom d f).past = s.past := rfl
@[simp] theorem State.updDom_mod (s : State) (d : Nat) (f : Domain → Domain) : (s.updDom d f).mod = s.mod := rfl
@[simp] theorem State.updDom_now (s : State) (d : Nat) (f : Domain → Domain) : (s.updDom d f).now = s.now := rfl
@[simp] theorem State.updDom_turns (s : State) (d : Nat) (f : Domain → Domain) : (s.updDom d f).turns = s.turns := rfl
@[simp] theorem State.updDom_cur (s : State) (d : Nat) (f : Domain → Domain) : (s.updDom d f).cur = s.cur := rfl
@[simp] theorem State.updDom_tick (s : State) (d : Nat) (f : Domain → Domain) : (s.updDom d f).tick = s.tick := rfl

@[simp] theorem State.updTen_mem (s : State) (t : Nat) (f : Tenant → Tenant) : (s.updTen t f).mem = s.mem := rfl
@[simp] theorem State.updTen_poison (s : State) (t : Nat) (f : Tenant → Tenant) : (s.updTen t f).poison = s.poison := rfl
@[simp] theorem State.updTen_cores (s : State) (t : Nat) (f : Tenant → Tenant) : (s.updTen t f).cores = s.cores := rfl
@[simp] theorem State.updTen_domains (s : State) (t : Nat) (f : Tenant → Tenant) : (s.updTen t f).domains = s.domains := rfl
@[simp] theorem State.updTen_regions (s : State) (t : Nat) (f : Tenant → Tenant) : (s.updTen t f).regions = s.regions := rfl
@[simp] theorem State.updTen_images (s : State) (t : Nat) (f : Tenant → Tenant) : (s.updTen t f).images = s.images := rfl
@[simp] theorem State.updTen_tree (s : State) (t : Nat) (f : Tenant → Tenant) : (s.updTen t f).tree = s.tree := rfl
@[simp] theorem State.updTen_saves (s : State) (t : Nat) (f : Tenant → Tenant) : (s.updTen t f).saves = s.saves := rfl
@[simp] theorem State.updTen_past (s : State) (t : Nat) (f : Tenant → Tenant) : (s.updTen t f).past = s.past := rfl
@[simp] theorem State.updTen_mod (s : State) (t : Nat) (f : Tenant → Tenant) : (s.updTen t f).mod = s.mod := rfl
@[simp] theorem State.updTen_now (s : State) (t : Nat) (f : Tenant → Tenant) : (s.updTen t f).now = s.now := rfl
@[simp] theorem State.updTen_turns (s : State) (t : Nat) (f : Tenant → Tenant) : (s.updTen t f).turns = s.turns := rfl
@[simp] theorem State.updTen_cur (s : State) (t : Nat) (f : Tenant → Tenant) : (s.updTen t f).cur = s.cur := rfl
@[simp] theorem State.updTen_tick (s : State) (t : Nat) (f : Tenant → Tenant) : (s.updTen t f).tick = s.tick := rfl

@[simp] theorem State.updRegion_mem (s : State) (r : Nat) (f : Region → Region) : (s.updRegion r f).mem = s.mem := rfl
@[simp] theorem State.updRegion_poison (s : State) (r : Nat) (f : Region → Region) : (s.updRegion r f).poison = s.poison := rfl
@[simp] theorem State.updRegion_cores (s : State) (r : Nat) (f : Region → Region) : (s.updRegion r f).cores = s.cores := rfl
@[simp] theorem State.updRegion_domains (s : State) (r : Nat) (f : Region → Region) : (s.updRegion r f).domains = s.domains := rfl
@[simp] theorem State.updRegion_tenants (s : State) (r : Nat) (f : Region → Region) : (s.updRegion r f).tenants = s.tenants := rfl
@[simp] theorem State.updRegion_images (s : State) (r : Nat) (f : Region → Region) : (s.updRegion r f).images = s.images := rfl
@[simp] theorem State.updRegion_tree (s : State) (r : Nat) (f : Region → Region) : (s.updRegion r f).tree = s.tree := rfl
@[simp] theorem State.updRegion_saves (s : State) (r : Nat) (f : Region → Region) : (s.updRegion r f).saves = s.saves := rfl
@[simp] theorem State.updRegion_past (s : State) (r : Nat) (f : Region → Region) : (s.updRegion r f).past = s.past := rfl
@[simp] theorem State.updRegion_mod (s : State) (r : Nat) (f : Region → Region) : (s.updRegion r f).mod = s.mod := rfl
@[simp] theorem State.updRegion_now (s : State) (r : Nat) (f : Region → Region) : (s.updRegion r f).now = s.now := rfl
@[simp] theorem State.updRegion_turns (s : State) (r : Nat) (f : Region → Region) : (s.updRegion r f).turns = s.turns := rfl
@[simp] theorem State.updRegion_cur (s : State) (r : Nat) (f : Region → Region) : (s.updRegion r f).cur = s.cur := rfl
@[simp] theorem State.updRegion_tick (s : State) (r : Nat) (f : Region → Region) : (s.updRegion r f).tick = s.tick := rfl

@[simp] theorem State.updMod_mem (s : State) (f : Module → Module) : (s.updMod f).mem = s.mem := rfl
@[simp] theorem State.updMod_poison (s : State) (f : Module → Module) : (s.updMod f).poison = s.poison := rfl
@[simp] theorem State.updMod_cores (s : State) (f : Module → Module) : (s.updMod f).cores = s.cores := rfl
@[simp] theorem State.updMod_domains (s : State) (f : Module → Module) : (s.updMod f).domains = s.domains := rfl
@[simp] theorem State.updMod_regions (s : State) (f : Module → Module) : (s.updMod f).regions = s.regions := rfl
@[simp] theorem State.updMod_tenants (s : State) (f : Module → Module) : (s.updMod f).tenants = s.tenants := rfl
@[simp] theorem State.updMod_images (s : State) (f : Module → Module) : (s.updMod f).images = s.images := rfl
@[simp] theorem State.updMod_tree (s : State) (f : Module → Module) : (s.updMod f).tree = s.tree := rfl
@[simp] theorem State.updMod_saves (s : State) (f : Module → Module) : (s.updMod f).saves = s.saves := rfl
@[simp] theorem State.updMod_past (s : State) (f : Module → Module) : (s.updMod f).past = s.past := rfl
@[simp] theorem State.updMod_now (s : State) (f : Module → Module) : (s.updMod f).now = s.now := rfl
@[simp] theorem State.updMod_turns (s : State) (f : Module → Module) : (s.updMod f).turns = s.turns := rfl
@[simp] theorem State.updMod_cur (s : State) (f : Module → Module) : (s.updMod f).cur = s.cur := rfl
@[simp] theorem State.updMod_tick (s : State) (f : Module → Module) : (s.updMod f).tick = s.tick := rfl

@[simp] theorem State.updBlock_mem (s : State) (c b : Nat) (f : Block → Block) : (s.updBlock c b f).mem = s.mem := rfl
@[simp] theorem State.updBlock_poison (s : State) (c b : Nat) (f : Block → Block) : (s.updBlock c b f).poison = s.poison := rfl
@[simp] theorem State.updBlock_domains (s : State) (c b : Nat) (f : Block → Block) : (s.updBlock c b f).domains = s.domains := rfl
@[simp] theorem State.updBlock_regions (s : State) (c b : Nat) (f : Block → Block) : (s.updBlock c b f).regions = s.regions := rfl
@[simp] theorem State.updBlock_tenants (s : State) (c b : Nat) (f : Block → Block) : (s.updBlock c b f).tenants = s.tenants := rfl
@[simp] theorem State.updBlock_images (s : State) (c b : Nat) (f : Block → Block) : (s.updBlock c b f).images = s.images := rfl
@[simp] theorem State.updBlock_tree (s : State) (c b : Nat) (f : Block → Block) : (s.updBlock c b f).tree = s.tree := rfl
@[simp] theorem State.updBlock_saves (s : State) (c b : Nat) (f : Block → Block) : (s.updBlock c b f).saves = s.saves := rfl
@[simp] theorem State.updBlock_past (s : State) (c b : Nat) (f : Block → Block) : (s.updBlock c b f).past = s.past := rfl
@[simp] theorem State.updBlock_mod (s : State) (c b : Nat) (f : Block → Block) : (s.updBlock c b f).mod = s.mod := rfl
@[simp] theorem State.updBlock_now (s : State) (c b : Nat) (f : Block → Block) : (s.updBlock c b f).now = s.now := rfl
@[simp] theorem State.updBlock_turns (s : State) (c b : Nat) (f : Block → Block) : (s.updBlock c b f).turns = s.turns := rfl
@[simp] theorem State.updBlock_cur (s : State) (c b : Nat) (f : Block → Block) : (s.updBlock c b f).cur = s.cur := rfl
@[simp] theorem State.updBlock_tick (s : State) (c b : Nat) (f : Block → Block) : (s.updBlock c b f).tick = s.tick := rfl

@[simp] theorem State.updGroup_mem (s : State) (c b g : Nat) (f : Group → Group) : (s.updGroup c b g f).mem = s.mem := rfl
@[simp] theorem State.updGroup_poison (s : State) (c b g : Nat) (f : Group → Group) : (s.updGroup c b g f).poison = s.poison := rfl
@[simp] theorem State.updGroup_domains (s : State) (c b g : Nat) (f : Group → Group) : (s.updGroup c b g f).domains = s.domains := rfl
@[simp] theorem State.updGroup_regions (s : State) (c b g : Nat) (f : Group → Group) : (s.updGroup c b g f).regions = s.regions := rfl
@[simp] theorem State.updGroup_tenants (s : State) (c b g : Nat) (f : Group → Group) : (s.updGroup c b g f).tenants = s.tenants := rfl
@[simp] theorem State.updGroup_images (s : State) (c b g : Nat) (f : Group → Group) : (s.updGroup c b g f).images = s.images := rfl
@[simp] theorem State.updGroup_tree (s : State) (c b g : Nat) (f : Group → Group) : (s.updGroup c b g f).tree = s.tree := rfl
@[simp] theorem State.updGroup_saves (s : State) (c b g : Nat) (f : Group → Group) : (s.updGroup c b g f).saves = s.saves := rfl
@[simp] theorem State.updGroup_past (s : State) (c b g : Nat) (f : Group → Group) : (s.updGroup c b g f).past = s.past := rfl
@[simp] theorem State.updGroup_mod (s : State) (c b g : Nat) (f : Group → Group) : (s.updGroup c b g f).mod = s.mod := rfl
@[simp] theorem State.updGroup_now (s : State) (c b g : Nat) (f : Group → Group) : (s.updGroup c b g f).now = s.now := rfl
@[simp] theorem State.updGroup_turns (s : State) (c b g : Nat) (f : Group → Group) : (s.updGroup c b g f).turns = s.turns := rfl
@[simp] theorem State.updGroup_cur (s : State) (c b g : Nat) (f : Group → Group) : (s.updGroup c b g f).cur = s.cur := rfl
@[simp] theorem State.updGroup_tick (s : State) (c b g : Nat) (f : Group → Group) : (s.updGroup c b g f).tick = s.tick := rfl

@[simp] theorem State.updChan_mem (s : State) (c ch : Nat) (f : Chan → Chan) : (s.updChan c ch f).mem = s.mem := rfl
@[simp] theorem State.updChan_poison (s : State) (c ch : Nat) (f : Chan → Chan) : (s.updChan c ch f).poison = s.poison := rfl
@[simp] theorem State.updChan_domains (s : State) (c ch : Nat) (f : Chan → Chan) : (s.updChan c ch f).domains = s.domains := rfl
@[simp] theorem State.updChan_regions (s : State) (c ch : Nat) (f : Chan → Chan) : (s.updChan c ch f).regions = s.regions := rfl
@[simp] theorem State.updChan_tenants (s : State) (c ch : Nat) (f : Chan → Chan) : (s.updChan c ch f).tenants = s.tenants := rfl
@[simp] theorem State.updChan_images (s : State) (c ch : Nat) (f : Chan → Chan) : (s.updChan c ch f).images = s.images := rfl
@[simp] theorem State.updChan_tree (s : State) (c ch : Nat) (f : Chan → Chan) : (s.updChan c ch f).tree = s.tree := rfl
@[simp] theorem State.updChan_saves (s : State) (c ch : Nat) (f : Chan → Chan) : (s.updChan c ch f).saves = s.saves := rfl
@[simp] theorem State.updChan_past (s : State) (c ch : Nat) (f : Chan → Chan) : (s.updChan c ch f).past = s.past := rfl
@[simp] theorem State.updChan_mod (s : State) (c ch : Nat) (f : Chan → Chan) : (s.updChan c ch f).mod = s.mod := rfl
@[simp] theorem State.updChan_now (s : State) (c ch : Nat) (f : Chan → Chan) : (s.updChan c ch f).now = s.now := rfl
@[simp] theorem State.updChan_turns (s : State) (c ch : Nat) (f : Chan → Chan) : (s.updChan c ch f).turns = s.turns := rfl
@[simp] theorem State.updChan_cur (s : State) (c ch : Nat) (f : Chan → Chan) : (s.updChan c ch f).cur = s.cur := rfl
@[simp] theorem State.updChan_tick (s : State) (c ch : Nat) (f : Chan → Chan) : (s.updChan c ch f).tick = s.tick := rfl

@[simp] theorem State.updLaunch_mem (s : State) (t l : Nat) (f : Launch → Launch) : (s.updLaunch t l f).mem = s.mem := rfl
@[simp] theorem State.updLaunch_poison (s : State) (t l : Nat) (f : Launch → Launch) : (s.updLaunch t l f).poison = s.poison := rfl
@[simp] theorem State.updLaunch_cores (s : State) (t l : Nat) (f : Launch → Launch) : (s.updLaunch t l f).cores = s.cores := rfl
@[simp] theorem State.updLaunch_domains (s : State) (t l : Nat) (f : Launch → Launch) : (s.updLaunch t l f).domains = s.domains := rfl
@[simp] theorem State.updLaunch_regions (s : State) (t l : Nat) (f : Launch → Launch) : (s.updLaunch t l f).regions = s.regions := rfl
@[simp] theorem State.updLaunch_images (s : State) (t l : Nat) (f : Launch → Launch) : (s.updLaunch t l f).images = s.images := rfl
@[simp] theorem State.updLaunch_tree (s : State) (t l : Nat) (f : Launch → Launch) : (s.updLaunch t l f).tree = s.tree := rfl
@[simp] theorem State.updLaunch_saves (s : State) (t l : Nat) (f : Launch → Launch) : (s.updLaunch t l f).saves = s.saves := rfl
@[simp] theorem State.updLaunch_past (s : State) (t l : Nat) (f : Launch → Launch) : (s.updLaunch t l f).past = s.past := rfl
@[simp] theorem State.updLaunch_mod (s : State) (t l : Nat) (f : Launch → Launch) : (s.updLaunch t l f).mod = s.mod := rfl
@[simp] theorem State.updLaunch_now (s : State) (t l : Nat) (f : Launch → Launch) : (s.updLaunch t l f).now = s.now := rfl
@[simp] theorem State.updLaunch_turns (s : State) (t l : Nat) (f : Launch → Launch) : (s.updLaunch t l f).turns = s.turns := rfl
@[simp] theorem State.updLaunch_cur (s : State) (t l : Nat) (f : Launch → Launch) : (s.updLaunch t l f).cur = s.cur := rfl
@[simp] theorem State.updLaunch_tick (s : State) (t l : Nat) (f : Launch → Launch) : (s.updLaunch t l f).tick = s.tick := rfl

@[simp] theorem State.updCore_dom (s : State) (c : Nat) (f : Core → Core) (i : Nat) : (s.updCore c f).dom i = s.dom i := rfl
@[simp] theorem State.updCore_ten (s : State) (c : Nat) (f : Core → Core) (i : Nat) : (s.updCore c f).ten i = s.ten i := rfl
@[simp] theorem State.updCore_region (s : State) (c : Nat) (f : Core → Core) (i : Nat) : (s.updCore c f).region i = s.region i := rfl

@[simp] theorem State.updDom_core (s : State) (d : Nat) (f : Domain → Domain) (i : Nat) : (s.updDom d f).core i = s.core i := rfl
@[simp] theorem State.updDom_ten (s : State) (d : Nat) (f : Domain → Domain) (i : Nat) : (s.updDom d f).ten i = s.ten i := rfl
@[simp] theorem State.updDom_region (s : State) (d : Nat) (f : Domain → Domain) (i : Nat) : (s.updDom d f).region i = s.region i := rfl
@[simp] theorem State.updDom_block (s : State) (d : Nat) (f : Domain → Domain) (i j : Nat) : (s.updDom d f).block i j = s.block i j := rfl
@[simp] theorem State.updDom_group (s : State) (d : Nat) (f : Domain → Domain) (i j k : Nat) : (s.updDom d f).group i j k = s.group i j k := rfl

@[simp] theorem State.updTen_core (s : State) (t : Nat) (f : Tenant → Tenant) (i : Nat) : (s.updTen t f).core i = s.core i := rfl
@[simp] theorem State.updTen_dom (s : State) (t : Nat) (f : Tenant → Tenant) (i : Nat) : (s.updTen t f).dom i = s.dom i := rfl
@[simp] theorem State.updTen_region (s : State) (t : Nat) (f : Tenant → Tenant) (i : Nat) : (s.updTen t f).region i = s.region i := rfl
@[simp] theorem State.updTen_block (s : State) (t : Nat) (f : Tenant → Tenant) (i j : Nat) : (s.updTen t f).block i j = s.block i j := rfl
@[simp] theorem State.updTen_group (s : State) (t : Nat) (f : Tenant → Tenant) (i j k : Nat) : (s.updTen t f).group i j k = s.group i j k := rfl

@[simp] theorem State.updRegion_core (s : State) (r : Nat) (f : Region → Region) (i : Nat) : (s.updRegion r f).core i = s.core i := rfl
@[simp] theorem State.updRegion_dom (s : State) (r : Nat) (f : Region → Region) (i : Nat) : (s.updRegion r f).dom i = s.dom i := rfl
@[simp] theorem State.updRegion_ten (s : State) (r : Nat) (f : Region → Region) (i : Nat) : (s.updRegion r f).ten i = s.ten i := rfl
@[simp] theorem State.updRegion_block (s : State) (r : Nat) (f : Region → Region) (i j : Nat) : (s.updRegion r f).block i j = s.block i j := rfl
@[simp] theorem State.updRegion_group (s : State) (r : Nat) (f : Region → Region) (i j k : Nat) : (s.updRegion r f).group i j k = s.group i j k := rfl

@[simp] theorem State.updMod_core (s : State) (f : Module → Module) (i : Nat) : (s.updMod f).core i = s.core i := rfl
@[simp] theorem State.updMod_dom (s : State) (f : Module → Module) (i : Nat) : (s.updMod f).dom i = s.dom i := rfl
@[simp] theorem State.updMod_ten (s : State) (f : Module → Module) (i : Nat) : (s.updMod f).ten i = s.ten i := rfl
@[simp] theorem State.updMod_region (s : State) (f : Module → Module) (i : Nat) : (s.updMod f).region i = s.region i := rfl
@[simp] theorem State.updMod_block (s : State) (f : Module → Module) (i j : Nat) : (s.updMod f).block i j = s.block i j := rfl
@[simp] theorem State.updMod_group (s : State) (f : Module → Module) (i j k : Nat) : (s.updMod f).group i j k = s.group i j k := rfl

@[simp] theorem State.updBlock_dom (s : State) (c b : Nat) (f : Block → Block) (i : Nat) : (s.updBlock c b f).dom i = s.dom i := rfl
@[simp] theorem State.updBlock_ten (s : State) (c b : Nat) (f : Block → Block) (i : Nat) : (s.updBlock c b f).ten i = s.ten i := rfl
@[simp] theorem State.updBlock_region (s : State) (c b : Nat) (f : Block → Block) (i : Nat) : (s.updBlock c b f).region i = s.region i := rfl

@[simp] theorem State.updGroup_dom (s : State) (c b g : Nat) (f : Group → Group) (i : Nat) : (s.updGroup c b g f).dom i = s.dom i := rfl
@[simp] theorem State.updGroup_ten (s : State) (c b g : Nat) (f : Group → Group) (i : Nat) : (s.updGroup c b g f).ten i = s.ten i := rfl
@[simp] theorem State.updGroup_region (s : State) (c b g : Nat) (f : Group → Group) (i : Nat) : (s.updGroup c b g f).region i = s.region i := rfl

@[simp] theorem State.updChan_dom (s : State) (c ch : Nat) (f : Chan → Chan) (i : Nat) : (s.updChan c ch f).dom i = s.dom i := rfl
@[simp] theorem State.updChan_ten (s : State) (c ch : Nat) (f : Chan → Chan) (i : Nat) : (s.updChan c ch f).ten i = s.ten i := rfl
@[simp] theorem State.updChan_region (s : State) (c ch : Nat) (f : Chan → Chan) (i : Nat) : (s.updChan c ch f).region i = s.region i := rfl

@[simp] theorem State.updLaunch_core (s : State) (t l : Nat) (f : Launch → Launch) (i : Nat) : (s.updLaunch t l f).core i = s.core i := rfl
@[simp] theorem State.updLaunch_dom (s : State) (t l : Nat) (f : Launch → Launch) (i : Nat) : (s.updLaunch t l f).dom i = s.dom i := rfl
@[simp] theorem State.updLaunch_region (s : State) (t l : Nat) (f : Launch → Launch) (i : Nat) : (s.updLaunch t l f).region i = s.region i := rfl
@[simp] theorem State.updLaunch_block (s : State) (t l : Nat) (f : Launch → Launch) (i j : Nat) : (s.updLaunch t l f).block i j = s.block i j := rfl
@[simp] theorem State.updLaunch_group (s : State) (t l : Nat) (f : Launch → Launch) (i j k : Nat) : (s.updLaunch t l f).group i j k = s.group i j k := rfl

theorem State.updCore_core_self (s : State) (c : Nat) (f : Core → Core) : (s.updCore c f).core c = f (s.core c) := by
  simp [State.core, State.updCore, kget_kset_self]
theorem State.updCore_core_ne (s : State) {c i : Nat} (f : Core → Core) (h : i ≠ c) : (s.updCore c f).core i = s.core i := by
  simp [State.core, State.updCore, kget_kset_ne _ _ h]
theorem State.updDom_dom_self (s : State) (d : Nat) (f : Domain → Domain) : (s.updDom d f).dom d = f (s.dom d) := by
  simp [State.dom, State.updDom, kget_kset_self]
theorem State.updDom_dom_ne (s : State) {d i : Nat} (f : Domain → Domain) (h : i ≠ d) : (s.updDom d f).dom i = s.dom i := by
  simp [State.dom, State.updDom, kget_kset_ne _ _ h]
theorem State.updTen_ten_self (s : State) (t : Nat) (f : Tenant → Tenant) : (s.updTen t f).ten t = f (s.ten t) := by
  simp [State.ten, State.updTen, kget_kset_self]
theorem State.updTen_ten_ne (s : State) {t i : Nat} (f : Tenant → Tenant) (h : i ≠ t) : (s.updTen t f).ten i = s.ten i := by
  simp [State.ten, State.updTen, kget_kset_ne _ _ h]
theorem State.updRegion_region_self (s : State) (r : Nat) (f : Region → Region) :
    (s.updRegion r f).region r = f (s.region r) := by
  simp [State.region, State.updRegion, kget_kset_self]
theorem State.updRegion_region_ne (s : State) {r i : Nat} (f : Region → Region) (h : i ≠ r) :
    (s.updRegion r f).region i = s.region i := by
  simp [State.region, State.updRegion, kget_kset_ne _ _ h]

/-- Two updates of one core are one. -/
theorem State.updCore_updCore (s : State) (c : Nat) (f g : Core → Core) :
    (s.updCore c f).updCore c g = s.updCore c (fun k => g (f k)) := by
  have h := State.updCore_core_self s c f
  simp only [State.updCore] at h ⊢
  rw [h, kset_kset]

theorem State.updBlock_block_self (s : State) (c b : Nat) (f : Block → Block) :
    (s.updBlock c b f).block c b = (s.block c b).map f := by
  simp [State.block, State.updBlock, State.updCore_core_self, kget_kupd_self]
theorem State.updBlock_block_ne (s : State) {c b i j : Nat} (f : Block → Block) (h : (i, j) ≠ (c, b)) :
    (s.updBlock c b f).block i j = s.block i j := by
  unfold State.block State.updBlock
  by_cases hi : i = c
  · subst hi
    rw [State.updCore_core_self, kget_kupd_ne]
    exact fun hj => h (by rw [hj])
  · rw [State.updCore_core_ne s _ hi]

/-- Two updates of one block are one. -/
theorem State.updBlock_updBlock (s : State) (c b : Nat) (f g : Block → Block) :
    (s.updBlock c b f).updBlock c b g = s.updBlock c b (fun k => g (f k)) := by
  simp [State.updBlock, State.updCore_updCore, kupd_kupd]

/-- Only the block that is there matters to an update. -/
theorem State.updBlock_congr (s : State) (c b : Nat) (f g : Block → Block) (h : ∀ k, s.block c b = some k → f k = g k) :
    s.updBlock c b f = s.updBlock c b g := by
  have e := kupd_congr (s.core c).blocks b f g h
  simp only [State.updBlock, State.updCore, e]

theorem State.updGroup_group_self (s : State) (c b g : Nat) (f : Group → Group) :
    (s.updGroup c b g f).group c b g = (s.group c b g).map f := by
  unfold State.group State.updGroup
  rw [State.updBlock_block_self]
  cases s.block c b with
  | none => rfl
  | some k => simp [kget_kupd_self]
theorem State.updGroup_group_ne (s : State) {c b g i j k : Nat} (f : Group → Group) (h : (i, j, k) ≠ (c, b, g)) :
    (s.updGroup c b g f).group i j k = s.group i j k := by
  unfold State.group State.updGroup
  by_cases hb : (i, j) = (c, b)
  · obtain ⟨rfl, rfl⟩ := Prod.mk.injEq .. ▸ hb
    rw [State.updBlock_block_self]
    cases s.block i j with
    | none => rfl
    | some x =>
      simp only [Option.map_some, Option.bind_some]
      rw [kget_kupd_ne]
      exact fun hk => h (by rw [hk])
  · rw [State.updBlock_block_ne s _ hb]

/-- Two updates of one group are one. -/
theorem State.updGroup_updGroup (s : State) (c b g : Nat) (f f' : Group → Group) :
    (s.updGroup c b g f).updGroup c b g f' = s.updGroup c b g (fun x => f' (f x)) := by
  simp [State.updGroup, State.updBlock_updBlock, kupd_kupd]

/-- Only the group that is there matters to an update. -/
theorem State.updGroup_congr (s : State) (c b g : Nat) (f f' : Group → Group) (h : ∀ x, s.group c b g = some x → f x = f' x) :
    s.updGroup c b g f = s.updGroup c b g f' := by
  unfold State.updGroup
  refine State.updBlock_congr s c b _ _ fun k hk => ?_
  rw [kupd_congr k.groups g f f' (fun x hx => h x (by simp [State.group, hk, hx]))]

/-- An update of the group that is there, as its new value. -/
theorem State.updGroup_const (s : State) (c b g : Nat) (f : Group → Group) (x : Group) (h : s.group c b g = some x) :
    s.updGroup c b g f = s.updGroup c b g (fun _ => f x) :=
  State.updGroup_congr s c b g f _ fun y hy => by rw [h] at hy; rw [Option.some.inj hy]

/-- A group's update changes its core's blocks alone. -/
theorem State.updGroup_core (s : State) (c b g : Nat) (f : Group → Group) (i : Nat) :
    (s.updGroup c b g f).core i = { s.core i with blocks := ((s.updGroup c b g f).core i).blocks } := by
  unfold State.updGroup State.updBlock
  by_cases h : i = c
  · subst h; rw [State.updCore_core_self]
  · rw [State.updCore_core_ne s _ h]
@[simp] theorem State.updGroup_chans (s : State) (c b g : Nat) (f : Group → Group) (i : Nat) :
    ((s.updGroup c b g f).core i).chans = (s.core i).chans := by rw [State.updGroup_core]
@[simp] theorem State.updGroup_kept (s : State) (c b g : Nat) (f : Group → Group) (i : Nat) :
    ((s.updGroup c b g f).core i).kept = (s.core i).kept := by rw [State.updGroup_core]
@[simp] theorem State.updGroup_keptChans (s : State) (c b g : Nat) (f : Group → Group) (i : Nat) :
    ((s.updGroup c b g f).core i).keptChans = (s.core i).keptChans := by rw [State.updGroup_core]
@[simp] theorem State.updGroup_coreTenant (s : State) (c b g : Nat) (f : Group → Group) (i : Nat) :
    (s.updGroup c b g f).coreTenant i = s.coreTenant i := by unfold State.coreTenant; rw [State.updGroup_core]

/-- Updates of a channel entry and of a group commute. -/
theorem State.updChan_updGroup (s : State) (c ch b g : Nat) (f : Chan → Chan) (f' : Group → Group) :
    (s.updGroup c b g f').updChan c ch f = (s.updChan c ch f).updGroup c b g f' := by
  simp [State.updGroup, State.updBlock, State.updChan, State.updCore_updCore]

/-- Updates of a tenant and of a group commute. -/
theorem State.updTen_updGroup (s : State) (t c b g : Nat) (f : Tenant → Tenant) (f' : Group → Group) :
    (s.updTen t f).updGroup c b g f' = (s.updGroup c b g f').updTen t f := rfl

end Sys2Proof.Machine
end

