-- ==== Sys2Proof/Laws/Groups.lean ====
section
/-! SUPPORT. How a group's issue settles: what `here`, the opening and the end of an issue leave, and that checks and source
operands do not see the group's own update. -/
namespace Sys2Proof.Machine
open Sys2Proof

/-- The agent found is a group of its block, at its selected entry. -/
theorem here_spec {s : State} {h : Here} (hh : here s = some h) :
    s.block h.c h.b = some h.blk ∧ kget h.blk.groups h.g = some h.grp ∧ selectEntry h.grp = some h.ent ∧
    h.tick = s.tick ∧ s.cur = ⟨h.c, h.b, some h.g⟩ := by
  unfold here at hh
  cases hg : s.cur.grp with
  | none => simp [hg] at hh
  | some g =>
    simp only [hg] at hh
    cases hk : s.block s.cur.core s.cur.block with
    | none => simp [hk] at hh
    | some k =>
      simp only [hk, Option.bind_some] at hh
      cases hx : kget k.groups g with
      | none => simp [hx] at hh
      | some x =>
        simp only [hx, Option.bind_some] at hh
        cases he : selectEntry x with
        | none => simp [he] at hh
        | some e =>
          simp only [he, Option.map_some, Option.some.injEq] at hh
          subst hh
          refine ⟨hk, hx, he, rfl, ?_⟩
          cases hc : s.cur
          simp_all

theorem here_group {s : State} {h : Here} (hh : here s = some h) : s.group h.c h.b h.g = some h.grp := by
  obtain ⟨h1, h2, -⟩ := here_spec hh
  simp [State.group, h1, h2]

/-- An issue opens with the opportunity counted. -/
theorem openIssue_group {s : State} {h : Here} (hh : here s = some h) :
    (openIssue s h).group h.c h.b h.g = some h.counted := by
  simp [openIssue, State.updGroup_group_self, here_group hh, Here.counted]

/-- Several updates of the group that is there, as one. -/
theorem updGroup_to (s : State) (c b g : Nat) (f : Group → Group) {x y : Group} (h : s.group c b g = some x) (hy : f x = y) :
    s.updGroup c b g f = s.updGroup c b g fun _ => y := by
  rw [State.updGroup_const s c b g f x h, hy]

/-- An instruction that completes leaves its group advanced. -/
theorem settle_fin (u : State) (h : Here) (len : Nat) (sb : Bool) {g : Group} (hg : u.group h.c h.b h.g = some g)
    (ht : u.tick = h.tick) :
    settleOut h len sb (.fin u) = u.updGroup h.c h.b h.g fun _ => h.advanced len sb g := by
  simp only [settleOut, finishIssue, State.updGroup_updGroup, State.updGroup_tick]
  refine updGroup_to _ _ _ _ _ hg ?_
  simp [Here.advanced, ht]

/-- A squashed or unguarded uniform instruction, or one whose guard leaves no lane, only advances (R180). -/
theorem settle_idle {s : State} {h : Here} (hh : here s = some h) (len : Nat) (sb : Bool) :
    settleOut h len sb (.fin (openIssue s h)) = s.updGroup h.c h.b h.g fun _ => h.advanced len sb h.counted := by
  rw [settle_fin _ h len sb (openIssue_group hh) (by simp [openIssue, (here_spec hh).2.2.2.1])]
  simp [openIssue, State.updGroup_updGroup]

@[simp] theorem updGroup_chan (s : State) (c b g : Nat) (f : Group → Group) (i j : Nat) :
    ((s.updGroup c b g f).core i).chan j = (s.core i).chan j := by
  simp [Core.chan]

@[simp] theorem updGroup_vqFree (s : State) (c b g : Nat) (f : Group → Group) (i : Nat) :
    ((s.updGroup c b g f).core i).vqFree = (s.core i).vqFree := by
  rw [State.updGroup_core]; rfl

/-- Whether an entry is frozen does not depend on a group. -/
@[simp] theorem frozenTo_updGroup (s : State) (c b g : Nat) (f : Group → Group) (i : Nat) (own : Option Nat) (dst ch : Nat) :
    frozenTo (s.updGroup c b g f) i own dst ch = frozenTo s i own dst ch := by
  simp [frozenTo]

/-- The channel checks do not see a group's update. -/
@[simp] theorem chanCheck_updGroup (s : State) (h : Here) (c b g : Nat) (f : Group → Group) (srcs : List (Nat × Bool × Nat))
    (push : Option (Nat × Nat)) : chanCheck (s.updGroup c b g f) h srcs push = chanCheck s h srcs push := by
  simp only [chanCheck, updGroup_chan, updGroup_vqFree, peerFrozen, frozenTo_updGroup]
  rfl

theorem popWords_updGroup (s : State) (c b g : Nat) (f : Group → Group) (ch n : Nat) :
    popWords (s.updGroup c b g f) c ch n = (popWords s c ch n).updGroup c b g f := by
  simp [popWords, State.updChan_updGroup]

/-- Source operands and their pops do not see the group's own update. -/
theorem fetchSrcs_updGroup (s : State) (h : Here) (r : Row) (x : Ext) (ls : List Nat) (f : Group → Group) :
    fetchSrcs (s.updGroup h.c h.b h.g f) h r x ls =
      ((fetchSrcs s h r x ls).1, (fetchSrcs s h r x ls).2.updGroup h.c h.b h.g f) := by
  have hp : ∀ (ps : List (Nat × Bool × Nat)) (s : State),
      ps.foldl (fun s (p : Nat × Bool × Nat) => popWords s h.c p.1 p.2.2) (s.updGroup h.c h.b h.g f) =
        (ps.foldl (fun s (p : Nat × Bool × Nat) => popWords s h.c p.1 p.2.2) s).updGroup h.c h.b h.g f := by
    intro ps
    induction ps with
    | nil => intro s; rfl
    | cons p r ih => intro s; simp only [List.foldl_cons, popWords_updGroup, ih]
  simp only [fetchSrcs, updGroup_chan, hp]

/-- Channel pops leave every group as it was. -/
theorem popWords_group (s : State) (c ch n i j k : Nat) : (popWords s c ch n).group i j k = s.group i j k := by
  unfold State.group State.block popWords State.updChan
  by_cases h : i = c
  · subst h; simp [State.updCore_core_self]
  · simp [State.updCore_core_ne _ _ h]

theorem fetchSrcs_group (s : State) (h : Here) (r : Row) (x : Ext) (ls : List Nat) (i j k : Nat) :
    (fetchSrcs s h r x ls).2.group i j k = s.group i j k := by
  have hp : ∀ (ps : List (Nat × Bool × Nat)) (s : State),
      (ps.foldl (fun s (p : Nat × Bool × Nat) => popWords s h.c p.1 p.2.2) s).group i j k = s.group i j k := by
    intro ps
    induction ps with
    | nil => intro s; rfl
    | cons p r ih => intro s; simp only [List.foldl_cons, ih, popWords_group]
  simp only [fetchSrcs, hp]

/-- Source operands leave every part of the state but the cores as it was. -/
theorem fetchSrcs_rest (s : State) (h : Here) (r : Row) (x : Ext) (ls : List Nat) :
    (fetchSrcs s h r x ls).2 = { s with cores := (fetchSrcs s h r x ls).2.cores } := by
  have hp : ∀ (ps : List (Nat × Bool × Nat)) (s : State),
      ps.foldl (fun s (p : Nat × Bool × Nat) => popWords s h.c p.1 p.2.2) s =
        { s with cores := (ps.foldl (fun s (p : Nat × Bool × Nat) => popWords s h.c p.1 p.2.2) s).cores } := by
    intro ps
    induction ps with
    | nil => intro s; rfl
    | cons p r ih =>
      intro s
      simp only [List.foldl_cons]
      rw [ih]
      rfl
  simp only [fetchSrcs]
  exact hp _ s

@[simp] theorem fetchSrcs_tick (s : State) (h : Here) (r : Row) (x : Ext) (ls : List Nat) :
    (fetchSrcs s h r x ls).2.tick = s.tick := by rw [fetchSrcs_rest]
@[simp] theorem fetchSrcs_mem (s : State) (h : Here) (r : Row) (x : Ext) (ls : List Nat) :
    (fetchSrcs s h r x ls).2.mem = s.mem := by rw [fetchSrcs_rest]

/-- A flag raised by a group is counted for its job, whatever becomes of the group (R164). -/
theorem countFlags_updGroup (s : State) (c b g t : Nat) (fl : Flags) (f : Group → Group) :
    (countFlags s t fl).updGroup c b g f = countFlags (s.updGroup c b g f) t fl := by
  unfold countFlags
  split <;> rfl

@[simp] theorem countFlags_group (s : State) (t : Nat) (fl : Flags) (c b g : Nat) :
    (countFlags s t fl).group c b g = s.group c b g := by
  unfold countFlags
  split <;> rfl
@[simp] theorem countFlags_tick (s : State) (t : Nat) (fl : Flags) : (countFlags s t fl).tick = s.tick := by
  unfold countFlags
  split <;> rfl
@[simp] theorem countFlags_mem (s : State) (t : Nat) (fl : Flags) : (countFlags s t fl).mem = s.mem := by
  unfold countFlags
  split <;> rfl

/-- Raise(f), with the group's next update: the group's flags and the job's counters (R162, R164). -/
theorem raiseFlags_updGroup (s : State) (c b g t : Nat) (fl : Flags) (f : Group → Group) :
    (raiseFlags s c b g t fl).updGroup c b g f =
      countFlags (s.updGroup c b g fun k => f { k with fflags := k.fflags ||| fl }) t fl := by
  unfold raiseFlags
  split
  · rename_i h
    have : fl = 0 := by simpa using h
    subst this
    simp [countFlags]
  · rw [countFlags_updGroup, State.updGroup_updGroup]

theorem raiseFlags_group (s : State) (c b g t : Nat) (fl : Flags) :
    (raiseFlags s c b g t fl).group c b g = (s.group c b g).map fun k => { k with fflags := k.fflags ||| fl } := by
  unfold raiseFlags
  split
  · rename_i h
    have : fl = 0 := by simpa using h
    subst this
    simp
  · simp [State.updGroup_group_self]
@[simp] theorem raiseFlags_tick (s : State) (c b g t : Nat) (fl : Flags) : (raiseFlags s c b g t fl).tick = s.tick := by
  unfold raiseFlags
  split <;> simp

/-- The issue of a group instruction, once the agent is found. -/
theorem issueGroup_here {s : State} {h : Here} (hh : here s = some h) (len : Nat) (sb : Bool) (body : Here → State → Out) :
    issueGroup s len sb body = .next (settleOut h len sb (body h (openIssue s h))) := by
  simp [issueGroup, hh]

/-- A p-guarded instruction that passes its checks acts on its active lanes. -/
theorem vecBody_issues {s : State} {h : Here} {r : Row} {x : Ext} {glob : Bool} (hi : h.vecIssues s r x glob)
    (empty : Here → State → Out) (act : Here → State → Lanes → Out) :
    vecBody r x glob empty act h (openIssue s h) = act h (openIssue s h) (h.active x) := by
  obtain ⟨h1, h2, h3, h4, h5⟩ := hi
  have h2' : ¬ h.active x = 0#64 := h2
  simp [vecBody, h1, h2', withChecks, h3, h4, openIssue, h5]

/-- A q-guarded instruction that passes its checks acts once for the group. -/
theorem uniBody_issues {s : State} {h : Here} {r : Row} {x : Ext} {glob : Bool} (hi : h.uniIssues s r x glob)
    {priv : Here → Bool} (hp : priv h = true) (act : Here → State → Out) :
    uniBody r x glob priv act h (openIssue s h) = act h (openIssue s h) := by
  obtain ⟨h1, h2, h3, h4, h5⟩ := hi
  simp [uniBody, h1, h2, hp, withChecks, h3, h4, openIssue, h5]

/-- With no lane active, a p-guarded instruction takes its other branch (R180). -/
theorem vecBody_empty {h : Here} {r : Row} {x : Ext} {glob : Bool} (h1 : squashed x = false) (h2 : h.active x = 0)
    (empty : Here → State → Out) (act : Here → State → Lanes → Out) (u : State) :
    vecBody r x glob empty act h u = empty h u := by
  simp [vecBody, h1, h2]

/-- The lanes of a set are below 64. -/
theorem laneList_lt {w : Nat} {m : Lanes} {l : Nat} (h : l ∈ laneList w m) : l < 64 := by
  simp only [laneList, List.mem_filter] at h
  rcases Nat.lt_or_ge l 64 with hl | hl
  · exact hl
  · simp [BitVec.getLsbD_of_ge m l hl] at h
theorem laneList_nodup (w : Nat) (m : Lanes) : (laneList w m).Nodup := List.nodup_range.filter _

/-- A register of a lane has a key of its own. -/
theorem vKey_inj {r l i j : Nat} (hl : l < 64) (hj : j < 64) (h : vKey r l = vKey i j) : r = i ∧ l = j := by
  unfold vKey at h; omega

end Sys2Proof.Machine
end

