-- ==== Sys2Proof/Laws/Issue.lean ====
section
/-! SUPPORT. The body that each group and tile instruction runs, by opcode, and that an instruction and its base forms run it. -/
namespace Sys2Proof.Machine
open Sys2Proof

/-- What a group opcode does once the agent is found, at a given length. -/
def groupBody (xop : BitVec 10) (len : Nat) : ExtBody :=
  match xop with
  | 0x210#10 => bodyAtom
  | 0x211#10 => bodyAtomc
  | 0x212#10 => bodyRed
  | 0x213#10 => bodyAtoms
  | 0x214#10 => bodyLda
  | 0x215#10 => bodyStrl
  | 0x216#10 => bodyFence
  | 0x230#10 => bodyBara
  | 0x231#10 => bodyBarw
  | 0x232#10 => bodyBars
  | 0x233#10 => bodyBargen
  | 0x234#10 => bodyBarcfg
  | 0x235#10 => bodySstep
  | 0x260#10 => bodyChcfg
  | 0x261#10 => bodyChstat
  | 0x262#10 => bodyVqsend
  | 0x270#10 => bodyIdmb
  | 0x271#10 => bodyIdme
  | 0x020#10 => bodyBra
  | 0x021#10 => bodyBrx
  | 0x022#10 => bodyCall
  | 0x023#10 => bodyRet len
  | 0x024#10 => bodyJfence
  | 0x025#10 => bodyCfetch
  | 0x026#10 => bodyExit len
  | 0x027#10 => bodyYld len
  | 0x028#10 => bodyReconv
  | 0x029#10 => bodyNop
  | 0x034#10 => bodyCapq
  | 0x038#10 => bodyRdsr
  | 0x039#10 => bodyWrsr
  | 0x03A#10 => bodyTrap
  | 0x03B#10 => bodyEret
  | 0x03C#10 => bodyPreack
  | 0x250#10 => bodyCpy
  | 0x251#10 => bodyCpyr
  | 0x252#10 => bodyCpym
  | 0x253#10 => bodyMack
  | 0x254#10 => bodyChain
  | 0x255#10 => bodyMarm
  | 0x256#10 => bodyMwait
  | 0x13B#10 => bodyV2s
  | 0x140#10 => bodyShfl
  | 0x141#10 => bodyVote
  | 0x142#10 => bodyRedg
  | 0x143#10 => bodyScang
  | 0x144#10 => bodyMatchLanes
  | 0x030#10 => bodySpawn
  | 0x031#10 => bodyJoin
  | 0x032#10 => bodyCancel
  | 0x033#10 => bodyLvlrd
  | 0x200#10 => bodyLdg
  | 0x201#10 => bodyStg
  | 0x202#10 => bodyLds
  | 0x203#10 => bodySts
  | 0x204#10 => bodyLdl
  | 0x205#10 => bodyStl
  | 0x206#10 => bodyLdc
  | 0x207#10 => bodyPfch
  | 0x220#10 => bodyObjdecl
  | 0x221#10 => bodyObjdrop
  | 0x222#10 => bodySealRange
  | 0x223#10 => bodyUnsealRange
  | 0x224#10 => bodyRsdecl
  | 0x225#10 => bodyRsset
  | 0x226#10 => bodyRsevict
  | 0x150#10 => bodyExp2
  | 0x151#10 => bodyLog2
  | 0x152#10 => bodyRcp
  | 0x153#10 => bodyRsq
  | 0x154#10 => bodySqrt
  | 0x155#10 => bodyTanh
  | 0x156#10 => bodyLgst
  | 0x157#10 => bodySinp
  | 0x158#10 => bodyCosp
  | 0x15F#10 => bodySfwait
  | 0x240#10 => bodySbinit
  | 0x241#10 => bodySbtake
  | 0x242#10 => bodySbgive
  | 0x243#10 => bodySbread
  | 0x244#10 => bodySbclose
  | 0x000#10 => bodyUadd
  | 0x001#10 => bodyUsub
  | 0x002#10 => bodyUmul
  | 0x003#10 => bodyUmulh
  | 0x004#10 => bodyUmad
  | 0x005#10 => bodyUand
  | 0x006#10 => bodyUor
  | 0x007#10 => bodyUxor
  | 0x008#10 => bodyUshl
  | 0x009#10 => bodyUshr
  | 0x00A#10 => bodyUsra
  | 0x00B#10 => bodyUmin
  | 0x00C#10 => bodyUmax
  | 0x00D#10 => bodyUclz
  | 0x00E#10 => bodyUpopc
  | 0x00F#10 => bodyUlea
  | 0x010#10 => bodyUsel
  | 0x011#10 => bodyUcmp
  | 0x012#10 => bodyUmov
  | 0x018#10 => bodyUld
  | 0x019#10 => bodyUst
  | 0x100#10 => bodyIadd
  | 0x101#10 => bodyIsub
  | 0x102#10 => bodyImul
  | 0x103#10 => bodyImulh
  | 0x104#10 => bodyImad
  | 0x105#10 => bodyImin
  | 0x106#10 => bodyImax
  | 0x107#10 => bodyIabs
  | 0x108#10 => bodyIand
  | 0x109#10 => bodyIor
  | 0x10A#10 => bodyIxor
  | 0x10B#10 => bodyIshl
  | 0x10C#10 => bodyIshr
  | 0x10D#10 => bodyIsra
  | 0x10E#10 => bodyIclz
  | 0x10F#10 => bodyIpopc
  | 0x110#10 => bodyIbfx
  | 0x111#10 => bodyIbfi
  | 0x112#10 => bodyIset
  | 0x113#10 => bodyIsel
  | 0x120#10 => bodyFadd
  | 0x121#10 => bodyFsub
  | 0x122#10 => bodyFmul
  | 0x123#10 => bodyFfma
  | 0x124#10 => bodyFmin
  | 0x125#10 => bodyFmax
  | 0x126#10 => bodyFset
  | 0x127#10 => bodyFclass
  | 0x128#10 => bodyHadd2
  | 0x129#10 => bodyHmul2
  | 0x12A#10 => bodyHfma2
  | 0x12B#10 => bodyHmin2
  | 0x12C#10 => bodyHmax2
  | 0x130#10 => bodyCvt
  | 0x131#10 => bodyPack4
  | 0x132#10 => bodyUnpk4
  | 0x138#10 => bodyPlop
  | 0x139#10 => bodyMov
  | 0x13A#10 => bodyS2v
  | _ => fun _ _ s => .fin s

/-- What a tile opcode does. -/
def tileBody (xop : BitVec 10) : Ext → State → Nat → Nat → Block → Tile → TRes :=
  match xop with
  | 0x300#10 => bodyTset
  | 0x301#10 => bodyWindow opTdesc
  | 0x302#10 => bodyWindow opTzero
  | 0x303#10 => bodyWindow opTldacc
  | 0x304#10 => bodyWindow opTmma
  | 0x305#10 => bodyWindow opTmmab
  | 0x306#10 => bodyWindow opTscale
  | 0x307#10 => bodyWindow opTtrans
  | 0x308#10 => bodyWindow opTadd
  | 0x309#10 => bodyWindow opTcvt
  | 0x30A#10 => bodyWindow opTstore
  | 0x30B#10 => bodyTbar
  | 0x30C#10 => bodyTloop
  | 0x30D#10 => bodyTend
  | 0x30E#10 => bodyTfence
  | 0x30F#10 => bodyRwperm
  | 0x310#10 => bodyTsave
  | 0x311#10 => bodyTrstr
  | 0x312#10 => bodyTnop
  | 0x313#10 => bodyTexit
  | _ => bodyTnop

theorem groupBody_atom (len : Nat) : groupBody Rows.atom.xop len = bodyAtom := rfl
theorem groupBody_atomc (len : Nat) : groupBody Rows.atomc.xop len = bodyAtomc := rfl
theorem groupBody_red (len : Nat) : groupBody Rows.red.xop len = bodyRed := rfl
theorem groupBody_atoms (len : Nat) : groupBody Rows.atoms.xop len = bodyAtoms := rfl
theorem groupBody_lda (len : Nat) : groupBody Rows.lda.xop len = bodyLda := rfl
theorem groupBody_strl (len : Nat) : groupBody Rows.strl.xop len = bodyStrl := rfl
theorem groupBody_fence (len : Nat) : groupBody Rows.fence.xop len = bodyFence := rfl
theorem groupBody_bara (len : Nat) : groupBody Rows.bara.xop len = bodyBara := rfl
theorem groupBody_barw (len : Nat) : groupBody Rows.barw.xop len = bodyBarw := rfl
theorem groupBody_bars (len : Nat) : groupBody Rows.bars.xop len = bodyBars := rfl
theorem groupBody_bargen (len : Nat) : groupBody Rows.bargen.xop len = bodyBargen := rfl
theorem groupBody_barcfg (len : Nat) : groupBody Rows.barcfg.xop len = bodyBarcfg := rfl
theorem groupBody_sstep (len : Nat) : groupBody Rows.sstep.xop len = bodySstep := rfl
theorem groupBody_chcfg (len : Nat) : groupBody Rows.chcfg.xop len = bodyChcfg := rfl
theorem groupBody_chstat (len : Nat) : groupBody Rows.chstat.xop len = bodyChstat := rfl
theorem groupBody_vqsend (len : Nat) : groupBody Rows.vqsend.xop len = bodyVqsend := rfl
theorem groupBody_idmb (len : Nat) : groupBody Rows.idmb.xop len = bodyIdmb := rfl
theorem groupBody_idme (len : Nat) : groupBody Rows.idme.xop len = bodyIdme := rfl
theorem groupBody_bra (len : Nat) : groupBody Rows.bra.xop len = bodyBra := rfl
theorem groupBody_brx (len : Nat) : groupBody Rows.brx.xop len = bodyBrx := rfl
theorem groupBody_call (len : Nat) : groupBody Rows.call.xop len = bodyCall := rfl
theorem groupBody_ret (len : Nat) : groupBody Rows.ret.xop len = bodyRet len := rfl
theorem groupBody_jfence (len : Nat) : groupBody Rows.jfence.xop len = bodyJfence := rfl
theorem groupBody_cfetch (len : Nat) : groupBody Rows.cfetch.xop len = bodyCfetch := rfl
theorem groupBody_exit (len : Nat) : groupBody Rows.exit.xop len = bodyExit len := rfl
theorem groupBody_yld (len : Nat) : groupBody Rows.yld.xop len = bodyYld len := rfl
theorem groupBody_reconv (len : Nat) : groupBody Rows.reconv.xop len = bodyReconv := rfl
theorem groupBody_nop (len : Nat) : groupBody Rows.nop.xop len = bodyNop := rfl
theorem groupBody_capq (len : Nat) : groupBody Rows.capq.xop len = bodyCapq := rfl
theorem groupBody_rdsr (len : Nat) : groupBody Rows.rdsr.xop len = bodyRdsr := rfl
theorem groupBody_wrsr (len : Nat) : groupBody Rows.wrsr.xop len = bodyWrsr := rfl
theorem groupBody_trap (len : Nat) : groupBody Rows.trap.xop len = bodyTrap := rfl
theorem groupBody_eret (len : Nat) : groupBody Rows.eret.xop len = bodyEret := rfl
theorem groupBody_preack (len : Nat) : groupBody Rows.preack.xop len = bodyPreack := rfl
theorem groupBody_cpy (len : Nat) : groupBody Rows.cpy.xop len = bodyCpy := rfl
theorem groupBody_cpyr (len : Nat) : groupBody Rows.cpyr.xop len = bodyCpyr := rfl
theorem groupBody_cpym (len : Nat) : groupBody Rows.cpym.xop len = bodyCpym := rfl
theorem groupBody_mack (len : Nat) : groupBody Rows.mack.xop len = bodyMack := rfl
theorem groupBody_chain (len : Nat) : groupBody Rows.chain.xop len = bodyChain := rfl
theorem groupBody_marm (len : Nat) : groupBody Rows.marm.xop len = bodyMarm := rfl
theorem groupBody_mwait (len : Nat) : groupBody Rows.mwait.xop len = bodyMwait := rfl
theorem groupBody_v2s (len : Nat) : groupBody Rows.v2s.xop len = bodyV2s := rfl
theorem groupBody_shfl (len : Nat) : groupBody Rows.shfl.xop len = bodyShfl := rfl
theorem groupBody_vote (len : Nat) : groupBody Rows.vote.xop len = bodyVote := rfl
theorem groupBody_redg (len : Nat) : groupBody Rows.redg.xop len = bodyRedg := rfl
theorem groupBody_scang (len : Nat) : groupBody Rows.scang.xop len = bodyScang := rfl
theorem groupBody_matchLanes (len : Nat) : groupBody Rows.matchLanes.xop len = bodyMatchLanes := rfl
theorem groupBody_spawn (len : Nat) : groupBody Rows.spawn.xop len = bodySpawn := rfl
theorem groupBody_join (len : Nat) : groupBody Rows.join.xop len = bodyJoin := rfl
theorem groupBody_cancel (len : Nat) : groupBody Rows.cancel.xop len = bodyCancel := rfl
theorem groupBody_lvlrd (len : Nat) : groupBody Rows.lvlrd.xop len = bodyLvlrd := rfl
theorem groupBody_ldg (len : Nat) : groupBody Rows.ldg.xop len = bodyLdg := rfl
theorem groupBody_stg (len : Nat) : groupBody Rows.stg.xop len = bodyStg := rfl
theorem groupBody_lds (len : Nat) : groupBody Rows.lds.xop len = bodyLds := rfl
theorem groupBody_sts (len : Nat) : groupBody Rows.sts.xop len = bodySts := rfl
theorem groupBody_ldl (len : Nat) : groupBody Rows.ldl.xop len = bodyLdl := rfl
theorem groupBody_stl (len : Nat) : groupBody Rows.stl.xop len = bodyStl := rfl
theorem groupBody_ldc (len : Nat) : groupBody Rows.ldc.xop len = bodyLdc := rfl
theorem groupBody_pfch (len : Nat) : groupBody Rows.pfch.xop len = bodyPfch := rfl
theorem groupBody_objdecl (len : Nat) : groupBody Rows.objdecl.xop len = bodyObjdecl := rfl
theorem groupBody_objdrop (len : Nat) : groupBody Rows.objdrop.xop len = bodyObjdrop := rfl
theorem groupBody_sealRange (len : Nat) : groupBody Rows.sealRange.xop len = bodySealRange := rfl
theorem groupBody_unsealRange (len : Nat) : groupBody Rows.unsealRange.xop len = bodyUnsealRange := rfl
theorem groupBody_rsdecl (len : Nat) : groupBody Rows.rsdecl.xop len = bodyRsdecl := rfl
theorem groupBody_rsset (len : Nat) : groupBody Rows.rsset.xop len = bodyRsset := rfl
theorem groupBody_rsevict (len : Nat) : groupBody Rows.rsevict.xop len = bodyRsevict := rfl
theorem groupBody_exp2 (len : Nat) : groupBody Rows.exp2.xop len = bodyExp2 := rfl
theorem groupBody_log2 (len : Nat) : groupBody Rows.log2.xop len = bodyLog2 := rfl
theorem groupBody_rcp (len : Nat) : groupBody Rows.rcp.xop len = bodyRcp := rfl
theorem groupBody_rsq (len : Nat) : groupBody Rows.rsq.xop len = bodyRsq := rfl
theorem groupBody_sqrt (len : Nat) : groupBody Rows.sqrt.xop len = bodySqrt := rfl
theorem groupBody_tanh (len : Nat) : groupBody Rows.tanh.xop len = bodyTanh := rfl
theorem groupBody_lgst (len : Nat) : groupBody Rows.lgst.xop len = bodyLgst := rfl
theorem groupBody_sinp (len : Nat) : groupBody Rows.sinp.xop len = bodySinp := rfl
theorem groupBody_cosp (len : Nat) : groupBody Rows.cosp.xop len = bodyCosp := rfl
theorem groupBody_sfwait (len : Nat) : groupBody Rows.sfwait.xop len = bodySfwait := rfl
theorem groupBody_sbinit (len : Nat) : groupBody Rows.sbinit.xop len = bodySbinit := rfl
theorem groupBody_sbtake (len : Nat) : groupBody Rows.sbtake.xop len = bodySbtake := rfl
theorem groupBody_sbgive (len : Nat) : groupBody Rows.sbgive.xop len = bodySbgive := rfl
theorem groupBody_sbread (len : Nat) : groupBody Rows.sbread.xop len = bodySbread := rfl
theorem groupBody_sbclose (len : Nat) : groupBody Rows.sbclose.xop len = bodySbclose := rfl
theorem groupBody_uadd (len : Nat) : groupBody Rows.uadd.xop len = bodyUadd := rfl
theorem groupBody_usub (len : Nat) : groupBody Rows.usub.xop len = bodyUsub := rfl
theorem groupBody_umul (len : Nat) : groupBody Rows.umul.xop len = bodyUmul := rfl
theorem groupBody_umulh (len : Nat) : groupBody Rows.umulh.xop len = bodyUmulh := rfl
theorem groupBody_umad (len : Nat) : groupBody Rows.umad.xop len = bodyUmad := rfl
theorem groupBody_uand (len : Nat) : groupBody Rows.uand.xop len = bodyUand := rfl
theorem groupBody_uor (len : Nat) : groupBody Rows.uor.xop len = bodyUor := rfl
theorem groupBody_uxor (len : Nat) : groupBody Rows.uxor.xop len = bodyUxor := rfl
theorem groupBody_ushl (len : Nat) : groupBody Rows.ushl.xop len = bodyUshl := rfl
theorem groupBody_ushr (len : Nat) : groupBody Rows.ushr.xop len = bodyUshr := rfl
theorem groupBody_usra (len : Nat) : groupBody Rows.usra.xop len = bodyUsra := rfl
theorem groupBody_umin (len : Nat) : groupBody Rows.umin.xop len = bodyUmin := rfl
theorem groupBody_umax (len : Nat) : groupBody Rows.umax.xop len = bodyUmax := rfl
theorem groupBody_uclz (len : Nat) : groupBody Rows.uclz.xop len = bodyUclz := rfl
theorem groupBody_upopc (len : Nat) : groupBody Rows.upopc.xop len = bodyUpopc := rfl
theorem groupBody_ulea (len : Nat) : groupBody Rows.ulea.xop len = bodyUlea := rfl
theorem groupBody_usel (len : Nat) : groupBody Rows.usel.xop len = bodyUsel := rfl
theorem groupBody_ucmp (len : Nat) : groupBody Rows.ucmp.xop len = bodyUcmp := rfl
theorem groupBody_umov (len : Nat) : groupBody Rows.umov.xop len = bodyUmov := rfl
theorem groupBody_uld (len : Nat) : groupBody Rows.uld.xop len = bodyUld := rfl
theorem groupBody_ust (len : Nat) : groupBody Rows.ust.xop len = bodyUst := rfl
theorem groupBody_iadd (len : Nat) : groupBody Rows.iadd.xop len = bodyIadd := rfl
theorem groupBody_isub (len : Nat) : groupBody Rows.isub.xop len = bodyIsub := rfl
theorem groupBody_imul (len : Nat) : groupBody Rows.imul.xop len = bodyImul := rfl
theorem groupBody_imulh (len : Nat) : groupBody Rows.imulh.xop len = bodyImulh := rfl
theorem groupBody_imad (len : Nat) : groupBody Rows.imad.xop len = bodyImad := rfl
theorem groupBody_imin (len : Nat) : groupBody Rows.imin.xop len = bodyImin := rfl
theorem groupBody_imax (len : Nat) : groupBody Rows.imax.xop len = bodyImax := rfl
theorem groupBody_iabs (len : Nat) : groupBody Rows.iabs.xop len = bodyIabs := rfl
theorem groupBody_iand (len : Nat) : groupBody Rows.iand.xop len = bodyIand := rfl
theorem groupBody_ior (len : Nat) : groupBody Rows.ior.xop len = bodyIor := rfl
theorem groupBody_ixor (len : Nat) : groupBody Rows.ixor.xop len = bodyIxor := rfl
theorem groupBody_ishl (len : Nat) : groupBody Rows.ishl.xop len = bodyIshl := rfl
theorem groupBody_ishr (len : Nat) : groupBody Rows.ishr.xop len = bodyIshr := rfl
theorem groupBody_isra (len : Nat) : groupBody Rows.isra.xop len = bodyIsra := rfl
theorem groupBody_iclz (len : Nat) : groupBody Rows.iclz.xop len = bodyIclz := rfl
theorem groupBody_ipopc (len : Nat) : groupBody Rows.ipopc.xop len = bodyIpopc := rfl
theorem groupBody_ibfx (len : Nat) : groupBody Rows.ibfx.xop len = bodyIbfx := rfl
theorem groupBody_ibfi (len : Nat) : groupBody Rows.ibfi.xop len = bodyIbfi := rfl
theorem groupBody_iset (len : Nat) : groupBody Rows.iset.xop len = bodyIset := rfl
theorem groupBody_isel (len : Nat) : groupBody Rows.isel.xop len = bodyIsel := rfl
theorem groupBody_fadd (len : Nat) : groupBody Rows.fadd.xop len = bodyFadd := rfl
theorem groupBody_fsub (len : Nat) : groupBody Rows.fsub.xop len = bodyFsub := rfl
theorem groupBody_fmul (len : Nat) : groupBody Rows.fmul.xop len = bodyFmul := rfl
theorem groupBody_ffma (len : Nat) : groupBody Rows.ffma.xop len = bodyFfma := rfl
theorem groupBody_fmin (len : Nat) : groupBody Rows.fmin.xop len = bodyFmin := rfl
theorem groupBody_fmax (len : Nat) : groupBody Rows.fmax.xop len = bodyFmax := rfl
theorem groupBody_fset (len : Nat) : groupBody Rows.fset.xop len = bodyFset := rfl
theorem groupBody_fclass (len : Nat) : groupBody Rows.fclass.xop len = bodyFclass := rfl
theorem groupBody_hadd2 (len : Nat) : groupBody Rows.hadd2.xop len = bodyHadd2 := rfl
theorem groupBody_hmul2 (len : Nat) : groupBody Rows.hmul2.xop len = bodyHmul2 := rfl
theorem groupBody_hfma2 (len : Nat) : groupBody Rows.hfma2.xop len = bodyHfma2 := rfl
theorem groupBody_hmin2 (len : Nat) : groupBody Rows.hmin2.xop len = bodyHmin2 := rfl
theorem groupBody_hmax2 (len : Nat) : groupBody Rows.hmax2.xop len = bodyHmax2 := rfl
theorem groupBody_cvt (len : Nat) : groupBody Rows.cvt.xop len = bodyCvt := rfl
theorem groupBody_pack4 (len : Nat) : groupBody Rows.pack4.xop len = bodyPack4 := rfl
theorem groupBody_unpk4 (len : Nat) : groupBody Rows.unpk4.xop len = bodyUnpk4 := rfl
theorem groupBody_plop (len : Nat) : groupBody Rows.plop.xop len = bodyPlop := rfl
theorem groupBody_mov (len : Nat) : groupBody Rows.mov.xop len = bodyMov := rfl
theorem groupBody_s2v (len : Nat) : groupBody Rows.s2v.xop len = bodyS2v := rfl
theorem tileBody_tset : tileBody Rows.tset.xop = bodyTset := rfl
theorem tileBody_tdesc : tileBody Rows.tdesc.xop = bodyWindow opTdesc := rfl
theorem tileBody_tzero : tileBody Rows.tzero.xop = bodyWindow opTzero := rfl
theorem tileBody_tldacc : tileBody Rows.tldacc.xop = bodyWindow opTldacc := rfl
theorem tileBody_tmma : tileBody Rows.tmma.xop = bodyWindow opTmma := rfl
theorem tileBody_tmmab : tileBody Rows.tmmab.xop = bodyWindow opTmmab := rfl
theorem tileBody_tscale : tileBody Rows.tscale.xop = bodyWindow opTscale := rfl
theorem tileBody_ttrans : tileBody Rows.ttrans.xop = bodyWindow opTtrans := rfl
theorem tileBody_tadd : tileBody Rows.tadd.xop = bodyWindow opTadd := rfl
theorem tileBody_tcvt : tileBody Rows.tcvt.xop = bodyWindow opTcvt := rfl
theorem tileBody_tstore : tileBody Rows.tstore.xop = bodyWindow opTstore := rfl
theorem tileBody_tbar : tileBody Rows.tbar.xop = bodyTbar := rfl
theorem tileBody_tloop : tileBody Rows.tloop.xop = bodyTloop := rfl
theorem tileBody_tend : tileBody Rows.tend.xop = bodyTend := rfl
theorem tileBody_tfence : tileBody Rows.tfence.xop = bodyTfence := rfl
theorem tileBody_rwperm : tileBody Rows.rwperm.xop = bodyRwperm := rfl
theorem tileBody_tsave : tileBody Rows.tsave.xop = bodyTsave := rfl
theorem tileBody_trstr : tileBody Rows.trstr.xop = bodyTrstr := rfl
theorem tileBody_tnop : tileBody Rows.tnop.xop = bodyTnop := rfl
theorem tileBody_texit : tileBody Rows.texit.xop = bodyTexit := rfl

/-- A group instruction, extended or base, issues its opcode's body at its own length (R177). -/
theorem exec_of_issued {i : Instr} {r : Row} {x : Ext} {len : Nat} (h : i.issued = some (r, x, len)) (ht : r.tile = false)
    (s : State) : exec i s = issueGroup s len x.s (groupBody r.xop len x) := by
  cases i <;> simp only [Instr.issued, Instr.form, Option.some.injEq, Prod.mk.injEq, reduceCtorEq] at h <;>
    (obtain ⟨rfl, rfl, rfl⟩ := h; first | rfl | exact absurd ht (by decide))

/-- A tile instruction issues its opcode's body in the tile stream. -/
theorem exec_of_issued_tile {i : Instr} {r : Row} {x : Ext} {len : Nat} (h : i.issued = some (r, x, len)) (ht : r.tile = true)
    (s : State) : exec i s = issueTile len x (tileBody r.xop x) s := by
  cases i <;> simp only [Instr.issued, Instr.form, Option.some.injEq, Prod.mk.injEq, reduceCtorEq] at h <;>
    (obtain ⟨rfl, rfl, rfl⟩ := h; first | rfl | exact absurd ht (by decide))

end Sys2Proof.Machine
end

