-- ==== Sys2Proof/Laws/Memory.lean ====
section
/-! SUPPORT. Every operation that stores into memory keeps memory's canonical form, and the operations that only read
translations, caches or mail leave it as it is. -/
namespace Sys2Proof.Machine
open Sys2Proof

/-- Memory in canonical form. -/
def State.MemWf (s : State) : Prop := Memory.wf s.mem = true

/-- A state built by folding over a list keeps what each step keeps. -/
theorem foldl_keeps {α β : Type} (P : β → Prop) (f : β → α → β) (h : ∀ b a, P b → P (f b a)) :
    ∀ (l : List α) (b : β), P b → P (l.foldl f b)
  | [], _, hb => hb
  | a :: r, b, hb => foldl_keeps P f h r (f b a) (h b a hb)

theorem memWf_of_mem {s t : State} (h : t.mem = s.mem) (hs : s.MemWf) : t.MemWf := by unfold State.MemWf at *; rw [h]; exact hs
theorem updDom_wf {s : State} (d : Nat) (f : Domain → Domain) (hs : s.MemWf) : (s.updDom d f).MemWf :=
  memWf_of_mem (State.updDom_mem s d f) hs
theorem updGroup_wf {s : State} (c b g : Nat) (f : Group → Group) (hs : s.MemWf) : (s.updGroup c b g f).MemWf :=
  memWf_of_mem (State.updGroup_mem s c b g f) hs
theorem updCore_wf {s : State} (c : Nat) (f : Core → Core) (hs : s.MemWf) : (s.updCore c f).MemWf :=
  memWf_of_mem (State.updCore_mem s c f) hs

theorem wf_patchMem (m : ZMap 8) (line : Nat) (ps : List (Nat × Byte)) (h : Memory.wf m = true) : Memory.wf (patchMem m line ps) = true :=
  foldl_keeps (fun (m : ZMap 8) => Memory.wf m = true) (fun m (p : Nat × Byte) => zset m (lineBase line + p.1) p.2)
    (fun m p hm => zwf_zset m (lineBase line + p.1) p.2 hm) ps m h

@[simp] theorem State.unpoison_mem (s : State) (line : Nat) : (s.unpoison line).mem = s.mem := by
  unfold State.unpoison
  dsimp only
  split
  · split <;> rfl
  · rfl
@[simp] theorem dropScales_mem (s : State) (line : Nat) (ps : List (Nat × Byte)) : (dropScales s line ps).mem = s.mem := by
  unfold dropScales
  split <;> rfl

/-- A write performed at the home stores its bytes and nothing else in memory (R81, R70). -/
theorem putHome_mem (s : State) (t line : Nat) (ps : List (Nat × Byte)) : (putHome s t line ps).mem = patchMem s.mem line ps := by
  unfold putHome
  dsimp only
  split <;> split <;> simp

theorem putHome_wf (s : State) (t line : Nat) (ps : List (Nat × Byte)) (h : s.MemWf) : (putHome s t line ps).MemWf := by
  unfold State.MemWf
  rw [putHome_mem]
  exact wf_patchMem _ _ _ h

theorem writeBack_wf (s : State) (t d line : Nat) (h : s.MemWf) : (writeBack s t d line).MemWf := by
  unfold writeBack
  split
  · split
    · exact h
    · exact updDom_wf _ _ (putHome_wf s t line _ h)
  · exact h

theorem recallLine_wf (s : State) (t h line d : Nat) (hs : s.MemWf) : (recallLine s t h line d).MemWf :=
  foldl_keeps State.MemWf _ (fun s l hs => writeBack_wf s t d l hs) _ s hs

theorem dropGuest_wf (s : State) (t d line : Nat) (h : s.MemWf) : (dropGuest s t d line).MemWf :=
  updDom_wf _ _ (writeBack_wf s t d line h)

theorem evictGranule_wf (s : State) (t h : Nat) (hs : s.MemWf) : (evictGranule s t h).MemWf := by
  unfold evictGranule
  split
  · exact hs
  · exact updDom_wf _ _ (foldl_keeps State.MemWf _
      (fun s d hs => foldl_keeps State.MemWf _ (fun s l hs => dropGuest_wf s t d l hs) _ s hs) _ s hs)

theorem setDir_wf (s : State) (t h line : Nat) (st : DirState) (p : BitVec 64) (hs : s.MemWf) : (setDir s t h line st p).MemWf := by
  unfold setDir
  split
  · exact updDom_wf _ _ hs
  · split
    · exact updDom_wf _ _ hs
    · dsimp only
      split
      · exact updDom_wf _ _ (evictGranule_wf s t h hs)
      · exact updDom_wf _ _ hs

theorem useDir_wf (s : State) (h line : Nat) (hs : s.MemWf) : (useDir s h line).MemWf := by
  unfold useDir
  split <;> exact updDom_wf _ _ hs

theorem displace_wf (s : State) (d t h : Nat) (hs : s.MemWf) : (displace s d t h).MemWf := by
  unfold displace
  split
  · dsimp only
    split
    · refine foldl_keeps State.MemWf _ (fun s l hs => ?_) _ _ (updDom_wf _ _ hs)
      split
      · exact dropGuest_wf s t d l hs
      · exact hs
    · exact updDom_wf _ _ hs
  · exact hs

theorem fitBudget_wf (d t : Nat) : ∀ (n : Nat) (s : State), s.MemWf → (fitBudget s d t n).MemWf
  | 0, _, hs => hs
  | n + 1, s, hs => by
    unfold fitBudget
    split
    · split
      · exact fitBudget_wf d t n _ (displace_wf s d _ _ hs)
      · exact hs
    · exact hs

theorem fitAll_wf (s : State) (d : Nat) (hs : s.MemWf) : (fitAll s d).MemWf :=
  foldl_keeps State.MemWf _ (fun s u hs => fitBudget_wf d u _ s hs) _ _ hs

theorem roomIn_wf (t d line : Nat) : ∀ (n : Nat) (s : State), s.MemWf → (roomIn s t d line n).MemWf
  | 0, _, hs => hs
  | n + 1, s, hs => by
    unfold roomIn
    split
    · exact hs
    · dsimp only
      split
      · exact hs
      · split
        · exact dropGuest_wf s t d _ hs
        · split
          · exact roomIn_wf t d line n _ (displace_wf s d _ _ hs)
          · exact hs

theorem gather_wf (s : State) (t pa n : Nat) (hs : s.MemWf) : (gather s t pa n).MemWf :=
  foldl_keeps State.MemWf _ (fun s l hs => foldl_keeps State.MemWf _ (fun s d hs => writeBack_wf s t d l hs) _ s hs) _ s hs

theorem readScales_wf (s : State) (t line : Nat) (x : Nat × List W64 × Nat × Nat) (hs : s.MemWf) :
    (readScales s t line x).1.MemWf := by
  have ite_wf : ∀ (p : Prop) [Decidable p] (u v : State), u.MemWf → v.MemWf → (if p then u else v).MemWf := by
    intro p _ u v hu hv
    split
    · exact hu
    · exact hv
  exact ite_wf _ _ _ (gather_wf _ _ _ _ (ite_wf _ _ _ hs (gather_wf _ _ _ _ hs))) (ite_wf _ _ _ hs (gather_wf _ _ _ _ hs))

theorem attachLine_wf (s : State) (t d line : Nat) (hs : s.MemWf) : (attachLine s t d line).MemWf := by
  unfold attachLine
  split
  · exact hs
  · split
    · exact updDom_wf _ _ (readScales_wf s t line _ hs)
    · split
      · exact updDom_wf _ _ hs
      · exact hs

/-- A line brought into an L2 displaces lines and handles, and memory keeps its form (R59, R61, R65). -/
theorem fillL2_wf (s : State) (t d line : Nat) (hs : s.MemWf) : (fillL2 s t d line).MemWf := by
  unfold fillL2
  split
  · exact updDom_wf _ _ hs
  · have hw := attachLine_wf _ t d line (updDom_wf d (fun k => { k with l2 := k.l2 ++ [line] }) (roomIn_wf t d line 1025 s hs))
    dsimp only
    split
    · exact hw
    · exact fitAll_wf _ d hw

theorem touchHome_wf (s : State) (t line : Nat) (hs : s.MemWf) : (touchHome s t line).MemWf :=
  useDir_wf _ _ line (fillL2_wf s t _ line hs)

/-- A write in the home's L2 stores its bytes over what the home held once the line was there. -/
theorem homeWrite_mem (s : State) (t line : Nat) (ps : List (Nat × Byte)) :
    (homeWrite s t line ps).mem = patchMem (if isPeer (lineBase line) then s.mem else (touchHome s t line).mem) line ps := by
  unfold homeWrite
  split
  · rw [putHome_mem]
  · rw [putHome_mem, State.updDom_mem]

theorem homeWrite_wf (s : State) (t line : Nat) (ps : List (Nat × Byte)) (h : s.MemWf) : (homeWrite s t line ps).MemWf := by
  unfold homeWrite
  split
  · exact putHome_wf s t line ps h
  · exact putHome_wf _ t line ps (updDom_wf _ _ (touchHome_wf s t line h))

theorem recalls_wf (s : State) (t h line : Nat) (ds : List Nat) (hs : s.MemWf) :
    (ds.foldl (fun s d => recallLine s t h line d) s).MemWf :=
  foldl_keeps State.MemWf _ (fun s d hs => recallLine_wf s t h line d hs) ds s hs

theorem homeAccess_wf (s : State) (t line : Nat) (write : Bool) (hs : s.MemWf) : (homeAccess s t line write).MemWf := by
  have hw := touchHome_wf s t line hs
  unfold homeAccess
  split
  · exact hs
  · dsimp only
    split
    · exact setDir_wf _ _ _ _ _ _ (recalls_wf _ t _ line _ hw)
    · exact hw

theorem supply_wf (s : State) (t d line : Nat) (hs : s.MemWf) : (supply s t d line).MemWf :=
  fillL2_wf _ t d line (updDom_wf _ _ hs)

theorem recallOthers_wf (s : State) (t d line : Nat) (hs : s.MemWf) : (recallOthers s t d line).MemWf := by
  unfold recallOthers
  dsimp only
  split
  · exact recalls_wf s t _ line _ hs
  · exact hs

theorem guestRead_wf (s : State) (t d line : Nat) (hs : s.MemWf) : (guestRead s t d line).MemWf := by
  have hr := recallOthers_wf s t d line hs
  unfold guestRead
  dsimp only
  split
  · exact supply_wf _ _ _ _ (useDir_wf _ _ _ hr)
  · exact supply_wf _ _ _ _ (setDir_wf _ _ _ _ _ _ hr)

theorem l2Read_wf (s : State) (t d line : Nat) (hs : s.MemWf) : (l2Read s t d line).1.MemWf := by
  have hr := recallOthers_wf s t d line hs
  unfold l2Read
  dsimp only
  split
  · exact hs
  · split
    · exact homeAccess_wf s t line false hs
    · split
      · exact fillL2_wf s t d line hs
      · split
        · exact hs
        · split
          · exact hr
          · exact guestRead_wf _ t d line hr

theorem dropScales_wf (s : State) (line : Nat) (ps : List (Nat × Byte)) (hs : s.MemWf) : (dropScales s line ps).MemWf := by
  unfold dropScales
  split
  · exact memWf_of_mem rfl hs
  · exact hs

theorem wrote_wf (s : State) (t line : Nat) (hs : s.MemWf) : (wrote s t line).MemWf := memWf_of_mem rfl hs

theorem l2Put_wf (s : State) (t d line : Nat) (ps : List (Nat × Byte)) (hs : s.MemWf) : (l2Put s t d line ps).MemWf := by
  have put : ∀ (u : State) (f : Domain → Domain), u.MemWf →
      (if (kget (u.dom d).guest line).isNone then putHome u t line ps else (dropScales u line ps).updDom d f).MemWf := by
    intro u f hu
    split
    · exact putHome_wf u t line ps hu
    · exact updDom_wf _ _ (dropScales_wf u line ps hu)
  have sup : ∀ (u : State), u.MemWf → (if (kget (u.dom d).guest line).isNone then supply u t d line else fillL2 u t d line).MemWf := by
    intro u hu
    split
    · exact supply_wf u t d line hu
    · exact fillL2_wf u t d line hu
  have own : ∀ (u : State) (h : Nat), u.MemWf → (setDir u t h line .owned (domBit d)).MemWf := fun u h hu =>
    setDir_wf u t h line _ _ hu
  unfold l2Put
  dsimp only
  split
  · exact hs
  · split
    · exact homeWrite_wf s t line ps hs
    · split
      · exact homeWrite_wf _ t line ps (homeAccess_wf s t line true hs)
      · split
        · exact put _ _ (sup _ (own _ _ hs))
        · split
          · exact put _ _ (sup _ (own _ _ hs))
          · exact setDir_wf _ _ _ _ _ _ (updDom_wf _ _ (homeWrite_wf s t line ps hs))
        · split
          · exact put _ _ (sup _ (own _ _ hs))
          · exact setDir_wf _ _ _ _ _ _ (updDom_wf _ _ (homeWrite_wf _ t line ps (recalls_wf s t _ line _ hs)))
        · exact updDom_wf _ _ (homeWrite_wf s t line ps hs)

theorem l2Write_wf (s : State) (t d line : Nat) (ps : List (Nat × Byte)) (hs : s.MemWf) : (l2Write s t d line ps).MemWf :=
  l2Put_wf _ t d line ps (wrote_wf s t line hs)

theorem strongWrite_wf (s : State) (t d pa n v : Nat) (hs : s.MemWf) : (strongWrite s t d pa n v).MemWf :=
  updDom_wf _ _ (homeWrite_wf _ t _ _ (wrote_wf s t _ hs))

theorem flushGuests_wf (s : State) (t d : Nat) (p : Nat → Guest → Bool) (hs : s.MemWf) : (flushGuests s t d p).MemWf :=
  foldl_keeps State.MemWf _ (fun s l hs => dropGuest_wf s t d l hs) _ s hs

theorem writeBackHost_wf (s : State) (t : Nat) (hs : s.MemWf) : (writeBackHost s t).MemWf :=
  foldl_keeps State.MemWf _ (fun s d hs => foldl_keeps State.MemWf _ (fun s l hs => writeBack_wf s t d l hs) _ s hs) _ s hs

theorem publish_wf (s : State) (who : Who) (sig : BitVec 1024) (scope : BitVec 4) (pa n : Nat) (hs : s.MemWf) :
    (publish s who sig scope pa n).MemWf := by
  unfold publish
  dsimp only
  split
  · exact writeBackHost_wf _ _ (updDom_wf _ _ hs)
  · exact updDom_wf _ _ hs

theorem drainEntry_wf (s : State) (c line : Nat) (hs : s.MemWf) : (drainEntry s c line).MemWf := by
  unfold drainEntry
  split
  · exact l2Write_wf _ _ _ line _ (updCore_wf _ _ hs)
  · exact hs

theorem drainEntries_wf (s : State) (c : Nat) (hs : s.MemWf) : (drainEntries s c).MemWf :=
  foldl_keeps State.MemWf _ (fun s l hs => drainEntry_wf s c l hs) _ s hs

theorem homeStore_wf (s : State) (t pa : Nat) (bs : List Byte) (hs : s.MemWf) : (homeStore s t pa bs).MemWf := by
  unfold homeStore
  split
  · exact hs
  · exact foldl_keeps State.MemWf _ (fun s l hs => homeWrite_wf _ t l _ (homeAccess_wf s t l true hs)) _ s hs

/-! The stamp books at their homes keep memory's form (R112-R118). -/
theorem sbStore_wf (s : State) (t pa i : Nat) (v : W64) (hs : s.MemWf) : (sbStore s t pa i v).MemWf := homeStore_wf s t _ _ hs
theorem sbSetReserve_wf (s : State) (t pa n : Nat) (hs : s.MemWf) : (sbSetReserve s t pa n).MemWf := sbStore_wf s t pa 0 _ hs
theorem sbSetBooks_wf (s : State) (t pa : Nat) (k : SbHome) (hs : s.MemWf) : (sbSetBooks s t pa k).MemWf :=
  sbStore_wf _ t pa 1 _ (updDom_wf _ _ hs)
theorem sbSetBook_wf (s : State) (d pa n : Nat) (hs : s.MemWf) : (sbSetBook s d pa n).MemWf := updDom_wf _ _ hs
theorem sbRecall_wf (s : State) (t pa : Nat) (k : SbHome) (hs : s.MemWf) : (sbRecall s t pa k).MemWf :=
  sbSetReserve_wf _ t pa _ (sbSetBooks_wf _ t pa _ (foldl_keeps State.MemWf _ (fun s (p : Nat × Nat × Nat × Bool) hs => sbSetBook_wf s p.1 pa 0 hs)
    _ s hs))
theorem sbOverflow_wf (s : State) (t pa : Nat) (hs : s.MemWf) : (sbOverflow s t pa).MemWf := sbStore_wf s t pa 2 _ hs
theorem sbTakeHome_wf (s : State) (t pa d n : Nat) (k : SbHome) (hs : s.MemWf) : (sbTakeHome s t pa d n k).1.MemWf := by
  unfold sbTakeHome
  have hr := sbRecall_wf s t pa k hs
  dsimp only
  repeat' split
  all_goals with_reducible first
    | exact hs | exact hr | exact sbSetReserve_wf _ _ _ _ hs | exact sbSetReserve_wf _ _ _ _ hr
    | exact sbSetBook_wf _ _ _ _ (sbSetBooks_wf _ _ _ _ (sbSetReserve_wf _ _ _ _ hs))
theorem sbGiveHome_wf (s : State) (t pa d n : Nat) (k : SbHome) (hs : s.MemWf) : (sbGiveHome s t pa d n k).1.MemWf := by
  have hr := sbRecall_wf s t pa k hs
  unfold sbGiveHome
  dsimp only
  repeat' split
  all_goals with_reducible first
    | exact sbOverflow_wf _ _ _ hr | exact sbSetReserve_wf _ _ _ _ hs | exact sbSetReserve_wf _ _ _ _ hr
    | exact sbSetReserve_wf _ _ _ _ (sbSetBook_wf _ _ _ _ (sbSetBooks_wf _ _ _ _ hs))
    | exact sbSetReserve_wf _ _ _ _ (sbSetBook_wf _ _ _ _ (sbSetBooks_wf _ _ _ _ hr))
theorem sbInitHome_wf (s : State) (t pa n : Nat) (hs : s.MemWf) : (sbInitHome s t pa n).1.MemWf := by
  unfold sbInitHome
  dsimp only
  split
  · exact hs
  · exact sbStore_wf _ _ _ _ _ (sbSetReserve_wf _ _ _ _ (sbSetBooks_wf _ _ _ _ (homeStore_wf s t pa _ hs)))
theorem sbAtHome_wf (s : State) (t op pa d n : Nat) (hs : s.MemWf) : (sbAtHome s t op pa d n).1.MemWf := by
  unfold sbAtHome
  split
  · exact sbInitHome_wf s t pa n hs
  · split
    · exact hs
    · rename_i k _
      have hr := sbRecall_wf s t pa k hs
      split
      · exact hr
      · split
        · exact sbStore_wf _ _ _ _ _ (updDom_wf _ _ (sbSetBooks_wf _ _ _ _ hr))
        · split
          · exact hs
          · split
            · split
              · exact sbOverflow_wf s t pa hs
              · exact hs
            · dsimp only
              split
              · exact sbTakeHome_wf s t pa d n k hs
              · exact sbGiveHome_wf s t pa d n k hs
theorem deliverSlot_wf (s : State) (c b g slot lane : Nat) (va : W64) (r : Option Nat) (hs : s.MemWf) :
    (deliverSlot s c b g slot lane va r).MemWf := updGroup_wf _ _ _ _ hs
theorem sbServe_wf (s : State) (t : Nat) (r : SbReq) (hs : s.MemWf) : (sbServe s t r).MemWf :=
  deliverSlot_wf _ _ _ _ _ _ _ _ (sbAtHome_wf _ t r.op r.pa r.domain r.n (updCore_wf _ _ hs))
theorem serveUntil_wf (d : Nat) (p : SbReq → Bool) : ∀ (n : Nat) (s : State), s.MemWf → (serveUntil d p n s).MemWf
  | 0, _, hs => hs
  | n + 1, s, hs => by
    unfold serveUntil
    split
    · split
      · exact serveUntil_wf d p n _ (sbServe_wf _ _ _ (updDom_wf _ _ hs))
      · exact hs
    · exact hs
theorem serveLine_wf (s : State) (c line : Nat) (hs : s.MemWf) : (serveLine s c line).MemWf := serveUntil_wf _ _ _ s hs
theorem serveGroup_wf (s : State) (c b g : Nat) (hs : s.MemWf) : (serveGroup s c b g).MemWf :=
  foldl_keeps State.MemWf _ (fun s d hs => serveUntil_wf d _ _ s hs) _ s hs

/-- A strong operation performed at its home keeps memory's form (R83, R261). -/
theorem tellStrong_wf (s : State) (c : Nat) (w : StrongW) (old : Nat) (hs : s.MemWf) : (tellStrong s c w old).MemWf := by
  have hn : ∀ (u : State) (b g l : Nat), u.MemWf →
      (if w.op.isSome || w.cmp.isSome then noteReadOf u c b g w.who.tenant l w.scope w.pa w.n else u).MemWf := by
    intro u b g l hu
    split
    · exact updGroup_wf _ _ _ _ hu
    · exact hu
  unfold tellStrong
  split
  · dsimp only
    split
    · exact deliverSlot_wf _ _ _ _ _ _ _ _ (hn s _ _ _ hs)
    · exact hn s _ _ _ hs
  · exact hs
theorem performStrong_wf (s : State) (c : Nat) (w : StrongW) (hs : s.MemWf) : (performStrong s c w).MemWf := by
  have hd : ((if w.rel then drainEntries s c else drainEntry s c (lineOf w.pa)).updCore c fun k =>
      { k with l1 := kdel k.l1 (lineOf w.pa) }).MemWf := by
    apply updCore_wf
    split
    · exact drainEntries_wf s c hs
    · exact drainEntry_wf s c _ hs
  unfold performStrong
  dsimp only
  generalize ((if w.rel then drainEntries s c else drainEntry s c (lineOf w.pa)).updCore c fun k =>
      { k with l1 := kdel k.l1 (lineOf w.pa) }) = u at hd ⊢
  split
  · exact tellStrong_wf _ c w _ hd
  · split
    · exact tellStrong_wf _ c w _ (homeAccess_wf _ _ _ _ hd)
    · split
      · exact publish_wf _ _ _ _ _ _ (strongWrite_wf _ _ _ _ _ _ (tellStrong_wf _ c w _ (homeAccess_wf _ _ _ _ hd)))
      · exact strongWrite_wf _ _ _ _ _ _ (tellStrong_wf _ c w _ (homeAccess_wf _ _ _ _ hd))

theorem flushStrong_wf (c : Nat) (p : StrongW → Bool) (s : State) (hs : s.MemWf) : (flushStrong c p s).MemWf :=
  foldl_keeps State.MemWf _ (fun _ w hs => performStrong_wf _ c w (updCore_wf _ _ hs)) _ s hs

theorem flushLineOf_wf (s : State) (c line : Nat) (hs : s.MemWf) : (flushLineOf s c line).MemWf :=
  serveLine_wf _ c line (flushStrong_wf c _ s hs)
theorem drainLine_wf (s : State) (c line : Nat) (hs : s.MemWf) : (drainLine s c line).MemWf :=
  drainEntry_wf _ c line (flushLineOf_wf s c line hs)
theorem drainCore_wf (s : State) (c : Nat) (hs : s.MemWf) : (drainCore s c).MemWf :=
  drainEntries_wf _ c (flushStrong_wf c _ s hs)

theorem weakRead_wf (s : State) (c pa n : Nat) (hint : BitVec 2) (hs : s.MemWf) : (weakRead s c pa n hint).1.MemWf := by
  have hf := flushLineOf_wf s c (lineOf pa) hs
  have hl := l2Read_wf (flushLineOf s c (lineOf pa)) ((flushLineOf s c (lineOf pa)).coreTenant c) (coreDomain c) (lineOf pa) hf
  have keep : ∀ (u : State) (k : Bool) (r : Option (List Byte)) (f : List Byte → Core → Core) (g : Core → Core), u.MemWf →
      (if k then match r with | some bs => u.updCore c (f bs) | none => u.updCore c g else u).MemWf := by
    intro u k r f g hu
    split
    · split <;> exact updCore_wf _ _ hu
    · exact hu
  unfold weakRead
  dsimp only
  split
  · exact keep _ _ _ _ _ hl
  · split
    · split
      · exact updCore_wf _ _ hf
      · exact keep _ _ _ _ _ hl
    · exact keep _ _ _ _ _ hl

/-- A weak write waits in the core: memory is what the core's strong writes to the line left (R84). -/
@[simp] theorem weakWrite_mem (s : State) (c b pa : Nat) (bs : List Byte) :
    (weakWrite s c b pa bs).mem = (flushLineOf s c (lineOf pa)).mem := by
  unfold weakWrite
  rw [State.updBlock_mem, State.updCore_mem]
theorem weakWrite_wf (s : State) (c b pa : Nat) (bs : List Byte) (hs : s.MemWf) : (weakWrite s c b pa bs).MemWf :=
  memWf_of_mem (weakWrite_mem s c b pa bs) (flushLineOf_wf s c _ hs)

theorem strongPrep_wf (s : State) (c pa : Nat) (write : Bool) (hs : s.MemWf) : (strongPrep s c pa write).MemWf := by
  unfold strongPrep
  exact homeAccess_wf _ _ _ _ (updCore_wf _ _ (drainLine_wf s c (lineOf pa) hs))

theorem homeRead_wf (s : State) (t pa n : Nat) (hs : s.MemWf) : (homeRead s t pa n).1.MemWf :=
  foldl_keeps State.MemWf _ (fun s l hs => homeAccess_wf s t l false hs) _ s hs

/-- A page walk only reads: its entries are read at their home (R389). -/
theorem walkFrom_wf (t va : Nat) (write : Bool) : ∀ (ls : List (Nat × Nat × Nat × Bool × Nat)) (s : State) (table : Nat), s.MemWf →
    (walkFrom s t va write table ls).1.MemWf
  | [], _, _, hs => hs
  | (level, lo, n, leafOk, align) :: rest, s, table, hs => by
    have hr := homeRead_wf s t (table + 8 * (va / 2 ^ lo % 2 ^ n)) 8 hs
    unfold walkFrom
    dsimp only
    split
    · exact hr
    · split
      · exact hr
      · split
        · exact hr
        · split
          · split
            · exact hr
            · split <;> exact hr
          · split
            · exact hr
            · exact walkFrom_wf t va write rest _ _ hr

theorem walk_wf (s : State) (t va : Nat) (write : Bool) (hs : s.MemWf) : (walk s t va write).1.MemWf := by
  simp only [walk]
  split
  · exact hs
  · split
    · exact hs
    · exact walkFrom_wf t va write walkLevels s _ hs

theorem translate_wf (s : State) (d t va : Nat) (write : Bool) (hs : s.MemWf) : (translate s d t va write).1.MemWf := by
  have hw := walk_wf s t va write hs
  unfold translate
  split
  · exact hs
  · split
    · rename_i he; rw [he] at hw; exact hw
    · rename_i he; rw [he] at hw
      dsimp only
      split <;> exact hw

theorem deviceStore_wf (s t' : State) (t va : Nat) (ws : List W64) (hs : s.MemWf) (h : deviceStore s t va ws = some t') :
    t'.MemWf := by
  have hw := walk_wf s t va true hs
  unfold deviceStore at h
  split at h
  · rename_i he; rw [he] at hw
    cases h
    exact homeStore_wf _ t _ _ hw
  · cases h

theorem deviceLoad_wf (s : State) (t va n : Nat) (hs : s.MemWf) : (deviceLoad s t va n).1.MemWf := by
  have hw := walk_wf s t va false hs
  unfold deviceLoad
  split
  · rename_i he; rw [he] at hw
    exact homeRead_wf _ t _ _ hw
  · rename_i he; rw [he] at hw; exact hw

/-- The loader's copy into a tenant's addresses (R340 step 7). -/
theorem copyOut_wf (t : Nat) : ∀ (f : Nat) (s : State) (va : Nat) (bs : List Byte), s.MemWf → (copyOut s t va f bs).1.MemWf
  | 0, _, _, _, hs => hs
  | f + 1, s, va, bs, hs => by
    have hw := walk_wf s t va true hs
    unfold copyOut
    split
    · exact hs
    · dsimp only
      split
      · rename_i he; rw [he] at hw
        split
        · exact hw
        · exact copyOut_wf t f _ _ _ (homeStore_wf _ t _ _ hw)
      · rename_i he; rw [he] at hw; exact hw

theorem putBytes_wf (s : State) (t va : Nat) (bs : List Byte) (hs : s.MemWf) : (putBytes s t va bs).1.MemWf :=
  copyOut_wf t _ s va bs hs

theorem loadBytes_wf (t : Nat) : ∀ (f : Nat) (s : State) (va n : Nat), s.MemWf → (loadBytes s t va n f).1.MemWf
  | 0, _, _, _, hs => hs
  | f + 1, s, va, n, hs => by
    have hw := walk_wf s t va false hs
    unfold loadBytes
    split
    · exact hs
    · dsimp only
      split
      · rename_i s1 pa sh w he; rw [he] at hw
        have hr := homeRead_wf s1 t pa (min n (65536 - va % 65536)) hw
        split
        · have hn := loadBytes_wf t f _ (va + min n (65536 - va % 65536)) (n - min n (65536 - va % 65536)) hr
          split
          · rename_i hl; rw [hl] at hn; exact hn
          · rename_i hl; rw [hl] at hn; exact hn
        · exact hr
      · rename_i he; rw [he] at hw; exact hw

/-- A cleared poison mark leaves free bytes in the line (R70). -/
theorem clearPoison_wf (s : State) (line : Nat) (hs : s.MemWf) : (clearPoison s line).MemWf := by
  unfold clearPoison
  split
  · exact wf_patchMem _ _ _ hs
  · exact hs

@[simp] theorem State.unpoison_tenants (s : State) (line : Nat) : (s.unpoison line).tenants = s.tenants := by
  unfold State.unpoison
  dsimp only
  split
  · split <;> rfl
  · rfl
theorem putHome_tenants (s : State) (t line : Nat) (ps : List (Nat × Byte)) : (putHome s t line ps).tenants = s.tenants := by
  have drop : (dropScales s line ps).tenants = s.tenants := by
    unfold dropScales
    split <;> rfl
  unfold putHome
  dsimp only
  split <;> split <;> first | exact (State.unpoison_tenants _ line).trans drop | exact drop
theorem dropGuest_tenants (s : State) (t d line : Nat) : (dropGuest s t d line).tenants = s.tenants := by
  unfold dropGuest writeBack
  split
  · split
    · rfl
    · exact putHome_tenants s t line _
  · rfl
/-- Displacing handles changes what L2s hold and what memory holds, no tenant's record (R61). -/
theorem displace_tenants (s : State) (d t h : Nat) : (displace s d t h).tenants = s.tenants := by
  unfold displace
  split
  · dsimp only
    split
    · refine foldl_keeps (fun u : State => u.tenants = s.tenants) _ (fun u l hu => ?_) _ _ rfl
      split
      · exact (dropGuest_tenants u t d l).trans hu
      · exact hu
    · rfl
  · rfl
theorem fitBudget_tenants (d t : Nat) : ∀ (n : Nat) (s : State), (fitBudget s d t n).tenants = s.tenants
  | 0, _ => rfl
  | n + 1, s => by
    unfold fitBudget
    split
    · split
      · exact (fitBudget_tenants d t n _).trans (displace_tenants s d _ _)
      · rfl
    · rfl
theorem fitAll_tenants (s : State) (d : Nat) : (fitAll s d).tenants = s.tenants :=
  foldl_keeps (fun u : State => u.tenants = s.tenants) _ (fun u t hu => (fitBudget_tenants d t _ u).trans hu) _ _ rfl

/-- Elements that move in a free order each move once (R124). -/
theorem freeOrder_perm {α : Type} (pick : Nat → Nat) : ∀ (n : Nat) (l : List α), (freeOrder pick n l).Perm l
  | 0, _ => .refl _
  | _ + 1, [] => .refl _
  | _ + 1, [_] => .refl _
  | n + 1, a :: b :: r => by
    rw [freeOrder]
    generalize a :: b :: r = l
    refine ((freeOrder_perm pick n _).append_left _).trans ?_
    generalize pick _ % _ = i
    conv => rhs; rw [← List.take_append_drop i l]
    rw [← List.append_assoc]
    refine (List.perm_append_comm.append_right _).trans ?_
    rw [List.append_assoc]
    refine List.Perm.append_left _ ?_
    rw [← List.drop_drop]
    exact .of_eq (List.take_append_drop 1 _)

/-- Memory right after reset is canonical. -/
theorem reset_memWf : State.reset.MemWf := rfl

end Sys2Proof.Machine
end

