-- ==== Sys2Proof/Laws/PerInstr.lean ====
section
/-! SUPPORT. The family Coded: an instruction has as many words as the length field of its first word says (R174), and a step of another agent has none. -/
namespace Sys2Proof.Laws.Coded
open Sys2Proof

/-- The words of an instruction are as many as its first word says. -/
def Statement (i : Instr) : Prop :=
  match encode i with
  | [] => i.form = .event
  | w :: r => r.length + 1 = lengthWords (w.extractLsb' 0 2)

theorem low_append {n m : Nat} (a : BitVec n) (b : BitVec m) : (a ++ b).extractLsb' 0 m = b := by
  apply BitVec.eq_of_getLsbD_eq
  intro i hi
  simp [BitVec.getLsbD_append, hi]

theorem ext_words (i : Instr) (r : Row) (x : Ext) (h : encode i = encodeExt r x) : Statement i := by
  unfold Statement
  rw [h]
  cases hl : x.lit <;> simp only [encodeExt, hl]
  · exact congrArg lengthWords (low_append (n := 30) (m := 2) _ 1#2).symm
  · exact congrArg lengthWords (low_append (n := 30) (m := 2) _ 2#2).symm

theorem base_words (i : Instr) (r : BaseRow) (x : Base) (h : encode i = encodeBase r x) : Statement i := by
  unfold Statement
  rw [h]
  cases hl : x.lit <;> simp only [encodeBase, hl]
  · exact congrArg lengthWords (low_append (n := 30) (m := 2) _ 0#2).symm
  · exact congrArg lengthWords (low_append (n := 30) (m := 2) _ 3#2).symm

theorem uadd (x : Ext) : Statement (.uadd x) := ext_words _ _ _ rfl
theorem usub (x : Ext) : Statement (.usub x) := ext_words _ _ _ rfl
theorem umul (x : Ext) : Statement (.umul x) := ext_words _ _ _ rfl
theorem umulh (x : Ext) : Statement (.umulh x) := ext_words _ _ _ rfl
theorem umad (x : Ext) : Statement (.umad x) := ext_words _ _ _ rfl
theorem uand (x : Ext) : Statement (.uand x) := ext_words _ _ _ rfl
theorem uor (x : Ext) : Statement (.uor x) := ext_words _ _ _ rfl
theorem uxor (x : Ext) : Statement (.uxor x) := ext_words _ _ _ rfl
theorem ushl (x : Ext) : Statement (.ushl x) := ext_words _ _ _ rfl
theorem ushr (x : Ext) : Statement (.ushr x) := ext_words _ _ _ rfl
theorem usra (x : Ext) : Statement (.usra x) := ext_words _ _ _ rfl
theorem umin (x : Ext) : Statement (.umin x) := ext_words _ _ _ rfl
theorem umax (x : Ext) : Statement (.umax x) := ext_words _ _ _ rfl
theorem uclz (x : Ext) : Statement (.uclz x) := ext_words _ _ _ rfl
theorem upopc (x : Ext) : Statement (.upopc x) := ext_words _ _ _ rfl
theorem ulea (x : Ext) : Statement (.ulea x) := ext_words _ _ _ rfl
theorem usel (x : Ext) : Statement (.usel x) := ext_words _ _ _ rfl
theorem ucmp (x : Ext) : Statement (.ucmp x) := ext_words _ _ _ rfl
theorem umov (x : Ext) : Statement (.umov x) := ext_words _ _ _ rfl
theorem uld (x : Ext) : Statement (.uld x) := ext_words _ _ _ rfl
theorem ust (x : Ext) : Statement (.ust x) := ext_words _ _ _ rfl
theorem bra (x : Ext) : Statement (.bra x) := ext_words _ _ _ rfl
theorem brx (x : Ext) : Statement (.brx x) := ext_words _ _ _ rfl
theorem call (x : Ext) : Statement (.call x) := ext_words _ _ _ rfl
theorem ret (x : Ext) : Statement (.ret x) := ext_words _ _ _ rfl
theorem jfence (x : Ext) : Statement (.jfence x) := ext_words _ _ _ rfl
theorem cfetch (x : Ext) : Statement (.cfetch x) := ext_words _ _ _ rfl
theorem exit (x : Ext) : Statement (.exit x) := ext_words _ _ _ rfl
theorem yld (x : Ext) : Statement (.yld x) := ext_words _ _ _ rfl
theorem reconv (x : Ext) : Statement (.reconv x) := ext_words _ _ _ rfl
theorem nop (x : Ext) : Statement (.nop x) := ext_words _ _ _ rfl
theorem spawn (x : Ext) : Statement (.spawn x) := ext_words _ _ _ rfl
theorem join (x : Ext) : Statement (.join x) := ext_words _ _ _ rfl
theorem cancel (x : Ext) : Statement (.cancel x) := ext_words _ _ _ rfl
theorem lvlrd (x : Ext) : Statement (.lvlrd x) := ext_words _ _ _ rfl
theorem capq (x : Ext) : Statement (.capq x) := ext_words _ _ _ rfl
theorem rdsr (x : Ext) : Statement (.rdsr x) := ext_words _ _ _ rfl
theorem wrsr (x : Ext) : Statement (.wrsr x) := ext_words _ _ _ rfl
theorem trap (x : Ext) : Statement (.trap x) := ext_words _ _ _ rfl
theorem eret (x : Ext) : Statement (.eret x) := ext_words _ _ _ rfl
theorem preack (x : Ext) : Statement (.preack x) := ext_words _ _ _ rfl
theorem iadd (x : Ext) : Statement (.iadd x) := ext_words _ _ _ rfl
theorem isub (x : Ext) : Statement (.isub x) := ext_words _ _ _ rfl
theorem imul (x : Ext) : Statement (.imul x) := ext_words _ _ _ rfl
theorem imulh (x : Ext) : Statement (.imulh x) := ext_words _ _ _ rfl
theorem imad (x : Ext) : Statement (.imad x) := ext_words _ _ _ rfl
theorem imin (x : Ext) : Statement (.imin x) := ext_words _ _ _ rfl
theorem imax (x : Ext) : Statement (.imax x) := ext_words _ _ _ rfl
theorem iabs (x : Ext) : Statement (.iabs x) := ext_words _ _ _ rfl
theorem iand (x : Ext) : Statement (.iand x) := ext_words _ _ _ rfl
theorem ior (x : Ext) : Statement (.ior x) := ext_words _ _ _ rfl
theorem ixor (x : Ext) : Statement (.ixor x) := ext_words _ _ _ rfl
theorem ishl (x : Ext) : Statement (.ishl x) := ext_words _ _ _ rfl
theorem ishr (x : Ext) : Statement (.ishr x) := ext_words _ _ _ rfl
theorem isra (x : Ext) : Statement (.isra x) := ext_words _ _ _ rfl
theorem iclz (x : Ext) : Statement (.iclz x) := ext_words _ _ _ rfl
theorem ipopc (x : Ext) : Statement (.ipopc x) := ext_words _ _ _ rfl
theorem ibfx (x : Ext) : Statement (.ibfx x) := ext_words _ _ _ rfl
theorem ibfi (x : Ext) : Statement (.ibfi x) := ext_words _ _ _ rfl
theorem iset (x : Ext) : Statement (.iset x) := ext_words _ _ _ rfl
theorem isel (x : Ext) : Statement (.isel x) := ext_words _ _ _ rfl
theorem fadd (x : Ext) : Statement (.fadd x) := ext_words _ _ _ rfl
theorem fsub (x : Ext) : Statement (.fsub x) := ext_words _ _ _ rfl
theorem fmul (x : Ext) : Statement (.fmul x) := ext_words _ _ _ rfl
theorem ffma (x : Ext) : Statement (.ffma x) := ext_words _ _ _ rfl
theorem fmin (x : Ext) : Statement (.fmin x) := ext_words _ _ _ rfl
theorem fmax (x : Ext) : Statement (.fmax x) := ext_words _ _ _ rfl
theorem fset (x : Ext) : Statement (.fset x) := ext_words _ _ _ rfl
theorem fclass (x : Ext) : Statement (.fclass x) := ext_words _ _ _ rfl
theorem hadd2 (x : Ext) : Statement (.hadd2 x) := ext_words _ _ _ rfl
theorem hmul2 (x : Ext) : Statement (.hmul2 x) := ext_words _ _ _ rfl
theorem hfma2 (x : Ext) : Statement (.hfma2 x) := ext_words _ _ _ rfl
theorem hmin2 (x : Ext) : Statement (.hmin2 x) := ext_words _ _ _ rfl
theorem hmax2 (x : Ext) : Statement (.hmax2 x) := ext_words _ _ _ rfl
theorem cvt (x : Ext) : Statement (.cvt x) := ext_words _ _ _ rfl
theorem pack4 (x : Ext) : Statement (.pack4 x) := ext_words _ _ _ rfl
theorem unpk4 (x : Ext) : Statement (.unpk4 x) := ext_words _ _ _ rfl
theorem plop (x : Ext) : Statement (.plop x) := ext_words _ _ _ rfl
theorem mov (x : Ext) : Statement (.mov x) := ext_words _ _ _ rfl
theorem s2v (x : Ext) : Statement (.s2v x) := ext_words _ _ _ rfl
theorem v2s (x : Ext) : Statement (.v2s x) := ext_words _ _ _ rfl
theorem shfl (x : Ext) : Statement (.shfl x) := ext_words _ _ _ rfl
theorem vote (x : Ext) : Statement (.vote x) := ext_words _ _ _ rfl
theorem redg (x : Ext) : Statement (.redg x) := ext_words _ _ _ rfl
theorem scang (x : Ext) : Statement (.scang x) := ext_words _ _ _ rfl
theorem matchLanes (x : Ext) : Statement (.matchLanes x) := ext_words _ _ _ rfl
theorem exp2 (x : Ext) : Statement (.exp2 x) := ext_words _ _ _ rfl
theorem log2 (x : Ext) : Statement (.log2 x) := ext_words _ _ _ rfl
theorem rcp (x : Ext) : Statement (.rcp x) := ext_words _ _ _ rfl
theorem rsq (x : Ext) : Statement (.rsq x) := ext_words _ _ _ rfl
theorem sqrt (x : Ext) : Statement (.sqrt x) := ext_words _ _ _ rfl
theorem tanh (x : Ext) : Statement (.tanh x) := ext_words _ _ _ rfl
theorem lgst (x : Ext) : Statement (.lgst x) := ext_words _ _ _ rfl
theorem sinp (x : Ext) : Statement (.sinp x) := ext_words _ _ _ rfl
theorem cosp (x : Ext) : Statement (.cosp x) := ext_words _ _ _ rfl
theorem sfwait (x : Ext) : Statement (.sfwait x) := ext_words _ _ _ rfl
theorem ldg (x : Ext) : Statement (.ldg x) := ext_words _ _ _ rfl
theorem stg (x : Ext) : Statement (.stg x) := ext_words _ _ _ rfl
theorem lds (x : Ext) : Statement (.lds x) := ext_words _ _ _ rfl
theorem sts (x : Ext) : Statement (.sts x) := ext_words _ _ _ rfl
theorem ldl (x : Ext) : Statement (.ldl x) := ext_words _ _ _ rfl
theorem stl (x : Ext) : Statement (.stl x) := ext_words _ _ _ rfl
theorem ldc (x : Ext) : Statement (.ldc x) := ext_words _ _ _ rfl
theorem pfch (x : Ext) : Statement (.pfch x) := ext_words _ _ _ rfl
theorem atom (x : Ext) : Statement (.atom x) := ext_words _ _ _ rfl
theorem atomc (x : Ext) : Statement (.atomc x) := ext_words _ _ _ rfl
theorem red (x : Ext) : Statement (.red x) := ext_words _ _ _ rfl
theorem atoms (x : Ext) : Statement (.atoms x) := ext_words _ _ _ rfl
theorem lda (x : Ext) : Statement (.lda x) := ext_words _ _ _ rfl
theorem strl (x : Ext) : Statement (.strl x) := ext_words _ _ _ rfl
theorem fence (x : Ext) : Statement (.fence x) := ext_words _ _ _ rfl
theorem objdecl (x : Ext) : Statement (.objdecl x) := ext_words _ _ _ rfl
theorem objdrop (x : Ext) : Statement (.objdrop x) := ext_words _ _ _ rfl
theorem sealRange (x : Ext) : Statement (.sealRange x) := ext_words _ _ _ rfl
theorem unsealRange (x : Ext) : Statement (.unsealRange x) := ext_words _ _ _ rfl
theorem rsdecl (x : Ext) : Statement (.rsdecl x) := ext_words _ _ _ rfl
theorem rsset (x : Ext) : Statement (.rsset x) := ext_words _ _ _ rfl
theorem rsevict (x : Ext) : Statement (.rsevict x) := ext_words _ _ _ rfl
theorem bara (x : Ext) : Statement (.bara x) := ext_words _ _ _ rfl
theorem barw (x : Ext) : Statement (.barw x) := ext_words _ _ _ rfl
theorem bars (x : Ext) : Statement (.bars x) := ext_words _ _ _ rfl
theorem bargen (x : Ext) : Statement (.bargen x) := ext_words _ _ _ rfl
theorem barcfg (x : Ext) : Statement (.barcfg x) := ext_words _ _ _ rfl
theorem sstep (x : Ext) : Statement (.sstep x) := ext_words _ _ _ rfl
theorem sbinit (x : Ext) : Statement (.sbinit x) := ext_words _ _ _ rfl
theorem sbtake (x : Ext) : Statement (.sbtake x) := ext_words _ _ _ rfl
theorem sbgive (x : Ext) : Statement (.sbgive x) := ext_words _ _ _ rfl
theorem sbread (x : Ext) : Statement (.sbread x) := ext_words _ _ _ rfl
theorem sbclose (x : Ext) : Statement (.sbclose x) := ext_words _ _ _ rfl
theorem cpy (x : Ext) : Statement (.cpy x) := ext_words _ _ _ rfl
theorem cpyr (x : Ext) : Statement (.cpyr x) := ext_words _ _ _ rfl
theorem cpym (x : Ext) : Statement (.cpym x) := ext_words _ _ _ rfl
theorem mack (x : Ext) : Statement (.mack x) := ext_words _ _ _ rfl
theorem chain (x : Ext) : Statement (.chain x) := ext_words _ _ _ rfl
theorem marm (x : Ext) : Statement (.marm x) := ext_words _ _ _ rfl
theorem mwait (x : Ext) : Statement (.mwait x) := ext_words _ _ _ rfl
theorem chcfg (x : Ext) : Statement (.chcfg x) := ext_words _ _ _ rfl
theorem chstat (x : Ext) : Statement (.chstat x) := ext_words _ _ _ rfl
theorem vqsend (x : Ext) : Statement (.vqsend x) := ext_words _ _ _ rfl
theorem idmb (x : Ext) : Statement (.idmb x) := ext_words _ _ _ rfl
theorem idme (x : Ext) : Statement (.idme x) := ext_words _ _ _ rfl
theorem tset (x : Ext) : Statement (.tset x) := ext_words _ _ _ rfl
theorem tdesc (x : Ext) : Statement (.tdesc x) := ext_words _ _ _ rfl
theorem tzero (x : Ext) : Statement (.tzero x) := ext_words _ _ _ rfl
theorem tldacc (x : Ext) : Statement (.tldacc x) := ext_words _ _ _ rfl
theorem tmma (x : Ext) : Statement (.tmma x) := ext_words _ _ _ rfl
theorem tmmab (x : Ext) : Statement (.tmmab x) := ext_words _ _ _ rfl
theorem tscale (x : Ext) : Statement (.tscale x) := ext_words _ _ _ rfl
theorem ttrans (x : Ext) : Statement (.ttrans x) := ext_words _ _ _ rfl
theorem tadd (x : Ext) : Statement (.tadd x) := ext_words _ _ _ rfl
theorem tcvt (x : Ext) : Statement (.tcvt x) := ext_words _ _ _ rfl
theorem tstore (x : Ext) : Statement (.tstore x) := ext_words _ _ _ rfl
theorem tbar (x : Ext) : Statement (.tbar x) := ext_words _ _ _ rfl
theorem tloop (x : Ext) : Statement (.tloop x) := ext_words _ _ _ rfl
theorem tend (x : Ext) : Statement (.tend x) := ext_words _ _ _ rfl
theorem tfence (x : Ext) : Statement (.tfence x) := ext_words _ _ _ rfl
theorem rwperm (x : Ext) : Statement (.rwperm x) := ext_words _ _ _ rfl
theorem tsave (x : Ext) : Statement (.tsave x) := ext_words _ _ _ rfl
theorem trstr (x : Ext) : Statement (.trstr x) := ext_words _ _ _ rfl
theorem tnop (x : Ext) : Statement (.tnop x) := ext_words _ _ _ rfl
theorem texit (x : Ext) : Statement (.texit x) := ext_words _ _ _ rfl
theorem nopBase (x : Base) : Statement (.nopBase x) := base_words _ _ _ rfl
theorem movBase (x : Base) : Statement (.movBase x) := base_words _ _ _ rfl
theorem iaddS32Base (x : Base) : Statement (.iaddS32Base x) := base_words _ _ _ rfl
theorem iaddS32ImmBase (x : Base) : Statement (.iaddS32ImmBase x) := base_words _ _ _ rfl
theorem isubS32Base (x : Base) : Statement (.isubS32Base x) := base_words _ _ _ rfl
theorem imulS32Base (x : Base) : Statement (.imulS32Base x) := base_words _ _ _ rfl
theorem imulS32ImmBase (x : Base) : Statement (.imulS32ImmBase x) := base_words _ _ _ rfl
theorem imulhS32Base (x : Base) : Statement (.imulhS32Base x) := base_words _ _ _ rfl
theorem iminS32Base (x : Base) : Statement (.iminS32Base x) := base_words _ _ _ rfl
theorem imaxS32Base (x : Base) : Statement (.imaxS32Base x) := base_words _ _ _ rfl
theorem iminU32Base (x : Base) : Statement (.iminU32Base x) := base_words _ _ _ rfl
theorem imaxU32Base (x : Base) : Statement (.imaxU32Base x) := base_words _ _ _ rfl
theorem iandBase (x : Base) : Statement (.iandBase x) := base_words _ _ _ rfl
theorem iorBase (x : Base) : Statement (.iorBase x) := base_words _ _ _ rfl
theorem ixorBase (x : Base) : Statement (.ixorBase x) := base_words _ _ _ rfl
theorem ishlBase (x : Base) : Statement (.ishlBase x) := base_words _ _ _ rfl
theorem ishlImmBase (x : Base) : Statement (.ishlImmBase x) := base_words _ _ _ rfl
theorem ishrBase (x : Base) : Statement (.ishrBase x) := base_words _ _ _ rfl
theorem ishrImmBase (x : Base) : Statement (.ishrImmBase x) := base_words _ _ _ rfl
theorem israBase (x : Base) : Statement (.israBase x) := base_words _ _ _ rfl
theorem israImmBase (x : Base) : Statement (.israImmBase x) := base_words _ _ _ rfl
theorem iandImmBase (x : Base) : Statement (.iandImmBase x) := base_words _ _ _ rfl
theorem faddBase (x : Base) : Statement (.faddBase x) := base_words _ _ _ rfl
theorem fsubBase (x : Base) : Statement (.fsubBase x) := base_words _ _ _ rfl
theorem fmulBase (x : Base) : Statement (.fmulBase x) := base_words _ _ _ rfl
theorem fminBase (x : Base) : Statement (.fminBase x) := base_words _ _ _ rfl
theorem fmaxBase (x : Base) : Statement (.fmaxBase x) := base_words _ _ _ rfl
theorem hadd2F16Base (x : Base) : Statement (.hadd2F16Base x) := base_words _ _ _ rfl
theorem hmul2F16Base (x : Base) : Statement (.hmul2F16Base x) := base_words _ _ _ rfl
theorem hadd2Bf16Base (x : Base) : Statement (.hadd2Bf16Base x) := base_words _ _ _ rfl
theorem hmul2Bf16Base (x : Base) : Statement (.hmul2Bf16Base x) := base_words _ _ _ rfl
theorem s2vBase (x : Base) : Statement (.s2vBase x) := base_words _ _ _ rfl
theorem v2sBase (x : Base) : Statement (.v2sBase x) := base_words _ _ _ rfl
theorem uaddS64Base (x : Base) : Statement (.uaddS64Base x) := base_words _ _ _ rfl
theorem uaddS64ImmBase (x : Base) : Statement (.uaddS64ImmBase x) := base_words _ _ _ rfl
theorem usubS64Base (x : Base) : Statement (.usubS64Base x) := base_words _ _ _ rfl
theorem umulS64Base (x : Base) : Statement (.umulS64Base x) := base_words _ _ _ rfl
theorem uandBase (x : Base) : Statement (.uandBase x) := base_words _ _ _ rfl
theorem uorBase (x : Base) : Statement (.uorBase x) := base_words _ _ _ rfl
theorem uxorBase (x : Base) : Statement (.uxorBase x) := base_words _ _ _ rfl
theorem ushlImmBase (x : Base) : Statement (.ushlImmBase x) := base_words _ _ _ rfl
theorem ushrImmBase (x : Base) : Statement (.ushrImmBase x) := base_words _ _ _ rfl
theorem uminS64Base (x : Base) : Statement (.uminS64Base x) := base_words _ _ _ rfl
theorem umaxS64Base (x : Base) : Statement (.umaxS64Base x) := base_words _ _ _ rfl
theorem umovBase (x : Base) : Statement (.umovBase x) := base_words _ _ _ rfl
theorem ldsB32Base (x : Base) : Statement (.ldsB32Base x) := base_words _ _ _ rfl
theorem ldgB32Base (x : Base) : Statement (.ldgB32Base x) := base_words _ _ _ rfl
theorem ldgU64Base (x : Base) : Statement (.ldgU64Base x) := base_words _ _ _ rfl
theorem uldU64Base (x : Base) : Statement (.uldU64Base x) := base_words _ _ _ rfl
theorem isetLtS32Base (x : Base) : Statement (.isetLtS32Base x) := base_words _ _ _ rfl
theorem isetGeS32Base (x : Base) : Statement (.isetGeS32Base x) := base_words _ _ _ rfl
theorem isetEqS32Base (x : Base) : Statement (.isetEqS32Base x) := base_words _ _ _ rfl
theorem isetNeS32Base (x : Base) : Statement (.isetNeS32Base x) := base_words _ _ _ rfl
theorem ucmpLtS64Base (x : Base) : Statement (.ucmpLtS64Base x) := base_words _ _ _ rfl
theorem ucmpEqS64Base (x : Base) : Statement (.ucmpEqS64Base x) := base_words _ _ _ rfl
theorem ucmpLtS64ImmBase (x : Base) : Statement (.ucmpLtS64ImmBase x) := base_words _ _ _ rfl
theorem exitBase (x : Base) : Statement (.exitBase x) := base_words _ _ _ rfl
theorem yldBase (x : Base) : Statement (.yldBase x) := base_words _ _ _ rfl
theorem retBase (x : Base) : Statement (.retBase x) := base_words _ _ _ rfl
theorem umovImmBase (x : Base) : Statement (.umovImmBase x) := base_words _ _ _ rfl
theorem movImmBase (x : Base) : Statement (.movImmBase x) := base_words _ _ _ rfl
theorem ldcB32Base (x : Base) : Statement (.ldcB32Base x) := base_words _ _ _ rfl
theorem usraImmBase (x : Base) : Statement (.usraImmBase x) := base_words _ _ _ rfl
theorem upopcBase (x : Base) : Statement (.upopcBase x) := base_words _ _ _ rfl
theorem entryPromotion a0 a1 a2 : Statement (.entryPromotion a0 a1 a2) := rfl
theorem reconvDeadlockRelease a0 a1 a2 : Statement (.reconvDeadlockRelease a0 a1 a2) := rfl
theorem launchRecord a0 a1 : Statement (.launchRecord a0 a1) := rfl
theorem queuePromotion a0 : Statement (.queuePromotion a0) := rfl
theorem blockDispatch a0 : Statement (.blockDispatch a0) := rfl
theorem patienceExpiry a0 a1 : Statement (.patienceExpiry a0 a1) := rfl
theorem regionAdmissionStep : Statement (.regionAdmissionStep) := rfl
theorem blockStart a0 : Statement (.blockStart a0) := rfl
theorem blockComplete a0 a1 : Statement (.blockComplete a0 a1) := rfl
theorem scheduleSetSelection a0 a1 : Statement (.scheduleSetSelection a0 a1) := rfl
theorem variableLatencyReturn a0 a1 a2 a3 : Statement (.variableLatencyReturn a0 a1 a2 a3) := rfl
theorem scoreboardReturn a0 a1 a2 a3 : Statement (.scoreboardReturn a0 a1 a2 a3) := rfl
theorem tokenComplete a0 a1 a2 a3 : Statement (.tokenComplete a0 a1 a2 a3) := rfl
theorem forcedSwitch a0 a1 a2 : Statement (.forcedSwitch a0 a1 a2) := rfl
theorem groupDemotion a0 a1 a2 : Statement (.groupDemotion a0 a1 a2) := rfl
theorem groupRecall a0 a1 a2 : Statement (.groupRecall a0 a1 a2) := rfl
theorem trapDelivery a0 a1 a2 : Statement (.trapDelivery a0 a1 a2) := rfl
theorem writeCombiningDrain a0 a1 : Statement (.writeCombiningDrain a0 a1) := rfl
theorem directoryRequest a0 a1 a2 : Statement (.directoryRequest a0 a1 a2) := rfl
theorem guestDropReport a0 a1 : Statement (.guestDropReport a0 a1) := rfl
theorem scratchpadEccError a0 a1 : Statement (.scratchpadEccError a0 a1) := rfl
theorem holdEccError a0 a1 a2 a3 : Statement (.holdEccError a0 a1 a2 a3) := rfl
theorem barrierRelease a0 a1 a2 a3 : Statement (.barrierRelease a0 a1 a2 a3) := rfl
theorem andTreeArrival a0 a1 a2 a3 : Statement (.andTreeArrival a0 a1 a2 a3) := rfl
theorem andTreeRelease a0 a1 a2 : Statement (.andTreeRelease a0 a1 a2) := rfl
theorem coreFailure a0 : Statement (.coreFailure a0) := rfl
theorem stampBookHomeRequest a0 : Statement (.stampBookHomeRequest a0) := rfl
theorem chainRecordFetch a0 a1 : Statement (.chainRecordFetch a0 a1) := rfl
theorem xferNop a0 a1 : Statement (.xferNop a0 a1) := rfl
theorem copy a0 a1 : Statement (.copy a0 a1) := rfl
theorem reduce a0 a1 : Statement (.reduce a0 a1) := rfl
theorem mcast a0 a1 : Statement (.mcast a0 a1) := rfl
theorem multicastDeliveryAck a0 a1 a2 : Statement (.multicastDeliveryAck a0 a1 a2) := rfl
theorem copyOperationComplete a0 a1 : Statement (.copyOperationComplete a0 a1) := rfl
theorem monitorWake a0 a1 a2 a3 : Statement (.monitorWake a0 a1 a2 a3) := rfl
theorem monitorPoll a0 a1 a2 a3 : Statement (.monitorPoll a0 a1 a2 a3) := rfl
theorem linkPacketReceive a0 a1 a2 a3 a4 a5 a6 a7 : Statement (.linkPacketReceive a0 a1 a2 a3 a4 a5 a6 a7) := rfl
theorem linkReplay a0 a1 a2 : Statement (.linkReplay a0 a1 a2) := rfl
theorem channelWordArrival a0 a1 : Statement (.channelWordArrival a0 a1) := rfl
theorem creditGrant a0 a1 : Statement (.creditGrant a0 a1) := rfl
theorem gather a0 a1 : Statement (.gather a0 a1) := rfl
theorem scatteradd a0 a1 : Statement (.scatteradd a0 a1) := rfl
theorem topk a0 a1 : Statement (.topk a0 a1) := rfl
theorem hist a0 a1 : Statement (.hist a0 a1) := rfl
theorem blockq a0 a1 : Statement (.blockq a0 a1) := rfl
theorem req a0 a1 : Statement (.req a0 a1) := rfl
theorem trans a0 a1 : Statement (.trans a0 a1) := rfl
theorem verticalWindow a0 a1 : Statement (.verticalWindow a0 a1) := rfl
theorem verticalWireFailure a0 a1 : Statement (.verticalWireFailure a0 a1) := rfl
theorem rewriteWindowTimeout a0 a1 : Statement (.rewriteWindowTimeout a0 a1) := rfl
theorem segmentFetchComplete a0 a1 : Statement (.segmentFetchComplete a0 a1) := rfl
theorem deferredFetchStart a0 a1 : Statement (.deferredFetchStart a0 a1) := rfl
theorem pageWalkComplete a0 a1 a2 a3 a4 a5 a6 : Statement (.pageWalkComplete a0 a1 a2 a3 a4 a5 a6) := rfl
theorem faultResponse a0 : Statement (.faultResponse a0) := rfl
theorem xinvGo a0 : Statement (.xinvGo a0) := rfl
theorem xinvComplete a0 : Statement (.xinvComplete a0) := rfl
theorem preemptGo : Statement (.preemptGo) := rfl
theorem preemptDeadline a0 : Statement (.preemptDeadline a0) := rfl
theorem resume a0 : Statement (.resume a0) := rfl
theorem pwstepWrite a0 : Statement (.pwstepWrite a0) := rfl
theorem droopAlarm a0 : Statement (.droopAlarm a0) := rfl
theorem droopRecovery a0 : Statement (.droopRecovery a0) := rfl
theorem imbalanceSample a0 : Statement (.imbalanceSample a0) := rfl
theorem forcefb a0 : Statement (.forcefb a0) := rfl
theorem restack a0 : Statement (.restack a0) := rfl
theorem drainingEnd a0 : Statement (.drainingEnd a0) := rfl
theorem switchingEnd a0 : Statement (.switchingEnd a0) := rfl
theorem regionTrip a0 : Statement (.regionTrip a0) := rfl
theorem trippedEnd a0 : Statement (.trippedEnd a0) := rfl
theorem restartingEnd a0 a1 : Statement (.restartingEnd a0 a1) := rfl
theorem domainLoss a0 a1 : Statement (.domainLoss a0 a1) := rfl
theorem operatingPointChange a0 a1 a2 : Statement (.operatingPointChange a0 a1 a2) := rfl
theorem timeReferencePulse : Statement (.timeReferencePulse) := rfl
theorem cxlLinkDown a0 : Statement (.cxlLinkDown a0) := rfl
theorem peerAccess a0 a1 a2 a3 a4 a5 : Statement (.peerAccess a0 a1 a2 a3 a4 a5) := rfl
theorem hostBar2Access a0 a1 a2 : Statement (.hostBar2Access a0 a1 a2) := rfl
theorem powerOnBoot a0 a1 : Statement (.powerOnBoot a0 a1) := rfl
theorem sorterHeartbeat : Statement (.sorterHeartbeat) := rfl
theorem sorterHeartbeatTimeout : Statement (.sorterHeartbeatTimeout) := rfl
theorem sorterMailboxWrite a0 a1 : Statement (.sorterMailboxWrite a0 a1) := rfl
theorem topologyRefresh : Statement (.topologyRefresh) := rfl
theorem tenantReset a0 : Statement (.tenantReset a0) := rfl
theorem functionLevelReset a0 : Statement (.functionLevelReset a0) := rfl
theorem load a0 : Statement (.load a0) := rfl
theorem unload a0 : Statement (.unload a0) := rfl
theorem fwset a0 : Statement (.fwset a0) := rfl
theorem unpoison a0 : Statement (.unpoison a0) := rfl
theorem lvlfree a0 : Statement (.lvlfree a0) := rfl
theorem rules a0 : Statement (.rules a0) := rfl
theorem attest a0 : Statement (.attest a0) := rfl
theorem admitTenant : Statement (.admitTenant) := rfl
theorem retire : Statement (.retire) := rfl
theorem draincore : Statement (.draincore) := rfl
theorem retrain a0 : Statement (.retrain a0) := rfl
theorem recal : Statement (.recal) := rfl
theorem drainDeadline : Statement (.drainDeadline) := rfl
theorem fwupdate : Statement (.fwupdate) := rfl
theorem sorterload a0 : Statement (.sorterload a0) := rfl
theorem adminAttest : Statement (.adminAttest) := rfl
theorem migset : Statement (.migset) := rfl
theorem errorCounterClear a0 a1 : Statement (.errorCounterClear a0 a1) := rfl
theorem registerWrite a0 a1 a2 : Statement (.registerWrite a0 a1 a2) := rfl
theorem memoryError a0 a1 a2 : Statement (.memoryError a0 a1 a2) := rfl
theorem courierLinkDown a0 : Statement (.courierLinkDown a0) := rfl
theorem hostMailboxImage a0 : Statement (.hostMailboxImage a0) := rfl
theorem ringTailWrite a0 a1 a2 : Statement (.ringTailWrite a0 a1 a2) := rfl
end Sys2Proof.Laws.Coded
end

