-- ==== Sys2Proof/Laws/Results.lean ====
section
/-! SUPPORT. What class F instructions write: registers of lanes, predicates and uniform registers, and that nothing else of
the state changes. -/
namespace Sys2Proof.Machine
open Sys2Proof

/-- With nothing on its way to a register of a lane, a write to it stands alone. -/
theorem rivals_idle {g : Group} {r l : Nat} (h : g.coming r l = []) : g.rivals r l = [] := by
  obtain ⟨hp, ht⟩ := List.append_eq_nil_iff.mp h
  refine List.append_eq_nil_iff.mpr ⟨hp, ?_⟩
  simp only [List.filterMap_eq_nil_iff] at ht ⊢
  intro a ha
  have := ht a ha
  split
  · rfl
  · exact this

theorem putV_idle (g : Group) (tick r l : Nat) (v : W32) (h : g.coming r l = []) :
    g.putV tick r l v = g.setV (zset g.v (vKey r l) v) := by
  simp [Group.putV, rivals_idle h, Group.setV]

@[simp] theorem setV_coming (g : Group) (v : ZMap 32) (r l : Nat) : (g.setV v).coming r l = g.coming r l := rfl
@[simp] theorem setV_v (g : Group) (v : ZMap 32) : (g.setV v).v = v := rfl
@[simp] theorem setV_setV (g : Group) (v w : ZMap 32) : (g.setV v).setV w = g.setV w := rfl
@[simp] theorem counted_coming (h : Here) (r l : Nat) : h.counted.coming r l = h.grp.coming r l := rfl
@[simp] theorem counted_v (h : Here) : h.counted.v = h.grp.v := rfl
@[simp] theorem counted_p (h : Here) : h.counted.p = h.grp.p := rfl
@[simp] theorem counted_s (h : Here) : h.counted.s = h.grp.s := rfl
@[simp] theorem counted_q (h : Here) : h.counted.q = h.grp.q := rfl
@[simp] theorem counted_pend (h : Here) : h.counted.pend = h.grp.pend := rfl

/-- Registers of one number written lane after lane, with nothing on its way to them. -/
theorem foldl_putV (vals : List (Nat × W64)) (g : Group) (tick d : Nat) (h : ∀ l, g.coming d l = []) :
    vals.foldl (fun g (p : Nat × W64) => g.putV tick d p.1 (p.2.extractLsb' 0 32)) g =
      g.setV (vals.foldl (fun m (p : Nat × W64) => zset m (vKey d p.1) (p.2.extractLsb' 0 32)) g.v) := by
  induction vals generalizing g with
  | nil => rfl
  | cons p r ih =>
    simp only [List.foldl_cons]
    rw [putV_idle g tick d p.1 _ (h p.1), ih _ (by simpa using h)]
    simp

theorem foldl_putV2 (vals : List (Nat × W64)) (g : Group) (tick d : Nat) (h : ∀ l, g.coming d l = [])
    (h' : ∀ l, g.coming (d + 1) l = []) :
    vals.foldl (fun g (p : Nat × W64) => g.putV2 tick d p.1 p.2) g =
      g.setV (vals.foldl (fun m (p : Nat × W64) =>
          zset (zset m (vKey d p.1) (p.2.extractLsb' 0 32)) (vKey (d + 1) p.1) (p.2.extractLsb' 32 32)) g.v) := by
  induction vals generalizing g with
  | nil => rfl
  | cons p r ih =>
    simp only [List.foldl_cons]
    rw [Group.putV2, putV_idle g tick d p.1 _ (h p.1), putV_idle _ tick (d + 1) p.1 _ (by simpa using h' p.1),
      ih _ (by simpa using h) (by simpa using h')]
    simp

theorem zget_foldl_lane (ls : List Nat) (val : Nat → W64) (m : ZMap 32) (d k : Nat) (hk : ∀ l ∈ ls, k ≠ vKey d l) :
    zget ((ls.map fun l => (l, val l)).foldl (fun m (p : Nat × W64) => zset m (vKey d p.1) (p.2.extractLsb' 0 32)) m) k =
      zget m k := by
  induction ls generalizing m with
  | nil => rfl
  | cons a r ih =>
    simp only [List.map_cons, List.foldl_cons]
    rw [ih _ (fun l hl => hk l (List.mem_cons_of_mem _ hl)), zget_zset_ne _ _ (hk a List.mem_cons_self)]

theorem vecWritten_single (ls : List Nat) (val : Nat → W64) (m : ZMap 32) (d : Nat) (hn : ls.Nodup) (h64 : ∀ l ∈ ls, l < 64) :
    vecWritten m ((ls.map fun l => (l, val l)).foldl (fun m (p : Nat × W64) => zset m (vKey d p.1) (p.2.extractLsb' 0 32)) m)
      false d ls val := by
  refine ⟨fun l hl => ⟨?_, fun h => by cases h⟩, fun i l h1 h2 => ?_⟩
  · induction ls generalizing m with
    | nil => cases hl
    | cons a r ih =>
      simp only [List.map_cons, List.foldl_cons]
      rw [List.nodup_cons] at hn
      rcases List.mem_cons.mp hl with rfl | hr
      · rw [zget_foldl_lane _ _ _ _ _ (fun j hj he => hn.1 ((vKey_inj (h64 l List.mem_cons_self)
          (h64 j (List.mem_cons_of_mem _ hj)) he).2 ▸ hj)), zget_zset_self]
      · exact ih _ hn.2 (fun j hj => h64 j (List.mem_cons_of_mem _ hj)) hr
  · exact zget_foldl_lane _ _ _ _ _ fun j hj he =>
      h2 ⟨(vKey_inj h1 (h64 j hj) he).2 ▸ hj, Or.inl (vKey_inj h1 (h64 j hj) he).1⟩

theorem zget_foldl_pair (ls : List Nat) (val : Nat → W64) (m : ZMap 32) (d k : Nat)
    (hk : ∀ l ∈ ls, k ≠ vKey d l ∧ k ≠ vKey (d + 1) l) :
    zget ((ls.map fun l => (l, val l)).foldl (fun m (p : Nat × W64) =>
      zset (zset m (vKey d p.1) (p.2.extractLsb' 0 32)) (vKey (d + 1) p.1) (p.2.extractLsb' 32 32)) m) k = zget m k := by
  induction ls generalizing m with
  | nil => rfl
  | cons a r ih =>
    simp only [List.map_cons, List.foldl_cons]
    rw [ih _ (fun l hl => hk l (List.mem_cons_of_mem _ hl)), zget_zset_ne _ _ (hk a List.mem_cons_self).2,
      zget_zset_ne _ _ (hk a List.mem_cons_self).1]

theorem vecWritten_pair (ls : List Nat) (val : Nat → W64) (m : ZMap 32) (d : Nat) (hn : ls.Nodup) (h64 : ∀ l ∈ ls, l < 64) :
    vecWritten m ((ls.map fun l => (l, val l)).foldl (fun m (p : Nat × W64) =>
      zset (zset m (vKey d p.1) (p.2.extractLsb' 0 32)) (vKey (d + 1) p.1) (p.2.extractLsb' 32 32)) m) true d ls val := by
  have step : ∀ l ∈ ls, ∀ j ∈ ls, j ≠ l → ∀ a b, vKey a l ≠ vKey b j := fun l hl j hj hne a b he =>
    hne (vKey_inj (h64 l hl) (h64 j hj) he).2.symm
  refine ⟨fun l hl => ?_, fun i l h1 h2 => ?_⟩
  · have key : ∀ (ls : List Nat) (m : ZMap 32), ls.Nodup → (∀ l ∈ ls, l < 64) → l ∈ ls →
        zget ((ls.map fun l => (l, val l)).foldl (fun m (p : Nat × W64) =>
          zset (zset m (vKey d p.1) (p.2.extractLsb' 0 32)) (vKey (d + 1) p.1) (p.2.extractLsb' 32 32)) m) (vKey d l) =
            (val l).extractLsb' 0 32 ∧
        zget ((ls.map fun l => (l, val l)).foldl (fun m (p : Nat × W64) =>
          zset (zset m (vKey d p.1) (p.2.extractLsb' 0 32)) (vKey (d + 1) p.1) (p.2.extractLsb' 32 32)) m) (vKey (d + 1) l) =
            (val l).extractLsb' 32 32 := by
      intro ls
      induction ls with
      | nil => intro _ _ _ h; cases h
      | cons a r ih =>
        intro m hn h64 hl
        simp only [List.map_cons, List.foldl_cons]
        rw [List.nodup_cons] at hn
        rcases List.mem_cons.mp hl with rfl | hr
        · have away : ∀ e, ∀ j ∈ r, vKey e l ≠ vKey d j ∧ vKey e l ≠ vKey (d + 1) j := fun e j hj =>
            ⟨fun he => hn.1 ((vKey_inj (h64 l List.mem_cons_self) (h64 j (List.mem_cons_of_mem _ hj)) he).2 ▸ hj),
             fun he => hn.1 ((vKey_inj (h64 l List.mem_cons_self) (h64 j (List.mem_cons_of_mem _ hj)) he).2 ▸ hj)⟩
          rw [zget_foldl_pair _ _ _ _ _ (away d), zget_foldl_pair _ _ _ _ _ (away (d + 1))]
          refine ⟨?_, by simp⟩
          rw [zget_zset_ne _ _ (by unfold vKey; omega), zget_zset_self]
        · exact ih _ hn.2 (fun j hj => h64 j (List.mem_cons_of_mem _ hj)) hr
    obtain ⟨k1, k2⟩ := key ls m hn h64 hl
    exact ⟨k1, fun _ => k2⟩
  · refine zget_foldl_pair _ _ _ _ _ fun j hj => ⟨fun he => h2 ?_, fun he => h2 ?_⟩
    · exact ⟨(vKey_inj h1 (h64 j hj) he).2 ▸ hj, Or.inl (vKey_inj h1 (h64 j hj) he).1⟩
    · exact ⟨(vKey_inj h1 (h64 j hj) he).2 ▸ hj, Or.inr ⟨rfl, (vKey_inj h1 (h64 j hj) he).1⟩⟩

/-- The end of a class F instruction: its destination written by `f`, its flags raised once, its sources popped. -/
theorem settle_classF {s base : State} {h : Here} (hh : here s = some h) (hb : base.group h.c h.b h.g = some h.grp)
    (ht : base.tick = s.tick) (len : Nat) (sb : Bool) (s0 : State) {x : Ext} (hd : x.dcl = false) (fl : Flags) (f : Group → Group) {y : Group}
    (hy : f h.counted = y) :
    settleOut h len sb (finPush s0 x (raiseFlags ((base.updGroup h.c h.b h.g fun g => countIssue g h.ent.pc).updGroup h.c h.b h.g f)
        h.c h.b h.g h.ten fl, true)) =
      countFlags (base.updGroup h.c h.b h.g fun _ => h.advanced len sb (y.raised fl)) h.ten fl := by
  simp only [finPush, hd, Bool.false_and, Bool.false_eq_true, if_false, if_true]
  rw [settle_fin (g := y.raised fl)]
  · rw [raiseFlags_updGroup, State.updGroup_updGroup, State.updGroup_updGroup]
  · rw [raiseFlags_group, State.updGroup_updGroup, State.updGroup_group_self, hb]
    simp only [Option.map_some, Option.some.injEq]
    change ({ f h.counted with fflags := (f h.counted).fflags ||| fl } : Group) = _
    rw [hy]
    rfl
  · simp [ht, (here_spec hh).2.2.2.1]

/-- Raising no flag changes nothing. -/
theorem raised_zero (g : Group) : g.raised 0 = g := by simp [Group.raised]
theorem countFlags_zero (s : State) (t : Nat) : countFlags s t 0 = s := by simp [countFlags]

/-- A class F vector instruction that passes its checks, before its destination is written. -/
theorem vecLanes_opens {i : Instr} {r : Row} {x : Ext} {len : Nat} {f : Ext → Here → Srcs → Nat → W64 × Flags} {s : State}
    {h : Here} (hi : i.issued = some (r, x, len)) (ht : r.tile = false) (hb : groupBody r.xop len = vecLanes r f)
    (hh : here s = some h) (hv : h.vecIssues s r x false) :
    exec i s = .next (settleOut h len x.s
      (let q := fetchSrcs s h r x (h.lanes x)
       let p := dstVec (q.2.updGroup h.c h.b h.g fun g => countIssue g h.ent.pc) h r x
         ((h.lanes x).map fun l => (l, (f x h q.1 l).1))
       finPush (openIssue s h) x (raiseFlags p.1 h.c h.b h.g h.ten (laneFlags (f x h q.1) (h.lanes x)), p.2))) := by
  rw [exec_of_issued hi ht, issueGroup_here hh, hb]
  simp only [vecLanes, vecBody_issues hv]
  simp only [openIssue, fetchSrcs_updGroup]
  simp only [List.map_map, List.foldl_map, Function.comp_def]
  rfl

/-- A class F vector instruction with a register destination (R183, R188, R229): it completes; the active lanes take their
values, the flags of all lanes are raised once, and nothing else changes but what the sources pop. -/
theorem vecLanes_register {i : Instr} {r : Row} {x : Ext} {len : Nat} {f : Ext → Here → Srcs → Nat → W64 × Flags} {s : State}
    {h : Here} (hi : i.issued = some (r, x, len)) (ht : r.tile = false) (hb : groupBody r.xop len = vecLanes r f)
    (hh : here s = some h) (hv : h.vecIssues s r x false) (hd : x.dcl = false) (hk : isVec r.d x = true) (hq : h.destIdle r x) :
    let q := fetchSrcs s h r x (h.lanes x)
    let fl := laneFlags (f x h q.1) (h.lanes x)
    ∃ v, exec i s = .next (countFlags (q.2.updGroup h.c h.b h.g fun _ =>
        h.advanced len x.s ((h.counted.setV v).raised fl)) h.ten fl) ∧
      vecWritten h.grp.v v (pairOf r.d x) x.d.toNat (h.lanes x) (fun l => (f x h q.1 l).1) := by
  have hn : (h.lanes x).Nodup := laneList_nodup _ _
  have h64 : ∀ l ∈ h.lanes x, l < 64 := fun l hl => laneList_lt hl
  have hfg := fetchSrcs_group s h r x (h.lanes x) h.c h.b h.g
  rw [here_group hh] at hfg
  rw [vecLanes_opens hi ht hb hh hv]
  simp only [dstVec, hd, if_false, Bool.false_eq_true, hk, if_true]
  cases hp : pairOf r.d x with
  | false =>
    refine ⟨_, ?_, vecWritten_single (h.lanes x) _ h.grp.v x.d.toNat hn h64⟩
    simp only [Bool.false_eq_true, if_false]
    rw [settle_classF hh hfg (fetchSrcs_tick ..) _ _ _ hd _ _ (foldl_putV _ h.counted h.tick x.d.toNat (fun l => (hq l).1))]
    rfl
  | true =>
    refine ⟨_, ?_, vecWritten_pair (h.lanes x) _ h.grp.v x.d.toNat hn h64⟩
    simp only [if_true]
    rw [settle_classF hh hfg (fetchSrcs_tick ..) _ _ _ hd _ _
      (foldl_putV2 _ h.counted h.tick x.d.toNat (fun l => (hq l).1) (fun l => (hq l).2 hp))]
    rfl

theorem putP_eq (g : Group) (i l : Nat) (v : Bool) :
    g.putP i l v = g.setP (if i = 7 then g.p else zset g.p i (if v then zget g.p i ||| laneBit l else zget g.p i &&& ~~~laneBit l)) := by
  unfold Group.putP Group.setP
  split <;> rfl

theorem laneBit_getLsbD {l j : Nat} (hl : l < 64) : (laneBit l).getLsbD j = decide (j = l) := by
  simp only [laneBit, BitVec.getLsbD_ofNat, Nat.testBit_two_pow]
  rcases Nat.lt_or_ge j 64 with h | h
  · simp [h, eq_comm]
  · have : j ≠ l := by omega
    simp [this, this.symm]

/-- One lane's bit of a predicate word, written. -/
theorem putBit_getLsbD (w : W64) {l j : Nat} (hl : l < 64) (hj : j < 64) (v : Bool) :
    (if v then w ||| laneBit l else w &&& ~~~laneBit l).getLsbD j = if j = l then v else w.getLsbD j := by
  by_cases h : j = l
  · subst h
    cases v <;> simp [laneBit_getLsbD hj]
  · cases v <;> simp [laneBit_getLsbD hl, h]
    exact fun _ => hj

theorem foldl_putP (vals : List (Nat × Bool)) (g : Group) (d : Nat) :
    vals.foldl (fun g (p : Nat × Bool) => g.putP d p.1 p.2) g =
      g.setP (vals.foldl (fun m (p : Nat × Bool) => if d = 7 then m else
        zset m d (if p.2 then zget m d ||| laneBit p.1 else zget m d &&& ~~~laneBit p.1)) g.p) := by
  induction vals generalizing g with
  | nil => rfl
  | cons p r ih =>
    simp only [List.foldl_cons]
    rw [ih, putP_eq]
    rfl

theorem predWritten_fold (ls : List Nat) (val : Nat → Bool) (m : ZMap 64) (d : Nat) (hn : ls.Nodup) (h64 : ∀ l ∈ ls, l < 64) :
    predWritten m ((ls.map fun l => (l, val l)).foldl (fun m (p : Nat × Bool) => if d = 7 then m else
      zset m d (if p.2 then zget m d ||| laneBit p.1 else zget m d &&& ~~~laneBit p.1)) m) d ls val := by
  intro i l hl
  induction ls generalizing m with
  | nil => simp
  | cons a r ih =>
    rw [List.nodup_cons] at hn
    simp only [List.map_cons, List.foldl_cons]
    rw [ih _ hn.2 fun j hj => h64 j (List.mem_cons_of_mem _ hj)]
    by_cases hd : d = 7
    · simp [hd]
    · simp only [hd, if_false, ne_eq, not_false_eq_true, and_true]
      by_cases hi : i = d
      · subst hi
        simp only [zget_zset_self, and_true]
        rw [putBit_getLsbD _ (h64 a List.mem_cons_self) hl]
        by_cases hr : l ∈ r
        · simp [hr]
        · by_cases ha : l = a
          · subst ha; simp [hr]
          · simp [hr, ha]
      · simp [hi, zget_zset_ne _ _ hi]

/-- A class F vector instruction with a lane predicate destination (R50, R229). -/
theorem vecLanes_predicate {i : Instr} {r : Row} {x : Ext} {len : Nat} {f : Ext → Here → Srcs → Nat → W64 × Flags} {s : State}
    {h : Here} (hi : i.issued = some (r, x, len)) (ht : r.tile = false) (hb : groupBody r.xop len = vecLanes r f)
    (hh : here s = some h) (hv : h.vecIssues s r x false) (hd : x.dcl = false) (hk : isVec r.d x = false) :
    let q := fetchSrcs s h r x (h.lanes x)
    let fl := laneFlags (f x h q.1) (h.lanes x)
    ∃ p, exec i s = .next (countFlags (q.2.updGroup h.c h.b h.g fun _ =>
        h.advanced len x.s ((h.counted.setP p).raised fl)) h.ten fl) ∧
      predWritten h.grp.p p x.d.toNat (h.lanes x) (fun l => (f x h q.1 l).1 != 0) := by
  have hn : (h.lanes x).Nodup := laneList_nodup _ _
  have h64 : ∀ l ∈ h.lanes x, l < 64 := fun l hl => laneList_lt hl
  have hfg := fetchSrcs_group s h r x (h.lanes x) h.c h.b h.g
  rw [here_group hh] at hfg
  rw [vecLanes_opens hi ht hb hh hv]
  simp only [dstVec, hd, if_false, Bool.false_eq_true, hk]
  refine ⟨_, ?_, predWritten_fold (h.lanes x) _ h.grp.p x.d.toNat hn h64⟩
  have e := foldl_putP ((h.lanes x).map fun l => (l, (f x h (fetchSrcs s h r x (h.lanes x)).1 l).1 != 0)) h.counted x.d.toNat
  simp only [List.foldl_map] at e ⊢
  rw [settle_classF hh hfg (fetchSrcs_tick ..) _ _ _ hd _ _ e]
  rfl

/-- A uniform register written with nothing on its way to it. -/
theorem putS_idle (g : Group) (tick r : Nat) (v : W64) (h : g.uniIdle r) : g.putS tick r v = g.setS (zset g.s r v) := by
  unfold Group.putS
  split
  · rename_i w hw
    obtain ⟨⟨k, p⟩, hp, hf⟩ := List.exists_of_findSome?_eq_some hw
    exfalso
    cases p with | mk wb fl =>
    simp only at hf
    split at hf
    · rename_i i u
      split at hf
      · rename_i e
        exact h _ hp u (by subst e; rfl)
      · cases hf
    · cases hf
  · rfl

/-- A class F uniform instruction with a register destination (R204, R206): it completes; s(D) takes the value, and nothing else
changes but what the sources pop. -/
theorem uniOp_register {i : Instr} {r : Row} {x : Ext} {len : Nat} {f : Ext → W64 → W64 → W64 → W64} {s : State} {h : Here}
    (hi : i.issued = some (r, x, len)) (ht : r.tile = false) (hb : groupBody r.xop len = uniOp r f)
    (hh : here s = some h) (hv : h.uniIssues s r x false) (hd : x.dcl = false) (hq : h.grp.uniIdle x.d.toNat) :
    let q := fetchSrcs s h r x []
    exec i s = .next (q.2.updGroup h.c h.b h.g fun _ => h.advanced len x.s
      (h.counted.setS (zset h.grp.s x.d.toNat (f x (q.1.a 0) (q.1.b 0) (q.1.c 0))))) := by
  have hfg := fetchSrcs_group s h r x [] h.c h.b h.g
  rw [here_group hh] at hfg
  rw [exec_of_issued hi ht, issueGroup_here hh, hb]
  simp only [uniOp, uniBody_issues hv (priv := anyMode) rfl]
  simp only [openIssue, fetchSrcs_updGroup, dstUni, hd, if_false, Bool.false_eq_true]
  have e := settle_classF hh hfg (fetchSrcs_tick ..) len x.s (openIssue s h) hd 0
    (fun g => g.putS h.tick x.d.toNat (f x ((fetchSrcs s h r x []).1.a 0) ((fetchSrcs s h r x []).1.b 0)
      ((fetchSrcs s h r x []).1.c 0))) (putS_idle h.counted h.tick x.d.toNat _ hq)
  simp only [raiseFlags, beq_self_eq_true, if_true, raised_zero, countFlags_zero] at e
  exact congrArg _ e

end Sys2Proof.Machine
end

