-- ==== Sys2Proof/Machine/Registers.lean ====
section
/-! DEFINITION. What a host read of a register returns (R11, R369, R380): the fields of the state in the places the spec gives them.
Reserved bits and other offsets read zero. A read changes nothing. -/
namespace Sys2Proof.Machine
open Sys2Proof

/-- The 64-bit word with a number. -/
def regWord (n : Nat) : W64 := BitVec.ofNat 64 n

/-- A ring's four registers (R380). -/
def Ring.read (r : Ring) (sub : Nat) : Nat :=
  if sub = 0 then r.base
  else if sub = 8 then r.en.toNat * 2 ^ 31 + r.err.toNat * 2 ^ 30 + r.log2n
  else if sub = 16 then r.tail.toNat
  else if sub = 24 then r.head.toNat
  else 0

/-- A tenant window (R380). -/
def readTenantWindow (s : State) (t o : Nat) : W64 :=
  let n := s.ten t
  match windowRing o with
  | some q => regWord ((n.ring q).read (o % 32))
  | none =>
    if o = 0x000 then regWord (n.pthome * 2 ^ 42 + n.vni * 2 ^ 30 + n.rstDone.toNat * 4 + n.st.toNat)
    else if o = 0x008 then regWord (n.st == 2).toNat
    else if o = 0x010 then regWord (n.wq.toNat * 2 ^ 16 + n.wd.toNat)
    else if o = 0x018 then regWord n.topopa
    else if o = 0x020 then regWord n.apbase
    else if o = 0x220 then regWord n.fqDrops
    else if o = 0x260 then regWord n.dqDrops
    else if o = 0x300 then regWord ((n.counter 3 0).st.toNat * 2 ^ 62 + (n.counter 3 0).value % 2 ^ 48)
    else if o = 0x308 then regWord n.esum.toNat
    else if 0x310 ≤ o ∧ o < 0x338 ∧ o % 8 = 0 then regWord (zget n.exc ((o - 0x310) / 8)).toNat
    else 0

/-- A domain's error block (R409): word `w`. -/
def readErrBlock (s : State) (d w : Nat) : W64 :=
  let e := (s.dom d).err
  if s.nlive ≤ d then 0
  else if w = 0 then regWord (e.ceSram * 2 ^ 32 + e.ceReg)
  else if w = 1 then regWord (e.ceDram * 2 ^ 32 + e.ceL2)
  else if w = 2 then regWord (e.imemPar * 2 ^ 48 + e.poison * 2 ^ 32 + e.ueSram * 2 ^ 16 + e.ueReg)
  else if w = 3 then regWord (e.vniDrops * 2 ^ 48 + e.reroutes * 2 ^ 32 + e.replays)
  else if w = 4 then
    let (sp, short, drain) := e.frozen.getD (spares s d, shortBays s d, (s.dom d).drain)
    regWord (drain.toNat * 2 ^ 41 + (s.dom d).lost.toNat * 2 ^ 40 + e.retired % 256 * 2 ^ 32 + short * 2 ^ 24 + sp * 2 ^ 16 +
      e.vwHalf % 256 * 2 ^ 8 + e.vwSpare % 256)
  else if w = 5 then regWord e.tstamp
  else 0

/-- A bay map (R369). -/
def readBayMap (s : State) (d b : Nat) : W64 :=
  let m := (kget s.mod.bays (d * 16 + b)).getD []
  regWord (((List.range 15).map fun n => m.getD n 15 % 16 * 16 ^ n).sum + m.length % 16 * 2 ^ 60)

/-- The clock a region applies (R400, R401, R402): the lowest of the droop stretch, the balance throttle and DRAINING's. -/
def regionClock (k : Region) : Nat := max (max k.droop k.throttle) (if k.st == rgDraining then 2 else 0)

/-- The frequency of a domain's operating point in MHz (R404): point 0 is stated, and each of the seven further ones is free but lower. -/
def pointFreq (d tier : Nat) : Nat → Nat
  | 0 => if tier = 0 then 2700 else 1350
  | n + 1 => 7 - n + Config.islandFreq d tier (n + 1) % max 1 (pointFreq d tier n - (7 - n))

/-- The power block (R403). -/
def readPower (s : State) (d o : Nat) : W64 :=
  let r := s.prg d
  let k := s.region r
  let x := s.dom d
  let freq (tier : Nat) (pt : BitVec 8) : Nat := pointFreq d tier pt.toNat
  if o = 0xA000 then regWord (k.current % 2 ^ 16 * 2 ^ 48 + (BitVec.ofInt 8 k.imb).toNat * 2 ^ 40 + regionClock k * 2 ^ 20 +
    k.droop % 4 * 2 ^ 18 + k.ballast.toNat * 2 ^ 17 + (decide (k.throttle ≠ 0)).toNat * 2 ^ 16 + partner r * 2 ^ 12 + r * 2 ^ 8 + k.st.toNat)
  else if o = 0xA010 then regWord (k.shunts * 2 ^ 48 + k.trips * 2 ^ 32 + k.droops)
  else if o = 0xA018 then regWord (freq 1 x.bpt * 2 ^ 32 + freq 0 x.cpt * 2 ^ 16 + x.bpt.toNat * 2 ^ 8 + x.cpt.toNat)
  else 0

/-- The module block of domain 0 (R396). -/
def readModuleBlock (s : State) (o : Nat) : W64 :=
  if o = 0xC000 then s.mod.pctl
  else if o = 0xC008 then regWord (s.mod.pwMax.toNat * 2 ^ 16 + s.mod.pwLimit.toNat)
  else if o = 0xC010 then regWord s.now
  else if o = 0xC018 then regWord ((List.range 4).map fun p => s.mod.hostHome.getD p 0 % 64 * 2 ^ (8 * p)).sum
  else if 0xC040 ≤ o ∧ o < 0xC100 ∧ o % 8 = 0 then
    let (id, valid, up, ports) := s.peer ((o - 0xC040) / 8)
    regWord (id.toNat * 2 ^ 48 + valid.toNat * 2 ^ 33 + up.toNat * 2 ^ 32 + ports.toNat)
  else if 0xC100 ≤ o ∧ o < 0xC300 ∧ o % 8 = 0 then
    let n := s.ten ((o - 0xC100) / 8)
    regWord (n.perr.toNat * 8 + n.pstat.toNat)
  else if 0xC300 ≤ o ∧ o < 0xC500 ∧ o % 8 = 0 then regWord (s.ten ((o - 0xC300) / 8)).pctx
  else 0

/-- A domain's control space (R62, R150, R369, R395). The W1S triggers GO, RESUME, FORCEFB and RESTACK read 0, their action taken with
the write (DESIGN CHOICE, log 141). -/
def readControl (s : State) (d o : Nat) : W64 :=
  let x := s.dom d
  if s.nlive ≤ d || o % 8 != 0 then 0
  else if o = 0 then regWord (d * 2 ^ 16 + s.quad d * 2 ^ 12 + s.prg d * 2 ^ 8 + s.py d * 8 + s.px d)
  else if 0x100 ≤ o ∧ o < 0x148 then readBayMap s d ((o - 0x100) / 8)
  else if 0x4000 ≤ o ∧ o < 0x4400 then word ((kget x.fw ((o - 0x4000) / 64)).getD (zeros 5)) (o % 64 / 8)
  else if o = 0x4800 then regWord x.ueFirst.toNat
  else if o = 0x8000 then x.xinva
  else if o = 0x8008 then x.xinvn
  else if o = 0x8010 then regWord (x.xinvBusy.toNat * 2 ^ 62 + x.xinvErr.toNat * 2 ^ 61 + x.xinvSeq.toNat)
  else if 0xA000 ≤ o ∧ o < 0xA020 then readPower s d o
  else if d = 0 then readModuleBlock s o
  else 0

/-- The PF's BAR0 (R366, R369, R379, R388, R409-R411). -/
def readPf (s : State) (o : Nat) : W64 :=
  if o < 0x40000 then readTenantWindow s (o / 0x1000) (o % 0x1000)
  else if o = 0x40000 then regWord (s.mod.ready.toNat * 2 ^ 12 + s.mod.bootErr.toNat * 2 ^ 4 + s.mod.bootStep.toNat)
  else if o = 0x40008 then regWord s.mod.apbase
  else if 0x40180 ≤ o ∧ o < 0x401A0 then regWord ((s.mod.ring ringCQ).read (o % 32))
  else if 0x40200 ≤ o ∧ o < 0x40220 then regWord ((s.mod.ring ringFQ).read (o % 32))
  else if o = 0x40220 then regWord s.mod.evDrops
  else if 0x50000 ≤ o ∧ o < 0x51000 ∧ o % 8 = 0 then readErrBlock s ((o - 0x50000) / 64) (o % 64 / 8)
  else if o = 0x51000 then regWord (s.mod.spareMin.toNat * 2 ^ 8 + s.mod.svc.toNat)
  else if 0x400000 ≤ o ∧ o < 0x800000 then readControl s ((o - 0x400000) / 65536) (o % 65536)
  else 0

/-- BAR4 of a function (R379): the MSI-X table's four entries from offset 0, and the pending bits at 0x2000 (PRESUMED, log 164). -/
def readBar4 (s : State) (fn o : Nat) : W64 :=
  if o < 64 then (if o % 16 = 0 then (s.mod.vector fn (o / 16)).1 else if o % 16 = 8 then (s.mod.vector fn (o / 16)).2 else 0)
  else if o = 0x2000 then regWord ((List.range 4).map fun v => (s.mod.pba.contains (fn, v)).toNat * 2 ^ v).sum
  else 0
/-- What a host read of 8 bytes at an offset of a function returns, the functions and offsets as REGISTER_WRITE numbers them. -/
def readRegister (s : State) (fn off : Nat) : W64 :=
  if isPf fn ∧ 2 ^ 33 ≤ off then regWord (s.mod.numVfs.getD (off - 2 ^ 33) 0)
  else if 2 ^ 32 ≤ off then readBar4 s fn (off - 2 ^ 32)
  else if isPf fn then readPf s off
  else match vfTenant s (fn - 1) with
    | some t => if off < 0x1000 then readTenantWindow s t off else 0
    | none => 0

end Sys2Proof.Machine
end

