-- ==== Sys2Proof/Tests/Slice0.lean ====
section
/-! SUPPORT. Small tests: words written out from the encodings and the instructions they stand for, ill-formed terms that each
check refuses, one step each of some instructions with results worked out from the rules, and for every statement states and
operands that meet its hypotheses. Hypotheses on a free value of Config (whether a translation is still held, a region's current, what
the self test finds, a saved image's bytes) have no witness that Lean can evaluate: Config gives them no body. An image whose LMS
signature verifies is too long to be written out here. -/
namespace Sys2Proof.Tests
open Sys2Proof Sys2Proof.Machine
set_option Elab.async false

theorem test_decode_usub : decodeTableWord 96 0x00003000_00001C06_050F4009 =
    some (.usub { Ext.plain with d := 5, a := 6, b := 7, ty := 0xc, g0 := 2, g0n := true }) := by decide +kernel
theorem test_decode_ucmp : decodeTableWord 160 0x00000000_00000010_00082800_00000001_030EE08A =
    some (.ucmp { Ext.plain with d := 3, a := 1, b := 0, ty := 0xa, mod6 := 2, lit := some 0x10 }) := by decide +kernel
theorem test_decode_uld : decodeTableWord 96 0x10803400_00000004_098EE0C1 =
    some (.uld { Ext.plain with d := 9, a := 4, ty := 0xd, mod6 := 0x20, aux8 := 0x10, hint := 2 }) := by decide +kernel
theorem test_decode_jfence : decodeTableWord 160 0x00000003_00000040_02040000_00000000_000EE122 =
    some (.jfence { Ext.plain with mod6 := 1, aux8 := 2, lit := some 0x300000040 }) := by decide +kernel
theorem test_decode_spawn : decodeTableWord 96 0x00000000_00000010_000EE181 =
    some (.spawn { Ext.plain with a := 0x10 }) := by decide +kernel
theorem test_decode_wrsr : decodeTableWord 96 0x18000000_00000002_000EE1C9 =
    some (.wrsr { Ext.plain with a := 2, aux8 := 0x18 }) := by decide +kernel
theorem test_decode_fadd : decodeTableWord 96 0x0000C000_00000C02_010EE901 =
    some (.fadd { Ext.plain with d := 1, a := 2, b := 3, rm := 3 }) := by decide +kernel
theorem test_decode_hfma2 : decodeTableWord 96 0x00004800_00400C02_010EE951 =
    some (.hfma2 { Ext.plain with d := 1, a := 2, b := 3, c := 4, ty := 2, rm := 1 }) := by decide +kernel
theorem test_decode_cvt : decodeTableWord 96 0x00026800_00000002_010EE981 =
    some (.cvt { Ext.plain with d := 1, a := 2, ty := 0xa, rm := 1, sat := true, aux8 := 0 }) := by decide +kernel
theorem test_decode_shfl : decodeTableWord 96 0x000C0000_00000C02_010EEA01 =
    some (.shfl { Ext.plain with d := 1, a := 2, bcl := false, b := 3, mod6 := 3 }) := by decide +kernel
theorem test_decode_vote : decodeTableWord 96 0x00080000_00000001_080EEA09 =
    some (.vote { Ext.plain with d := 8, a := 1, mod6 := 2 }) := by decide +kernel
theorem test_decode_rcp : decodeTableWord 96 0x05000000_00000002_010EEA91 =
    some (.rcp { Ext.plain with d := 1, a := 2, aux8 := 5 }) := by decide +kernel
theorem test_decode_ldgPop : decodeTableWord 96 0x00003C00_40000006_040EF001 =
    some (.ldg { Ext.plain with d := 4, a := 6, ty := 0xf, dcl := true }) := by decide +kernel
theorem test_decode_strl : decodeTableWord 96 0x03003400_00800006_000EF0A9 =
    some (.strl { Ext.plain with a := 6, c := 8, ty := 0xd, aux8 := 3 }) := by decide +kernel
theorem test_decode_sealRange : decodeTableWord 96 0x00000000_00000C02_010EF111 =
    some (.sealRange { Ext.plain with d := 1, a := 2, b := 3 }) := by decide +kernel
theorem test_decode_sstep : decodeTableWord 96 0x020C0000_00000000_040EF1A9 =
    some (.sstep { Ext.plain with d := 4, mod6 := 3, aux8 := 2 }) := by decide +kernel
theorem test_decode_sbtake : decodeTableWord 96 0xF8000000_00800006_040EF209 =
    some (.sbtake { Ext.plain with d := 4, a := 6, c := 8, aux8 := 0xf8 }) := by decide +kernel
theorem test_decode_chain : decodeTableWord 96 0x03000000_00000009_000EF2A1 =
    some (.chain { Ext.plain with a := 9, aux8 := 3 }) := by decide +kernel
theorem test_decode_chstat : decodeTableWord 96 0x3F000000_00000000_090EF309 =
    some (.chstat { Ext.plain with d := 9, aux8 := 0x3f }) := by decide +kernel
theorem test_decode_idmb : decodeTableWord 96 0x00000000_00000000_000EF381 =
    some (.idmb Ext.plain) := by decide +kernel
theorem test_decode_tmma : decodeTableWord 96 0x04040C00_00003C01_070EF821 =
    some (.tmma { Ext.plain with d := 7, a := 1, b := 0xf, ty := 3, aux8 := 4, mod6 := 1 }) := by decide +kernel
theorem test_decode_tloop : decodeTableWord 160 0xFFFFFFFF_FFFFFFC0_00000000_0000001F_000EF862 =
    some (.tloop { Ext.plain with a := 0x1f, lit := some 0xFFFFFFFFFFFFFFC0 }) := by decide +kernel
theorem test_decode_nopBase : decodeTableWord 32 0x00000000 =
    some (.nopBase ⟨false, 0, 0, 0, none⟩) := by decide +kernel
theorem test_decode_movBase : decodeTableWord 96 0x00000000_00000077_0000280B =
    some (.movBase ⟨false, 5, 0, 0, some 0x77⟩) := by decide +kernel
theorem test_decode_ldgU64Base : decodeTableWord 32 0xFE182178 =
    some (.ldgU64Base ⟨false, 4, 6, 127, none⟩) := by decide +kernel
theorem test_decode_retBase : decodeTableWord 32 0x001801D4 =
    some (.retBase ⟨true, 0, 6, 0, none⟩) := by decide +kernel
theorem test_decode_ucmpEqS64Base : decodeTableWord 32 0x080C11B0 =
    some (.ucmpEqS64Base ⟨false, 2, 3, 4, none⟩) := by decide +kernel

/-! Well-formedness: each check refuses an ill-formed term, and passes its well-formed twin. -/
def refused (i : Instr) : Bool := !i.WellFormed

theorem test_wf_type : refused (.iadd Ext.plain) && !refused (.iadd { Ext.plain with ty := 0xA }) := by decide +kernel
theorem test_wf_tile_guard : refused (.tnop { Ext.plain with gc := true }) && refused (.tnop { Ext.plain with g0 := 0 }) &&
    !refused (.tnop Ext.plain) := by decide +kernel
theorem test_wf_rounding : refused (.fadd { Ext.plain with rm := 5 }) && refused (.iand { Ext.plain with rm := 1 }) &&
    !refused (.fadd { Ext.plain with rm := 4 }) := by decide +kernel
theorem test_wf_sat : refused (.imul { Ext.plain with ty := 0xA, sat := true }) &&
    !refused (.isub { Ext.plain with ty := 0xB, sat := true }) := by decide +kernel
/-- R203's example: a hint on an atomic is refused. -/
theorem test_wf_hint : refused (.atom { Ext.plain with d := 4, a := 6, b := 8, c := 2, ty := 0xB, mod6 := 0x3B, aux8 := 6, hint := 2 }) &&
    !refused (.stg { Ext.plain with ty := 0xF, hint := 3 }) := by decide +kernel
theorem test_wf_mod6 : refused (.nop { Ext.plain with mod6 := 1 }) && !refused (.ulea { Ext.plain with mod6 := 3 }) := by decide +kernel
theorem test_wf_aux8 : refused (.exit { Ext.plain with aux8 := 1 }) && !refused (.trap { Ext.plain with aux8 := 0xFF }) := by decide +kernel
theorem test_wf_unused_field : refused (.nop { Ext.plain with d := 1 }) && refused (.nop { Ext.plain with apop := true }) &&
    refused (.uadd { Ext.plain with ty := 0xC, c := 1 }) && refused (.iadd { Ext.plain with ty := 0xA, e := 1 }) := by decide +kernel
theorem test_wf_pop_without_class : refused (.iadd { Ext.plain with ty := 0xA, bpop := true }) &&
    !refused (.iadd { Ext.plain with ty := 0xA, bcl := true, bpop := true }) := by decide +kernel
theorem test_wf_channel_index : refused (.iadd { Ext.plain with ty := 0xA, acl := true, a := 64 }) &&
    !refused (.iadd { Ext.plain with ty := 0xA, acl := true, a := 63 }) := by decide +kernel
theorem test_wf_channel_place : refused (.spawn { Ext.plain with acl := true }) && refused (.ldg { Ext.plain with ty := 0xF, acl := true }) :=
  by decide +kernel
theorem test_wf_uniform_index : refused (.uadd { Ext.plain with ty := 0xC, d := 128 }) &&
    !refused (.uadd { Ext.plain with ty := 0xC, d := 127 }) := by decide +kernel
theorem test_wf_octet : refused (.spawn { Ext.plain with a := 4 }) && !refused (.spawn { Ext.plain with a := 120 }) := by decide +kernel
theorem test_wf_predicate_index : refused (.iset { Ext.plain with ty := 0xA, d := 8 }) &&
    !refused (.iset { Ext.plain with ty := 0xA, d := 7 }) := by decide +kernel
theorem test_wf_tile_files : refused (.tzero { Ext.plain with d := 8 }) && refused (.tldacc { Ext.plain with a := 16 }) &&
    refused (.tset { Ext.plain with d := 32 }) && !refused (.tset { Ext.plain with d := 31 }) := by decide +kernel
theorem test_wf_address_index : refused (.ldg { Ext.plain with ty := 0xF, b := 1 }) &&
    !refused (.ldg { Ext.plain with ty := 0xF, b := 1, mod6 := 0x10 }) := by decide +kernel
theorem test_wf_literal_required : refused (.bra Ext.plain) && !refused (.bra { Ext.plain with lit := some 8 }) := by decide +kernel
theorem test_wf_literal_refused : refused (.nop { Ext.plain with lit := some 0 }) := by decide +kernel
theorem test_wf_literal_takes_its_operand : refused (.umov { Ext.plain with b := 1, lit := some 0 }) &&
    !refused (.umov { Ext.plain with lit := some 0 }) := by decide +kernel
theorem test_wf_literal_width : refused (.iadd { Ext.plain with ty := 0xA, lit := some 0x100000000 }) &&
    !refused (.uadd { Ext.plain with ty := 0xC, lit := some 0x100000000 }) := by decide +kernel
theorem test_wf_target_reserved : refused (.call { Ext.plain with lit := some 0x4000 }) &&
    !refused (.call { Ext.plain with lit := some 0xFFF00003FFC }) := by decide +kernel
/-- R203's example: operation 0x9 on an atomic is refused. -/
theorem test_wf_atomic_operation : refused (.atom { Ext.plain with a := 6, ty := 0xB, aux8 := 0x96 }) &&
    refused (.red { Ext.plain with ty := 0, aux8 := 0x36 }) && refused (.atomc { Ext.plain with ty := 0xA, aux8 := 9 }) := by decide +kernel
theorem test_wf_orders : refused (.red { Ext.plain with ty := 0xA, mod6 := 1 }) && refused (.fence Ext.plain) &&
    refused (.atoms { Ext.plain with ty := 0xA, mod6 := 2 }) && !refused (.fence { Ext.plain with mod6 := 3, aux8 := 8 }) := by decide +kernel
theorem test_wf_barriers : refused (.bara { Ext.plain with mod6 := 3, aux8 := 4 }) && refused (.barcfg Ext.plain) &&
    refused (.sstep Ext.plain) && !refused (.bara { Ext.plain with mod6 := 1, aux8 := 15 }) := by decide +kernel
theorem test_wf_special_registers : refused (.rdsr Ext.plain) && refused (.rdsr { Ext.plain with aux8 := 0x0D }) &&
    refused (.wrsr Ext.plain) && !refused (.rdsr { Ext.plain with mod6 := 1 }) := by decide +kernel
theorem test_wf_conversions : refused (.cvt { Ext.plain with ty := 0xA, aux8 := 0xA }) && refused (.pack4 { Ext.plain with ty := 5, aux8 := 3 }) &&
    refused (.cvt { Ext.plain with ty := 6, mod6 := 4 }) := by decide +kernel
theorem test_wf_bit_fields : refused (.ibfx { Ext.plain with ty := 0xA }) && refused (.ibfx { Ext.plain with ty := 0xA, mod6 := 33 }) &&
    !refused (.ibfx { Ext.plain with ty := 0xA, mod6 := 32 }) := by decide +kernel
theorem test_wf_group_operations : refused (.redg { Ext.plain with ty := 0, mod6 := 3 }) && refused (.redg { Ext.plain with ty := 0xA, mod6 := 6 }) &&
    refused (.redg { Ext.plain with ty := 0xA, rm := 1 }) := by decide +kernel
theorem test_wf_sfwait : refused (.sfwait Ext.plain) && !refused (.sfwait { Ext.plain with aux8 := 0x80 }) := by decide +kernel
theorem test_wf_tile_types : refused (.tmma { Ext.plain with ty := 2, aux8 := 3 }) && refused (.tmma { Ext.plain with ty := 3 }) &&
    refused (.tbar Ext.plain) && refused (.tadd { Ext.plain with ty := 0xA, rm := 1 }) && !refused (.tbar { Ext.plain with aux8 := 8 }) :=
  by decide +kernel
theorem test_wf_base : refused (.nopBase ⟨false, 1, 0, 0, none⟩) && refused (.isetLtS32Base ⟨false, 8, 0, 0, none⟩) &&
    refused (.iaddS32ImmBase ⟨false, 0, 0, 0, some 0⟩) && refused (.movBase ⟨false, 0, 0, 1, some 0⟩) &&
    !refused (.movBase ⟨false, 0, 0, 0, some 7⟩) := by decide +kernel

/-! Small states: one tenant, one launch and one block of one group of 32 lanes and a tile stream on core 0. -/
/-- The state that `withFetchWord` makes, at the turn of group 0. -/
def s0 : State := { State.reset.withFetchWord 96 0 with turns := [], cur := ⟨0, 0, some 0⟩ }
/-- The group `g` in place of group 0. -/
def withGroup (s : State) (f : Group → Group) : State := s.updGroup 0 0 0 f
/-- The block changed. -/
def withBlock (s : State) (f : Block → Block) : State := s.updBlock 0 0 f
/-- One lane is active. -/
def s1 : State := withGroup s0 fun g => { g with frontier := g.frontier.map fun e => { e with mask := 1 } }
/-- Page tables from 0x1000 that map the addresses below 128 KiB onto domain 0's memory, and s6 = 0x8000, s8 = 0x10000, s9 = 0x8100. -/
def sm : State :=
  let u := withGroup s1 fun g => { g with s := zset (zset (zset g.s 6 0x8000) 8 0x10000) 9 0x8100 }
  { u with mem := [(0x1000, 0x2001), (0x2000, 0x3001), (0x3000, 0x4001), (0x4000, 0x5001), (0x5000, 0x7), (0x5008, 0x10007)].foldl
             (fun m p => writeW64 m p.1 p.2) []
           tenants := kupd u.tenants 0 fun n => { n with root := 0x1000 } }
/-- The tile stream's turn. -/
def st : State := { s0 with cur := ⟨0, 0, none⟩ }
/-- What the agent whose turn it is issues from. -/
def hereOf (s : State) : Here :=
  (here s).getD ⟨0, 0, 0, Block.start 0 0 0 [] 0 probeKernel 0 0, Group.start probeKernel 0 0, ⟨⟨0, 0⟩, 0, 0, 0, false, false, none, none⟩, 0⟩
def p0 : Ext := Ext.plain
def blkOf (s : State) : Block := (s.block 0 0).getD (hereOf s).blk
def tileOf (s : State) : Tile := (s.tile 0 0).getD (Tile.start probeKernel 0)

/-- An instruction issues with the agent's state: its guard, its registers, the scoreboard and its channels. -/
def mayVec (s : State) (glob : Bool) (i : Instr) : Bool :=
  match i.issued with
  | none => false
  | some (r, x, _) =>
    let h := hereOf s
    decide (here s = some h) && !squashed x && h.active x != 0 && regsOk h r x glob && !scoreboardHolds h r x glob &&
      decide (chanCheck s h (chanSrcs r x (laneCount (h.active x))) (pushAmount r x (laneCount (h.active x))) = .ok)
def mayUni (s : State) (glob : Bool) (i : Instr) : Bool :=
  match i.issued with
  | none => false
  | some (r, x, _) =>
    let h := hereOf s
    decide (here s = some h) && !squashed x && h.guardQ x && regsOk h r x glob && !scoreboardHolds h r x glob &&
      decide (chanCheck s h (chanSrcs r x (laneCount h.ent.mask)) (pushAmount r x (laneCount h.ent.mask)) = .ok)

theorem vecIssue {s : State} {glob : Bool} {i : Instr} {r : Row} {x : Ext} {len : Nat} (hi : i.issued = some (r, x, len))
    (h : mayVec s glob i = true) : VecIssue i s r x len (hereOf s) glob := by
  simp only [mayVec, hi, Bool.and_eq_true, decide_eq_true_eq, Bool.not_eq_true', bne_iff_ne, ne_eq] at h
  obtain ⟨⟨⟨⟨⟨a, b⟩, c⟩, d⟩, e⟩, f⟩ := h
  exact ⟨hi, a, b, c, d, e, f⟩
theorem uniIssue {s : State} {glob : Bool} {i : Instr} {r : Row} {x : Ext} {len : Nat} (hi : i.issued = some (r, x, len))
    (h : mayUni s glob i = true) : UniIssue i s r x len (hereOf s) glob := by
  simp only [mayUni, hi, Bool.and_eq_true, decide_eq_true_eq, Bool.not_eq_true'] at h
  obtain ⟨⟨⟨⟨⟨a, b⟩, c⟩, d⟩, e⟩, f⟩ := h
  exact ⟨hi, a, b, c, d, e, f⟩
/-- No result is on its way in the small states, so every register is idle. -/
theorem idleVec (r : Row) (x : Ext) : (hereOf s0).destIdle r x ∧ (hereOf s1).destIdle r x ∧ (hereOf sm).destIdle r x :=
  ⟨fun _ => ⟨rfl, fun _ => rfl⟩, fun _ => ⟨rfl, fun _ => rfl⟩, fun _ => ⟨rfl, fun _ => rfl⟩⟩
theorem idleUni (i : Nat) : (hereOf s0).grp.uniIdle i ∧ (hereOf sm).grp.uniIdle i :=
  ⟨fun _ h => absurd h (List.not_mem_nil), fun _ h => absurd h (List.not_mem_nil)⟩
theorem okOf {ε α : Type} {e : Except ε α} {a : α} (h : e.toOption = some a) : e = .ok a := by
  cases e with
  | error _ => simp [Except.toOption] at h
  | ok v => simpa [Except.toOption] using h
theorem errOf {ε α : Type} {e : Except ε α} (h : e.toOption.isNone = true) : ∃ x, e = .error x := by
  cases e with
  | error x => exact ⟨x, rfl⟩
  | ok v => simp [Except.toOption] at h
theorem sndOf {α β : Type} {p : α × β} {b : β} (h : p.2 = b) : p = (p.1, b) := by rw [← h]

/-- Instructions that issue, each with a register destination (or none). -/
def AllVec (s : State) (glob : Bool) (l : List Instr) : Prop :=
  ∀ i ∈ l, ∃ r x len, VecIssue i s r x len (hereOf s) glob ∧ x.dcl = false
def AllUni (s : State) (glob : Bool) (l : List Instr) : Prop :=
  ∀ i ∈ l, ∃ r x len, UniIssue i s r x len (hereOf s) glob ∧ x.dcl = false
/-- The destination is no channel. -/
def plainDest (i : Instr) : Bool := i.issued.any fun q => !q.2.1.dcl
theorem issued_of_plain {i : Instr} (h : plainDest i = true) : ∃ r x len, i.issued = some (r, x, len) ∧ x.dcl = false := by
  unfold plainDest at h
  cases e : i.issued with
  | none => simp [e] at h
  | some q => exact ⟨q.1, q.2.1, q.2.2, rfl, by simpa [e] using h⟩
theorem allVec {s : State} {glob : Bool} {l : List Instr} (h : (l.all fun i => mayVec s glob i && plainDest i) = true) : AllVec s glob l := by
  intro i hi
  have q := List.all_eq_true.mp h i hi
  simp only [Bool.and_eq_true] at q
  obtain ⟨r, x, len, e, d⟩ := issued_of_plain q.2
  exact ⟨r, x, len, vecIssue e q.1, d⟩
theorem allUni {s : State} {glob : Bool} {l : List Instr} (h : (l.all fun i => mayUni s glob i && plainDest i) = true) : AllUni s glob l := by
  intro i hi
  have q := List.all_eq_true.mp h i hi
  simp only [Bool.and_eq_true] at q
  obtain ⟨r, x, len, e, d⟩ := issued_of_plain q.2
  exact ⟨r, x, len, uniIssue e q.1, d⟩

/-! Witnesses: states and operands that meet a statement's hypotheses together, clause by clause. Where a clause is over a list of
rows, every row is met. -/

/-- A state whose core has a mesh-out entry 3 with its credits and a mesh-in entry 4 as its peer. -/
def sc : State := configChan (configChan s0 0 0 4 0x40000C0000040000) 0 0 3 0x8000100000000000

def uniForms (ty : BitVec 4) : List Instr :=
  ([.uadd, .usub, .umul, .umulh, .umad, .umin, .umax] : List (Ext → Instr)).map fun f => f { p0 with ty := ty, d := 2, a := 1, b := 127 }
def uniPlain : List Instr :=
  ([.uand, .uor, .uxor, .ushl, .ushr, .usra, .ulea] : List (Ext → Instr)).map fun f => f { p0 with d := 127, a := 1, b := 2 }
theorem witness_UniformResult : AllUni s0 false (uniForms 0xC ++ uniForms 0xB ++ uniPlain ++
      [.uclz { p0 with d := 1, a := 2 }, .upopc { p0 with d := 1, a := 2 }, .usel { p0 with c := 1 }, .umov { p0 with lit := some 5 }]) ∧
    (∀ d, (hereOf s0).grp.uniIdle d) :=
  ⟨allUni (by decide +kernel), fun d => (idleUni d).1⟩
theorem witness_UniformPushes : ∃ u, let x : Ext := { p0 with ty := 0xC, dcl := true, d := 3, a := 1, b := 2 }
    UniIssue (.uadd x) sc Rows.uadd x 12 (hereOf sc) false ∧ x.dcl = true ∧
    pushWords (reservePush (openIssue sc (hereOf sc)) 0 3 2) 0 0 0 0 3 [0, 0] = (u, true) ∧ vqStuck u 0 3 = false :=
  ⟨_, uniIssue rfl (by decide +kernel), rfl, sndOf (by decide +kernel), by decide +kernel⟩

def vecForms : List Instr :=
  (([.iadd, .isub, .imul, .imulh, .imad, .imin, .imax] : List (Ext → Instr)).map fun f => f { p0 with ty := 0xA, d := 255, a := 1, b := 2 }) ++
  [.iabs { p0 with ty := 0xA, d := 1, a := 1 }] ++
  (([.iand, .ior, .ixor, .ishl, .ishr, .isra] : List (Ext → Instr)).map fun f => f { p0 with d := 3, a := 1, b := 2 }) ++
  [.iclz { p0 with d := 1 }, .ipopc { p0 with d := 1 }, .ibfx { p0 with ty := 0xB, mod6 := 32 }, .ibfi { p0 with ty := 0xB, mod6 := 1 }] ++
  (([.fadd, .fsub, .fmul, .ffma, .fmin, .fmax] : List (Ext → Instr)).map fun f => f { p0 with d := 3, a := 1, b := 2 }) ++
  (([.hadd2, .hmul2, .hfma2, .hmin2, .hmax2] : List (Ext → Instr)).map fun f => f { p0 with ty := 1, d := 3, a := 1, b := 2 }) ++
  [.isel { p0 with d := 1, c := 7 }, .mov { p0 with mod6 := 1, d := 254, b := 2 }, .s2v { p0 with mod6 := 1, d := 2, b := 3 },
   .cvt { p0 with ty := 6, aux8 := 0, mod6 := 3, d := 1 }, .pack4 { p0 with ty := 5, aux8 := 1, mod6 := 7 }, .unpk4 { p0 with mod6 := 7, d := 1 }]
theorem witness_VectorResult : AllVec s0 false vecForms ∧ ∀ r x, (hereOf s0).destIdle r x :=
  ⟨allVec (by decide +kernel), fun r x => (idleVec r x).1⟩
theorem witness_ChannelPush : (∃ u, let x : Ext := { p0 with ty := 0xA, dcl := true, d := 3, a := 1, b := 2 }
      VecIssue (.iadd x) sc Rows.iadd x 12 (hereOf sc) false ∧ x.dcl = true ∧
      pushWords (reservePush (openIssue sc (hereOf sc)) 0 3 32) 0 0 0 0 3 (List.replicate 32 0) = (u, true) ∧
      vqStuck u 0 3 = false) ∧
    (∃ u, let x : Ext := { p0 with dcl := true, d := 3, aux8 := 0x0B }
      UniIssue (.rdsr x) sc Rows.rdsr x 12 (hereOf sc) false ∧ specialMode x (hereOf sc) = true ∧
      pushWords (reservePush (openIssue sc (hereOf sc)) 0 3 2) 0 0 0 0 3 [32, 0] = (u, true) ∧ vqStuck u 0 3 = false) ∧
    (∃ ws : List W32, ws ≠ [] ∧ ((kget (s0.core 0).asm 5).getD []).length + ws.length < 16) ∧
    (∃ e, kget (sc.core 0).chans 3 = some e ∧ e.kind = 2 ∧ e.broken = false) ∧
    ∃ s : State, ((s.core 0).chan 3).broken = true :=
  ⟨⟨_, vecIssue rfl (by decide +kernel), rfl, sndOf (by decide +kernel), by decide +kernel⟩,
   ⟨_, uniIssue rfl (by decide +kernel), by decide +kernel, sndOf (by decide +kernel), by decide +kernel⟩,
   ⟨List.replicate 15 0, by decide, by decide +kernel⟩, ⟨_, rfl, by decide +kernel, by decide +kernel⟩,
   ⟨sc.updChan 0 3 fun e => { e with broken := true }, by decide +kernel⟩⟩
def testForms : List Instr :=
  [.iset { p0 with ty := 0xB, mod6 := 5, d := 6 }, .fset { p0 with mod6 := 7, d := 7 }, .fclass { p0 with aux8 := 0x81, mod6 := 1 },
   .plop { p0 with aux8 := 0x96, d := 1, a := 2, b := 3, c := 7 }]
theorem witness_VectorPredicateResult : AllVec s0 false testForms := allVec (by decide +kernel)
theorem witness_UniformPredicateResult :
    AllUni s0 false [.ucmp { p0 with ty := 0xC, d := 6, mod6 := 2 }, .ucmp { p0 with ty := 0xC, d := 7, mod6 := 0 }] ∧
    (∃ x : Ext, (Instr.plop x).issued = some (Rows.plop, x, 12) ∧ here s0 = some (hereOf s0) ∧ x.mod6.getLsbD 0 = true ∧
      squashed x = false ∧ x.d.toNat < 7) ∧ ∀ p ∈ (hereOf s0).grp.pend, ∀ v, p.2.wb ≠ .upred 6 v :=
  ⟨allUni (by decide +kernel), ⟨{ p0 with mod6 := 1, d := 6, a := 0, aux8 := 0x7F }, rfl, by decide +kernel, rfl, rfl, by decide⟩,
   fun _ h => absurd h List.not_mem_nil⟩
/-- A squashed instruction; a false guard of a uniform instruction; no active lane; NOP. -/
theorem witness_OnlyAdvances :
    (squashed { p0 with g0n := true } = true ∧ here s0 = some (hereOf s0)) ∧ (hereOf s0).guardQ { p0 with g0 := 0 } = false ∧
    (hereOf s0).active { p0 with g0 := 0 } = 0 ∧ AllVec s0 false [.nop p0] :=
  ⟨⟨rfl, by decide +kernel⟩, by decide +kernel, by decide +kernel, allVec (by decide +kernel)⟩
theorem witness_BranchTaken : (∃ x t, VecIssue (.bra x) s0 Rows.bra x 20 (hereOf s0) false ∧ nearTarget (hereOf s0).ent.pc (x.lit.getD 0) = .ok t) ∧
    (∃ x t, VecIssue (.jfence x) s0 Rows.jfence x 20 (hereOf s0) false ∧ farTarget s0 (hereOf s0) (x.lit.getD 0) = .ok t) ∧
    (∃ x t, VecIssue (.call x) s0 Rows.call x 20 (hereOf s0) false ∧ farTarget s0 (hereOf s0) (x.lit.getD 0) = .ok t ∧
      (hereOf s0).destIdle Rows.call x) ∧
    (∃ x ps, VecIssue (.brx x) s0 Rows.brx x 12 (hereOf s0) false ∧
      allOk (((hereOf s0).lanes x).map fun l =>
        (l, nearTarget (hereOf s0).ent.pc (((hereOf s0).grp.rv (hereOf s0).tick x.a.toNat l).signExtend 64))) = .ok ps) ∧
    ∃ x ps, VecIssue (.ret x) s0 Rows.ret x 12 (hereOf s0) false ∧
      allOk (((hereOf s0).lanes x).map fun l => (l, linkTarget ((hereOf s0).grp.rv2 (hereOf s0).tick x.a.toNat l))) = .ok ps ∧
      ∀ p ∈ ps, p.2.1.seg = (hereOf s0).ent.pc.seg ∨ ((s0.core (hereOf s0).c).slotOf p.2.1.seg).isSome :=
  ⟨⟨{ p0 with aux8 := 8, lit := some 0x3FFC }, ⟨0, 0x3FFC⟩, vecIssue rfl (by decide +kernel), okOf (by decide +kernel)⟩,
   ⟨{ p0 with lit := some 0x40 }, ⟨0, 0x40⟩, vecIssue rfl (by decide +kernel), okOf (by decide +kernel)⟩,
   ⟨{ p0 with d := 254, lit := some 0 }, ⟨0, 0⟩, vecIssue rfl (by decide +kernel), okOf (by decide +kernel), (idleVec _ _).1⟩,
   ⟨{ p0 with a := 1 }, (List.range 32).map fun l => (l, ⟨0, 0⟩), vecIssue rfl (by decide +kernel), okOf (by decide +kernel)⟩,
   ⟨{ p0 with a := 2 }, (List.range 32).map fun l => (l, ⟨0, 0⟩, 0), vecIssue rfl (by decide +kernel), okOf (by decide +kernel), by decide +kernel⟩⟩
theorem witness_DivisionKeepsLanes : ∃ e, (∀ f ∈ (hereOf s0).grp.frontier, f.wait = none) ∧ entryAt (hereOf s0).grp ⟨0, 0⟩ = some e ∧
    e.mask.getLsbD 31 = true := ⟨(hereOf s0).ent, by decide +kernel, by decide +kernel, by decide +kernel⟩
theorem witness_EntryMoves : AllVec s0 false [.exit p0, .yld p0, .reconv { p0 with lit := some 0xFFFFFFFF }] ∧
    ∃ e, entryAt (hereOf s0).counted (hereOf s0).ent.pc = some e :=
  ⟨allVec (by decide +kernel), ⟨_, rfl⟩⟩
/-- A group inside a handler that a trap, or PREEMPT, entered. -/
def inHandler (preempt : Bool) : State := withGroup s0 fun g =>
  { g with handler := some { saved := g.frontier, trapped := if preempt then none else g.frontier.head?, resumed := false } }
theorem witness_SpecialRegisters :
    AllUni s0 false [.rdsr { p0 with d := 1, aux8 := 0x0B }, .rdsr { p0 with d := 1, mod6 := 1 }, .wrsr { p0 with aux8 := 0x18 },
      .wrsr { p0 with aux8 := 0x19 }] ∧
    specialMode { p0 with d := 1, mod6 := 1 } (hereOf s0) = true ∧ specialMode { p0 with aux8 := 0x19 } (hereOf s0) = true ∧
    AllUni (inHandler false) false [.rdsr { p0 with aux8 := 0x22 }, .wrsr { p0 with aux8 := 0x20 }, .wrsr { p0 with aux8 := 0x21 }] ∧
    specialMode { p0 with aux8 := 0x20 } (hereOf (inHandler false)) = true ∧ specialMode { p0 with aux8 := 0x21 } (hereOf (inHandler false)) = true :=
  ⟨allUni (by decide +kernel), by decide +kernel, by decide +kernel, allUni (by decide +kernel), by decide +kernel, by decide +kernel⟩
/-- The kernel has a `.trap` entry. -/
def withTrap (s : State) : State := withBlock s fun k => { k with kern := { k.kern with trap := some ⟨0, 0x100⟩, regs := 16, uregs := 16 } }
theorem witness_SynchronousTraps : AllUni (withTrap s0) false [.trap { p0 with aux8 := 7 }] ∧ (hereOf (withTrap s0)).mayTrap ⟨0, 0x100⟩ ∧
    (∃ x : Ext, (Instr.iadd x).issued = some (Rows.iadd, x, 12) ∧ here (withTrap s0) = some (hereOf (withTrap s0)) ∧ squashed x = false ∧
      (hereOf (withTrap s0)).active x ≠ 0 ∧ regsOk (hereOf (withTrap s0)) Rows.iadd x false = false) ∧
    (∃ x : Ext, (Instr.uadd x).issued = some (Rows.uadd, x, 12) ∧ squashed x = false ∧ (hereOf (withTrap s0)).guardQ x = true ∧
      regsOk (hereOf (withTrap s0)) Rows.uadd x false = false) ∧
    ((hereOf s0).grp.handler = none ∧ (∀ hd, (hereOf (inHandler false)).grp.handler = some hd → hd.isPreempt = false) ∧
      specialMode { p0 with aux8 := 0x20 } (hereOf s0) = false) ∧
    (hereOf (inHandler false)).grp.handler ≠ none ∧ (hereOf s0).blk.kern.trap = none ∧
    ∃ k x, let u := withTrap (withGroup s0 fun g => { g with tokens := [(k, x)] })
      (hereOf u).blk.kern.trap ≠ none ∧ (hereOf u).grp.handler = none ∧ (hereOf u).grp.mayEnter = false :=
  ⟨allUni (by decide +kernel), ⟨by decide +kernel, by decide +kernel, by decide +kernel⟩,
   ⟨{ p0 with ty := 0xA, d := 16 }, rfl, by decide +kernel, by decide +kernel, by decide +kernel, by decide +kernel⟩,
   ⟨{ p0 with ty := 0xA, d := 16 }, rfl, by decide +kernel, by decide +kernel, by decide +kernel⟩,
   ⟨by decide +kernel, fun hd h => by cases h; decide +kernel, by decide +kernel⟩, by decide +kernel, by decide +kernel,
   ⟨0, ⟨1, [], 0, 0⟩, by decide +kernel, by decide +kernel, by decide +kernel⟩⟩
theorem witness_HandlerReturns :
    (∃ hd, UniIssue (.eret p0) (inHandler false) Rows.eret p0 12 (hereOf (inHandler false)) false ∧
      (hereOf (inHandler false)).grp.handler = some hd ∧ (hd.isPreempt && hd.resumed) = false) ∧
    (∃ (g : Group) (hd : Handler) (e : Entry), hd.saved = [e] ∧ hd.trapped = some e ∧ e.wait = none ∧ g.xmask &&& ~~~g.exited ≠ 0) ∧
    (let u := withGroup (inHandler true) fun g => { g with handler := g.handler.map fun h => { h with resumed := true } };
      ∃ hd, UniIssue (.eret p0) u Rows.eret p0 12 (hereOf u) false ∧ (hereOf u).grp.handler = some hd ∧ (hd.isPreempt && hd.resumed) = true) ∧
    UniIssue (.eret p0) s0 Rows.eret p0 12 (hereOf s0) false ∧ (hereOf s0).grp.handler = none ∧
    ∃ hd, UniIssue (.preack p0) (inHandler true) Rows.preack p0 12 (hereOf (inHandler true)) false ∧
      (hereOf (inHandler true)).grp.handler = some hd ∧ hd.isPreempt = true ∧ (hereOf (inHandler true)).grp.tokens = [] :=
  ⟨⟨_, uniIssue rfl (by decide +kernel), rfl, by decide +kernel⟩,
   ⟨{ (hereOf s0).grp with xmask := 2 }, ⟨[(hereOf s0).ent], some (hereOf s0).ent, false⟩, (hereOf s0).ent, rfl, rfl, by decide +kernel, by decide +kernel⟩,
   ⟨_, uniIssue rfl (by decide +kernel), rfl, by decide +kernel⟩, uniIssue rfl (by decide +kernel), by decide +kernel,
   ⟨_, uniIssue rfl (by decide +kernel), rfl, by decide +kernel, by decide +kernel⟩⟩

/-- An access passes its checks. -/
abbrev passes (s : State) (sp : Space) (n align : Nat) (write sb : Bool) (ls : List (Nat × W64)) (oks : List (Nat × Nat × Nat)) : Prop :=
  (checkAccess (openIssue s (hereOf s)) (hereOf s) sp n align write sb ls).2 = .ok oks

/-- The segment 3 of the launch's code object, and a group whose registers s16 to s23 hold a record. -/
def si : State := { s0 with images := [(0, { hash := 0, refs := 1, segs := [(3, [0x41])], kernels := [probeKernel], nseg := 4, portable := false })] }
def record (s : State) (ws : List W64) : State :=
  withGroup s fun g => { g with s := ((List.range 8).zip ws).foldl (fun m p => zset m (16 + p.1) p.2) g.s }
/-- A join counter of 5 at 0x8000. -/
def sj : State := record { sm with mem := writeW64 sm.mem 0x8000 5 } [0, 0, 0, 0x8000, 0x0000010001000001, 0, 0, 0]
theorem witness_FetchAndCapability : (∃ ws, UniIssue (.cfetch { p0 with lit := some 3, aux8 := 7 }) si Rows.cfetch { p0 with lit := some 3, aux8 := 7 } 20 (hereOf si) false ∧
      segmentOf si (hereOf si).blk.image 3 = some ws) ∧
    segmentOf si (hereOf si).blk.image 1023 = none ∧ AllUni s0 false [.capq { p0 with d := 1, a := 1 }] ∧ (hereOf s0).grp.uniIdle 1 :=
  ⟨⟨_, uniIssue rfl (by decide +kernel), rfl⟩, by decide +kernel, allUni (by decide +kernel), (idleUni 1).1⟩
/-- The slot that CFETCH names: empty, with the segment asked for, with another segment that an entry occupies or not, and with a
fetch under way or deferred. -/
theorem witness_FetchAndCapability_slots : let k := s0.core 0
    kget k.slots 7 = none ∧
    (∃ w, kget k.slots 0 = some w ∧ w.state = slotLoaded ∧ w.seg = 0 ∧ w.seg ≠ 3 ∧ k.occupied 0 = true) ∧
    (let k' := { k with slots := [(5, ⟨slotDeferred, 9, [], [], some 3⟩), (6, { probeSlot 0 with seg := 5 }), (7, ⟨slotFetching, 0, [], [], some 3⟩)] }
      ∃ w, kget k'.slots 6 = some w ∧ w.state = slotLoaded ∧ w.seg = 5 ∧ w.seg ≠ 3 ∧ k'.occupied 6 = false ∧
        (kget k'.slots 7).map (·.state) = some slotFetching ∧ (kget k'.slots 5).map (·.state) = some slotDeferred) :=
  ⟨by decide +kernel, ⟨_, rfl, by decide +kernel, by decide +kernel, by decide +kernel, by decide +kernel⟩,
   ⟨_, rfl, by decide +kernel, by decide +kernel, by decide +kernel, by decide +kernel, by decide +kernel, by decide +kernel⟩⟩
/-- CAPQ with a channel destination, and the indices where the table's parts meet. -/
theorem witness_FetchAndCapability_words :
    (∃ x : Ext, UniIssue (.capq x) sc Rows.capq x 12 (hereOf sc) false ∧ x.dcl = true) ∧ (s0.ten 0).archWords = [] ∧
    4 < 5 ∧ 5 < 16 ∧ 4 < 15 ∧ 0x10 ≤ 0x13 ∧ 0x13 ∉ [0x10, 0x11, 0x12, 0x1F] ∧ 0x10 ≤ 0x1E ∧ 0x1E ∉ [0x10, 0x11, 0x12, 0x1F] ∧
    0x10 ≤ 0x20 ∧ 0x20 ∉ [0x10, 0x11, 0x12, 0x1F] :=
  ⟨⟨{ p0 with dcl := true, d := 3, a := 1 }, uniIssue rfl (by decide +kernel), rfl⟩, by decide +kernel, by decide⟩
/-- The record in s16 to s23, and the state after the translation of its join counter. -/
def spawned : List W64 := (List.range 8).map fun j => (hereOf sj).grp.rs (hereOf sj).tick (16 + j)
def sjGated : State := (joinGate (beforePublish (openIssue sj (hereOf sj)) (hereOf sj) true) 0 spawned).1
def sjWalked : State := (walk sj 0 0x8000 true).1
def s0Gated : State := (joinGate (beforePublish (openIssue s0 (hereOf s0)) (hereOf s0) true) 0 (zeros 8)).1
theorem witness_RecordsPresented_now : UniIssue (.spawn { p0 with a := 16 }) s0 Rows.spawn { p0 with a := 16 } 12 (hereOf s0) false ∧
    joinGate (beforePublish (openIssue s0 (hereOf s0)) (hereOf s0) true) 0 (zeros 8) = (s0Gated, .accept) ∧ presentable s0Gated 0 (zeros 8) 1 0 0 = true ∧
    recJoin (zeros 8) = 0 :=
  ⟨uniIssue rfl (by decide +kernel), sndOf (by decide +kernel), by decide +kernel, by decide +kernel⟩
theorem witness_RecordsPresented_parked : UniIssue (.spawn { p0 with a := 16 }) sj Rows.spawn { p0 with a := 16 } 12 (hereOf sj) false ∧
    joinGate (beforePublish (openIssue sj (hereOf sj)) (hereOf sj) true) 0 spawned = (sjGated, .park 0x8040) :=
  ⟨uniIssue rfl (by decide +kernel), sndOf (by decide +kernel)⟩
/-- The same counter with a taken slot refuses. -/
theorem witness_RecordsPresented_refused : let u := { sj with mem := writeW64 sj.mem 0x8040 1 };
    UniIssue (.spawn { p0 with a := 16 }) u Rows.spawn { p0 with a := 16 } 12 (hereOf u) false ∧
    (joinGate (beforePublish (openIssue u (hereOf u)) (hereOf u) true) 0 spawned).2 = .refuse 12 := ⟨uniIssue rfl (by decide +kernel), by decide +kernel⟩
theorem witness_RecordsPresented_gate : recJoin spawned ≠ 0 ∧ recJoin spawned % 128 = 0 ∧ recJoin spawned = 0x8000 ∧
    walk sj 0 0x8000 true = (sjWalked, .ok 0x8000 16 true) ∧ lineReadable sjWalked 0 (lineOf 0x8000) = true ∧
    sealed (homeAccess sjWalked 0 (lineOf 0x8000) false) 0 (0x8000 + 64) 64 = false :=
  ⟨by decide +kernel, by decide +kernel, by decide +kernel, sndOf (by decide +kernel), by decide +kernel, by decide +kernel⟩
theorem witness_RecordsPresented_queued : let s := { s0 with tenants := [(0, Tenant.fresh.setCounter 0 0 { Counter.fresh with st := 1 })] }
    cancelledKeys (s.ten 0) [0, 0, 0, 0, 0x0000010001000001, 0, 0, 0] = [] ∧ ((s.ten 0).counter 0 0).st = lvOpen ∧
      gridSize 0x0000010001000001 ≠ 0 ∧ (s.ten 0).phase = 0 := by decide +kernel
theorem witness_LevelOperations :
    (UniIssue (.join { p0 with a := 6 }) sj Rows.join { p0 with a := 6 } 12 (hereOf sj) false ∧
      passes sj .global 128 128 true false [(0, 0x8000)] [(0, 0x8000, 0x8000)] ∧
      let u := (checkAccess (openIssue sj (hereOf sj)) (hereOf sj) .global 128 128 true false [(0, 0x8000)]).1
      lineReadable u 0 (lineOf 0x8000) = true ∧ 1 < homeValue (strongPrep (beforePublish u (hereOf sj) true) 0 0x8000 true) 0x8000 8) ∧
    AllUni s0 false [.cancel { p0 with aux8 := 0, lit := some 4095 }, .cancel { p0 with aux8 := 3 },
      .lvlrd { p0 with d := 1, aux8 := 1, lit := some 255 }] ∧
    levelId 0 4095 = some 4095 ∧ levelId 1 255 = some 255 ∧ levelId 3 0 = some 0 :=
  ⟨⟨uniIssue rfl (by decide +kernel), by decide +kernel, by decide +kernel, by decide +kernel⟩, allUni (by decide +kernel),
   rfl, rfl, rfl⟩
def crossForms : List Instr :=
  [.shfl { p0 with mod6 := 7, d := 2, a := 4, b := 3 }, .matchLanes { p0 with d := 2, mod6 := 1, a := 4 },
   .scang { p0 with ty := 0, rm := 4, d := 1 }, .v2s { p0 with mod6 := 1, d := 5, a := 2, b := 3 }, .redg { p0 with ty := 0xA, mod6 := 5 },
   .vote { p0 with mod6 := 3, d := 6 }, .vote { p0 with mod6 := 2, d := 127 }]
theorem witness_CrossLaneResult : AllVec s0 false crossForms ∧ here s0 = some (hereOf s0) ∧
    let x : Ext := { p0 with g0 := 0, d := 1, mod6 := 0, ty := 0xA }
    (Instr.redg x).issued = some (Rows.redg, x, 12) ∧ squashed x = false ∧ (hereOf s0).active x = 0 ∧
      x.bcl = false ∧ scoreboardHolds (hereOf s0) Rows.v2s { x with mod6 := 1, a := 2 } false = false ∧
      regOk (hereOf s0) Rows.redg.d x x.d.toNat x.dcl = true :=
  ⟨allVec (by decide +kernel), by decide +kernel, rfl, by decide +kernel, by decide +kernel, rfl, by decide +kernel, by decide +kernel⟩
theorem witness_GroupOperation : ([5] : List W32) ≠ [] ∧ (0xA : BitVec 4) ≠ tyF32 ∧ [(5 : W32), 6].Perm [6, 5] ∧
    (fpVal tyF32 (0x7F800001 : W32).toNat == .nan) = true ∧
    ([(0x7F800000 : W32), 0xFF800000].all fun v => fpVal tyF32 v.toNat != .nan) = true := by decide +kernel
theorem witness_ResultOnItsWay : (∀ l, (hereOf s0).grp.coming 255 l = []) ∧ (hereOf s0).grp.uniIdle 127 ∧
    s0.group 0 0 0 = some (hereOf s0).grp ∧ ([0, 63].Nodup ∧ ∀ l ∈ [0, 63], l < 64) ∧
    (∀ l, (hereOf s0).grp.coming 2 l = []) ∧ (∀ l, (hereOf s0).grp.coming 3 l = []) ∧
    ({ p0 with d := 2, ty := tyS64 } : Ext).dcl = false ∧ pairOf Rows.ldg.d { p0 with d := 2, ty := tyS64 } = true ∧
    ∀ p ∈ (hereOf s0).grp.pend, ∀ w, p.2.wb ≠ .upred 6 w :=
  ⟨fun _ => rfl, (idleUni 127).1, by decide +kernel, by decide, fun _ => rfl, fun _ => rfl, by decide +kernel, by decide +kernel,
    fun p hp => absurd hp (by simp [show (hereOf s0).grp.pend = [] from rfl])⟩
def specialForms : List Instr :=
  ([.exp2, .log2, .rcp, .rsq, .sqrt, .tanh, .lgst, .sinp, .cosp] : List (Ext → Instr)).map fun f => f { p0 with d := 1, a := 2, aux8 := 7 }
theorem witness_SpecialFunction : AllVec s0 false specialForms ∧ tokenFree s0 (hereOf s0) { p0 with aux8 := 7 } = true ∧
    (hereOf s0).active { p0 with g0 := 0 } = 0 ∧ AllVec s0 false [.sfwait { p0 with aux8 := 0xFF }] ∧
    (∀ p ∈ (hereOf s0).grp.tokens, (0xFF : BitVec 8).getLsbD p.1 = false) ∧
    let u := withGroup s0 fun g => { g with tokens := [(7, ⟨1, [], 0, 0⟩)] }
    AllVec u false [.sfwait { p0 with aux8 := 0x80 }] ∧ ∃ p ∈ (hereOf u).grp.tokens, (0x80 : BitVec 8).getLsbD p.1 = true :=
  ⟨allVec (by decide +kernel), by decide +kernel, by decide +kernel, allVec (by decide +kernel), fun _ h => absurd h List.not_mem_nil,
   allVec (by decide +kernel), ⟨(7, ⟨1, [], 0, 0⟩), by decide +kernel, by decide⟩⟩

/-- An address in s6, or an offset into the scratchpad, the private window or the constants. -/
def xg : Ext := { p0 with ty := 0xF, d := 4, a := 6, c := 8, mod6 := 0x20 }
theorem witness_LoadSends :
    AllVec sm true [.ldg xg, .ldl { xg with a := 2, mod6 := 0 }] ∧ AllVec sm false [.lds { xg with mod6 := 0, a := 1 }, .ldc { xg with mod6 := 0, a := 1 }] ∧
    passes sm .global 4 4 false false ([0].map fun l => (l, effAddr (hereOf sm) xg true true l)) [(0, 0x8000, 0x8000)] ∧
    (∃ v, (readLanes sm (hereOf sm) .global 4 0 [(0, 0x8000, 0x8000)]).2 = .ok v) ∧
    AllUni sm true [.uld { xg with d := 1 }] ∧
    ∀ l ∈ (hereOf sm).lanes { xg with mod6 := 0, a := 1 }, let a := (effAddr (hereOf sm) { xg with mod6 := 0, a := 1 } false true l).toNat
      a % 4 = 0 ∧ a < (hereOf sm).blk.kern.scratch ∧ rangeLocked sm 0 0 true a 4 false = false :=
  ⟨allVec (by decide +kernel), allVec (by decide +kernel), by decide +kernel, ⟨[(0, 0)], okOf (by decide +kernel)⟩,
   allUni (by decide +kernel), by decide +kernel⟩
theorem witness_StoreWrites :
    AllVec sm true [.stg { xg with d := 0 }, .stl { xg with d := 0, a := 2, mod6 := 0 }, .pfch { xg with d := 0, c := 0, ty := 0 }] ∧
    AllVec sm false [.sts { xg with d := 0, mod6 := 0, a := 1 }] ∧
    passes sm .global 4 4 true true ([0].map fun l => (l, effAddr (hereOf sm) xg true true l)) [(0, 0x8000, 0x8000)] ∧
    downLine sm 0 [(0, 0x8000, 0x8000)] = none ∧ AllUni sm true [.ust { xg with d := 0, c := 1 }] :=
  ⟨allVec (by decide +kernel), allVec (by decide +kernel), by decide +kernel, by decide +kernel, allUni (by decide +kernel)⟩
theorem witness_StoreFrame : Space.global ≠ .scratch ∧ 0x807C % 128 + 4 ≤ 128 ∧ (s0.core 0).strong = [] ∧ s0.block 0 0 = some (blkOf s0) := by
  decide +kernel
/-- With a strong write of the core to the line on its way, and without. -/
def strongAt (n : Nat) : StrongW :=
  { pa := 0x8000, n := n, v := 0x0102030405060708, op := none, cmp := none, who := ⟨0, 0, 0, 0, 0, 0, some (0, 0), false⟩,
    block := some 0, scope := 6, rel := true, pub := some 6, sig := 0, ret := none }
theorem witness_OwnStoreSeen : 0 < ([1, 2, 3, 4] : List Byte).length ∧ 0x807C % 128 + 4 ≤ 128 ∧
    ([sm, sm.updCore 0 fun k => { k with strong := [strongAt 8] }].all fun s => let u := flushLineOf s 0 (lineOf 0x807C)
      (u.core 0).strong == [] && (u.core 0).l1 == [] && (u.dom (coreDomain 0)).guest == [] && (u.core 0).wc == [] && u.domains.all (fun p => p.2.sbReqs == []) &&
      (l2Read (weakWrite s 0 0 0x807C [1, 2, 3, 4]) (s.coreTenant 0) (coreDomain 0) (lineOf 0x807C)).2.isSome) = true := by decide +kernel
theorem witness_AtomicCompletes :
    AllVec sm true [.atom { xg with ty := 0xB, aux8 := 0x86 }, .atomc { xg with ty := 0xC, d := 2, c := 8, e := 10 }, .red { xg with ty := 0xA, d := 0 }] ∧
    (hereOf sm).grp.board.length < 8 ∧
    passes sm .global 8 8 true true ([0].map fun l => (l, effAddr (hereOf sm) xg true false l)) [(0, 0x8000, 0x8000)] ∧
    badLine sm 0 [(0, 0x8000, 0x8000)] = none ∧
    AllVec sm false [.atoms { xg with ty := 0xB, mod6 := 0, a := 1 }] ∧ (hereOf sm).lanes { xg with ty := 0xB, mod6 := 0, a := 1 } = [0] ∧
    rangeLocked sm 0 0 true 0 4 true = false :=
  ⟨allVec (by decide +kernel), by decide +kernel, by decide +kernel, by decide +kernel, allVec (by decide +kernel),
   by decide +kernel, by decide +kernel⟩
theorem witness_AtomicValue : tyS64 ∈ [tyS32, tyU32, tyS64, tyU64] ∧ BitVec.ofNat (8 * tySize tyS64) (2 ^ 64 + 3) = 3 := by decide
theorem witness_StrongWriteStores : 0x8078 % 128 + 8 ≤ 128 ∧ ¬(0x8078 ≤ 0x8077 ∧ 0x8077 < 0x8078 + 8) ∧ ¬(0x8078 ≤ 0x8080 ∧ 0x8080 < 0x8078 + 8) ∧
    lineOf 0x8078 ∈ (((homeAccess sm 0 (lineOf 0x8078) false).dom (sm.home 0 (lineBase (lineOf 0x8078)))).l2) ∧
    isPeer (lineBase (lineOf 0x1000000000000)) = true := by decide +kernel
theorem witness_AcquireRelease :
    AllVec sm true [.lda { xg with c := 0 }, .strl { xg with d := 0 }] ∧
    passes sm .global 4 4 false false ([0].map fun l => (l, effAddr (hereOf sm) xg true false l)) [(0, 0x8000, 0x8000)] ∧
    AllVec sm false [.fence { p0 with mod6 := 1, aux8 := 6 }, .fence { p0 with mod6 := 2, aux8 := 2 }] ∧
    ordRel { p0 with mod6 := 2 } = true ∧ ordAcq { p0 with mod6 := 2 } = false ∧ 2 ≤ (scopeOf { p0 with aux8 := 2 }).toNat ∧
    (sm.core 0).wc = [] ∧ (sm.core 0).strong = [] ∧ (sm.domains.all fun p => p.2.sbReqs == []) = true ∧ badLine sm 0 [(0, 0x8000, 0x8000)] = none ∧
    passes sm .global 4 4 true true ([0].map fun l => (l, effAddr (hereOf sm) xg true false l)) [(0, 0x8000, 0x8000)] ∧
    downLine sm 0 [(0, 0x8000, 0x8000)] = none ∧ ordAcq { p0 with mod6 := 1 } = true ∧ ordRel { p0 with mod6 := 1 } = false ∧ (hereOf sm).grp.reads = [] :=
  ⟨allVec (by decide +kernel), by decide +kernel, allVec (by decide +kernel), by decide +kernel, by decide +kernel, by decide +kernel,
   by decide +kernel, by decide +kernel, by decide +kernel, by decide +kernel, by decide +kernel, by decide +kernel, by decide +kernel,
   by decide +kernel, by decide +kernel⟩

theorem witness_ObjectOperations :
    (UniIssue (.objdecl { p0 with d := 1, a := 6 }) sm Rows.objdecl { p0 with d := 1, a := 6 } 12 (hereOf sm) false ∧
      passes sm .global 32 32 false false [(0, 0x8000)] [(0, 0x8000, 0x8000)] ∧ (weakRead sm 0 0x8000 32 0).2.isSome) ∧
    AllUni sm false [.objdrop { p0 with a := 6 }] ∧ quietLine sm 0 0x8000 = some (lineOf 0x8000) ∧ quietLine sm 0 0x40000 = none ∧
    shapeOk (zeros 4) = false ∧ shapeOk [0x8000, 0x0000000100000080, 0, 0] = true ∧
    allSome ((shapeLines [0x8000, 0x0000000100000080, 0, 0]).map fun va => quietLine sm 0 va) = some [256] ∧
    sm.home 0 (lineBase 256) = 0 ∧ objOf sm 0 256 = none ∧ dirOf sm 0 256 = .empty :=
  ⟨⟨uniIssue rfl (by decide +kernel), by decide +kernel, by decide +kernel⟩, allUni (by decide +kernel), by decide +kernel,
   by decide +kernel, by decide +kernel, by decide +kernel, by decide +kernel, by decide +kernel, by decide +kernel, by decide +kernel⟩
/-- A declared object of one line at 0x8000. -/
theorem witness_ObjectOperations_drop : let u := (declareObj sm 0 [0x8000, 0x0000000100000080, 0, 0]).1
    ∃ k o, ((u.dom (u.home 0 (lineBase 256))).objs.find? fun p => p.2.tenant == 0 && p.2.base == 0x8000) = some (k, o) ∧ k = 0 ∧ o.lines = [256] :=
  ⟨0, _, rfl, by decide +kernel, by decide +kernel⟩
theorem witness_SealStatus :
    AllUni sm false [.sealRange { p0 with d := 1, a := 8, lit := some 0x10000 }, .unsealRange { p0 with d := 1, a := 8, lit := some 0x10000 }] ∧
    0x10000 % 65536 = 0 ∧ (translateLanes (openIssue sm (hereOf sm)) (hereOf sm) false (pagesOf 0x10000 0x10000)).2 = .ok [(0, 0x10000, 0x10000)] ∧
    cutsPage sm 0 0x10000 0x10000 = false ∧
    (∃ u, dstUni sm (hereOf sm) Rows.sealRange { p0 with d := 1 } 0 = (u, true)) ∧ (sm.ten 0).seals.length < 64 ∧
    sealed sm 0 0x10000 0x10000 = false ∧ (0x10000, 0x10000) ∉ (sm.ten 0).seals ∧
    (let u := sm.updTen 0 fun n => { n with seals := [(0x10000, 0x10000)] };
      (u.ten 0).seals.length < 64 ∧ sealed u 0 0x10000 0x10000 = true ∧ (0x10000, 0x10000) ∈ (u.ten 0).seals) ∧
    let v := sm.updTen 0 fun n => { n with seals := (List.range 64).map fun i => (i * 65536, 65536) }
    64 ≤ (v.ten 0).seals.length :=
  ⟨allUni (by decide +kernel), by decide, by decide +kernel, by decide +kernel, ⟨_, sndOf (by decide +kernel)⟩, by decide +kernel, by decide +kernel,
   by decide +kernel, by decide +kernel, by decide +kernel⟩
theorem witness_ResidencyStatus :
    AllUni sm false [.rsdecl { p0 with d := 1, a := 8, aux8 := 0xFF, mod6 := 7, lit := some 0x1000 }, .rsset { p0 with d := 1, mod6 := 3 },
      .rsevict { p0 with d := 1 }] ∧ kget (sm.ten 0).handles 0xFF = none ∧
    (rsdeclAct sm (hereOf sm) { p0 with aux8 := 0xFF, mod6 := 7 } 0x8000 0x1000).2 = 0 ∧
    (kget ((rsdeclAct sm (hereOf sm) { p0 with aux8 := 0xFF, mod6 := 7 } 0x8000 0x1000).1.ten 0).handles 0xFF).isSome :=
  ⟨allUni (by decide +kernel), by decide +kernel, by decide +kernel, by decide +kernel⟩
theorem witness_BarrierOperations :
    AllVec s0 false [.bara { p0 with d := 1, mod6 := 1, aux8 := 15 }, .barw { p0 with d := 1, a := 2, mod6 := 1 }, .bars { p0 with d := 1, mod6 := 1 },
      .sstep { p0 with d := 1, mod6 := 1 }] ∧
    (arriveLanes (barRelease (openIssue s0 (hereOf s0)) 0 1) 0 0 0 1 15 ((hereOf s0).active p0) false).isSome ∧
    (arriveLanes (barRelease (openIssue s0 (hereOf s0)) 0 1) 0 0 0 1 0 ((hereOf s0).active p0) true).isSome ∧
    barDone (barGen s0 (hereOf s0) { p0 with mod6 := 1 }) 0 = false ∧ barDone (barGen s0 (hereOf s0) { p0 with mod6 := 1 }) 0x8000 = true ∧
    (∃ t, dstUni (barAcquire s0 0 0 1) (hereOf s0) Rows.barw { p0 with d := 1 } 0 = (t, true)) ∧
    (hereOf s0).active { p0 with g0 := 0 } = 0 ∧ regOk (hereOf s0) Rows.bara.d { p0 with d := 127 } 127 false = true ∧
    AllUni s0 false [.bargen { p0 with d := 1, mod6 := 1 }, .barcfg { p0 with mod6 := 1, aux8 := 7, lit := some 65 }] ∧
    (getBar s0 (hereOf s0).blk 0 1 7).arrived = [] :=
  ⟨allVec (by decide +kernel), by decide +kernel, by decide +kernel, by decide +kernel, by decide +kernel, ⟨_, sndOf (by decide +kernel)⟩,
   by decide +kernel, by decide +kernel, allUni (by decide +kernel), by decide +kernel⟩
/-- The block's groups arrive at a barrier whose count they complete, so the wait is over at once. -/
theorem witness_BarrierOperations_complete : let h := hereOf (withBlock s0 fun k => { k with bars := kset k.bars 0 ⟨0, 32, true, []⟩ })
    ∃ u gen, arriveLanes (barRelease (withBlock s0 fun k => { k with bars := kset k.bars 0 ⟨0, 32, true, []⟩ }) 0 0) 0 0 h.g 0 0
      (h.active p0) false = some (u, gen) ∧ barDone (barGen u h p0) gen = true := ⟨_, 0, rfl, by decide +kernel⟩
theorem witness_BarrierCompletes : 32768 < 65536 ∧ s0.block 0 0 = some (blkOf s0) ∧ kget (blkOf s0).groups 0 = some (hereOf s0).grp ∧
    (blkOf s0).kern.width ≤ 64 ∧ (hereOf s0).grp.live (blkOf s0).kern.width ≠ 0 ∧ kget (blkOf s0).bars (barKey 0 3 0) = none := by decide +kernel
theorem witness_StampCompletes :
    AllVec sm true [.sbinit { xg with ty := 0, d := 1 }, .sbtake { xg with ty := 0, d := 1 }, .sbgive { xg with ty := 0, d := 1 },
      .sbread { xg with ty := 0, d := 2, c := 0 }, .sbclose { xg with ty := 0, d := 2, c := 0 }] ∧ (hereOf sm).grp.board.length < 8 ∧
    passes sm .global 8 64 true false ([0].map fun l => (l, effAddr (hereOf sm) { xg with ty := 0 } true true l)) [(0, 0x8000, 0x8000)] ∧
    badLine sm 0 [(0, 0x8000, 0x8000)] = none :=
  ⟨allVec (by decide +kernel), by decide +kernel, by decide +kernel, by decide +kernel⟩
/-- An open counter at 0x8000 with 100 in its RESERVE word and nothing in any book. -/
def sbk : State := { sm with mem := writeW64 sm.mem 0x8000 100 }.updDom 0 fun d => { d with counters := [(0x8000, ⟨[], 0⟩)] }
theorem witness_StampConserves : 0x8000 % 64 = 0 ∧ sbOpen sbk 0 0x8000 = some ⟨[], 0⟩ ∧ keysAbove 0 (SbHome.mk [] 0).books = true ∧
    sbTotal sbk 0x8000 ⟨[], 0⟩ ≤ sbMax ∧ (sbk.domains.all fun p => p.2.guest == []) = true ∧ (kget sbk.domains 1 = none) ∧
    kget (SbHome.mk [] 0).books 0 = none ∧ sbBook sbk 0 0x8000 = 0 := by decide +kernel
/-- A copy of four bytes from 0x8000 to the scratchpad, a reduction and a multicast to rank 0. -/
def copyRec (op dsp : Nat) : List W64 := [0, BitVec.ofNat 64 (op + dsp * 2 ^ 14 + 2 ^ 19 + (if op = 3 then 2 ^ 43 else 0)), 0x8000, 0x100,
  0x0000000010010001, 0, 0, 0]
theorem witness_CopyOperations :
    (∀ p ∈ [(record sm (copyRec 1 1), Instr.cpy { p0 with a := 16 }, 1), (record sm (copyRec 2 1), Instr.cpyr { p0 with a := 16 }, 2),
        (record sm (copyRec 3 2), Instr.cpym { p0 with a := 16 }, 3)],
      mayUni p.1 false p.2.1 = true ∧ let w := 0 :: (octet (hereOf p.1) { p0 with a := 16 }).drop 1
        xOp w = p.2.2 ∧ xferOk w (hereOf p.1).blk.clus (hereOf p.1).blk.kern.scratch false = true ∧ copyRoom (p.1.core 0) w = true) ∧
    AllUni s0 false [.mack { p0 with aux8 := 3 }, .chain { p0 with aux8 := 3, lit := some 0x40 }, .marm { p0 with mod6 := 1, lit := some 0xFF8 }] ∧
    0 < (hereOf s0).blk.clus ∧ (∀ k, kget (s0.core 0).chains 3 = some k → k.state = 0) ∧ 0xFF8 < (hereOf s0).blk.kern.scratch ∧
    AllUni sm false [.marm { p0 with a := 6 }] ∧
    (translateLanes (openIssue sm (hereOf sm)) (hereOf sm) false [(0, 0x8000)]).2 = .ok [(0, 0x8000, 0x8000)] :=
  ⟨by decide +kernel, allUni (by decide +kernel), by decide +kernel, (fun k h => by cases h), by decide +kernel,
   allUni (by decide +kernel), by decide +kernel⟩
/-- A chain slot of the block in RUN or ERROR; an armed monitor whose word is 0, which has reached 0 and not 1. -/
def schain (n : BitVec 2) : State := s0.updCore 0 fun k => { k with chains := [(3, ⟨n, 0, 0x40, 0x80, none⟩)] }
def smon : State := withGroup sm fun g => { g with monitors := [(2, ⟨0x8000, false, 0x8000⟩)] }
theorem witness_CopyOperations_waits :
    (∃ k, kget ((schain 1).core 0).chains 3 = some k ∧ k.owner = (hereOf (schain 1)).b ∧ k.state = 1) ∧
    (∃ k, kget ((schain 3).core 0).chains 3 = some k ∧ k.owner = (hereOf (schain 3)).b ∧ k.state = 3) ∧
    AllUni (schain 3) false [.chain { p0 with aux8 := 3, lit := some 0 }] ∧
    AllUni smon false [.mwait { p0 with d := 1, aux8 := 0x62, lit := some 1 }, .mwait { p0 with d := 1, aux8 := 0x62, lit := some 0 }] ∧
    kget (hereOf smon).grp.monitors 2 = some ⟨0x8000, false, 0x8000⟩ ∧ rangeLocked smon 0 0 false 0x8000 8 false = false ∧
    (monRead (openIssue smon (hereOf smon)) 0 0 0 ⟨0x8000, false, 0x8000⟩).2 = some 0 ∧ monHit 0 0 = true ∧ monHit 0 1 = false ∧
    (∃ u, dstUni smon (hereOf smon) Rows.mwait { p0 with d := 1 } 0 = (u, true)) ∧
    let v := smon.updCore 0 fun k => { k with locks := [⟨0, 0, false, true, 0x7FFF, 0x8001⟩] }
    AllUni v false [.mwait { p0 with d := 1, aux8 := 0x62 }] ∧ rangeLocked v 0 0 false 0x8000 8 false = true :=
  ⟨⟨_, rfl, by decide +kernel, by decide +kernel⟩, ⟨_, rfl, by decide +kernel, by decide +kernel⟩, allUni (by decide +kernel),
   allUni (by decide +kernel), by decide +kernel, by decide +kernel, by decide +kernel, by decide +kernel, by decide +kernel,
   ⟨_, sndOf (by decide +kernel)⟩, allUni (by decide +kernel), by decide +kernel⟩
/-- HIST of four 32-bit elements at 0x8000 as a command of the first engine. -/
def histCmd : List W64 := [0x1300340000000000, 0x8000, 0x9000, 0, 0x0000000400000001, 0, 0, 0]
theorem witness_ChannelOperations :
    AllUni s0 false [.chcfg { p0 with aux8 := 63, lit := some 0x40000C0000040000 }, .chstat { p0 with d := 1, aux8 := 63 }, .idmb p0, .idme p0] ∧
    kget (s0.core 0).chans 63 = none ∧ chanWordOk s0 0 (hereOf s0).blk.kern.scratch 0x40000C0000040000 = true ∧
    (s0.ten (hereOf s0).blk.tenant).pstat ≠ 1 ∧ AllUni (record s0 histCmd) false [.vqsend { p0 with a := 16 }] ∧
    cmdOk (octet (hereOf (record s0 histCmd)) { p0 with a := 16 }) = true ∧ 16 ≤ (s0.core 0).vqFree ∧
    lockRoom (s0.core 0) (octet (hereOf (record s0 histCmd)) { p0 with a := 16 }) = true :=
  ⟨allUni (by decide +kernel), by decide +kernel, by decide +kernel, by decide +kernel, allUni (by decide +kernel), by decide +kernel, by decide +kernel, by decide +kernel⟩
/-- A tile instruction of the stream whose turn it is. -/
def mayTile (s : State) (i : Instr) : Bool :=
  match i.issued with
  | none => false
  | some (_, x, _) => decide (s.cur = ⟨0, 0, none⟩) && decide (s.block 0 0 = some (blkOf s)) && decide ((blkOf s).tile = some (tileOf s)) &&
    !(tileOf s).ended && !x.s
theorem tileIssue {s : State} {i : Instr} {r : Row} {x : Ext} {len : Nat} (hi : i.issued = some (r, x, len)) (h : mayTile s i = true) :
    TileIssue i s r x len 0 0 (blkOf s) (tileOf s) ∧ x.s = false := by
  simp only [mayTile, hi, Bool.and_eq_true, decide_eq_true_eq, Bool.not_eq_true'] at h
  obtain ⟨⟨⟨⟨a, b⟩, c⟩, d⟩, e⟩ := h
  exact ⟨⟨hi, a, b, c, d⟩, e⟩
def loopAt (n : W64) (s : State) : State := s.updTile 0 0 fun t => { t with x := zset t.x 31 n, pc := ⟨0, 0x40⟩ }
theorem witness_StreamOperations :
    (∀ i ∈ [Instr.tset { p0 with d := 31, lit := some 5 }, .rwperm { p0 with aux8 := 3 }, .tnop p0], mayTile st i = true) ∧
    (([0, 1, 2] : List W64).all fun n => mayTile (loopAt n st) (.tloop { p0 with a := 31, lit := some 0xFFFFFFFFFFFFFFC0 }) &&
      zget (tileOf (loopAt n st)).x 31 == n) = true ∧ (0xFFFFFFFFFFFFFFC0 : W64).toInt % 4 = 0 ∧
    (tileOf (loopAt 2 st)).pc.off + (0xFFFFFFFFFFFFFFC0 : W64).toInt = 0 := by decide +kernel
def windowForms (s : Bool) : List Instr :=
  [.tdesc { p0 with ty := 2, d := 1, a := 2, b := 3, s := s }, .tzero { p0 with d := 7, s := s }, .tldacc { p0 with d := 1, a := 15, s := s },
   .tmma { p0 with ty := 2, d := 1, a := 2, b := 3, s := s }, .tmmab { p0 with ty := 0xE, d := 1, a := 2, b := 3, s := s },
   .tscale { p0 with d := 1, a := 1, b := 2, s := s }, .ttrans { p0 with d := 1, a := 2, s := s }, .tadd { p0 with d := 1, a := 2, b := 3, s := s },
   .tcvt { p0 with ty := 1, d := 1, a := 2, s := s }, .tstore { p0 with a := 1, b := 2, s := s }]
/-- The shape of one row of 64 elements in x3. -/
def std : State := st.updTile 0 0 fun t => { t with x := zset t.x 3 0x400001 }
theorem witness_WindowEntry : (∀ i ∈ windowForms false, mayTile st i = true) ∧ windowOps (tileOf st) = 0 ∧
    (∀ xop ∈ [opTdesc, opTzero, opTstore], needsFlush (blkOf st) (tileOf st)
      ((entering (tileOf st) xop { p0 with d := 1, b := 2 } false).ops.headD ⟨⟨0, 0⟩, 0, p0, 0, 0, 0⟩) = false) ∧
    (tileOf st).window = [] ∧ (blkOf st).draining = false ∧
    let f := (std.updTile 0 0 fun _ => { tileOf std with rules := rulesOf std 0 }).updTile 0 0 fun t =>
      { t with window := [entering (tileOf std) opTdesc { p0 with ty := 2, d := 1, a := 2, b := 3, s := true } true] }
    (match issueOldest f 0 0 with | .ok _ => true | _ => false) = true :=
  ⟨by decide +kernel, by decide +kernel, by decide +kernel, by decide +kernel, by decide +kernel, by decide +kernel⟩
theorem witness_TileElements : ∀ p ∈ [opTzero, opTtrans, opTadd, opTscale, opTcvt],
    let o : TileOp := ⟨⟨0, 0⟩, p, { p0 with d := 7, ty := 0xA }, 0, 0, 0⟩
    o.x.d.toNat < 8 ∧ o.xop = p ∧ o.x.ty ≠ tyF32 ∧ p0.ty = tyF32 ∧ 4095 < 4096 := by decide
theorem witness_FlushPoints : (∀ i ∈ [Instr.tfence p0, .tend p0, .texit p0, .tbar { p0 with aux8 := 15 }, .tsave { p0 with a := 1 },
      .trstr { p0 with a := 1 }], mayTile st i = true) ∧ (tileOf st).window = [] ∧ (blkOf st).draining = false ∧
    saveAddrOk (zget (tileOf st).x 1) = true ∧
    barDone (getBar (memberArrive st 0 0 0 1 15 64) (blkOf st) 0 1 15).gen (getBar st (blkOf st) 0 1 15).gen = false :=
  ⟨by decide +kernel, by decide +kernel, by decide +kernel, by decide +kernel, by decide +kernel⟩

/-- Groups 0, 4, 8 and 12 of one partition whose file holds two: 0 and 4 in it and parked, the first for longer; 8 ready and 12
parked outside it. -/
def s3g : State := withBlock s0 fun k => { k with groups :=
  [(0, { (hereOf s0).grp with park := some .barrier, parked := some 1 }), (4, { (hereOf s0).grp with park := some .barrier, parked := some 2 }),
   (8, { (hereOf s0).grp with resident := false, ready := some 3 }), (12, { (hereOf s0).grp with resident := false, park := some .barrier })] }
/-- Group 8 of these with the file's place of group 0 free. -/
def s3r : State := s3g.updGroup 0 0 0 fun x => { x with resident := false }
/-- Two entries of a group of 64 lanes, each waiting in RECONV for the lanes of both. -/
def srec : State := withBlock s0 fun k => { k with kern := { k.kern with width := 64 }, groups := kupd k.groups 0 fun g => { g with frontier :=
  [⟨⟨0, 0⟩, 0, 1, 0, false, false, some (.reconv 0x200000001 ⟨0, 12⟩), none⟩, ⟨⟨0, 0x40⟩, 0, 0x200000000, 0, false, false, some (.reconv 0x200000001 ⟨0, 0x4C⟩), none⟩] } }
theorem witness_GroupSchedulingSteps_promotion : let u := withGroup s0 fun g => { g with frontier := g.frontier.map fun e => { e with count := 4096 } }
    u.group 0 0 0 = some (hereOf u).grp ∧ (hereOf u).grp.frontier ≠ [] ∧ ((hereOf u).grp.frontier.all fun e => decide (e.wait = none ∧ 4096 ≤ e.count)) = true ∧
    (hereOf s0).grp.frontier ≠ [] ∧ ((hereOf s0).grp.frontier.all fun e => decide (e.count < 4096)) = true := by decide +kernel
theorem witness_GroupSchedulingSteps_reconv : ∃ (k : Block) (x : Group) (onto : Entry → Pc × Lanes), srec.block 0 0 = some k ∧
    kget k.groups 0 = some x ∧ x.frontier ≠ [] ∧
    (∀ e ∈ x.frontier, e.wait = some (.reconv (onto e).2 (onto e).1) ∧ (onto e).2 &&& x.live k.kern.width &&& ~~~e.mask ≠ 0 ∧ e.mask ≠ 0) ∧
    (x.frontier.map fun e => (onto e).1).Nodup ∧ ∃ e ∈ (hereOf s0).grp.frontier, e.wait = none :=
  ⟨blkOf srec, _, fun e => (e.pc.plus 12, 0x200000001), by decide +kernel, rfl, by decide +kernel, by decide +kernel, by decide +kernel, by decide +kernel⟩
theorem witness_GroupSchedulingSteps_switch :
    (∃ x, (withGroup s0 fun g => { g with sinceSwitch := 4096 }).group 0 0 0 = some x ∧ 4096 ≤ x.sinceSwitch) ∧
    ∃ x, (withGroup s0 fun g => { g with sinceSwitch := 4095 }).group 0 0 0 = some x ∧ x.sinceSwitch < 4096 :=
  ⟨⟨_, rfl, by decide +kernel⟩, ⟨_, rfl, by decide +kernel⟩⟩
theorem witness_GroupSchedulingSteps_demotion : ∃ x, s3g.group 0 0 0 = some x ∧ x.resident = true ∧ x.frontier ≠ [] ∧ x.parked ≠ none ∧
    (∃ p ∈ partition s3g 0 0, p.2.2.resident = false ∧ p.2.2.ended = false ∧ p.2.2.ready ≠ none) ∧ fileRoom s3g 0 0 0 = false ∧
    (∀ p ∈ partition s3g 0 0, p.2.2.resident = true → p.2.2.ended = false → p.2.2.parked ≠ none →
      x.parked.getD s3g.tick ≤ p.2.2.parked.getD s3g.tick) ∧
    (hereOf s0).grp.parked = none ∧ fileRoom s0 0 0 0 = true ∧ ∀ p ∈ partition s0 0 0, p.2.2.ready = none :=
  ⟨_, rfl, by decide +kernel, by decide +kernel, by decide +kernel, by decide +kernel, by decide +kernel, by decide +kernel, by decide +kernel,
   by decide +kernel, by decide +kernel⟩
theorem witness_GroupSchedulingSteps_recall : ∃ x n, s3r.group 0 0 8 = some x ∧ x.resident = false ∧ x.frontier ≠ [] ∧ x.ready = some n ∧
    fileRoom s3r 0 0 8 = true ∧
    (∀ p ∈ partition s3r 0 0, p.2.2.resident = false → p.2.2.ended = false → ∀ m, p.2.2.ready = some m → n ≤ m) ∧
    (∃ y, s3g.group 0 0 12 = some y ∧ y.ready = none ∧ fileRoom s3g 0 0 12 = false) :=
  ⟨_, 3, rfl, by decide +kernel, by decide +kernel, by decide +kernel, by decide +kernel, by decide +kernel, ⟨_, rfl, by decide +kernel, by decide +kernel⟩⟩

/-- A group with one result of each kind on its way, and one with a trap due or a PREEMPT pending. -/
def pending (p : Pend) : State := withGroup s0 fun g => { g with pend := [(5, p)] }
def boarded (b : BoardSlot) : State := withGroup s0 fun g => { g with board := [b] }
def lateTrap : Late := ⟨⟨0x0A, 7⟩, none, none, false⟩
def grpOf (s : State) : Group := (s.group 0 0 0).getD (Group.start probeKernel 0 0)
theorem witness_ResultsReturn :
    kget (grpOf (pending ⟨.vec 3 false ([0, 31].map fun l => (l, 9)), 1⟩)).pend 5 = some ⟨.vec 3 false ([0, 31].map fun l => (l, 9)), 1⟩ ∧
    kget (grpOf (pending ⟨.uni 3 9, 0⟩)).pend 5 = some ⟨.uni 3 9, 0⟩ ∧
    (let u := configChan (configChan (pending ⟨.push 3 [9], 0⟩) 0 0 4 0x40000C0000040000) 0 0 3 0x8000100000000000;
      kget (grpOf u).pend 5 = some ⟨.push 3 [9], 0⟩ ∧
      (let q := pushWords (u.updGroup 0 0 0 fun _ => { grpOf u with pend := kdel (grpOf u).pend 5 }) 0 0 0 0 3 [9];
        q.2 = true ∧ vqStuck q.1 0 3 = false)) ∧
    ((grpOf (boarded ⟨6, .uni 3 9, 0, none⟩)).board.find? fun k => k.id == 6) = some ⟨6, .uni 3 9, 0, none⟩ ∧
    ((grpOf (boarded ⟨6, .vec 3 true [(0, 9)], 0, some (0, 8)⟩)).board.find? fun k => k.id == 6) =
      some ⟨6, .vec 3 true ([0].map fun l => (l, 9)), 0, some (0, 8)⟩ ∧
    (let u := withGroup s0 fun g => { g with tokens := [(2, ⟨3, [(0, 9)], 0, 4⟩)] };
      kget (grpOf u).tokens 2 = some ⟨3, [0].map fun l => (l, 9), 0, 4⟩ ∧ ∀ t ∈ queueTokens u 0 0 (grpOf u).slot, 4 ≤ t.order) ∧
    (let u := withTrap (withGroup s0 fun g => { g with late := [lateTrap] });
      dueTrap (grpOf u) = some ((hereOf u).ent, lateTrap) ∧ (grpOf u).mayEnter = true ∧ (grpOf u).handler = none ∧
      (blkOf u).kern.trap = some ⟨0, 0x100⟩) ∧
    (let u := withTrap (withGroup s0 fun g => { g with preempt := true, park := some .switchPoint });
      dueTrap (grpOf u) = none ∧ (grpOf u).mayEnter = true ∧ (grpOf u).preempt = true ∧ (grpOf u).park = some .switchPoint ∧
      (grpOf u).handler = none ∧ (blkOf u).draining = false) := by decide +kernel

/-- One entry that waits, at a barrier whose generation is over, or on a monitored word. -/
def waiting (s : State) (w : Wait) : State := withGroup s fun g => { g with frontier := g.frontier.map fun e => { e with wait := some w } }
/-- The AND-tree's slots of core 0's bay for a launch of one block that has arrived at grid barrier 2. -/
def stree : State :=
  let u := withBlock { s0 with tree := [⟨0x20000, 0, 0, 1, [(2, 1)]⟩, ⟨0x10000, 0, 0, 1, [(2, 1)]⟩, ⟨0x30000, 0, 0, 1, [(2, 1)]⟩] } fun k =>
    { k with bars := kset k.bars (barKey 3 2 0) ⟨0, 1, false, [0]⟩ }
  u.updTen 0 fun n => { n with launches := [(0, { Launch.fresh 0x0000010001000001 0 with gridBars := [(2, ⟨0, 1, false, [0]⟩)], places := [(0, 0)] })] }
theorem witness_BarrierAndMonitorSteps :
    (let u := withBlock (waiting s0 (.bar 1 7 0 false 5 ⟨0, 12⟩ false)) fun k => { k with tile := none, bars := [(barKey 1 7 0, ⟨1, 1, false, []⟩)] };
      (blkOf u).groups = [(0, grpOf u)] ∧ (blkOf u).tile = none ∧ ((grpOf u).frontier.map fun e => e.wait) = [some (.bar 1 7 0 false 5 ⟨0, 12⟩ false)] ∧
      ((grpOf u).frontier.all fun e => e.mask != 0) = true ∧ barDone (getBar u (blkOf u) 0 1 7).gen 0 = true) ∧
    (let u := (withBlock s0 fun k => { k with bars := [(barKey 1 9 0, ⟨1, 1, false, []⟩)] }).updTile 0 0 fun t => { t with bar := some (9, 0) };
      (blkOf u).tile = some (tileOf u) ∧ (tileOf u).bar = some (9, 0) ∧ barDone (getBar u (blkOf u) 0 1 9).gen 0 = true ∧
      (blkOf u).groups.all (fun p => p.2.frontier.all fun e => e.wait == none) = true) ∧
    (let u := withBlock (waiting s0 (.mon 2 ⟨0x40, true, 0x40⟩ 0 3 false 5 ⟨0, 12⟩)) fun k => k.putScratch 0x40 (leBytes 8 0);
      (blkOf u).groups.map (·.1) = [0] ∧ monHit ((blkOf u).scratchNat 0x40 8) 0 = true ∧ (blkOf u).scratchNat 0x40 8 ≠ 2 ^ 64 - 1) ∧
    ((monRead (waiting sm (.mon 2 ⟨0x8000, false, 0x8000⟩ 1 6 false 5 ⟨0, 12⟩)) 0 0 0 ⟨0x8000, false, 0x8000⟩).2 = some 0 ∧ monHit 0 1 = false ∧ monHit 0 0 = true) := by
  decide +kernel
theorem witness_BarrierAndMonitorSteps_tree :
    treeParent stree 0 = some (0x10000, 0) ∧ treeApex stree 0 = 0x30000 ∧ leafArrived stree 0 0 2 0 = true ∧
    (∃ y, treeSlot stree 0 0 0x10000 = some y ∧ slotFull y 2 = true) ∧
    ∃ y z b, treeSlot stree 0 0 (treeApex stree 0) = some y ∧ stree.launch 0 0 = some z ∧ kget z.gridBars 2 = some b ∧ b.arrived ≠ [] ∧
      slotFull y 2 = true ∧ apexCount z 2 = z.grid :=
  ⟨by decide +kernel, by decide +kernel, by decide +kernel, ⟨_, rfl, by decide +kernel⟩,
   ⟨_, _, _, rfl, rfl, rfl, by decide +kernel, by decide +kernel, by decide +kernel⟩⟩
theorem witness_CodeAndCoreSteps :
    (let u := si.updCore 0 fun k => { k with slots := [(7, ⟨slotFetching, 0, [], [], some 3⟩)] };
      kget (u.core 0).slots 7 = some ⟨slotFetching, 0, [], [], some 3⟩ ∧ (u.core 0).code = some (0, 0) ∧ segmentOf u 0 3 = some [0x41]) ∧
    (let u := s0.updCore 0 fun k => { k with slots := [(6, ⟨slotDeferred, 9, [], [], some 3⟩)] };
      kget (u.core 0).slots 6 = some ⟨slotDeferred, 9, [], [], some 3⟩ ∧ (u.core 0).occupied 6 = false) ∧
    ((tileOf st).ended = false ∧ (tileOf st).saved = false ∧ (tileOf st).park = none ∧ (tileOf st).window = []) ∧
    (s0.block 0 0 = some (blkOf s0) ∧ (blkOf s0).kern.idem = false) ∧
    (let u := withBlock s0 fun k => { k with kern := { k.kern with idem := true }, relaunches := 1 };
      (blkOf u).kern.idem = true ∧ (blkOf u).relaunches < 2 ∧ (blkOf u).draining = false ∧
        (blkOf (withBlock u fun k => { k with draining := true })).draining = true) ∧
    (let u := s0.updMod fun m => { m with bays := [(0, List.range 15)] }; physOf u 14 = some 14 ∧ failedCore u 14 = false ∧
      let v := markDead (u.updCore 14 fun k => { k with retired := true }) 14; failedCore v 14 = true ∧ theDrain v = none ∧ standsAnywhere v 14 = false) := by decide +kernel
/-- The two domains' tenants and tables for a guest's requests: core 0 and core 1024 (domain 1) are the tenant's. -/
def s2d : State := { sm with tenants := kupd sm.tenants 0 fun n => { n with placement := [0, 256] } }
theorem witness_MemorySystemSteps :
    (let u := sm.updCore 0 fun k => { k with wc := [(256, [(0, 9), (127, 8)])] };
      kget (u.core 0).wc 256 = some [(0, 9), (127, 8)] ∧ keysAbove 0 [(0, (9 : Byte)), (127, 8)] = true ∧ isPeer (lineBase 256) = false ∧
      (u.core 0).strong = [] ∧
      u.home (u.coreTenant 0) (lineBase 256) = coreDomain 0 ∧ u.homeDown (u.coreTenant 0) (lineBase 256) = false ∧
      (u.domains.all fun p => p.2.guest == [] && p.2.sbReqs == []) = true) ∧
    (let u := sm.updCore 0 fun k => { k with strong := [{ strongAt 8 with pa := 0x8078 }] };
      (u.core 0).strong = [{ strongAt 8 with pa := 0x8078 }] ∧ (u.core 0).wc = [] ∧ 0x8078 % 128 + 8 ≤ 128 ∧
      u.homeDown 0 (lineBase (lineOf 0x8078)) = false ∧ (u.domains.all fun p => p.2.guest == [] && p.2.sbReqs == []) = true) ∧
    (let w := { strongAt 8 with op := some (0xC, 0), ret := some 3 }
      let u := withGroup (sm.updCore 0 fun k => { k with strong := [w] }) fun g => { g with board := [⟨3, .vec 2 true [(0, 0)], 1, none⟩] }
      (u.core 0).strong = [w] ∧ w.block = some 0 ∧ w.who.thread = some (0, 0) ∧
        (u.group 0 0 0).map (fun x => x.board) = some [⟨3, .vec 2 true [(0, 0)], 1, none⟩]) ∧
    (tenantsOf s2d (coreDomain 256) = [0] ∧ s2d.home 0 (lineBase 256) ≠ coreDomain 256 ∧ s2d.homeDown 0 (lineBase 256) = false ∧
      kget (s2d.dom (coreDomain 256)).guest 256 = none ∧ coreDomain 256 < 64 ∧ objOf s2d 0 256 = none ∧ kget (s2d.dom 0).dir (256 / 32) = none ∧
      (s2d.dom 0).dir.length < 524288 ∧ sealedLine s2d 256 = false ∧ (s2d.dom (coreDomain 256)).l2.length < 16 ∧
      covering s2d (coreDomain 256) 256 = [] ∧ windowOf s2d 256 = none) ∧
    (let u := setDir s2d 0 0 256 .shared (domBit (coreDomain 256));
      ((entryLines u 0 256).all fun l => (kget (u.dom (coreDomain 256)).guest l).isNone) = true ∧ isPeer (lineBase 256) = false ∧
      (dropHomes u 256 == [0]) = true ∧ (dirOf u 0 256).present.getLsbD (coreDomain 256) = true ∧
      (dirOf s2d 0 256).present.getLsbD (coreDomain 256) = false) ∧
    (let u := s2d.updDom (coreDomain 256) fun d => { d with guest := [(257, ⟨List.replicate 128 0, 0, 1, false⟩)] };
      ((entryLines (dropGuest u 0 (coreDomain 256) 256) 0 256).any fun l => (kget ((dropGuest u 0 (coreDomain 256) 256).dom (coreDomain 256)).guest l).isSome) = true) ∧
    (let u := s0.updDom 1 fun d => { d with guest := [(256, ⟨List.replicate 128 0, 1, 1, false⟩), (257, ⟨List.replicate 128 0, 0, 1, false⟩)] };
      ((kget (u.dom 1).guest 256).any fun g => g.dirty != 0) = true ∧ ((kget (u.dom 1).guest 257).any fun g => g.dirty == 0) = true ∧
      (u.tenants.find? fun p => p.2.st != 0 && p.2.vni == 1).isSome ∧ (u.tenants.find? fun p => p.2.st != 0 && p.2.vni == 2) = none ∧
      u.homeDown 0 (lineBase 257) = false) ∧
    (let u := s0.updDom 1 fun d => { d with l2 := [258, 259], hdirty := [259] };
      kget (u.dom 1).guest 258 = none ∧ 258 ∈ (u.dom 1).l2 ∧ 258 ∉ (u.dom 1).hdirty ∧ 259 ∈ (u.dom 1).l2 ∧ 259 ∈ (u.dom 1).hdirty) ∧
    (63 < s0.nlive ∧ (s0.dom 63).lost = false ∧ 16383 < 2 ^ 14) := by decide +kernel
theorem witness_MemorySystemSteps_home : ∃ r, ((sbk.updDom 0 fun d => { d with sbReqs := [r] }).dom 0).sbReqs = r :: [] :=
  ⟨⟨1, 0x8000, 5, 0, 0, 0, 0, 0, 0, 0x8000⟩, by decide +kernel⟩

/-- Dispatch: a record of one block with its home in domain 0 and a patience of 1, queued in an OPEN launch; cores 0 and 1 are the
tenant's, and the listed cores are published as free. -/
def waitRec (home : Bool) : Record :=
  { w := [if home then 0x100 else 0, 0x0000100000000000, 0, 0, 0x0000010001000001, 0, 0x1000, 0], source := 0, ring := 0, core := 0, since := 0
    image := 0, kern := probeKernel, sel := none, next := 0, left := 1, homes := [] }
def waitLaunch : Launch := { Launch.fresh 0x0000010001000001 0 with patience := [(0, 0)] }
def waitTenant (home : Bool) : Tenant :=
  { Tenant.fresh with st := 1, vni := 1, placement := [0, 1], queues := [(0, [waitRec home])], launches := [(0, waitLaunch)] }.setCounter 0 0
    { Counter.fresh with st := 1, value := 1 }
def sdsp (home : Bool) (free : KMap Nat) : State :=
  { s0.updMod (fun m => { m with freeFigs := free }) with tenants := [(0, waitTenant home)], now := 10000000 }
def unitOf (s : State) : Unit1 := (nextUnit s 0).getD ⟨⟨0, 0, 0, 0, [], 0, probeKernel, 0, none, none, none, []⟩, 0, none⟩
def readied (s : State) : State := prepareStarts s 0 (unitOf s).w.launch
def dispatches (s : State) : Prop := (s.ten 0).st = 1 ∧ (s.ten 0).pstat = 0 ∧ nextUnit s 0 = some (unitOf s) ∧
  ((s.ten 0).counter 0 (unitOf s).w.launch).st ≠ lvCancelled ∧
  (treeReady (readied s) 0 (unitOf s).w.launch (unitOf s).w.image).isSome = true ∧ served s 0 = true
theorem witness_DispatchSteps_home : dispatches (sdsp true [(1, 0)]) ∧ (unitOf (sdsp true [(1, 0)])).w.home = some 0 ∧
    hasFree (readied (sdsp true [(1, 0)])) 0 (unitOf (sdsp true [(1, 0)])).w 0 = true := by unfold dispatches; decide +kernel
theorem witness_DispatchSteps_none : dispatches (sdsp false []) ∧ (unitOf (sdsp false [])).w.home = none ∧
    cheapest (readied (sdsp false [])) 0 (unitOf (sdsp false [])).w = some 0 ∧
    ((readied (sdsp false [])).launch 0 0).map (fun x => x.starts) = some [] := by unfold dispatches; decide +kernel
theorem witness_DispatchSteps_patience : let s := sdsp true []
    dispatches s ∧ (unitOf s).w.home = some 0 ∧ hasFree (readied s) 0 (unitOf s).w 0 = false ∧ (unitOf s).patience = 1 ∧
    cheapest (readied s) 0 (unitOf s).w = some 0 ∧ ((readied s).launch 0 0).map (fun x => (x.starts, x.patience)) = some ([], [(0, 0)]) ∧
    (s.launch 0 0).bind (fun x => kget x.patience (unitOf s).w.first) = some 0 ∧ 0 + 1 * 10 ≤ s.now := by unfold dispatches; decide +kernel
theorem witness_DispatchSteps_rings :
    (let u := sm.updRing 0 3 fun r => { r with base := 0x8000, en := true, tail := 1 };
      (u.ten 0).st = 1 ∧ ((u.ten 0).ring 3).en = true ∧ ((u.ten 0).ring 3).count ≠ 0 ∧
      (tenantWords u 0 (((u.ten 0).ring 3).slot ((u.ten 0).ring 3).head 64) 8).2 = some (zeros 8) ∧
      presentable (joinGate u 0 (zeros 8)).1 0 (zeros 8) 0 3 0 = true) ∧
    ((sdsp true []).ten 0).hold = [] ∧ ((sdsp true []).ten 0).queues = [(0, [waitRec true])] ∧ (waitRec true).since + 1000000 ≤ (sdsp true []).now := by decide +kernel
/-- Region starts 0 and 1 of one launch with a LIMIT of one weight. -/
theorem witness_DispatchSteps_regions :
    (let s := { s0 with tenants := [(0, { waitTenant true with launches := [(0, { waitLaunch with starts := [5] })] })] };
      regionReady s 5 = true ∧ s.mod.admitAt = none) ∧
    (let s := s0.updMod fun m => { m with admitAt := some 0 }; s.mod.admitAt = some 0 ∧ s.now < 0 + 200) ∧
    let x := { waitLaunch with grid := 100, starts := [0, 1] }
    let n := { waitTenant true with placement := [1, 512], launches := [(0, x)] }
    let s := { s0.updMod (fun m => { m with pwLimit := 1 }) with tenants := [(0, n)] }
    regionReady s 0 = true ∧ s.mod.admitAt = none ∧ s.mod.pwLimit ≠ 0 ∧ s.prg (coreDomain 512) = 1 ∧
    s.mod.pwLimit.toNat < startWeight s 0 0 (launchTile s 0 0) 0 + startWeight s 0 0 (launchTile s 0 0) 1 := by
  decide +kernel
/-- A record whose variants are chosen by the size word at 0x8000. -/
theorem witness_DispatchSteps_variant :
    let v : Variant := ⟨5, 0, 0x0000010001000001, 0, probeKernel⟩
    let r := { waitRec false with sel := some (0x8000, [v]) }
    let s := sm.updTen 0 fun n => { n with queues := [(3, [r])] }
    (s.ten 0).queues = [(3, [r])] ∧ ([r].find? fun r => r.sel.isSome && recLaunch r.w == 0) = some r ∧
    (selectVariant s 0 (0x8000, [v])).2.toOption = some v ∧ gridSize v.grid ≠ 0 := by decide +kernel
def ended (s : State) : State := withBlock (withGroup s fun g => { g with frontier := [], exited := BitVec.allOnes 64 }) fun k =>
  { k with tile := k.tile.map fun t => { t with ended := true } }
theorem witness_BlockSteps :
    (let u := withBlock s0 fun k => { k with started := false };
      (unstarted u 0).find? (fun p => match u.block p.1 p.2 with
        | some k => (needSegs u k.image k.kern).all fun x => ((u.core p.1).slotOf x).isSome
        | none => false) = some (0, 0)) ∧
    (let u := { sdsp false [] with cores := [] }.updDom 0 fun d => { d with queue := [(unitOf (sdsp false [])).w] };
      unstarted u 0 = [] ∧ ((u.dom 0).queue.find? fun w => (u.ten w.tenant).pstat == 0) = some (unitOf (sdsp false [])).w ∧ domainTakes u 0 = true ∧
      pickCores u 0 (unitOf (sdsp false [])).w = some [0]) ∧
    blockDone (ended s0) 0 0 = true ∧ (((completeBlock (ended s0) 0 0).ten 0).counter 0 0).st ≠ lvDone := by decide +kernel

/-- Operations of the copy unit: one element of four bytes from 0x8000 to the scratchpad; its chain slot's record is at 0x8000. -/
def opOf (eng op dsp : Nat) (stage : OpStage) (acks : List Nat) : Op :=
  { id := 4, eng := eng, w := copyRec op dsp, block := 0, tenant := 0, grp := 0, chain := none, sig := 0, stage := stage, todo := [], acks := acks, seed := 0, prog := 0, olds := [] }
def withOp (s : State) (o : Op) : State := s.updCore 0 fun k => { k with ops := [o] }
def chained (w : W64) : State :=
  { sm with mem := writeW64 (writeWords sm.mem 0x8000 (copyRec 1 1)) 0x8000 w }.updCore 0 fun k => { k with chains := [(3, ⟨1, 0, 0x8000, 0x8000, none⟩)] }
def chainRead (s : State) : State := (engXlat s 0 0 0 2 64 [(0x8000, false)]).1
def chainRec (s : State) : List W64 :=
  readWords (acquireAt (homeRead (chainRead s) 0 0x8000 64).1 none (blockWho (homeRead (chainRead s) 0 0x8000 64).1 0 (blkOf s) none) 2 0x8000).mem 0x8000 8
theorem witness_CopyUnitSteps_chain :
    (∃ n, kget ((chained 0).core 0).chains 3 = some n ∧ n.state = 1 ∧ (chained 0).block 0 n.owner = some (blkOf (chained 0)) ∧
      (blkOf (chained 0)).draining = false) ∧
    engXlat (chained 0) 0 0 0 2 64 [(0x8000, false)] = (chainRead (chained 0), .ok (0x8000 :: [])) ∧
    lineReadable (chainRead (chained 0)) 0 (lineOf 0x8000) = true ∧ bit (word (chainRec (chained 0)) 0) 63 = false ∧
    bit (word (chainRec (chained 0x8100000000000000)) 0) 63 = true ∧
    xferOk (chainRec (chained 0x8100000000000000)) (blkOf s0).clus (blkOf s0).kern.scratch true = false ∧
    bit (word (chainRec (chained 0x8000000000000000)) 0) 63 = true ∧
    xferOk (chainRec (chained 0x8000000000000000)) (blkOf s0).clus (blkOf s0).kern.scratch true = true :=
  ⟨⟨_, rfl, by decide +kernel, by decide +kernel, by decide +kernel⟩, sndOf (by decide +kernel), by decide +kernel, by decide +kernel,
   by decide +kernel, by decide +kernel, by decide +kernel, by decide +kernel⟩
theorem witness_CopyUnitSteps :
    (∀ e ∈ [(0, 1), (1, 1), (2, 1), (3, 2)], let o := opOf 0 e.1 e.2 .waiting []
      getOp (withOp sm o) 0 4 = some o ∧ o.eng = 0 ∧ o.stage = .waiting ∧ mayStart (withOp sm o) 0 o = true ∧ xOp o.w = e.1) ∧
    (∀ e ∈ [1, 2], let o := opOf 0 e 1 .payload []
      getOp (withOp sm o) 0 4 = some o ∧ o.eng = 0 ∧ o.stage = .payload ∧ xOp o.w = e ∧ (moveList o)[o.prog]? = some (0, 0x8000, 0x100) ∧
        (moveElem (withOp sm o) 0 4 0 (0x8000, 0x100)).2 = true) ∧
    (∀ e ∈ [1, 2], let o := { opOf 0 e 1 .payload [] with w := setAt (copyRec e 1) 1 (word (copyRec e 1) 1 ||| 0x1000) }
      getOp (withOp s0 o) 0 4 = some o ∧ s0.block 0 o.block = some (blkOf s0) ∧ o.olds = [] ∧ xOverlaps o.w = false ∧ xSsp o.w = 1 ∧
        xDsp o.w ≠ 0 ∧ xOp o.w = e) ∧
    (let o := { opOf 0 1 0 .payload [] with w := setAt (copyRec 1 0) 3 0x10100 };
      getOp (withOp sm o) 0 4 = some o ∧ o.olds = [] ∧ xOverlaps o.w = false ∧ xSsp o.w ≠ 1 ∧ xDsp o.w = 0 ∧
        let q := engXlat (withOp sm o) 0 0 0 2 4 [(0x8000, false), (0x10100, true)];
        (match q.2 with | .ok [a, b] => a == 0x8000 && b == 0x10100 | _ => false) = true ∧ (engRead q.1 0 (coreDomain 0) 0x8000 4).2.isSome) ∧
    (s0.block 0 0 = some (blkOf s0) ∧ (match rankAt s0 0 0 0 with | .on c b => c == 0 && b == 0 | _ => false) = true) ∧
    (let o := opOf 0 3 2 .acks [0, 2]; getOp (withOp s0 o) 0 4 = some o ∧ 0 ∈ o.acks ∧ (o.acks.filter fun x => x != 0) ≠ []) ∧
    (let o := opOf 0 3 2 .acks [2]; getOp (withOp s0 o) 0 4 = some o ∧ (o.acks.filter fun x => x != 2) = [] ∧ o.todo = []) ∧
    (let o := opOf 0 1 1 .done []; getOp (withOp s0 o) 0 4 = some o ∧ earlierOps ((withOp s0 o).core 0) o = [] ∧ bits (word o.w 6) 0 56 = 0) ∧
    let o := { opOf 0 1 1 .done [] with w := setAt (copyRec 1 1) 6 0x9000 }
    getOp (withOp sm o) 0 4 = some o ∧ bits (word o.w 6) 0 56 ≠ 0 ∧ (postmark (withOp sm o) 0 o 0x9000 (xScope o.w) (word o.w 7) 2).2 = true := by
  decide +kernel
/-- A command of an under-side engine. -/
def cmdAt (eng cmd : Nat) (w0 : Nat) : Op :=
  { opOf eng 0 0 .waiting [] with w := [BitVec.ofNat 64 (eng * 2 ^ 60 + cmd * 2 ^ 56 + w0), 0x8000, 0x9000, 0, 0x0000000400000001, 0, 0, 0] }
theorem witness_UnderSideEngineSteps :
    (∀ p ∈ [(1, 0), (1, 1), (1, 2), (1, 3), (2, 0), (2, 1), (2, 2)],
      nextCmd (withOp sm (cmdAt p.1 p.2 0)) 0 4 p.1 p.2 = some (cmdAt p.1 p.2 0)) ∧
    (let o := cmdAt 2 2 0; (match engPieces sm 0 o (cutAll (srcRows o.w)) false with | (_, .ok pas) => pas == [0x8000] | _ => false) = true) ∧
    (let o := cmdAt 2 2 0; (match engPieces sm 0 o (cutAll ([(0x9000, [(1 : Byte), 2])].map fun p => (p.1, p.2.length))) true with
      | (_, .ok pas) => pas == [0x9000] | _ => false) = true) ∧
    (let o := cmdAt 1 3 0; (match engXlat sm 0 o.tenant (opLaunch sm 0 o) 3 1 ((cmdTouches sm 0 o).map (·.2)) with | (_, .ok _) => true | _ => false) = true) ∧
    (let o := cmdAt 1 0 0; (match engXlat s0 0 o.tenant (opLaunch s0 0 o) 3 1 ((cmdTouches s0 0 o).map (·.2)) with | (_, .ok _) => false | _ => true) = true) ∧
    (match readPieces (engPieces sm 0 (cmdAt 2 2 0) [(0x8000, 16)] false).1 0 0 [(0x8000, 16)] with | (_, .ok bs) => bs.length == 16 | _ => false) = true := by
  decide +kernel
/-- Core 0 with a mesh-out entry 3 and core 1 with its peer, mesh-in entry 4, and a word between them. -/
def sflight : State :=
  let u := { s0 with cores := kset s0.cores 1 { (s0.core 0) with tenant := some 0 }, tenants := kupd s0.tenants 0 fun n => { n with placement := [0, 1] } }
  let u := configChan (configChan u 1 0 4 0x40000C0000040000) 0 0 3 0x8001100000000000
  u.updCore 0 fun k => { k with flight := [⟨0, 3, 1, 4, 1, 9, none⟩] }
theorem witness_ChannelAndLinkSteps :
    (((sflight.core 0).flight.find? fun w => w.ch == 3) = some ⟨0, 3, 1, 4, 1, 9, none⟩ ∧ frozenTo sflight 0 ((sflight.core 0).chan 3).owner 1 4 = false) ∧
    (∃ e, kget (sflight.core 1).chans 4 = some e ∧ e.kind = 1 ∧ e.peer = 0 ∧ e.peerCh = 3 ∧ e.owner = some 0 ∧
      (sflight.ten (sflight.coreTenant 1)).vni = 1) ∧
    (∃ e o, kget (sflight.core 1).chans 4 = some e ∧ kget (sflight.core e.peer).chans e.peerCh = some o ∧ e.kind = 1 ∧ o.kind = 2 ∧
      o.peer = 1 ∧ o.peerCh = 4) ∧
    (7 ∉ (kget (s0.dom 0).links 2).getD [] ∧ 0x807F % 128 + ([255] : List Byte).length ≤ 128 ∧ 0 ∈ (s0.dom 0).vnis ∧ 2 ∉ (s0.dom 0).vnis ∧
      ∀ p ∈ s0.tenants, p.2.st ≠ 0 → p.2.vni ≠ 2) ∧
    (let u := s0.updDom 0 fun d => { d with links := [(2, [7])], retained := [(2, [[8, 1, 1, 0x8000, 255]])] };
      7 ∈ (kget (u.dom 0).links 2).getD [] ∧ (kget (u.dom 0).retained 2).getD [] = ([8, 1, 1, 0x8000] ++ [255]) :: []) ∧
    (s0.dom (coreDomain 0)).ueFirst = false ∧ ((s0.updDom 0 fun d => { d with ueFirst := true }).dom (coreDomain 0)).ueFirst = true :=
  ⟨by decide +kernel, ⟨_, rfl, by decide +kernel, by decide +kernel, by decide +kernel, by decide +kernel, by decide +kernel⟩,
   ⟨_, _, rfl, rfl, by decide +kernel, by decide +kernel, by decide +kernel, by decide +kernel⟩, by decide +kernel, by decide +kernel, by decide +kernel,
   by decide +kernel⟩

/-- The fault queue's answer at 0x8000: an XFAULT of domain 0, fault 9, which is in the table. -/
def sfq (action : W64) : State :=
  { sm with mem := writeWords sm.mem 0x8000 [1, 0, 0, 0x0000080000000009, 0, 0, 0, action] }.updRing 0 5 (fun r =>
    { r with base := 0x8000, en := true, head := 1, tail := 1 }) |>.updDom 0 (fun d => { d with faults := [(9, ⟨0, 4, false, 1⟩)] })
    |>.updTen 0 fun n => { n with fqPosted := [(0, (0, 9))] }
def sfqRead (s : State) : State := (deviceLoad s 0 0x8000 8).1
theorem witness_TranslationAndPreemptionSteps_faults :
    (0x1FFFF < 2 ^ 56 ∧ tlbFind sm 0 0 0x1FFFF (decide ((1 : Nat) ≠ 0)) = none ∧ (sm.dom 0).faults = [] ∧
      (walk sm 0 0x1FFFF true).2 = .ok 0x1FFFF 16 true ∧ (walk sm 0 0x20000 true).2 = .fail 1 4 0x5010 0 ∧ replayable 1 = true ∧
      ((walk sm 0 0x20000 true).1.dom 0).faults.length < 1024) ∧
    (let s := sfq 0; ((s.ten 0).ring ringFQ).seen ≠ ((s.ten 0).ring ringFQ).head ∧
      ((s.ten 0).ring ringFQ).slot ((s.ten 0).ring ringFQ).seen 64 = 0x8000 ∧ (deviceLoad s 0 0x8000 8).2 = some [1, 0, 0, 0x0000080000000009, 0, 0, 0, 0] ∧
      kget (s.ten 0).fqPosted ((s.ten 0).ring ringFQ).seen.toNat = some (0, 9) ∧
      (let v := ((sfqRead s).updRing 0 ringFQ fun r => { r with seen := r.seen + 1 }).updTen 0 fun n => { n with fqPosted := [] };
        kget ((postWaiting v 0 (v.ten 0).fqWait.length).dom 0).faults 9 = some ⟨0, 4, false, 1⟩)) ∧
    (let u := withGroup s0 fun g => { g with park := some (.fault [(0, 9, 5)]) }; (grpOf u).park = some (.fault [(0, 9, 5)])) ∧
    (let u := s0.updDom 0 fun d => { d with xinvBusy := true }; let v := u.updDom 1 fun d => { d with sbReqs := [⟨1, 0, 1, 0, 0, 0, 0, 0, 0, 0⟩] }
      (s0.dom 0).xinvBusy = false ∧ (u.dom 0).xinvBusy = true ∧ asksHome u (bits (u.dom 0).xinvn 24 6) = false ∧
      (v.dom 0).xinvBusy = true ∧ asksHome v (bits (v.dom 0).xinvn 24 6) = true) := by decide +kernel
/-- PREEMPTGO's control word: tenant 0, a style and a deadline. -/
def spre (style : Nat) (pstat : BitVec 3) (pctx : Nat) : State :=
  (s0.updMod fun m => { m with pctl := BitVec.ofNat 64 (style * 2 ^ 61) }).updTen 0 fun n => { n with pstat := pstat, pctx := pctx, pdeadline := 0 }
theorem witness_TranslationAndPreemptionSteps_preempt :
    ((spre 0 1 0).ten 0).pstat ≠ 0 ∧ bits (spre 3 0 0).mod.pctl 61 2 = 3 ∧
    (bits (spre 1 0 0).mod.pctl 61 2 = 1 ∧ ((spre 1 0 0).ten 0).pctx = 0) ∧
    (((spre 1 0 0x200000).ten 0).pstat = 0 ∧ bits (spre 1 0 0x200000).mod.pctl 61 2 = 1 ∧ bits (spre 1 0 0x200000).mod.pctl 0 6 = 0 ∧
      ((spre 1 0 0x200000).ten 0).domains.length ≤ 16 ∧ ((spre 1 0 0x200000).ten 0).pctx ≠ 0) ∧
    (bits (spre 2 0 0).mod.pctl 61 2 = 2 ∧ ({ spre 2 0 0 with cores := [] }.cores.all fun p => p.2.blocks.all fun q => q.2.tenant != 0) = true) ∧
    (((spre 1 1 0x200000).ten 0).pstat = 1 ∧ ((spre 1 1 0x200000).ten 0).pdeadline ≤ (spre 1 1 0x200000).now) ∧
    ((spre 1 2 0x200000).ten 0).pstat = 2 ∧ ((spre 1 3 0x200000).ten 0).pstat = 3 ∧ contextLost (spre 1 3 0x200000) 0 0 = false ∧
    (withBlock s0 fun k => { k with tile := none }).block 0 0 ≠ none ∧ (blkOf s0).orphan = false ∧ (blkOf s0).held = [] := by decide +kernel
def sreg (a b : BitVec 3) (since now : Nat) : State :=
  { (s0.updRegion 0 fun k => { k with st := a, since := since }).updRegion (partner 0) (fun k => { k with st := b, since := since }) with now := now }
theorem witness_PowerAndLinkSteps :
    ((sreg 0 0 0 4000).region 0).lastAlarm + 4000 ≤ (sreg 0 0 0 4000).now ∧ ((sreg 0 0 0 0).region 0).st = 0 ∧
    (((sreg 3 3 0 0).region 0).st = 3 ∧ ((sreg 3 3 0 0).region (partner 0)).st = 3) ∧
    (let s := { sreg 1 1 0 0 with cores := [] }; (s.region 0).st = 1 ∧
      ((coresIn s (s.regionDomains 0 ++ s.regionDomains (partner 0))).all fun c => (s.core c).blocks.isEmpty) = true) ∧
    (((sreg 1 1 0 500000).region 0).st = 1 ∧ ((sreg 1 1 0 500000).region 0).since + 500000 ≤ (sreg 1 1 0 500000).now) ∧
    (((sreg 2 2 0 50000).region 0).st = 2 ∧ ((sreg 2 2 0 50000).region 0).since + 50000 ≤ (sreg 2 2 0 50000).now) ∧
    (((sreg 4 4 0 100000000).region 0).st = 4 ∧ ((sreg 4 4 0 100000000).region 0).since + 100000000 ≤ (sreg 4 4 0 100000000).now) ∧
    ((sreg 5 4 0 0).region 0).st = 5 ∧ ((sreg 3 0 0 0).region 0).st ≠ 4 ∧ ((sreg 3 0 0 0).region 0).st ≠ 5 ∧
    (63 < s0.nlive ∧ (s0.dom 63).lost = false ∧ s0.domDown 63 = false) ∧
    (s0.now < s0.mod.lastPulse + 1000000 ∧ (sreg 0 0 0 1000000).mod.lastPulse + 1000000 ≤ (sreg 0 0 0 1000000).now) ∧
    (idleCores (s0.updMod fun m => { m with bays := [(2 * 16, [0])] }) 1 ≠ 0 ∧ let l : KMap (Nat × Nat) := [(ctlBallast 0, (0, 1)), (ctlBallast 1, (0, 1)), (ctlThrottle 0, (0, 2)), (ctlThrottle 1, (0, 2))]
      ∀ r ∈ [0, 1], ∀ c ∈ [ctlBallast r, ctlThrottle r], (kget l c).map (·.1) = some 0) ∧
    (let s := s0.updMod fun m => { m with sorterUp := true, limits := [(ctlPoint 63 1, (2, 7)), (ctlBallast 1, (0, 1))] };
      s.mod.sorterUp = true ∧ kget s.mod.limits (ctlPoint 63 1) = some (2, 7) ∧ 63 < s.nlive ∧ 7 ≤ 7 ∧ 1 ≤ 1 ∧ 2 ≤ 2 ∧ 1 < 2 ∧
        kget s.mod.limits (ctlBallast 1) = some (0, 1) ∧ (s.updMod fun m => { m with sorterUp := false }).mod.sorterUp = false) ∧
    (s0.updMod fun m => { m with cxl := [(31, (true, true, 63, 1024))] }).cxlPort 31 = (true, true, 63, 1024) ∧
    ((s0.updMod fun m => { m with peers := [(23, (5, true, true, 0x80000000))] }).mod.peers.any fun q => q.2.2.2.1 && q.2.2.2.2.getLsbD 31) = true ∧
    (isDomainMem s0 0x8000 = true ∧ s0.homeDown 0 0x8000 = false ∧ (s0.tenants.find? fun p => p.2.st != 0 && p.2.vni == 1).isSome) := by
  decide +kernel
theorem witness_HostSteps :
    (63 < 64 ∧ 0 < s0.nlive ∧ vfTenant s0 0 = some 0 ∧ controlBlock 0x7FFF = false ∧ controlBlock 8 = false) ∧
    (let s := s0.updRing 0 4 fun r => { r with head := 0xFFFFFFFF, tail := 0xFFFFFFFF }; let r := (s.ten 0).ring 4;
      (s.ten 0).st = 1 ∧ (BitVec.ofNat 32 15 - r.head).toNat ≤ r.size ∧ r.count ≤ (BitVec.ofNat 32 15 - r.head).toNat ∧
      r.size < (BitVec.ofNat 32 16 - r.head).toNat) ∧
    (sm.memoryAt (sm.mod.apbase + 0x8000 % 2 ^ 36) = true ∧ sm.homeDown 0 0x8000 = false ∧ s0.mod.fwFetch = none ∧
      (hostXlat sm 0 ((sm.ten 0).apbase + 0x40000 % 2 ^ 36) (!(([] : List Byte).take 4096).isEmpty)).2 = none ∧ (hostXlat sm 0 ((sm.ten 0).apbase + 0x8000 % 2 ^ 36) true).2 = some 0x8000 ∧
      sealed (hostXlat sm 0 ((sm.ten 0).apbase + 0x8000 % 2 ^ 36) true).1 0 0x8000 4 = false) ∧
    (State.reset.mod.bootStep = 0 ∧ imageOk State.reset.mod.svnMin 1 [] = false) ∧
    (State.reset.updMod fun m => { m with mailbox := some [] }).mod.mailbox = some [] ∧
    (s0.mod.bootStep ≠ 1 ∧ s0.mod.ready = true ∧ s0.mod.beats ≠ 99 ∧ (s0.updMod fun m => { m with beats := 99 }).mod.beats = 99) ∧
    (let s := s0.updMod fun m => { m with sorterUp := true, limits := [(ctlWeight 63, (1, 9))] };
      s.mod.sorterUp = true ∧ kget s.mod.limits (ctlWeight 63) = some (1, 9) ∧ 63 < 64 ∧ 1 ≤ 9 ∧
        (∀ p, kget s.mod.limits (ctlWeight 62) = some p → 5 < p.1 ∨ p.2 < 5) ∧ s0.mod.sorterUp = false) ∧
    ((sreg 0 0 0 10000000).mod.ready = true ∧ (sreg 0 0 0 10000000).mod.lastBeat + 10000000 ≤ (sreg 0 0 0 10000000).now) ∧
    (let s := s0.updMod fun m => { m with sorterUp := true, limits := [(0x400000 + 65536 * 63 + 0x4800, (0, 1))] };
      s.mod.sorterUp = true ∧ 63 < s.nlive ∧ kget s.mod.limits (0x400000 + 65536 * 63 + 0x4800) = some (0, 1) ∧ 0 ≤ 1 ∧ 1 ≤ 1) := by
  refine ⟨by decide +kernel, by decide +kernel, by decide +kernel, by decide +kernel, by decide +kernel, by decide +kernel, ?_, by decide +kernel, by decide +kernel⟩
  exact ⟨by decide +kernel, by decide +kernel, by decide, by decide, fun p h => (by cases h), by decide +kernel⟩
/-- A tenant command, or an admin command, at its ring's HEAD at 0x8000. -/
def scmd (w : List W64) : State :=
  { sm with mem := writeWords sm.mem 0x8000 w }.updRing 0 ringCQ fun r => { r with base := 0x8000, en := true, tail := 1 }
def cmdRead (w : List W64) : State := (headCommand (scmd w) 0).1
def fwWords : List W64 := [3, 0, 0x10011, 0, 0x0000010000100001, 0, 0, 0]
theorem witness_TenantCommandSteps :
    (∀ p ∈ ([([1, 0x40000, 64, 0x9000, 0, 0, 0, 0], 1, 3, [4, 5, 6]), ([2, 0, 0, 0, 0, 0, 0, 0], 2, 1, []), (fwWords, 3, 6, []),
        ([4, 0x10000, 0, 0, 0, 0, 0, 0], 4, 1, []), ([5, 3, 0, 0, 0, 0, 0, 0], 5, 1, []), ([6, 0x8000, 64, 0, 0, 0, 0, 0], 6, 2, []),
        ([7, 0x9000, 0xA000, 0, 0, 0, 0, 0], 7, 2, [])] : List (List W64 × Nat × Nat × List Nat)),
      (headCommand (scmd p.1) 0).2 = some p.1 ∧ cmdOp p.1 = p.2.1 ∧ cmdPlain p.1 p.2.2.1 p.2.2.2 = true) ∧
    (loadObject (cmdRead [1, 0x40000, 64, 0x9000, 0, 0, 0, 0]) 0 0x40000 64 0x9000).2.1 ≠ 0 ∧
    kget ((sm.updTen 0 fun n => { n with codes := [(0, 4)] }).ten 0).codes 0 = some 4 ∧
    (let u := cmdRead fwWords
      let new := (fwWords.drop 2).take 5
      word fwWords 1 &&& ~~~0xF3F = 0 ∧ word fwWords 2 &&& ~~~0xFFF00F3 = 0 ∧ bits (word fwWords 2) 16 12 = (u.ten 0).vni ∧
        word fwWords 3 &&& ~~~0xFFFFFFFFFFF80 = 0 ∧ word fwWords 5 &&& ~~~0xFFFFFFFFFFFFF = 0 ∧ word fwWords 6 &&& ~~~0xFFFFFFFFFFFFF = 0 ∧
        (u.ten 0).domains.contains 0 = true ∧ kget (u.dom 0).fw 0 = none ∧ bit (word fwWords 2) 0 = true ∧
        windowRefused 0 new = false ∧ windowRefused 0 [0x10001, 0, 0x0000010000100001, 0, 0] = true) ∧
    ownsLine sm 0 (lineOf 0x10000) = true ∧
    (zeroBits 3 14 50 = true ∧ bits 3 0 2 = 3 ∧ ((sm.ten 0).counter 3 0).st ≠ 3 ∧
      (((sm.updTen 0 fun n => n.setCounter 3 0 { Counter.fresh with st := 3 }).ten 0).counter 3 0).st = 3) ∧
    ((tenantBytes (cmdRead [6, 0x8000, 64, 0, 0, 0, 0, 0]) 0 0x8000 64).2.isSome ∧ (tenantBytes (cmdRead [7, 0x9000, 0xA000, 0, 0, 0, 0, 0]) 0 0x9000 32).2.isSome ∧
      sm.mod.attests < 32768) := by decide +kernel
def sadm (w : List W64) : State :=
  { s0 with mem := writeWords [] 0x8000 w, tenants := [(1, { Tenant.fresh with st := 1, vni := 2, clean := true })] }.updPfRing ringCQ fun r =>
    { r with base := 0x8000, en := true, tail := 1 }
def withDrain (s : State) (op target : Nat) : State := s.updMod fun m => { m with drains := [⟨op, target, 0⟩], bays := [(0, List.range 15)] }
theorem witness_AdminCommandSteps :
    (∀ p ∈ ([([0x10, 0, 1, 0x9000, 0x1000, 0, 0, 0], 0x10, 6), ([0x11, 1, 0, 0, 0, 0, 0, 0], 0x11, 1), ([0x20, 0, 0, 0, 0, 0, 0, 0], 0x20, 2),
        ([0x21, 63, 0, 0, 0, 0, 0, 0], 0x21, 2), ([0x22, 63, 0, 0, 0, 0, 0, 0], 0x22, 2), ([0x23, 0, 0, 0, 0, 0, 0, 0], 0x23, 2),
        ([0x24, 0, 0, 0, 0, 0, 0, 0], 0x24, 2), ([0x25, 0x9000, 0xA000, 0x13F, 0, 0, 0, 0], 0x25, 3), ([0x26, 63, 0x9000, 5, 0, 0, 0, 0], 0x26, 3)] :
        List (List W64 × Nat × Nat)),
      adminHead (sadm p.1) = some p.1 ∧ cmdOp p.1 = p.2.1 ∧ cmdPlain p.1 p.2.2 [] = true) ∧
    (((sadm [0x10, 0, 1, 0x9000, 0x1000, 0, 0, 0]).ten 0).st = 0 ∧ 0 < 1 ∧ 4095 < 4096 ∧
      ((sadm [0x10, 0, 1, 0x9000, 0x1000, 0, 0, 0]).tenants.all fun p => p.2.st == 0 || p.2.vni != 1) = true ∧
      bits (word [0x10, 0, 1, 0x9000, 0x1000, 0x3F00, 3, 0] 5) 8 6 < (s0.updMod fun m => { m with numVfs := [0, 0, 0, 64] }).mod.numVfs.getD 3 0) ∧
    (let s := sadm [0x11, 1, 0, 0, 0, 0, 0, 0]; (s.ten 1).st = 1 ∧ (s.ten 1).clean = true ∧ s.mod.fwFetch = none ∧
      ((s.updTen 1 fun n => { n with st := 2 }).ten 1).st = 2 ∧ ((s.updTen 1 fun n => { n with clean := false }).ten 1).clean = false ∧
      jobBusy (s.updTen 1 fun n => { n with again := [(unitOf s).w] }) 1 = true) ∧
    (let s := withDrain s0 0x20 0; theDrain s0 = none ∧ advertises s 14 = true ∧ regionServes s 0 = true ∧ theDrain s = some ⟨0x20, 0, 0⟩ ∧
      drained { s with cores := [] } ⟨0x20, 0, 0⟩ = true ∧ 0 ≤ s.now ∧ 63 < s0.nlive ∧ regionServes s0 63 = true) ∧
    (word [0x25, 0x9000, 0xA000, 0x13F, 0, 0, 0, 0] 3 &&& ~~~0x13F = 0 ∧ s0.mod.attests < 32768) ∧
    (((s0.ten 63).counter 3 0).st ≠ 1 ∧ archProvided (zeros 16) = true) ∧ imageOk s0.mod.svnMin 1 [] = false := by decide +kernel
/-- The map of a tenant's cores: core 0 of bay 0 alone. -/
theorem witness_AdminCommandSteps_map :
    mapCores (1 :: List.replicate 1151 0) = [0] ∧ advertises (withDrain s0 0x20 0) 0 = true ∧ ownerOf { s0 with tenants := [] } 0 = none := by
  decide +kernel
/-- A native code object of one kernel (width 32, one register of each kind, 64 KiB of L1) whose one segment holds EXIT. -/
def fileWords : List W64 :=
  [0x000000014F435143, 0x00010001, 128, 64, 0, 0, 0, 0, 0, 0x01000001, 0x1000000000000, 0, 0, 0, 0, 0, 144, 12, 0xEE131, 0]
/-- The object at 0x10000, and LOAD at the tenant command ring's head. -/
def sload : State :=
  let u := scmd [1, 0x10000, 160, 0x9000, 0, 0, 0, 0]
  { u.updTen 0 (fun n => { n with codes := [] }) with mem := writeWords u.mem 0x10000 fileWords, images := [] }
theorem witness_TenantCommandSteps_load :
    (headCommand sload 0).2 = some [1, 0x10000, 160, 0x9000, 0, 0, 0, 0] ∧
    (match tenantBytes (headCommand sload 0).1 0 0x10000 160 with
    | (u, some bs) => (nativeOf bs).toOption.isSome && (sweepImages u).images.isEmpty && decide (((sweepImages u).ten 0).codes.length < 65536) &&
        decide ((readFile bs).map (fun f => f.dataLen) = some 0) && (match nativeOf bs with | .ok n => decide (storeUsed (sweepImages u) + n.segs.length ≤ 32768) && n.segs.length == 1 | _ => false)
    | _ => false) = true := by decide +kernel

/-! One step each from the state after reset with the words placed: results worked out by hand from the rules. -/
/-- The group after the first step with the words `w`, on a group changed by `f` in a block changed by `k`. -/
def grp1 (n w : Nat) (f : Group → Group) (k : Block → Block := id) : Group :=
  match step (((State.reset.withFetchWord n w).updGroup 0 0 0 f).updBlock 0 0 k) with
  | .next t => (t.group 0 0 0).getD (Group.start probeKernel 0 0)
  | _ => Group.start probeKernel 0 0
/-- R176, R177, R231: the worked word of a base form: v3 := v9 − 5, at 4 bytes. -/
theorem test_step_base_add : (let g := grp1 32 0xF6241818 fun g => { g with v := zset g.v (9 * 64) 3 }
    zget g.v (3 * 64) = 0xFFFFFFFE ∧ zget g.v (3 * 64 + 1) = 0xFFFFFFFB ∧ (g.frontier.map (·.pc)) = [⟨0, 4⟩]) := by decide +kernel
/-- R231: addition wraps. -/
theorem test_step_iadd_wraps : zget (grp1 96 0x00002800_00000801_030EE801 fun g =>
    { g with v := zset (zset g.v 64 0xFFFFFFFF) 128 1 }).v (3 * 64) = 0 := by decide +kernel
/-- R235, R236: 1 + 2 = 3 in binary32. -/
theorem test_step_fadd : zget (grp1 96 0x0000C000_00000C02_010EE901 fun g =>
    { g with v := zset (zset g.v 128 0x3F800000) 192 0x40000000 }).v 64 = 0x40400000 := by decide +kernel
/-- R206: a 64-bit difference below zero; its guard is the complement of q2. -/
theorem test_step_usub : zget (grp1 96 0x00003000_00001C06_050F4009 fun g => { g with s := zset (zset g.s 6 1) 7 2 }).s 5 = -1 ∧
    zget (grp1 96 0x00003000_00001C06_050F4009 fun g => { g with q := 4, s := zset (zset g.s 6 1) 7 2 }).s 5 = 0 := by decide +kernel
/-- R242: −3.5 to a signed integer, toward zero. -/
theorem test_step_cvt : zget (grp1 96 0x00026800_00000002_010EE981 fun g => { g with v := zset g.v 128 0xC0600000 }).v 64 = 0xFFFFFFFD := by
  decide +kernel
/-- R207: equal operands set q2. -/
theorem test_step_ucmp : (grp1 32 0x080C11B0 fun g => { g with s := zset (zset g.s 3 7) 4 7 }).q = 4 := by decide +kernel
/-- R174: a base form with a literal stands at 12 bytes; R246: MOV's literal, in every lane. -/
theorem test_step_mov_literal : (let g := grp1 96 0x77_0000280B id; zget g.v (5 * 64 + 31) = 0x77 ∧ (g.frontier.map (·.pc)) = [⟨0, 12⟩]) := by
  decide +kernel
/-- R211: a branch by its literal from its own address. -/
theorem test_step_bra : ((grp1 160 0x00000000_00000028_08000000_00000000_000EE102 id).frontier.map (·.pc)) = [⟨0, 40⟩] := by decide +kernel
/-- R250: a ballot of p1 over 32 active lanes, on its way. -/
theorem test_step_vote : ((grp1 96 0x00080000_00000001_080EEA09 fun g => { g with p := zset g.p 1 5 }).pend.map (·.2.wb)) = [.uni 8 5] := by
  decide +kernel
/-- R217: every lane exits. -/
theorem test_step_exit : (let g := grp1 96 0xEE131 id; g.frontier = [] ∧ g.exited = 0xFFFFFFFF) := by decide +kernel
/-- R184, R185: a reserved opcode takes ILLOP to the handler; the trap saves the pc and the mask. -/
theorem test_step_illop : (let g := grp1 96 0x000EE099 id fun k => { k with kern := { k.kern with trap := some ⟨2, 0x80⟩ } }
    g.handler.isSome ∧ (g.frontier.map (·.pc)) = [⟨2, 0x80⟩] ∧ g.xcode = 0x01 ∧ g.xmask = 0xFFFFFFFF ∧ g.xpc = 0) := by decide +kernel

/-- An instruction with words (R174), with every field of a form that has them all. -/
def someAtom : Instr := .atom { Ext.plain with d := 4, a := 6, b := 8, c := 2, ty := 0xB, mod6 := 0x3B, aux8 := 0x06 }
theorem witness_DecodeAndEncodeAgree : someAtom.form ≠ .event ∧ someAtom.WellFormed = true :=
  ⟨by simp [someAtom, Instr.form], by decide +kernel⟩
/-- The state of the turn of group 0, and what `step` makes ready. -/
def turnOf (s : State) : State := { noteGroups { s with tick := s.tick + 1 } with turns := [], cur := ⟨0, 0, some 0⟩ }
def readyOf (s : State) : State := (readyAgent (turnOf s)).1
def ready1 (w : Nat) : State := readyOf (State.reset.withFetchWord 96 w)
/-- A state whose schedule is one turn of group 0, which may issue. -/
theorem takesTurn0 {s : State} (h : (s.turns == [.agent ⟨0, 0, some 0⟩] && !outranked (turnOf s) 0 0 0 && (readyAgent (turnOf s)).2) = true) :
    takesTurn s ⟨0, 0, some 0⟩ (readyOf s) := by
  simp only [Bool.and_eq_true, beq_iff_eq, Bool.not_eq_true'] at h
  obtain ⟨⟨a, b⟩, c⟩ := h
  exact ⟨[], a, fun g hg => by cases hg; exact b, sndOf c⟩
/-- The words of an instruction as one number, the first word lowest. -/
def numOf (ws : List W32) : Nat := ws.foldr (fun w n => w.toNat + 2 ^ 32 * n) 0
/-- UCMP with the code ord, which is no instruction; a group that stands in a segment that is in no slot. -/
def ucmpOrd : Ext := { p0 with ty := 0xC, mod6 := 6, d := 1, a := 2, b := 3 }
def sord : State := State.reset.withFetchWord 96 (numOf (encodeExt Rows.ucmp ucmpOrd))
def smiss : State := (State.reset.withFetchWord 96 0).updGroup 0 0 0 fun g => { g with frontier := g.frontier.map fun e => { e with pc := ⟨5, 0⟩ } }
theorem witness_UniformPredicateResult_ord : takesTurn sord ⟨0, 0, some 0⟩ (readyOf sord) ∧ nextPc (readyOf sord) = some ⟨0, 0⟩ ∧
    (here (readyOf sord)).isSome ∧ (ucmpOrd.mod6 = 6 ∨ ucmpOrd.mod6 = 7) ∧
    ((readyOf sord).core 0).wordsAt ⟨0, 0⟩ = some (true, encodeExt Rows.ucmp ucmpOrd ++ ((((readyOf sord).core 0).wordsAt ⟨0, 0⟩).getD (true, [])).2.drop 3) :=
  ⟨takesTurn0 (by decide +kernel), by decide +kernel, by decide +kernel, by decide, by decide +kernel⟩
theorem witness_HandlerReturns_miss : takesTurn smiss ⟨0, 0, some 0⟩ (readyOf smiss) ∧ nextPc (readyOf smiss) = some ⟨5, 0⟩ ∧
    (here (readyOf smiss)).isSome ∧ ((readyOf smiss).core 0).wordsAt ⟨5, 0⟩ = none :=
  ⟨takesTurn0 (by decide +kernel), by decide +kernel, by decide +kernel, by decide +kernel⟩
theorem witness_StepRunsTheInstruction :
    (let s := State.reset.withFetchWord 96 0xEE131; takesTurn s ⟨0, 0, some 0⟩ (ready1 0xEE131)) ∧
    (nextPc (ready1 0xEE131) = some ⟨0, 0⟩ ∧ fetch ((ready1 0xEE131).core 0) ⟨0, 0⟩ = .instr (.exit Ext.plain) ∧ (here (ready1 0xEE131)).isSome) ∧
    (let k := (ready1 0xEE131).core 0; k.wordsAt ⟨0, 0⟩ = some (true, encode (.exit Ext.plain) ++ List.drop 3 ((k.wordsAt ⟨0, 0⟩).getD (true, [])).2) ∧
      k.wordsAt ⟨5, 0⟩ = none ∧ (k.wordsAt ⟨0, 2⟩).map (·.1) = some false ∧ (Instr.exit Ext.plain).WellFormed = true) ∧
    (decode (((((ready1 0x000EE099).core 0).wordsAt ⟨0, 0⟩).getD (true, [])).2)).toOption = none ∧
    (((ready1 0).core 0).wordsAt ⟨0, 0⟩).map (·.1) = some true ∧
    (let s := ready1 0; s.cur = ⟨0, 0, some 0⟩ ∧ (blkOf s).started = true ∧ (grpOf s).ended = false ∧ (grpOf s).resident = true ∧
      (grpOf s).park = none ∧ (selectEntry (grpOf s)).isSome ∧ (grpOf s).late = []) ∧
    eventOf (.tenantReset 3) = some (.tenantReset 3) :=
  ⟨takesTurn0 (by decide +kernel), by decide +kernel, by decide +kernel, by decide +kernel, by decide +kernel, by decide +kernel, by decide +kernel⟩
/-- R338, R340, R347-R350: the spec's example of a portable kernel (REGS 4, WIDTH 0): its Ifeut words, and the words of the
translation, with base forms wherever the translator has the choice. -/
def ifeutWords : List W32 :=
  [0x000EE1C1, 0, 0x0D040000, 0x020EF001, 0, 0x00003C00, 0x030EE802, 2, 0x00002800, 1, 0, 0x000EF009, 0x00300000, 0x04003C00,
    0x000EE131, 0, 0]
def ifeutFile : CodeFile := ⟨true, 1, [(0, ifeutWords)], [[0, 0x10000004, 0, 0, 64, 0, 0, 0]], 0, 0⟩
theorem test_translate_example : (translateWith (fun _ => 0) [] ifeutFile).map (fun q => q.2.1) =
    some [(0, [0x000EE9D1, 0, 0x00040000, 0x1174, 0x02081818, 0x000EF009, 0x00300000, 0x04003C00, 0x1C0])] := by decide +kernel
/-- The example's last outcome: the same section with a SHFL and WIDTH 0 is refused (R344);
without the SHFL, or with WIDTH 4, it is not. -/
theorem test_translate_refused : (portableSection ifeutFile).isSome = true ∧
    (portableSection { ifeutFile with segs := [(0, [0x010EEA01, 0x00000C02, 0x000C0000] ++ ifeutWords)] }).isNone = true ∧
    (portableSection { ifeutFile with segs := [(0, [0x010EEA01, 0x00000C02, 0x000C0000] ++ ifeutWords)],
                                      kerns := [[128, 0x10000004, 0, 0, 64, 0, 0, 0]] }).isSome = true := by
  decide +kernel
/-- SHA-256 of the three bytes "abc" (FIPS 180-4's example), the digest's first byte lowest. -/
theorem test_sha256_abc : (bigBytes 32 0xBA7816BF8F01CFEA414140DE5DAE2223B00361A396177A9CB410FF61F20015AD) =
    leBytes 32 (sha256 [0x61, 0x62, 0x63]).toNat := by decide +kernel

/-- A step from the state after reset, whose invariant `ResetState` states, answers a state. -/
theorem witness_MemoryStaysCanonical : Memory.wf (State.reset.withFetchWord 96 0xEE131).mem = true ∧
    (match step (State.reset.withFetchWord 96 0xEE131) with | .next _ => true | _ => false) = true := by decide +kernel

end Sys2Proof.Tests
end

section
namespace Sys2Proof.Machine
open Sys2Proof

/-! ### The frontier (R13, R15, R17, R21) -/

/-- An entry without lanes is none (R15). -/
theorem addEntry_empty (es : List Entry) {e : Entry} (h : e.mask = 0) : addEntry es e = es := by
  cases es <;> simp [addEntry, h]

/-- An entry goes past those at other PCs. -/
theorem addEntry_past {x e : Entry} (r : List Entry) (he : e.mask ≠ 0) (hx : x.pc ≠ e.pc) :
    addEntry (x :: r) e = x :: addEntry r e := by
  rw [addEntry, if_neg (by simpa using he), if_neg hx]

/-- An entry merges with the one at its PC: the masks are united, and a merged entry waits only where one of them did (R15). -/
theorem addEntry_merge {x e : Entry} (r : List Entry) (he : e.mask ≠ 0) (hx : x.pc = e.pc) :
    ∃ m, addEntry (x :: r) e = m :: r ∧ m.pc = e.pc ∧ m.mask = x.mask ||| e.mask ∧ (x.wait = none → m.wait = e.wait) := by
  rw [addEntry, if_neg (by simpa using he), if_pos hx]
  exact ⟨_, rfl, hx, rfl, fun h => by simp [h]⟩

/-- An entry at a PC that no other holds joins at the end. -/
theorem addEntry_new (es : List Entry) {e : Entry} (he : e.mask ≠ 0) (hes : ∀ x ∈ es, x.pc ≠ e.pc) : addEntry es e = es ++ [e] := by
  induction es with
  | nil => rw [addEntry, if_neg (by simpa using he)]; rfl
  | cons x r ih =>
    simp only [List.mem_cons, forall_eq_or_imp] at hes
    rw [addEntry_past r he hes.1, ih hes.2, List.cons_append]

/-- A lane is in a list of entries at a PC. -/
def laneAt (es : List Entry) (p : Pc) (l : Nat) : Prop := ∃ f ∈ es, f.pc = p ∧ f.mask.getLsbD l = true

theorem laneAt_cons (x : Entry) (r : List Entry) (p : Pc) (l : Nat) :
    laneAt (x :: r) p l ↔ (x.pc = p ∧ x.mask.getLsbD l = true) ∨ laneAt r p l := by
  simp [laneAt]

theorem mask_ne_zero_of_lane {m : Lanes} {l : Nat} (h : m.getLsbD l = true) : m ≠ 0 := fun h0 => by simp [h0] at h

/-- The lanes of an entry that joins stand at its PC (R15). -/
theorem addEntry_joins (es : List Entry) (e : Entry) {l : Nat} (hl : e.mask.getLsbD l = true) : laneAt (addEntry es e) e.pc l := by
  have he := mask_ne_zero_of_lane hl
  induction es with
  | nil => rw [addEntry_new [] he (by simp)]; exact ⟨e, by simp, rfl, hl⟩
  | cons x r ih =>
    by_cases hx : x.pc = e.pc
    · obtain ⟨m, hm, hp, hk, -⟩ := addEntry_merge r he hx
      rw [hm, laneAt_cons]
      exact .inl ⟨hp, by simp [hk, hl]⟩
    · rw [addEntry_past r he hx, laneAt_cons]
      exact .inr ih

/-- A lane that stands at a PC stays there when an entry joins (R15). -/
theorem addEntry_keeps_lane {es : List Entry} {p : Pc} {l : Nat} (e : Entry) (h : laneAt es p l) : laneAt (addEntry es e) p l := by
  by_cases he : e.mask = 0
  · rwa [addEntry_empty es he]
  induction es with
  | nil => simp [laneAt] at h
  | cons x r ih =>
    rw [laneAt_cons] at h
    by_cases hx : x.pc = e.pc
    · obtain ⟨m, hm, hp, hk, -⟩ := addEntry_merge r he hx
      rw [hm, laneAt_cons]
      exact h.imp_left fun ⟨h1, h2⟩ => ⟨hp.trans (hx.symm.trans h1), by simp [hk, h2]⟩
    · rw [addEntry_past r he hx, laneAt_cons]
      exact h.imp_right ih

/-- Entries that do not wait stay so when one that does not wait joins. -/
theorem addEntry_noWait {es : List Entry} {e : Entry} (hes : ∀ f ∈ es, f.wait = none) (hw : e.wait = none) :
    ∀ f ∈ addEntry es e, f.wait = none := by
  by_cases he : e.mask = 0
  · rwa [addEntry_empty es he]
  induction es with
  | nil => simpa [addEntry_new [] he] using hw
  | cons x r ih =>
    simp only [List.mem_cons, forall_eq_or_imp] at hes
    by_cases hx : x.pc = e.pc
    · obtain ⟨m, hm, -, -, hwait⟩ := addEntry_merge r he hx
      rw [hm, List.forall_mem_cons]
      exact ⟨(hwait hes.1).trans hw, hes.2⟩
    · rw [addEntry_past r he hx, List.forall_mem_cons]
      exact ⟨hes.1, ih hes.2⟩

theorem foldl_addEntry_noWait {es rest : List Entry} (hes : ∀ e ∈ es, e.wait = none) (hr : ∀ f ∈ rest, f.wait = none) :
    ∀ f ∈ es.foldl addEntry rest, f.wait = none := by
  induction es generalizing rest with
  | nil => exact hr
  | cons e r ih =>
    simp only [List.mem_cons, forall_eq_or_imp] at hes
    exact ih hes.2 (addEntry_noWait hr hes.1)

/-- With no RECONV that can proceed, none proceeds (R21). -/
theorem settleReconv_idle (w n : Nat) (g : Group) (h : ∀ f ∈ g.frontier, reconvMet g w f = none) : settleReconv w n g = g := by
  cases n with
  | zero => rfl
  | succ n =>
    have : g.frontier.find? (fun e => (reconvMet g w e).isSome) = none :=
      List.find?_eq_none.mpr fun f hf => by simp [h f hf]
    simp [settleReconv, this]

/-- Where no entry waits and those that join do not, nothing but the joining happens (R15, R17). -/
theorem replaceEntry_noWait (g : Group) (w : Nat) (pc : Pc) (es : List Entry) (hg : ∀ f ∈ g.frontier, f.wait = none)
    (hes : ∀ e ∈ es, e.wait = none) :
    (replaceEntry g w pc es).frontier = es.foldl addEntry (g.frontier.filter fun x => x.pc != pc) ∧
    ∀ f ∈ (replaceEntry g w pc es).frontier, f.wait = none := by
  have hall := foldl_addEntry_noWait hes fun f (hf : f ∈ g.frontier.filter fun x => x.pc != pc) => hg f (List.mem_filter.mp hf).1
  have hr : (replaceEntry g w pc es).frontier = es.foldl addEntry (g.frontier.filter fun x => x.pc != pc) :=
    congrArg Group.frontier (settleReconv_idle _ _ _ fun f hf => by simp [reconvMet, hall f hf])
  exact ⟨hr, hr ▸ hall⟩

/-- Settles O8: both parts of the divided entry join the frontier, and a lane in either stays where its part joined. -/
theorem divisionKeepsLanes : Obligations.DivisionKeepsLanes := by
  intro g w pc e next taken t pr l hw he hl g'
  have hwait : e.wait = none := hw e (List.mem_of_find?_eq_some he)
  have hl64 : l < 64 := BitVec.lt_of_getLsbD hl
  obtain ⟨hr, hall⟩ := replaceEntry_noWait g w pc
    [{ e with pc := next, mask := e.mask &&& ~~~taken }, { e with pc := t, prio := pr, mask := e.mask &&& taken, slot := none }]
    hw (by simp [hwait])
  have stands : laneAt g'.frontier (if taken.getLsbD l then t else next) l := by
    simp only [g', hr, List.foldl_cons, List.foldl_nil]
    cases ht : taken.getLsbD l with
    | true => exact addEntry_joins _ { e with pc := t, prio := pr, mask := e.mask &&& taken, slot := none } (by simp [hl, ht])
    | false =>
      exact addEntry_keeps_lane _ (addEntry_joins _ { e with pc := next, mask := e.mask &&& ~~~taken } (by simpa [hl, hl64] using ht))
  obtain ⟨f, hf, hp, hm⟩ := stands
  exact ⟨f, hf, hm, hp, hall f hf⟩

end Sys2Proof.Machine
end

section
namespace Sys2Proof.Machine
open Sys2Proof

/-! ### Instructions that move their group's frontier themselves (R17-R22, R187) -/

/-- An instruction that moved the frontier itself leaves its group at the end of its issue (R187). -/
theorem departed_updGroup {u : State} {h : Here} {g : Group} (hg : u.group h.c h.b h.g = some g) (ht : u.tick = h.tick)
    (sb : Bool) (f : Group → Group) :
    h.departed sb (u.updGroup h.c h.b h.g f) = u.updGroup h.c h.b h.g fun _ => h.ending sb (f g) := by
  rw [Here.departed, finishIssue, State.updGroup_updGroup]
  refine updGroup_to _ _ _ _ _ hg ?_
  simp [Here.ending, ht]

/-- An issue that opens and then updates its group does both at once, with the opportunity counted. -/
theorem openIssue_updGroup {s : State} {h : Here} (hh : here s = some h) (f : Group → Group) :
    (openIssue s h).updGroup h.c h.b h.g f = s.updGroup h.c h.b h.g fun _ => f h.counted := by
  rw [openIssue, State.updGroup_updGroup]
  exact updGroup_to _ _ _ _ _ (here_group hh) rfl

/-- A p-guarded instruction with active lanes that passes its checks issues what it does to them. -/
theorem vecIssue_exec {i : Instr} {s : State} {r : Row} {x : Ext} {len : Nat} {h : Here} {glob : Bool}
    {empty : Here → State → Out} {act : Here → State → Lanes → Out} (hv : VecIssue i s r x len h glob) (ht : r.tile = false)
    (hb : groupBody r.xop len x = vecBody r x glob empty act) :
    exec i s = .next (settleOut h len x.s (act h (openIssue s h) (h.active x))) := by
  obtain ⟨hi, hh, hv⟩ := hv
  rw [exec_of_issued hi ht, issueGroup_here hh, hb, vecBody_issues hv]

/-- A q-guarded instruction that passes its checks issues what it does. -/
theorem uniIssue_exec {i : Instr} {s : State} {r : Row} {x : Ext} {len : Nat} {h : Here} {glob : Bool}
    {priv : Here → Bool} {act : Here → State → Out} (hu : UniIssue i s r x len h glob) (ht : r.tile = false)
    (hb : groupBody r.xop len x = uniBody r x glob priv act) (hp : priv h = true) :
    exec i s = .next (settleOut h len x.s (act h (openIssue s h))) := by
  obtain ⟨hi, hh, hv⟩ := hu
  rw [exec_of_issued hi ht, issueGroup_here hh, hb, uniBody_issues hv hp]

/-- RECONV has no base form (R202). -/
theorem base_row_ne_reconv {i : Instr} {r : BaseRow} {b : Base} (h : i.form = .base r b) : r.row.xop ≠ Rows.reconv.xop := by
  cases i <;> simp only [Instr.form, Form.base.injEq, reduceCtorEq] at h <;> (obtain ⟨rfl, -⟩ := h; decide)

/-- So its length is that of an extended instruction. -/
theorem issued_reconv_len {i : Instr} {x : Ext} {len : Nat} (h : i.issued = some (Rows.reconv, x, len)) : len = extLen x := by
  unfold Instr.issued at h
  split at h
  · simp only [Option.some.injEq, Prod.mk.injEq] at h
    obtain ⟨-, rfl, rfl⟩ := h
    rfl
  · rename_i hf
    simp only [Option.some.injEq, Prod.mk.injEq] at h
    exact absurd (congrArg Row.xop h.1) (base_row_ne_reconv hf)
  · cases h

/-- EXIT (R22). -/
theorem exit_departs {i : Instr} {x : Ext} {len : Nat} {s : State} {h : Here} (hv : VecIssue i s Rows.exit x len h false) :
    let drop (e : Entry) : Entry := { e with mask := e.mask &&& ~~~h.active x }
    let u := s.updGroup h.c h.b h.g fun _ => { h.counted with
      exited := h.grp.exited ||| h.active x
      handler := h.grp.handler.map fun hd => { hd with saved := (hd.saved.map drop).filter fun e => e.mask != 0 } }
    exec i s = .next (h.departed x.s (afterExit (divide u h len (h.active x) []) h.c h.b
      (match h.grp.handler with | some hd => hd.isPreempt && hd.resumed | none => false))) := by
  rw [vecIssue_exec hv rfl (congrFun (groupBody_exit len) x)]
  simp only [openIssue_updGroup hv.2.1, settleOut]
  rfl

/-- YLD demotes its entry (R20). -/
theorem yld_demotes {i : Instr} {x : Ext} {len : Nat} {s : State} {h : Here} {e : Entry}
    (hv : VecIssue i s Rows.yld x len h false) (he : entryAt h.counted h.ent.pc = some e) :
    exec i s = .next (s.updGroup h.c h.b h.g fun _ => h.ending x.s
      (replaceEntry h.counted h.width h.ent.pc [{ e with pc := h.ent.pc.plus len, demoted := true }])) := by
  obtain ⟨-, -, -, ht, -⟩ := here_spec hv.2.1
  rw [vecIssue_exec hv rfl (congrFun (groupBody_yld len) x), openIssue_updGroup hv.2.1]
  simp only [he]
  exact congrArg _ (departed_updGroup (here_group hv.2.1) ht.symm x.s fun _ => _)

/-- RECONV's entry waits (R21, R217). -/
theorem reconv_waits {i : Instr} {x : Ext} {len : Nat} {s : State} {h : Here} (hv : VecIssue i s Rows.reconv x len h false) :
    let q := fetchSrcs s h Rows.reconv x (h.lanes x)
    let w : Wait := .reconv (q.1.a 0 &&& lanesBelow h.width) (h.ent.pc.plus len)
    exec i s = .next (q.2.updGroup h.c h.b h.g fun _ => h.ending x.s (settleReconv h.width h.grp.frontier.length
      { h.counted with frontier := h.counted.frontier.map fun e => if e.pc = h.ent.pc then { e with wait := some w } else e })) := by
  obtain ⟨-, -, -, ht, -⟩ := here_spec hv.2.1
  obtain rfl := issued_reconv_len hv.1
  intro q w
  have hg : q.2.group h.c h.b h.g = some h.grp := (fetchSrcs_group ..).trans (here_group hv.2.1)
  have hlen : h.counted.frontier.length = h.grp.frontier.length := by simp [Here.counted, countIssue]
  rw [vecIssue_exec hv rfl (congrFun (groupBody_reconv _) x), ← hlen]
  simp only [openIssue, fetchSrcs_updGroup, waitAt, State.updGroup_updGroup]
  exact congrArg _ (departed_updGroup hg ((fetchSrcs_tick ..).trans ht.symm) x.s _)

/-- Settles O9: each of the three instructions at the end of its issue. -/
theorem entryMoves : Obligations.EntryMoves :=
  ⟨fun _ _ _ _ _ hv => exit_departs hv, fun _ _ _ _ _ _ hv he => yld_demotes hv he, fun _ _ _ _ _ hv => reconv_waits hv⟩

end Sys2Proof.Machine
end

section
namespace Sys2Proof.Machine
open Sys2Proof

/-! ### Special registers (R29, R209, R223, R405) -/

/-- An instruction that completes after an update of its group leaves the group advanced. -/
theorem settle_fin_updGroup {u : State} {h : Here} {g : Group} (hg : u.group h.c h.b h.g = some g) (ht : u.tick = h.tick)
    (len : Nat) (sb : Bool) (f : Group → Group) :
    settleOut h len sb (.fin (u.updGroup h.c h.b h.g f)) = u.updGroup h.c h.b h.g fun _ => h.advanced len sb (f g) := by
  rw [settle_fin _ h len sb (by rw [State.updGroup_group_self, hg]; rfl) (by simpa using ht), State.updGroup_updGroup]

/-- A result in a register is no push, and completes. -/
theorem finPush_register (s0 u : State) {x : Ext} (h : x.dcl = false) : finPush s0 x (u, true) = .fin u := by
  simp [finPush, h]

/-- The issue's count does not show in a special register. -/
theorem readSpecial_openIssue (s : State) (h : Here) (n : BitVec 8) (l : Nat) :
    readSpecial (openIssue s h) h n l = readSpecial s h n l := by
  have hc : ovlWord ((openIssue s h).core h.c) = ovlWord (s.core h.c) := by rw [openIssue, State.updGroup_core]; rfl
  unfold readSpecial
  simp only [hc]
  rfl

/-- RDSR into a uniform register (R223). -/
theorem rdsr_uniform {i : Instr} {x : Ext} {len : Nat} {s : State} {h : Here} (hu : UniIssue i s Rows.rdsr x len h false)
    (hm : specialMode x h = true) (hd : x.dcl = false) (h0 : x.mod6.getLsbD 0 = false) (hq : h.grp.uniIdle x.d.toNat) :
    exec i s = .next (s.updGroup h.c h.b h.g fun _ => h.advanced len x.s
      (h.counted.setS (zset h.grp.s x.d.toNat (readSpecial s h x.aux8 0)))) := by
  obtain ⟨-, -, -, ht, -⟩ := here_spec hu.2.1
  rw [uniIssue_exec hu rfl (congrFun (groupBody_rdsr len) x) hm]
  simp only [h0, Bool.false_eq_true, if_false, dstUni, hd, finPush_register _ _ hd, readSpecial_openIssue, openIssue_updGroup hu.2.1]
  rw [settle_fin_updGroup (here_group hu.2.1) ht.symm, putS_idle h.counted _ _ _ hq]
  rfl

theorem low_half_of_masked (w : W64) : (w &&& 0xFFFFFFFF).extractLsb' 0 32 = w.extractLsb' 0 32 := by
  have h : w.toNat &&& 4294967295 = w.toNat % 2 ^ 32 := Nat.and_two_pow_sub_one_eq_mod w.toNat 32
  apply BitVec.eq_of_toNat_eq
  simp [h]

/-- RDSR into a vector register, each lane its own value (R223). -/
theorem rdsr_lanes {i : Instr} {x : Ext} {len : Nat} {s : State} {h : Here} (hu : UniIssue i s Rows.rdsr x len h false)
    (hm : specialMode x h = true) (hd : x.dcl = false) (h0 : x.mod6.getLsbD 0 = true) (hq : h.destIdle Rows.rdsr x) :
    ∃ v, exec i s = .next (s.updGroup h.c h.b h.g fun _ => h.advanced len x.s (h.counted.setV v)) ∧
      vecWritten h.grp.v v false x.d.toNat (laneList h.width h.ent.mask) (fun l => readSpecial s h x.aux8 l) := by
  obtain ⟨-, -, -, ht, -⟩ := here_spec hu.2.1
  have hk : isVec Rows.rdsr.d x = true := h0
  have hp : pairOf Rows.rdsr.d x = false := rfl
  rw [uniIssue_exec hu rfl (congrFun (groupBody_rdsr len) x) hm]
  simp only [h0, if_true, dstVec, hd, hk, hp, Bool.false_eq_true, if_false, finPush_register _ _ hd, readSpecial_openIssue,
    openIssue_updGroup hu.2.1]
  rw [settle_fin_updGroup (here_group hu.2.1) ht.symm, foldl_putV _ h.counted h.tick x.d.toNat fun l => (hq l).1]
  obtain ⟨hl, hframe⟩ := vecWritten_single (laneList h.width h.ent.mask) (fun l => readSpecial s h x.aux8 l &&& 0xFFFFFFFF) h.grp.v
    x.d.toNat (laneList_nodup _ _) fun l hl => laneList_lt hl
  exact ⟨_, rfl, fun l hm => ⟨(hl l hm).1.trans (low_half_of_masked _), fun h => by cases h⟩, hframe⟩

/-- RDSR's values (R223): what its rule gives each register of the group, the block and its launch. -/
theorem readSpecial_block (s : State) (h : Here) (l : Nat) (x y z : Nat) :
    let w (i lo n : Nat) := bits (word h.blk.record i) lo n
    0 < w 4 0 24 → 0 < w 4 24 16 → x < w 4 0 24 → y < w 4 24 16 → h.blk.index = x + w 4 0 24 * (y + w 4 24 16 * z) →
    readSpecial s h 0x03 l = BitVec.ofNat 64 x ∧ readSpecial s h 0x04 l = BitVec.ofNat 64 y ∧
      readSpecial s h 0x05 l = BitVec.ofNat 64 z := by
  intro w hgx hgy hx hy hi
  have ex : max 1 (recGx h.blk.record) = w 4 0 24 := Nat.max_eq_right hgx
  have ey : max 1 (recGy h.blk.record) = w 4 24 16 := Nat.max_eq_right hgy
  have dx : h.blk.index / w 4 0 24 = y + w 4 24 16 * z := by
    rw [hi, Nat.add_mul_div_left _ _ hgx, Nat.div_eq_of_lt hx, Nat.zero_add]
  refine ⟨?_, ?_, ?_⟩
  · change BitVec.ofNat 64 (h.blk.index % max 1 (recGx h.blk.record)) = _
    rw [ex, hi, Nat.add_mul_mod_self_left, Nat.mod_eq_of_lt hx]
  · change BitVec.ofNat 64 (h.blk.index / max 1 (recGx h.blk.record) % max 1 (recGy h.blk.record)) = _
    rw [ex, ey, dx, Nat.add_mul_mod_self_left, Nat.mod_eq_of_lt hy]
  · change BitVec.ofNat 64 (h.blk.index / max 1 (recGx h.blk.record) / max 1 (recGy h.blk.record)) = _
    rw [ex, ey, dx, Nat.add_mul_div_left _ _ hgy, Nat.div_eq_of_lt hy, Nat.zero_add]

/-- The state of an overlay slot as %ovl shows it (R209). -/
def slotState (k : Core) (i : Nat) : BitVec 2 := ((kget k.slots i).map fun w => w.state).getD 0

/-- %ovl is the slots' states, slot 0 lowest. -/
theorem ovlWord_toNat (k : Core) : ovlWord k = BitVec.ofNat 64 (((List.range 8).map fun i => (slotState k i).toNat * 4 ^ i).sum) := by
  unfold ovlWord slotState
  congr 3
  funext i
  cases kget k.slots i <;> rfl

/-- %ovl has two bits for each of eight slots (R209). -/
theorem ovlWord_fields (k : Core) :
    (∀ i < 8, (ovlWord k).extractLsb' (2 * i) 2 = slotState k i) ∧ (ovlWord k).extractLsb' 16 48 = 0 := by
  have h := fun i => (slotState k i).isLt
  rw [ovlWord_toNat]
  have e : (((List.range 8).map fun i => (slotState k i).toNat * 4 ^ i).sum) =
      (slotState k 0).toNat + (slotState k 1).toNat * 4 + (slotState k 2).toNat * 16 + (slotState k 3).toNat * 64 +
      (slotState k 4).toNat * 256 + (slotState k 5).toNat * 1024 + (slotState k 6).toNat * 4096 + (slotState k 7).toNat * 16384 := by
    simp [List.range_succ]
    omega
  have h0 := h 0; have h1 := h 1; have h2 := h 2; have h3 := h 3; have h4 := h 4; have h5 := h 5; have h6 := h 6; have h7 := h 7
  constructor
  · intro i hi
    apply BitVec.eq_of_toNat_eq
    rw [e]
    simp only [BitVec.extractLsb'_toNat, BitVec.toNat_ofNat, Nat.shiftRight_eq_div_pow]
    obtain rfl | rfl | rfl | rfl | rfl | rfl | rfl | rfl : i = 0 ∨ i = 1 ∨ i = 2 ∨ i = 3 ∨ i = 4 ∨ i = 5 ∨ i = 6 ∨ i = 7 := by omega
    all_goals omega
  · apply BitVec.eq_of_toNat_eq
    rw [e]
    simp only [BitVec.extractLsb'_toNat, BitVec.ofNat_eq_ofNat, BitVec.toNat_ofNat, Nat.shiftRight_eq_div_pow]
    omega

/-- WRSR does to its group what its register's rule says (R223). -/
theorem wrsr_writes {i : Instr} {x : Ext} {len : Nat} {s : State} {h : Here} (hu : UniIssue i s Rows.wrsr x len h false)
    (hm : specialMode x h = true) :
    let q := fetchSrcs s h Rows.wrsr x []
    exec i s = .next (q.2.updGroup h.c h.b h.g fun _ => h.advanced len x.s (writeSpecial h.counted x.aux8 (q.1.a 0))) := by
  obtain ⟨-, -, -, ht, -⟩ := here_spec hu.2.1
  intro q
  have hg : q.2.group h.c h.b h.g = some h.grp := (fetchSrcs_group ..).trans (here_group hu.2.1)
  rw [uniIssue_exec hu rfl (congrFun (groupBody_wrsr len) x) hm]
  simp only [openIssue, fetchSrcs_updGroup, State.updGroup_updGroup]
  exact congrArg _ (settle_fin_updGroup hg ((fetchSrcs_tick ..).trans ht.symm) len x.s _)

/-- Settles O10: each value as its rule gives it, and what WRSR writes, by the register's number. -/
theorem specialRegisters : Obligations.SpecialRegisters := by
  refine ⟨⟨fun i x len s h hu hm hd h0 hq => rdsr_uniform hu hm hd h0 hq, fun i x len s h hu hm hd h0 hq => rdsr_lanes hu hm hd h0 hq,
    fun s h l => ⟨rfl, rfl, rfl, rfl, rfl, rfl, rfl, rfl, rfl, rfl⟩, ?_⟩, ?_⟩
  · intro s h l w
    exact ⟨fun hgx hgy x y z => readSpecial_block s h l x y z hgx hgy, rfl, rfl, rfl, rfl,
      (ovlWord_fields (s.core h.c)).1, (ovlWord_fields (s.core h.c)).2, rfl, rfl, rfl, rfl⟩
  · intro i x len s h hu hm q v onto
    have hw := wrsr_writes hu hm
    refine ⟨?_, ?_, ?_, ?_⟩ <;> (intro e; rw [e] at hw; exact hw)

end Sys2Proof.Machine
end

section
namespace Sys2Proof.Machine
open Sys2Proof

/-! ### Records (R30-R32, R37-R39, R218) -/

/-- SPAWN does with its record what the join counter's gate says (R37, R218). -/
theorem spawn_gates {i : Instr} {x : Ext} {len : Nat} {s : State} {h : Here} (hu : UniIssue i s Rows.spawn x len h false) {u : State}
    {g : Gate} {w : List W64} (hw : ((List.range 8).map fun j => h.grp.rs h.tick (x.a.toNat + j)) = w)
    (hj : joinGate (beforePublish (openIssue s h) h true) h.ten w = (u, g)) :
    (g = .accept → presentable u h.ten w 1 0 h.c = true → exec i s = .next (h.completed len x.s (acceptRecord u h.ten w 1 0 h.c))) ∧
    (∀ code, g = .refuse code → exec i s = .next (h.completed len x.s (refuseRecord u h.ten w code 1 0 h.c))) ∧
    (∀ pa, g = .park pa → exec i s = .next (h.completed len x.s (releaseWafer ((List.range 8).foldl (fun u j =>
      strongWrite u h.ten h.dom (pa + 8 * j) 8 (word w j).toNat) (strongPrep u h.c pa true)) h pa 8))) := by
  rw [uniIssue_exec hu rfl (congrFun (groupBody_spawn len) x) rfl]
  simp only [hw, hj]
  refine ⟨?_, ?_, ?_⟩
  · rintro rfl hp
    simp only [hp, if_true]
    rfl
  · rintro code rfl
    rfl
  · rintro pa rfl
    rfl

/-- A record without a join counter is accepted at once (R37). -/
theorem joinGate_none (s : State) (t : Nat) {w : List W64} (h : recJoin w = 0) : joinGate s t w = (s, .accept) := by
  simp [joinGate, h]

/-- A readable join counter at zero accepts, and above zero parks in an empty slot or refuses (R37). -/
theorem joinGate_readable {s s1 : State} {t pa : Nat} {sh : Nat} {e : Bool} {w : List W64} (h0 : recJoin w ≠ 0) (h128 : recJoin w % 128 = 0)
    (hw : walk s t (recJoin w) true = (s1, .ok pa sh e)) (hr : lineReadable s1 t (lineOf pa) = true)
    (hs : sealed (homeAccess s1 t (lineOf pa) false) t (recJoin w + 64) 64 = false) :
    let u := homeAccess s1 t (lineOf pa) false
    joinGate s t w = (u, if homeValue u pa 8 = 0 then .accept
      else if readBytes u.mem (pa + 64) 64 = List.replicate 64 0 then .park (pa + 64) else .refuse 12) := by
  simp [joinGate, h0, h128, hw, hr, hs]

/-- Closing a counter leaves every counter's state and value, the phase and the queues (R31). -/
theorem closeIf_counter (n : Tenant) (lvl id : Nat) (b : Bool) (l i : Nat) :
    ((closeIf n lvl id b).counter l i).st = (n.counter l i).st ∧ ((closeIf n lvl id b).counter l i).value = (n.counter l i).value := by
  unfold closeIf
  split
  · by_cases h : lvlKey l i = lvlKey lvl id
    · simp [Tenant.counter, Tenant.setCounter, h, kget_kset_self]
    · simp [Tenant.counter, Tenant.setCounter, kget_kset_ne _ _ h]
  · exact ⟨rfl, rfl⟩
@[simp] theorem closeIf_phase (n : Tenant) (lvl id : Nat) (b : Bool) : (closeIf n lvl id b).phase = n.phase := by
  unfold closeIf
  split <;> rfl
@[simp] theorem closeIf_queues (n : Tenant) (lvl id : Nat) (b : Bool) : (closeIf n lvl id b).queues = n.queues := by
  unfold closeIf
  split <;> rfl

/-- A record of an OPEN launch in the dispatching phase closes what it names and joins its queue (R31, R32, R39). -/
theorem enterRecord_open {s : State} {t : Nat} {r : Record} (hc : cancelledKeys (s.ten t) r.w = [])
    (ho : ((s.ten t).counter 0 (recLaunch r.w)).st = lvOpen) (hn : gridSize (word r.w 4) ≠ 0) (hp : (s.ten t).phase = recPhase r.w) :
    let n := closeIf (closeIf (closeIf (s.ten t) 1 (recGraph r.w) (bit (word r.w 0) 34)) 2 (recPhase r.w) (bit (word r.w 0) 35)) 3 0
      (bit (word r.w 0) 36)
    (enterRecord s t r).ten t = { n with queues := kset n.queues (recQprio r.w) (n.queue (recQprio r.w) ++ [{ r with since := s.now }]) } := by
  simp [enterRecord, hc, ho, hn, State.updTen_ten_self, hp]

/-- Settles O14: SPAWN by its gate, the gate by the join counter, and a record that enters by the queue it joins. -/
theorem recordsPresented : Obligations.RecordsPresented := by
  refine ⟨fun i x len s h hu => ?_, fun s t w h => joinGate_none s t h,
    fun s t w s1 pa sh e h0 h128 hw hr hs => joinGate_readable h0 h128 hw hr hs, fun s t r hc ho hn hp => ?_⟩
  · intro w u g hj
    exact spawn_gates hu rfl hj
  rw [enterRecord_open hc ho hn hp]
  refine ⟨?_, fun l n => ⟨?_, ?_⟩⟩
  · simp [Tenant.queue, kget_kset_self]
  · exact ((closeIf_counter ..).1.trans (closeIf_counter ..).1).trans (closeIf_counter ..).1
  · exact ((closeIf_counter ..).2.trans (closeIf_counter ..).2).trans (closeIf_counter ..).2

end Sys2Proof.Machine
end

section
namespace Sys2Proof.Machine
open Sys2Proof

/-! ### Counters of the levels (R33, R219-R221) -/

/-- JOIN with a count above one (R219). -/
theorem join_lowers {i : Instr} {x : Ext} {len : Nat} {s s1 : State} {h : Here} (hu : UniIssue i s Rows.join x len h false)
    {l va pa : Nat} (hc : checkAccess (openIssue s h) h .global 128 128 true false [(0, (fetchSrcs s h Rows.join x []).1.a 0)] =
      (s1, .ok [(l, va, pa)]))
    (hr : lineReadable s1 h.ten (lineOf pa) = true) :
    let u := strongPrep (beforePublish s1 h true) h.c pa true
    1 < homeValue u pa 8 →
    exec i s = .next (h.completed len x.s
      (fetchSrcs (releaseWafer (strongWrite u h.ten h.dom pa 8 (homeValue u pa 8 - 1)) h pa 8) h Rows.join x []).2) := by
  intro u hn
  have h0 : homeValue u pa 8 ≠ 0 := by omega
  have h1 : homeValue u pa 8 ≠ 1 := by omega
  have ha : (fetchSrcs (openIssue s h) h Rows.join x []).1 = (fetchSrcs s h Rows.join x []).1 := by rw [openIssue, fetchSrcs_updGroup]
  rw [uniIssue_exec hu rfl (congrFun (groupBody_join len) x) rfl]
  simp only [ha, hc, afterCheck, hr, Bool.not_true, Bool.false_eq_true, if_false]
  simp only [u] at h1
  rw [if_neg h0]
  simp only [h1, decide_false, Bool.false_and, Bool.false_eq_true, if_false]
  rfl

/-- Source operands leave the tenants as they were. -/
theorem fetchSrcs_ten (s : State) (h : Here) (r : Row) (x : Ext) (ls : List Nat) (t : Nat) :
    (fetchSrcs s h r x ls).2.ten t = s.ten t := by rw [fetchSrcs_rest]; rfl

/-- CANCEL (R220). -/
theorem cancel_cancels {i : Instr} {x : Ext} {len : Nat} {s : State} {h : Here} {n : Nat} (hu : UniIssue i s Rows.cancel x len h false)
    (hl : levelId (x.aux8.extractLsb' 0 2).toNat ((fetchSrcs s h Rows.cancel x []).1.a 0) = some n) :
    exec i s = .next (h.completed len x.s (cancelLevel (openIssue (fetchSrcs s h Rows.cancel x []).2 h) h.ten
      (x.aux8.extractLsb' 0 2).toNat n)) := by
  rw [uniIssue_exec hu rfl (congrFun (groupBody_cancel len) x) rfl]
  simp only [openIssue, fetchSrcs_updGroup, hl]
  rfl

/-- LVLRD (R221): an acquire where the counter has left OPEN. -/
theorem lvlrd_sends {i : Instr} {x : Ext} {len : Nat} {s : State} {h : Here} {n : Nat} (hu : UniIssue i s Rows.lvlrd x len h false)
    (hl : levelId (x.aux8.extractLsb' 0 2).toNat ((fetchSrcs s h Rows.lvlrd x []).1.a 0) = some n) :
    let q := fetchSrcs s h Rows.lvlrd x []
    let c := (s.ten h.ten).counter (x.aux8.extractLsb' 0 2).toNat n
    exec i s = .next (h.completed len x.s (pendUni (if c.st = lvFree ∨ c.st = lvOpen then openIssue q.2 h
      else acquireAll (openIssue q.2 h) h.c h.ten) h Rows.lvlrd x (levelWord c) 0)) := by
  intro q c
  have left : ∀ st : BitVec 2, (st == lvDone || st == lvCancelled) = !decide (st = lvFree ∨ st = lvOpen) := by decide
  have ht : (openIssue q.2 h).ten h.ten = s.ten h.ten := fetchSrcs_ten ..
  have hq : fetchSrcs (openIssue s h) h Rows.lvlrd x [] = (q.1, openIssue q.2 h) := by rw [openIssue, fetchSrcs_updGroup]; rfl
  rw [uniIssue_exec hu rfl (congrFun (groupBody_lvlrd len) x) rfl]
  simp only [hq, show levelId _ (q.1.a 0) = some n from hl, ht, left, Bool.not_eq_true', decide_eq_false_iff_not, ite_not]
  rfl

/-- Settles O15: the three operations as their issue carries them out. -/
theorem levelOperations : Obligations.LevelOperations :=
  ⟨fun _ _ _ _ _ hu _ _ _ _ hc hr => join_lowers hu hc hr, fun _ _ _ _ _ _ hu hl => cancel_cancels hu hl,
    fun _ _ _ _ _ _ hu hl => lvlrd_sends hu hl⟩

end Sys2Proof.Machine
end

section
namespace Sys2Proof.Machine
open Sys2Proof

/-! ### A group's schedule (R19, R21, R323, R324) -/

theorem group_block {s : State} {c b g : Nat} {x : Group} (hx : s.group c b g = some x) :
    ∃ k, s.block c b = some k ∧ kget k.groups g = some x := by
  rw [State.group] at hx
  exact Option.bind_eq_some_iff.mp hx

/-- A group with an entry has not ended (R22). -/
theorem ended_of_frontier {x : Group} (h : x.frontier ≠ []) : x.ended = false := by
  obtain ⟨e, r, he⟩ := List.exists_cons_of_ne_nil h
  simp [Group.ended, Group.allEntries, he]

theorem promoteEntries_eq {s : State} {c b g : Nat} {x : Group} (hx : s.group c b g = some x) :
    promoteEntries s c b g = s.updGroup c b g fun _ => { x with
      frontier := x.frontier.map fun e => if e.wait = none ∧ 4096 ≤ e.count then { e with promoted := true } else e } := by
  refine updGroup_to _ _ _ _ _ hx (congrArg (fun fr => { x with frontier := fr }) (List.map_congr_left fun e _ => ?_))
  simp [Entry.ready, and_comm]

theorem promoteEntries_idle {s : State} {c b g : Nat} {x : Group} (hx : s.group c b g = some x)
    (h : ∀ e ∈ x.frontier, e.wait ≠ none ∨ e.count < 4096) : promoteEntries s c b g = s.updGroup c b g fun _ => x := by
  have hid : (x.frontier.map fun e => if e.wait = none ∧ 4096 ≤ e.count then { e with promoted := true } else e) = x.frontier := by
    conv => rhs; rw [← List.map_id x.frontier]
    refine List.map_congr_left fun e he => if_neg fun ⟨hw, hc⟩ => ?_
    rcases h e he with h1 | h1
    · exact h1 hw
    · omega
  rw [promoteEntries_eq hx, hid]

/-- Entries with lanes at PCs of their own join one after another, none merging (R15). -/
theorem foldl_addEntry_nodup (es : List Entry) : ∀ acc : List Entry, (∀ e ∈ es, e.mask ≠ 0) → ((acc ++ es).map Entry.pc).Nodup →
    es.foldl addEntry acc = acc ++ es := by
  induction es with
  | nil => simp
  | cons e r ih =>
    intro acc hm hn
    simp only [List.mem_cons, forall_eq_or_imp] at hm
    have hnew : ∀ x ∈ acc, x.pc ≠ e.pc := fun x hx he => by
      simp only [List.map_append, List.map_cons, List.nodup_append] at hn
      exact hn.2.2 x.pc (List.mem_map_of_mem hx) e.pc List.mem_cons_self he
    rw [List.foldl_cons, addEntry_new acc hm.1 hnew, ih _ hm.2 (by simpa using hn)]
    simp

/-- Entries that all wait in RECONV with no condition met go on, unmerged (R21). -/
theorem releaseReconv_stuck {s : State} {c b g : Nat} {k : Block} {x : Group} {onto : Entry → Pc × Lanes} (hk : s.block c b = some k)
    (hx : kget k.groups g = some x) (hne : x.frontier ≠ [])
    (hw : ∀ e ∈ x.frontier, e.wait = some (.reconv (onto e).2 (onto e).1) ∧
      (onto e).2 &&& x.live k.kern.width &&& ~~~e.mask ≠ 0 ∧ e.mask ≠ 0)
    (hn : (x.frontier.map fun e => (onto e).1).Nodup) :
    releaseReconv s c b g = s.updGroup c b g fun _ => { x with
      frontier := x.frontier.map fun e => { e with pc := (onto e).1, wait := none } } := by
  have hg : s.group c b g = some x := by simp [State.group, hk, hx]
  have hfold := foldl_addEntry_nodup (x.frontier.map fun e => { e with pc := (onto e).1, wait := none }) []
    (fun e he => by
      obtain ⟨f, hf, rfl⟩ := List.mem_map.mp he
      exact (hw f hf).2.2)
    (by simpa [Function.comp_def] using hn)
  unfold releaseReconv
  simp only [hk, hg]
  rw [if_pos, List.map_congr_left (g := fun e => { e with pc := (onto e).1, wait := none }) fun e he => by rw [(hw e he).1], hfold]
  · exact updGroup_to _ _ _ _ _ hg rfl
  · simp only [Bool.and_eq_true, Bool.not_eq_true', List.isEmpty_eq_false_iff, List.all_eq_true]
    refine ⟨hne, fun e he => ?_⟩
    obtain ⟨hwait, hunmet, -⟩ := hw e he
    simp only [hwait, reconvMet]
    rw [if_neg (by simpa using hunmet)]
    rfl

theorem releaseReconv_idle {s : State} {c b g : Nat} {x : Group} (hx : s.group c b g = some x)
    (h : ∃ e ∈ x.frontier, e.wait = none) : releaseReconv s c b g = s := by
  obtain ⟨k, hk, -⟩ := group_block hx
  obtain ⟨e, he, hw⟩ := h
  unfold releaseReconv
  simp only [hk, hx]
  refine if_neg fun hall => ?_
  simp only [Bool.and_eq_true, List.all_eq_true] at hall
  simpa [hw] using hall.2 e he

theorem forceSwitch_eq {s : State} {c b g : Nat} {x : Group} (hx : s.group c b g = some x) :
    forceSwitch s c b g = s.updGroup c b g fun _ => if 4096 ≤ x.sinceSwitch then { x with forced := true } else x :=
  updGroup_to _ _ _ _ _ hx rfl

/-- The resident group parked longest leaves the file where a group outside is ready and there is no room (R324). -/
theorem demoteGroup_eq {s : State} {c b g : Nat} {x : Group} (hx : s.group c b g = some x) (hr : x.resident = true)
    (hf : x.frontier ≠ []) (hp : x.parked ≠ none)
    (hwant : ∃ p ∈ partition s c (g % 4), p.2.2.resident = false ∧ p.2.2.ended = false ∧ p.2.2.ready ≠ none)
    (hroom : fileRoom s c b g = false)
    (hfirst : ∀ p ∈ partition s c (g % 4), p.2.2.resident = true → p.2.2.ended = false → p.2.2.parked ≠ none →
      x.parked.getD s.tick ≤ p.2.2.parked.getD s.tick) :
    demoteGroup s c b g = s.updGroup c b g fun _ => { x with resident := false, ready := none } := by
  have want : ((partition s c (g % 4)).any fun p => !p.2.2.resident && !p.2.2.ended && p.2.2.ready.isSome) = true := by
    obtain ⟨p, hp, h1, h2, h3⟩ := hwant
    exact List.any_eq_true.mpr ⟨p, hp, by simp [h1, h2, Option.isSome_iff_ne_none, h3]⟩
  have first : ((partition s c (g % 4)).all fun p => !(p.2.2.resident && !p.2.2.ended && p.2.2.parked.isSome) ||
      decide (x.parked.getD s.tick ≤ p.2.2.parked.getD s.tick)) = true := by
    refine List.all_eq_true.mpr fun p hp => ?_
    cases hres : p.2.2.resident with
    | false => simp
    | true =>
      cases hend : p.2.2.ended with
      | true => simp
      | false =>
        cases hpark : p.2.2.parked with
        | none => simp
        | some m => simpa [hpark] using hfirst p hp hres hend (by simp [hpark])
  unfold demoteGroup
  simp only [hx, hr, ended_of_frontier hf, Option.isSome_iff_ne_none.mpr hp, want, hroom, first]
  exact updGroup_to _ _ _ _ _ hx rfl

theorem demoteGroup_idle {s : State} {c b g : Nat} {x : Group} (hx : s.group c b g = some x)
    (h : x.parked = none ∨ fileRoom s c b g = true ∨ ∀ p ∈ partition s c (g % 4), p.2.2.ready = none) : demoteGroup s c b g = s := by
  unfold demoteGroup
  simp only [hx]
  refine if_neg fun hc => ?_
  simp only [Bool.and_eq_true, Bool.not_eq_true', List.any_eq_true] at hc
  obtain ⟨⟨⟨⟨-, hparked⟩, p, hp, -, hready⟩, hroom⟩, -⟩ := hc
  rcases h with h | h | h
  · simp [h] at hparked
  · simp [h] at hroom
  · simp [h p hp] at hready

/-- The group outside the file that became ready first comes back where there is room (R324). -/
theorem recallGroup_eq {s : State} {c b g n : Nat} {x : Group} (hx : s.group c b g = some x) (hr : x.resident = false)
    (hf : x.frontier ≠ []) (hn : x.ready = some n) (hroom : fileRoom s c b g = true)
    (hfirst : ∀ p ∈ partition s c (g % 4), p.2.2.resident = false → p.2.2.ended = false → ∀ m, p.2.2.ready = some m → n ≤ m) :
    recallGroup s c b g = s.updGroup c b g fun _ => { x with resident := true, ready := none } := by
  have first : ((partition s c (g % 4)).all fun p => p.2.2.resident || p.2.2.ended || p.2.2.ready.isNone ||
      decide (n ≤ p.2.2.ready.getD s.tick)) = true := by
    refine List.all_eq_true.mpr fun p hp => ?_
    cases hr : p.2.2.resident with
    | true => simp
    | false =>
      cases he : p.2.2.ended with
      | true => simp
      | false =>
        cases hm : p.2.2.ready with
        | none => simp
        | some m => simp [hfirst p hp hr he m hm]
  unfold recallGroup
  simp only [hx, hr, ended_of_frontier hf, hn, hroom, Option.getD_some, first]
  exact updGroup_to _ _ _ _ _ hx rfl

theorem recallGroup_idle {s : State} {c b g : Nat} {x : Group} (hx : s.group c b g = some x)
    (h : x.ready = none ∨ fileRoom s c b g = false) : recallGroup s c b g = s := by
  unfold recallGroup
  simp only [hx]
  refine if_neg fun hc => ?_
  simp only [Bool.and_eq_true] at hc
  rcases h with h | h <;> simp [h] at hc

/-- What is noted of a group at the beginning of a step (R324). -/
theorem noted_fields (x : Group) (n : Nat) (ready : Bool) :
    ((x.noted n ready).parked =
      if x.resident = true ∧ x.ended = false ∧ x.idle = true ∧ ready = false then some (x.parked.getD n) else none) ∧
    ((x.noted n ready).ready = if ready = true ∧ x.resident = false then some (x.ready.getD n) else none) ∧
    (∀ e, selectEntry x = some e → (x.noted n ready).sinceSwitch = x.sinceSwitch ∧ (x.noted n ready).forced = x.forced) := by
  have hparked : (x.noted n ready).parked = if x.resident && !x.ended && x.idle && !ready then some (x.parked.getD n) else none :=
    (apply_ite Group.parked ..).trans (ite_self _)
  have hready : (x.noted n ready).ready = if ready && !x.resident then some (x.ready.getD n) else none :=
    (apply_ite Group.ready ..).trans (ite_self _)
  refine ⟨by simpa [and_assoc] using hparked, by simpa using hready, fun e he => ?_⟩
  have hs : ∀ p r, selectEntry { x with parked := p, ready := r } = some e := fun _ _ => he
  simp [Group.noted, hs]

/-- Settles O41: each step by the lemma that says what it does where its condition holds, and where it does not. -/
theorem groupSchedulingSteps : Obligations.GroupSchedulingSteps := by
  refine ⟨fun s c b g x hx => congrArg _ (promoteEntries_eq hx),
    fun s c b g k x onto hk hx hne hw hn => congrArg _ (releaseReconv_stuck hk hx hne hw hn),
    fun s c b g x hx hs => congrArg _ ((forceSwitch_eq hx).trans (by rw [if_pos hs])),
    fun s c b g x hx hr hf hp hwant hroom hfirst => congrArg _ (demoteGroup_eq hx hr hf hp hwant hroom hfirst),
    fun s c b g x n hx hr hf hn hroom hfirst => congrArg _ (recallGroup_eq hx hr hf hn hroom hfirst),
    fun s c b g x hx => ⟨fun h => congrArg _ (promoteEntries_idle hx h), fun h => congrArg _ ((forceSwitch_eq hx).trans ?_),
      fun h => congrArg _ (demoteGroup_idle hx h), fun h => congrArg _ (recallGroup_idle hx h),
      fun h => congrArg _ (releaseReconv_idle hx h)⟩,
    noted_fields⟩
  rw [if_neg (by omega)]

end Sys2Proof.Machine
end

section
namespace Sys2Proof.Machine
open Sys2Proof

/-! ### The dispatchers (R35, R37, R39, R41, R43, R44, R381, R399) -/

/-- A launch ring's record that may be presented goes where its gate says, and HEAD goes on (R35, R37, R381). -/
theorem takeLaunchRecord_enters {s u v : State} {t q : Nat} {w : List W64} {g : Gate} (hst : (s.ten t).st = 1) (hq : q < 4)
    (hen : ((s.ten t).ring q).en = true) (hcount : ((s.ten t).ring q).count ≠ 0)
    (hw : tenantWords s t (((s.ten t).ring q).slot ((s.ten t).ring q).head 64) 8 = (u, some w)) (hg : joinGate u t w = (v, g))
    (hp : presentable v t w 0 q 0 = true) :
    takeLaunchRecord s t q = (enterGate v t q w g).updRing t q fun r => { r with head := r.head + 1 } := by
  simp [takeLaunchRecord, hst, Nat.not_le.mpr hq, hen, hcount, hw, hg, hp]

/-- QUEUE_PROMOTION's pass over one queue of a tenant (R39). -/
def promoteStep (now q : Nat) (n : Tenant) : Tenant :=
  let old := (n.queue q).filter fun r => decide (r.since + 1000000 ≤ now)
  let go := old.take (1024 - (n.queue (q + 1)).length)
  if go.isEmpty then n
  else
    let stay := (n.queue q).filter fun r => !go.contains r
    { n with queues := kset (kset n.queues q stay) (q + 1) (n.queue (q + 1) ++ go.map fun r => { r with since := now }) }

theorem promoteRecords_ten (s : State) (t : Nat) : ∃ u : State, promoteRecords s t = refill u t ∧
    u.ten t = [6, 5, 4, 3, 2, 1, 0].foldl (fun n q => promoteStep s.now q n) (s.ten t) := by
  have key : ∀ (qs : List Nat) (s : State), (qs.foldl (fun s q => s.updTen t (promoteStep s.now q)) s).ten t =
      qs.foldl (fun n q => promoteStep s.now q n) (s.ten t) := by
    intro qs
    induction qs with
    | nil => intro s; rfl
    | cons q r ih => intro s; rw [List.foldl_cons, ih, State.updTen_ten_self, List.foldl_cons]; rfl
  exact ⟨_, rfl, key _ s⟩

theorem promoteStep_empty (now : Nat) {q : Nat} {n : Tenant} (h : n.queue q = []) : promoteStep now q n = n := by
  simp [promoteStep, h]

theorem foldl_promoteStep_empty (now : Nat) {n : Tenant} {qs : List Nat} (h : ∀ q ∈ qs, n.queue q = []) :
    qs.foldl (fun n q => promoteStep now q n) n = n := by
  induction qs with
  | nil => rfl
  | cons q r ih =>
    simp only [List.mem_cons, forall_eq_or_imp] at h
    rw [List.foldl_cons, promoteStep_empty now h.1, ih h.2]

/-- A record that has waited 1 ms goes to the next higher queue, where that is empty (R39). -/
theorem promoteStep_due {now q : Nat} {n : Tenant} {r : Record} (hq : n.queue q = [r]) (hn : n.queue (q + 1) = [])
    (hr : r.since + 1000000 ≤ now) :
    promoteStep now q n = { n with queues := kset (kset n.queues q []) (q + 1) [{ r with since := now }] } := by
  simp [promoteStep, hq, hn, hr]

/-- Held records of other phases stay held (R32, R39). -/
theorem refill_closed {s : State} {t : Nat} (h : ∀ r ∈ (s.ten t).hold, recPhase r.w ≠ (s.ten t).phase) :
    ((refill s t).ten t).queues = (s.ten t).queues := by
  simp only [refill, State.updTen_ten_self]
  refine List.foldlRecOn (motive := fun (acc : KMap (List Record) × List Record) => acc.1 = (s.ten t).queues) _ _ rfl fun acc hacc r hr => ?_
  simp [h r hr, hacc]

/-- QUEUE_PROMOTION of the one record that a tenant has queued (R39). -/
theorem promoteRecords_one {s : State} {t q : Nat} {r : Record} (hq : q < 7) (hn : (s.ten t).queues = [(q, [r])])
    (hr : r.since + 1000000 ≤ s.now) (hh : ∀ h ∈ (s.ten t).hold, recPhase h.w ≠ (s.ten t).phase) :
    ((promoteRecords s t).ten t).queues = kset (kset [(q, [r])] q []) (q + 1) [{ r with since := s.now }] := by
  have split : ∀ q < 7, ([6, 5, 4, 3, 2, 1, 0] : List Nat) =
      [6, 5, 4, 3, 2, 1, 0].filter (fun p => decide (q < p)) ++ q :: [6, 5, 4, 3, 2, 1, 0].filter (fun p => decide (p < q)) := by decide
  obtain ⟨u, hu, hten⟩ := promoteRecords_ten s t
  have other : ∀ p, p ≠ q → (s.ten t).queue p = [] := fun p hp => by simp [Tenant.queue, hn, kget, hp.symm]
  have hstep := promoteStep_due (now := s.now) (q := q) (n := s.ten t) (by simp [Tenant.queue, hn, kget]) (other _ (by omega)) hr
  have above := foldl_promoteStep_empty s.now (n := s.ten t) (qs := [6, 5, 4, 3, 2, 1, 0].filter fun p => decide (q < p)) fun p hp => by
    have hlt : q < p := by simpa using (List.mem_filter.mp hp).2
    exact other p (by omega)
  rw [split q hq, List.foldl_append, above, List.foldl_cons, hstep, foldl_promoteStep_empty] at hten
  · rw [hu, refill_closed (by rw [hten]; exact hh), hten, hn]
  · intro p hp
    have hlt : p < q := by simpa using (List.mem_filter.mp hp).2
    rw [Tenant.queue, kget_kset_ne _ _ (by omega), kget_kset_ne _ _ (by omega)]
    exact other p (by omega)

/-! The decision of the wafer dispatcher for a tenant's next unit (R41, R44, R107). -/

/-- A unit goes home where its home has a free core (R41 step 1). -/
theorem verdict_home {v y : State} {t h : Nat} {u : Unit1} (hy : treeReady v t u.w.launch u.w.image = some y) (hh : u.w.home = some h)
    (hf : hasFree v t u.w h = true) : verdict v t u = .send h := by
  simp [verdict, hy, hh, hf]

/-- With no start still to be admitted it goes to the cheapest domain (R41 step 3, R44). -/
theorem elsewhere_send {v : State} {t d : Nat} {u : Unit1} (hd : cheapest v t u.w = some d)
    (hs : ∀ x, v.launch t u.w.launch = some x → x.starts = []) : elsewhere v t u = .send d := by
  cases hl : v.launch t u.w.launch with
  | none => simp [elsewhere, hd, hl]
  | some x => simp [elsewhere, hd, hl, hs x hl]

theorem verdict_homeless {v y : State} {t : Nat} {u : Unit1} (hy : treeReady v t u.w.launch u.w.image = some y) (hh : u.w.home = none) :
    verdict v t u = elsewhere v t u := by
  simp [verdict, hy, hh]

/-- A unit whose patience has passed gives its home up (R41 step 2). -/
theorem verdict_impatient {v y : State} {t h f : Nat} {u : Unit1} (hy : treeReady v t u.w.launch u.w.image = some y)
    (hh : u.w.home = some h) (hf : hasFree v t u.w h = false) (hp : u.patience ≠ 0)
    (hk : (v.launch t u.w.launch).bind (fun x => kget x.patience u.w.first) = some f) (hn : f + u.patience * 10 ≤ v.now) :
    verdict v t u = elsewhere v t u := by
  simp [verdict, hy, hh, hf, hp, hk, hn]

/-- What a decision to send does at the tenant's turn (R39). -/
theorem dispatchUnit_send {s v y : State} {t d : Nat} {u : Unit1} (hst : (s.ten t).st = 1) (hps : (s.ten t).pstat = 0)
    (hu : nextUnit s t = some u) (hc : ((s.ten t).counter 0 u.w.launch).st ≠ lvCancelled) (hv : prepareStarts s t u.w.launch = v)
    (hy : treeReady v t u.w.launch u.w.image = some y) (hs : served s t = true) (hd : verdict v t u = .send d) :
    dispatchUnit s t = countServed (sendUnit y t u d) t := by
  simp [dispatchUnit, nextDispatch, hst, hps, hu, hc, hv, hd, hs, hy]

theorem prepareStarts_now (s : State) (t l : Nat) : (prepareStarts s t l).now = s.now := by
  unfold prepareStarts
  dsimp only
  split <;> rfl

@[simp] theorem takeUnit_dom (s : State) (t : Nat) (u : Unit1) (d : Nat) : (takeUnit s t u).dom d = s.dom d := rfl

theorem adjustFigures_dom (s : State) (t d n i : Nat) : (adjustFigures s t d n).dom i = s.dom i := by
  induction n generalizing s with
  | zero => rfl
  | succ n ih =>
    rw [adjustFigures, ih]
    split <;> rfl

/-- A unit that is sent joins the tail of the domain's queue. -/
theorem sendUnit_queue (s : State) (t : Nat) (u : Unit1) (d : Nat) :
    ((sendUnit s t u d).dom d).queue = (s.dom d).queue ++ [u.w] := by
  rw [sendUnit, State.updDom_dom_self, adjustFigures_dom]
  rfl

/-! Region starts (R44, R399) and schedule sets (R43). -/

/-- One tenant with one launch whose starts are still to be admitted. -/
theorem waitingStarts_one {s : State} {t l : Nat} {n : Tenant} {x : Launch} (hs : s.tenants = [(t, n)]) (hp : n.pstat = 0)
    (hn : n.launches = [(l, x)]) (hx : x.starts ≠ []) : waitingStarts s = [(x.order, t, l)] := by
  simp [waitingStarts, hs, hp, hn, hx]

theorem launch_one {s : State} {t l : Nat} {n : Tenant} {x : Launch} (hs : s.tenants = [(t, n)]) (hn : n.launches = [(l, x)]) :
    s.launch t l = some x := by
  simp [State.launch, State.ten, hs, hn, kget]

/-- Only the launch that is there matters to an update. -/
theorem State.updLaunch_to (s : State) (t l : Nat) (f f' : Launch → Launch) {x : Launch} (hx : s.launch t l = some x) (h : f x = f' x) :
    s.updLaunch t l f = s.updLaunch t l f' := by
  have e := kupd_congr (s.ten t).launches l f f' fun y hy => by rw [Option.some.inj (hy.symm.trans hx), h]
  simp only [State.updLaunch, State.updTen, e]

/-- The weight of a start does not depend on what is kept of a launch. -/
theorem startWeight_updLaunch (s : State) (t l : Nat) (f : Launch → Launch) (m r : Nat) :
    startWeight (s.updLaunch t l f) t m (launchTile (s.updLaunch t l f) t m) r = startWeight s t m (launchTile s t m) r := by
  have hten : (s.updLaunch t l f).ten t = { s.ten t with launches := kupd (s.ten t).launches l f } := State.updTen_ten_self ..
  simp only [startWeight, launchTile, blocksLeft, Tenant.queue, hten]
  rfl

/-- The first start of a step that is ready is admitted, whatever it weighs (R399). -/
theorem admitStart_first {s : State} {t l r : Nat} (hl : (s.launch t l).isSome) (hr : regionReady s r = true) :
    ∃ stop, admitStart t l (s, none, false) r =
      (s.updLaunch t l fun x => { x with admitted := x.admitted ++ [r], starts := x.starts.filter fun y => y != r },
        some (startWeight s t l (launchTile s t l) r), stop) := by
  simp [admitStart, Option.isNone_eq_false_iff.mpr hl, hr]

/-- A further one that would take the step above LIMIT is not (R399). -/
theorem admitStart_over {s : State} {t l r used : Nat} {stop : Bool} (hlim : s.mod.pwLimit ≠ 0)
    (hw : s.mod.pwLimit.toNat < used + startWeight s t l (launchTile s t l) r) : (admitStart t l (s, some used, stop) r).1 = s := by
  have h0 : s.mod.pwLimit.toNat ≠ 0 := fun h => hlim (BitVec.eq_of_toNat_eq h)
  simp only [admitStart]
  split <;> simp [h0, hw]

/-- A step of the admission makes the starts of the one launch that waits (R44, R399). -/
theorem admitRegions_one {s : State} {t l : Nat} {n : Tenant} {x : Launch} (hs : s.tenants = [(t, n)]) (hp : n.pstat = 0)
    (hn : n.launches = [(l, x)]) (hx : x.starts ≠ []) (ha : ∀ a, s.mod.admitAt = some a → a + 200 ≤ s.now) :
    admitRegions s = (x.starts.foldl (admitStart t l) (s, none, false)).1.updMod fun m => { m with admitAt := some s.now } := by
  have first : admitRegions s = ((waitingStarts s).foldl (fun acc (p : Nat × Nat × Nat) =>
      (((acc.1.launch p.2.1 p.2.2).map fun x => x.starts).getD []).foldl (admitStart p.2.1 p.2.2) acc) (s, none, false)).1.updMod fun m =>
        { m with admitAt := some s.now } := by
    have hw : (waitingStarts s).isEmpty = false := by rw [waitingStarts_one hs hp hn hx]; rfl
    unfold admitRegions
    simp only [hw]
    cases h : s.mod.admitAt with
    | none => rfl
    | some a => exact if_neg (by simpa using ha a h)
  rw [first, waitingStarts_one hs hp hn hx, List.foldl_cons, List.foldl_nil, launch_one hs hn]
  rfl

/-- Before 200 ns have passed there is no step (R399). -/
theorem admitRegions_early {s : State} {a : Nat} (ha : s.mod.admitAt = some a) (h : s.now < a + 200) : admitRegions s = s := by
  simp [admitRegions, ha, h]

/-- The variant that the size word chooses takes the waiting record's place (R43). -/
theorem selectSchedule_picks {s u : State} {t l q : Nat} {rs : List Record} {r : Record} {sel : Nat × List Variant} {v : Variant}
    (hq : (s.ten t).queues = [(q, rs)]) (hr : rs.find? (fun r => r.sel.isSome && recLaunch r.w == l) = some r) (hsel : r.sel = some sel)
    (hv : selectVariant s t sel = (u, .ok v)) (hg : gridSize v.grid ≠ 0) :
    selectSchedule s t l = (((u.updLaunch t l fun x => { x with gridWord := v.grid, grid := gridSize v.grid }).updTen t fun n =>
        n.setCounter 0 l { n.counter 0 l with value := gridSize v.grid }).updTen t fun n =>
        { n with queues := kset n.queues q (((n.queue q).map fun x => if x == r then [applyVariant r v] else [x]).flatten) }) := by
  simp only [selectSchedule, hq, List.findSome?_cons, hr, Option.map_some, hsel, hv, if_neg hg]

/-- Settles O46: each dispatcher's step by the lemma about it. -/
theorem dispatchSteps : Obligations.DispatchSteps := by
  refine ⟨?record, ?promotion, ⟨?dispatch, sendUnit_queue⟩, ⟨?start, ?early, ?limit⟩, ?schedule⟩
  case record =>
    intro s t q u v w g hst hq hen hcount hw hg hp
    refine congrArg _ ((takeLaunchRecord_enters hst hq hen hcount hw hg hp).trans ?_)
    cases g <;> rfl
  case promotion =>
    rintro s t _ q r rfl hq hn hr hh
    refine ⟨_, rfl, ?_, ?_, fun p hp hp' => ?_⟩ <;> rw [Tenant.queue, promoteRecords_one hq hn hr hh]
    · rw [kget_kset_ne _ _ (by omega), kget_kset_self]
      rfl
    · rw [kget_kset_self]
      rfl
    · rw [kget_kset_ne _ _ hp', kget_kset_ne _ _ hp]
      simp [kget, hp.symm]
  case dispatch =>
    intro s t u v hst hps hu hc hv y hy hs
    refine ⟨fun h hh hf => ?_, fun d hd hx => ⟨fun hh => ?_, fun h f hh hf hp hk hk' hn => ?_⟩⟩
    · exact congrArg _ (dispatchUnit_send hst hps hu hc hv hy hs (verdict_home hy hh hf))
    · exact congrArg _ (dispatchUnit_send hst hps hu hc hv hy hs ((verdict_homeless hy hh).trans (elsewhere_send hd hx)))
    · have hnow : v.now = s.now := hv ▸ prepareStarts_now s t _
      have hd' := (verdict_impatient hy hh hf hp hk' (by rw [hnow]; exact hn)).trans (elsewhere_send hd hx)
      have he : expirePatience s t u.w.launch = dispatchUnit s t := by simp [expirePatience, hu, hk, hn]
      exact congrArg _ (he.trans (dispatchUnit_send hst hps hu hc hv hy hs hd'))
  case start =>
    intro s t n l x r hs hp hn hx hr ha
    have hl := launch_one hs hn
    obtain ⟨stop, hstep⟩ := admitStart_first (by rw [hl]; rfl) hr
    refine congrArg _ ((admitRegions_one hs hp hn (by simp [hx]) ha).trans ?_)
    rw [hx, List.foldl_cons, List.foldl_nil, hstep]
    exact congrArg (fun u : State => u.updMod _) (State.updLaunch_to s t l _ _ hl (by simp [hx]))
  case early =>
    intro s a ha hlt
    exact congrArg _ (admitRegions_early ha hlt)
  case limit =>
    intro s t n l x r p hs hp hn hx hne hr ha hlim hw
    have hl := launch_one hs hn
    obtain ⟨stop, hstep⟩ := admitStart_first (by rw [hl]; rfl) hr
    refine congrArg _ ((admitRegions_one hs hp hn (by simp [hx]) ha).trans ?_)
    rw [hx, List.foldl_cons, List.foldl_cons, List.foldl_nil, hstep,
      admitStart_over (by exact hlim) (by rw [startWeight_updLaunch]; exact hw)]
    exact congrArg (fun u : State => u.updMod _) (State.updLaunch_to s t l _ _ hl (by simp [hx, hne.symm]))
  case schedule =>
    intro s t l q rs r sel u v hq hr hsel hv hg
    exact congrArg _ (selectSchedule_picks hq hr hsel hv hg)

end Sys2Proof.Machine
end

section
namespace Sys2Proof.Machine
open Sys2Proof

/-! ### Blocks are placed, start and leave (R26-R28, R38, R42, R130, R343)

The coherence operations leave every core's record as it is, so a block that starts keeps its place and its L1 stays empty; and
once a block is gone from its core, nothing that its completion sets off puts one in its place. -/

theorem foldl_keeps_cores {α : Type} (f : State → α → State) (hf : ∀ u a, (f u a).cores = u.cores) (l : List α) (s : State) :
    (l.foldl f s).cores = s.cores :=
  foldl_keeps (fun u : State => u.cores = s.cores) f (fun u a hu => (hf u a).trans hu) l s rfl

@[simp] theorem State.unpoison_cores (s : State) (line : Nat) : (s.unpoison line).cores = s.cores := by
  unfold State.unpoison
  dsimp only
  split
  · split <;> rfl
  · rfl

@[simp] theorem dropScales_cores (s : State) (line : Nat) (ps : List (Nat × Byte)) : (dropScales s line ps).cores = s.cores := by
  unfold dropScales
  split <;> rfl

@[simp] theorem putHome_cores (s : State) (t line : Nat) (ps : List (Nat × Byte)) : (putHome s t line ps).cores = s.cores := by
  unfold putHome
  dsimp only
  split <;> split <;> simp

@[simp] theorem writeBack_cores (s : State) (t d line : Nat) : (writeBack s t d line).cores = s.cores := by
  unfold writeBack
  split
  · split <;> simp
  · rfl

@[simp] theorem dropGuest_cores (s : State) (t d line : Nat) : (dropGuest s t d line).cores = s.cores := writeBack_cores s t d line

theorem flushGuests_cores (s : State) (t d : Nat) (p : Nat → Guest → Bool) : (flushGuests s t d p).cores = s.cores :=
  foldl_keeps_cores _ (fun u l => dropGuest_cores u t d l) _ _

theorem writeBackHost_cores (s : State) (t : Nat) : (writeBackHost s t).cores = s.cores :=
  foldl_keeps_cores _ (fun _ d => foldl_keeps_cores _ (fun u l => writeBack_cores u t d l) _ _) _ _

theorem core_of_cores {s u : State} (h : u.cores = s.cores) (c : Nat) : u.core c = s.core c := by simp [State.core, h]

theorem block_of_cores {s u : State} (h : u.cores = s.cores) (c b : Nat) : u.block c b = s.block c b := by
  simp [State.block, core_of_cores h]

/-- An acquire at wafer scope empties the core's L1 and leaves its blocks (R86). -/
theorem acquireAll_core (s : State) (c t : Nat) : (acquireAll s c t).core c = { s.core c with l1 := [] } := by
  unfold acquireAll
  exact (core_of_cores (flushGuests_cores _ _ _ _) c).trans (State.updCore_core_self ..)

/-! A block starts. -/

/-- A block that is what a given one was, by its place in its launch. -/
def SameBlock (k k' : Block) : Prop := k'.index = k.index ∧ k'.launch = k.launch ∧ k'.nGroups = k.nGroups

/-- A block runs on its core, whose L1 an acquire has emptied. -/
def Runs (c b : Nat) (k : Block) (u : State) : Prop :=
  ∃ k', u.block c b = some k' ∧ k'.started = true ∧ (u.core c).l1 = [] ∧ SameBlock k k'

theorem State.updBlock_l1 (s : State) (c b : Nat) (f : Block → Block) : ((s.updBlock c b f).core c).l1 = (s.core c).l1 := by
  simp [State.updBlock, State.updCore_core_self]

theorem Runs.updBlock {c b : Nat} {k : Block} {u : State} (h : Runs c b k u) (f : Block → Block)
    (hf : ∀ x, (f x).started = x.started ∧ SameBlock x (f x)) : Runs c b k (u.updBlock c b f) := by
  obtain ⟨x, hx, hst, hl1, hi, hl, hn⟩ := h
  obtain ⟨fst, fi, fl, fn⟩ := hf x
  exact ⟨f x, by rw [State.updBlock_block_self, hx]; rfl, fst.trans hst, (State.updBlock_l1 ..).trans hl1,
    fi.trans hi, fl.trans hl, fn.trans hn⟩

theorem Runs.addReceipt {c b : Nat} {k : Block} {u : State} (h : Runs c b k u) (j : Nat) : Runs c b k (addReceipt u c b j) := by
  unfold Machine.addReceipt
  split
  · split
    · exact h
    · exact h.updBlock _ fun _ => ⟨rfl, rfl, rfl, rfl⟩
  · exact h

theorem Runs.fillFile {c b : Nat} {k : Block} {u : State} (h : Runs c b k u) : Runs c b k (fillFile u c b) := by
  unfold Machine.fillFile
  split
  · refine foldl_keeps (Runs c b k) _ (fun v p hv => ?_) _ _ h
    dsimp only
    split
    · exact hv
    · exact hv.updBlock _ fun _ => ⟨rfl, rfl, rfl, rfl⟩
  · exact h

/-- A placed block whose segments are loaded starts, with an acquire at wafer scope (R38, R343). -/
theorem startBlock_runs {s : State} {c b : Nat} {k : Block} (hk : s.block c b = some k)
    (hseg : ((needSegs s k.image k.kern).all fun x => ((s.core c).slotOf x).isSome) = true) :
    Runs c b k (startBlock s c b) := by
  unfold startBlock
  simp only [hk, hseg, if_true]
  refine Runs.fillFile (foldl_keeps (Runs c b k) _ (fun _ j hv => hv.addReceipt j) _ _ ?_)
  refine ⟨{ k with started := true }, ?_, rfl, ?_, rfl, rfl, rfl⟩
  · rw [State.updBlock_block_self, State.updLaunch_block, State.block, acquireAll_core]
    exact congrArg _ hk
  · rw [State.updBlock_l1, State.updLaunch_core, acquireAll_core]

/-- The first placed block of a domain whose segments are loaded is the one that starts (R28, R42). -/
theorem startNext_starts {s : State} {d c b : Nat} (hfind : (unstarted s d).find? (fun p => match s.block p.1 p.2 with
    | some k => (needSegs s k.image k.kern).all fun x => ((s.core p.1).slotOf x).isSome
    | none => false) = some (c, b)) : startNext s d = startBlock s c b := by
  unfold startNext
  extract_lets ready
  have hready : ready = some (c, b) := hfind
  rw [hready]

/-! A unit is placed. -/

theorem kget_none_of_above {α : Type} : ∀ (m : KMap α) (k : Nat), (∀ p ∈ m, p.1 < k) → kget m k = none
  | [], _, _ => rfl
  | (j, _) :: r, k, h => by
    have hj : j ≠ k := Nat.ne_of_lt (h _ List.mem_cons_self)
    simp [kget, hj, kget_none_of_above r k fun p hp => h p (List.mem_cons_of_mem _ hp)]

/-- Nothing of a map's keys reaches the number that follows its highest key. -/
theorem lt_foldl_max {α : Type} : ∀ (m : KMap α) (a : Nat),
    a ≤ m.foldl (fun m (p : Nat × α) => max m (p.1 + 1)) a ∧ ∀ p ∈ m, p.1 < m.foldl (fun m (p : Nat × α) => max m (p.1 + 1)) a
  | [], a => ⟨Nat.le_refl a, by simp⟩
  | q :: r, a => by
    obtain ⟨hle, hlt⟩ := lt_foldl_max r (max a (q.1 + 1))
    rw [List.foldl_cons]
    refine ⟨by omega, fun p hp => ?_⟩
    rcases List.mem_cons.mp hp with rfl | hr
    · omega
    · exact hlt p hr

/-- The number that a placed block takes is free on its core. -/
theorem block_freeBlockId (s : State) (c : Nat) : s.block c (freeBlockId (s.core c)) = none :=
  kget_none_of_above _ _ (lt_foldl_max (s.core c).blocks 0).2

theorem treePlace_cores (s : State) (t l c : Nat) : (treePlace s t l c).cores = s.cores := rfl

/-- The block that a placement puts on a core. -/
theorem placeBlock_block (s : State) (c : Nat) (u : Waiting) (i : Nat) :
    ∃ k, (placeBlock s c u i).block c (freeBlockId (s.core c)) = some k ∧ k.tenant = u.tenant ∧ k.launch = u.launch ∧
      k.index = i ∧ k.kern = u.kern ∧ k.started = false := by
  refine ⟨{ newBlock s c u i with
      share := sharePages (s.core c) u, zeros := (sharePages (s.core c) u).filter (s.core c).clear.contains },
    ?_, rfl, rfl, rfl, rfl, rfl⟩
  unfold placeBlock
  dsimp only
  rw [block_of_cores (treePlace_cores ..), State.updLaunch_block, State.block, State.updCore_core_self]
  split <;> split <;> exact kget_kset_self ..

theorem placeBlock_dom (s : State) (c : Nat) (u : Waiting) (i d : Nat) : (placeBlock s c u i).dom d = s.dom d := rfl

/-- A segment that is fetched changes its core's overlay slots alone. -/
theorem wantSegment_keeps (s : State) (c seg x b d : Nat) :
    (wantSegment s c seg).block x b = s.block x b ∧ (wantSegment s c seg).dom d = s.dom d := by
  unfold wantSegment
  dsimp only
  split
  · exact ⟨rfl, rfl⟩
  · split
    · refine ⟨?_, rfl⟩
      by_cases hx : x = c
      · subst hx
        rw [State.block, State.updCore_core_self, State.block]
      · rw [State.block, State.updCore_core_ne _ _ hx, State.block]
    · exact ⟨rfl, rfl⟩

theorem wantSegments_keep (s : State) (c x b d : Nat) (segs : List Nat) :
    (segs.foldl (fun s y => wantSegment s c y) s).block x b = s.block x b ∧
      (segs.foldl (fun s y => wantSegment s c y) s).dom d = s.dom d :=
  foldl_keeps (fun u : State => u.block x b = s.block x b ∧ u.dom d = s.dom d) _
    (fun u y hu => ⟨(wantSegment_keeps u c y x b d).1.trans hu.1, (wantSegment_keeps u c y x b d).2.trans hu.2⟩) _ _ ⟨rfl, rfl⟩

/-- With no placed block to start, the head of a domain's queue that a dispatching tenant owns goes to the core picked for it. -/
theorem startNext_places {s : State} {d c : Nat} {u : Waiting} (hn : unstarted s d = [])
    (hq : (s.dom d).queue.find? (fun u => (s.ten u.tenant).pstat == 0) = some u) (ht : domainTakes s d = true)
    (hp : pickCores s d u = some [c]) :
    startNext s d = (needSegs (placeBlock (s.updDom d fun k => { k with queue := k.queue.erase u }) c u u.first) u.image u.kern).foldl
      (fun s x => wantSegment s c x) (placeBlock (s.updDom d fun k => { k with queue := k.queue.erase u }) c u u.first) := by
  unfold startNext
  simp only [hn, List.find?_nil, List.foldl_nil]
  rw [hq]
  simp only [ht, hp, Bool.not_true, Bool.false_eq_true, if_false]
  rfl

/-! A block leaves. -/

theorem kget_kmap {α : Type} (f : Nat → α → α) : ∀ (m : KMap α) (k : Nat), kget (kmap m f) k = (kget m k).map (f k)
  | [], _ => rfl
  | (j, v) :: r, k => by
    have ih := kget_kmap f r k
    unfold kmap at ih ⊢
    simp only [List.map_cons, kget, ih]
    split
    · subst_vars; rfl
    · rfl

/-- A core does not hold a block. -/
def Lacks (c b : Nat) (s : State) : Prop := s.block c b = none

section
variable {c b : Nat} {s : State}

theorem Lacks.of_cores {u : State} (h : Lacks c b s) (e : u.cores = s.cores) : Lacks c b u := (block_of_cores e c b).trans h

theorem Lacks.updCore (h : Lacks c b s) (x : Nat) (f : Core → Core) (hf : ∀ k, (f k).blocks = k.blocks) :
    Lacks c b (s.updCore x f) := by
  unfold Lacks State.block
  by_cases hx : c = x
  · subst hx
    rw [State.updCore_core_self, hf]
    exact h
  · rw [State.updCore_core_ne _ _ hx]
    exact h

theorem Lacks.updBlock (h : Lacks c b s) (x y : Nat) (f : Block → Block) : Lacks c b (s.updBlock x y f) := by
  unfold Lacks
  by_cases hx : (c, b) = (x, y)
  · obtain ⟨rfl, rfl⟩ := Prod.mk.inj hx
    rw [State.updBlock_block_self, show s.block c b = none from h]
    rfl
  · rw [State.updBlock_block_ne s _ hx]
    exact h

/-- Changing every block of every core, kept ones too, adds none. -/
theorem Lacks.mapBlocks (h : Lacks c b s) (f : Nat → Block → Block) :
    Lacks c b { s with cores := kmap s.cores fun _ (x : Core) => { x with blocks := kmap x.blocks f, kept := kmap x.kept f } } := by
  unfold Lacks State.block State.core at h ⊢
  dsimp only
  rw [kget_kmap]
  cases hc : kget s.cores c with
  | none => rfl
  | some x =>
    rw [hc] at h
    simp only [Option.getD_some] at h
    simp [kget_kmap, h]

theorem Lacks.setBar (h : Lacks c b s) (x y : Nat) (k : Block) (g lvl n : Nat) (v : Bar) : Lacks c b (setBar s x y k g lvl n v) := by
  unfold Machine.setBar
  split
  · exact h.updBlock _ _ _
  · split
    · exact h
    · exact h.of_cores rfl

theorem Lacks.updSharers (h : Lacks c b s) (x y : Nat) (k : Block) (lvl : Nat) (f : Block → Block) :
    Lacks c b (updSharers s x y k lvl f) := by
  unfold Machine.updSharers
  split
  · exact h.updBlock _ _ _
  · exact h.mapBlocks _

theorem Lacks.completeBar (h : Lacks c b s) (x y : Nat) (k : Block) (g lvl n : Nat) : Lacks c b (completeBar s x y k g lvl n) := by
  have hset := h.setBar x y k g lvl n { getBar s k g lvl n with gen := (getBar s k g lvl n).gen + 1, arrived := [] }
  have hflags := hset.updBlock x y fun j => j.takeTileFlags n (getBar s k g lvl n).gen
  unfold Machine.completeBar
  dsimp only
  split <;> split
  · exact hflags
  · exact hset
  · exact hflags.updSharers _ _ _ _ _
  · exact hset.updSharers _ _ _ _ _

theorem Lacks.completeGrid (h : Lacks c b s) (t l n : Nat) : Lacks c b (completeGrid s t l n) := by
  unfold Machine.completeGrid
  split
  · exact h
  · exact Lacks.mapBlocks (h.of_cores (State.updLaunch_cores s t l _)) _

theorem Lacks.tryComplete (h : Lacks c b s) (x y g lvl n : Nat) : Lacks c b (tryComplete s x y g lvl n) := by
  unfold Machine.tryComplete
  split
  · split
    · exact h
    · split
      · exact h.completeBar _ _ _ _ _ _
      · exact h
  · exact h

theorem Lacks.memberArrive (h : Lacks c b s) (x y g lvl n m : Nat) : Lacks c b (memberArrive s x y g lvl n m) := by
  unfold Machine.memberArrive
  split
  · exact (h.setBar _ _ _ _ _ _ _).tryComplete _ _ _ _ _
  · exact h

theorem Lacks.recheckGrid (h : Lacks c b s) (t l : Nat) : Lacks c b (recheckGrid s t l) := by
  unfold Machine.recheckGrid
  split
  · exact h
  · refine foldl_keeps (Lacks c b) _ (fun u n hu => ?_) _ _ h
    split
    · split
      · dsimp only
        split
        · exact hu.completeGrid _ _ _
        · exact hu
      · exact hu
    · exact hu

theorem Lacks.deriveArrivals (h : Lacks c b s) (x y lvl n : Nat) : Lacks c b (deriveArrivals s x y lvl n) := by
  unfold Machine.deriveArrivals
  split
  · exact h
  · extract_lets sst arrive gs alive
    have harr : ∀ u m step, Lacks c b u → Lacks c b (arrive u m step) := by
      intro u m step hu
      dsimp only [arrive]
      split
      · split
        · exact hu
        · split
          · exact hu.updBlock _ _ _
          · exact hu.memberArrive _ _ _ _ _ _
      · exact hu
    split
    · exact foldl_keeps (Lacks c b) _ (fun u g hu =>
        iteInduction (motive := Lacks c b) (fun _ => harr u g (sst g) hu) fun _ => hu) _ _ h
    · split
      · exact harr _ _ _ h
      · exact h

theorem Lacks.recheckBlock (h : Lacks c b s) (x y : Nat) : Lacks c b (recheckBlock s x y) := by
  unfold Machine.recheckBlock
  split
  · exact h
  · have level : ∀ (lvl : Nat) (l : List Nat) (u : State), Lacks c b u →
        Lacks c b (l.foldl (fun s n => Machine.tryComplete (Machine.deriveArrivals s x y lvl n) x y 0 lvl n) u) := fun lvl =>
      foldl_keeps (Lacks c b) _ fun u n hu => (hu.deriveArrivals x y lvl n).tryComplete _ _ _ _ _
    refine level _ _ _ (level _ _ _ (level _ _ _ ?_))
    exact foldl_keeps (Lacks c b) _ (fun u g hu => foldl_keeps (Lacks c b) _ (fun v n hv => hv.tryComplete _ _ _ _ _) _ _ hu) _ _ h

end

theorem openNext_cores (s : State) (t p : Nat) : (openNext s t p).cores = s.cores := by
  unfold openNext
  split <;> rfl

theorem lowerCounter_cores (t : Nat) : ∀ (n lvl id : Nat) (s : State), (lowerCounter s t lvl id n).cores = s.cores
  | 0, _, _, _ => rfl
  | n + 1, lvl, id, s => by
    unfold lowerCounter
    extract_lets k v s₁ s₂ s₃
    have free : s₂.cores = s.cores := by
      dsimp only [s₂]
      split <;> rfl
    have next : s₃.cores = s.cores := by
      dsimp only [s₃]
      split
      · exact (openNext_cores s₂ t id).trans free
      · exact free
    split
    · rfl
    · split
      · split
        · exact (lowerCounter_cores t n _ _ s₃).trans next
        · exact next
      · rfl

theorem settlePreempt_cores (s : State) (t : Nat) : (settlePreempt s t).cores = s.cores := by
  unfold settlePreempt
  split <;> rfl

/-- A block that has left its core is not put back by what its departure sets off. -/
theorem Lacks.blockGone {c b : Nat} {s : State} (h : Lacks c b s) (k : Block) : Lacks c b (blockGone s k c) := by
  have hset : Lacks c b (s.updCore c settleCore) := h.updCore c settleCore fun k => by unfold settleCore; split <;> rfl
  unfold Machine.blockGone
  dsimp only
  split
  · exact hset.of_cores (settlePreempt_cores _ _)
  · refine Lacks.of_cores ?_ (settlePreempt_cores _ _)
    refine (foldl_keeps (Lacks c b) _ (fun u p hu => hu.recheckBlock p.1 p.2) _ _ ?_).recheckGrid _ _
    exact hset.of_cores (lowerCounter_cores _ _ _ _ _)

/-- A complete block is no longer on its core (R27). -/
theorem completeBlock_lacks {s : State} {c b : Nat} (hd : blockDone s c b = true) : Lacks c b (completeBlock s c b) := by
  unfold completeBlock
  split
  · assumption
  · simp only [hd, if_true]
    refine Lacks.blockGone ?_ _
    rw [Lacks, State.block, State.updCore_core_self]
    exact kget_kdel_self ..

theorem finishBlock_lacks {s : State} {c b : Nat} (hd : blockDone s c b = true) : Lacks c b (finishBlock s c b) := by
  unfold finishBlock
  split
  · dsimp only
    split
    · exact (completeBlock_lacks hd).of_cores (writeBackHost_cores _ _)
    · exact completeBlock_lacks hd
  · assumption

/-- Settles O47: a start is an acquire, the start mark and receipts; a placement takes a free number; and what a completion sets off
adds no block. -/
theorem blockSteps : Obligations.BlockSteps := by
  refine ⟨?_, ?_, ?_, ?_⟩
  · intro s d c b k hfind hk
    have hseg := List.find?_some hfind
    simp only [hk] at hseg
    obtain ⟨k', hk', hst, hl1, hi, hl, hn⟩ := startBlock_runs hk hseg
    exact ⟨startBlock s c b, k', congrArg Host.Outcome.next (startNext_starts hfind), hk', hst, hl1, hi, hl, hn⟩
  · intro s d u c hn hq ht hp
    obtain ⟨k, hk, hten, hlau, hidx, hkern, hst⟩ :=
      placeBlock_block (s.updDom d fun k => { k with queue := k.queue.erase u }) c u u.first
    refine ⟨_, _, k, congrArg Host.Outcome.next (startNext_places hn hq ht hp), block_freeBlockId s c,
      (wantSegments_keep _ c c _ d _).1.trans hk, hten, hlau, hidx, hkern, hst, ?_⟩
    rw [(wantSegments_keep _ c c 0 d _).2, placeBlock_dom, State.updDom_dom_self]
  · exact fun s c b hd => ⟨finishBlock s c b, rfl, finishBlock_lacks hd⟩
  · intro s c b k hk hd hst
    show Host.Outcome.next (finishBlock s c b) = _
    unfold finishBlock
    simp only [hk, hst, if_false]

end Sys2Proof.Machine
end

section
namespace Sys2Proof.Machine
open Sys2Proof

/-! ### Tenant commands (R31, R62, R63, R70, R330, R340, R342, R386, R387, R416) -/

/-- A command at the head whose OP is the one asked for and whose reserved fields are zero is carried out and ends (R386). -/
theorem runCommand_plain {s p : State} {t op last : Nat} {res : List Nat} {w : List W64} (hc : headCommand s t = (p, some w))
    (ho : cmdOp w = op) (hop : tenantOps.find? (fun q => q.1 == op) = some (op, last, res)) (hp : cmdPlain w last res = true)
    (act : State → List W64 → State × Nat × List (Nat × W64)) :
    runCommand s t op act = endCommand (act p w).1 t w (act p w).2.1 (act p w).2.2 := by
  simp [runCommand, hc, ho, hop, hp]

/-- LOAD ends with what the loader answers (R340, R387). -/
theorem load_ends {s p u : State} {t : Nat} {w : List W64} {e : LoadEnd} (hc : headCommand s t = (p, some w)) (ho : cmdOp w = 1)
    (hp : cmdPlain w 3 [4, 5, 6] = true)
    (he : loadObject p t (word w 1).toNat (word w 2).toNat (word w 3).toNat = (u, e)) :
    let v := match e.size with | some n => (putBytes u t ((word w 3).toNat + n) e.report).1 | none => u
    exec (.load t) s = .next (endCommand v t w e.status (if e.status = 0 then
      [(4, BitVec.ofNat 64 e.index), (5, e.hash.extractLsb' 0 64), (6, e.hash.extractLsb' 64 64)] else [])) := by
  refine (congrArg _ (runCommand_plain hc ho rfl hp _)).trans ?_
  simp only [he] <;> rfl

@[simp] theorem sweepImages_ten (s : State) (t : Nat) : (sweepImages s).ten t = s.ten t := rfl

/-- The stored image that a native image becomes with its first reference (R340 step 4). -/
def Native.stored (n : Native) (portable : Bool) : Image :=
  { hash := sha256 n.file, refs := 1, segs := n.segs, kernels := n.kernels
    nseg := (n.segs.map fun (i, _) => i + 1).foldl max 0, portable := portable }

/-- The state in which an image is stored under a number, and a tenant's index names it (R340 steps 5 and 6). -/
def withImage (s : State) (t index id : Nat) (im : Image) : State :=
  { s with images := kset s.images id im }.updTen t fun n => { n with codes := kset n.codes index id }

/-- No bytes are stored at once (R340 step 7). -/
theorem putBytes_nil (s : State) (t va : Nat) : putBytes s t va [] = (s, true) := rfl

/-- An image that the store does not hold, with room for it, is stored under the lowest free number and takes the lowest free index
of its tenant (R340 steps 4 to 6). -/
theorem loadNative_new {s : State} {t dest : Nat} {n : Native} {portable : Bool}
    (hnew : ∀ p ∈ (sweepImages s).images, p.2.hash ≠ sha256 n.file) (hroom : storeUsed (sweepImages s) + n.segs.length ≤ 32768)
    (hi : freeKey (s.ten t).codes < 65536) :
    let i := freeKey (s.ten t).codes
    loadNative s t dest n portable [] = (withImage (sweepImages s) t i (freeKey (sweepImages s).images) (n.stored portable),
      ⟨0, i, sha256 n.file, loadReport 0 i (sha256 n.file) (some n), some 0⟩) := by
  have hfind : (sweepImages s).images.find? (fun p => p.2.hash == sha256 n.file) = none :=
    List.find?_eq_none.mpr fun p hp => by simpa using hnew p hp
  simp only [loadNative, hfind, Option.map_none, Option.isNone_none, Bool.true_and, decide_eq_true_eq, Nat.not_lt.mpr hroom, if_false,
    Option.getD_none, putBytes_nil]
  exact if_neg (Nat.not_le.mpr hi)

/-- A file without a data image whose code becomes a new native image is loaded (R340). -/
theorem loadObject_new {s u : State} {t va len dest : Nat} {bs : List Byte} {f : CodeFile} {n : Native}
    (hb : tenantBytes s t va len = (u, some bs)) (hf : readFile bs = some f) (hd : f.dataLen = 0) (hn : nativeOf bs = .ok n) :
    loadObject s t va len dest = loadNative u t dest n f.portable [] := by
  simp [loadObject, hb, hf, hd, hn]

/-! Which words of a command are its reserved fields, by masks (R386, R387). -/

theorem zeroBits_of_mask {w m : W64} {lo n : Nat} (h : w &&& ~~~m = 0) (hm : ∀ i, i < n → m.getLsbD (lo + i) = false) (h64 : lo + n ≤ 64) :
    zeroBits w lo n = true := by
  have hbit : w.extractLsb' lo n = 0 := by
    apply BitVec.eq_of_getLsbD_eq
    intro i hi
    have := congrArg (fun v => v.getLsbD (lo + i)) h
    simp only [BitVec.getLsbD_and, BitVec.getLsbD_not, hm i hi] at this
    simpa [hi, show lo + i < 64 by omega] using this
  have := congrArg BitVec.toNat hbit
  exact decide_eq_true (by simpa [bits, Nat.shiftRight_eq_div_pow] using this)

theorem bit_zeros : bit (word (zeros 5) 0) 0 = false := by decide

/-- FWSET's operands in their fields, with a window that is off, reach the window's rule (R62, R63). -/
theorem fwset_ends {s p : State} {t : Nat} {w : List W64} (hc : headCommand s t = (p, some w)) (ho : cmdOp w = 3)
    (hp : cmdPlain w 6 [] = true) (h1 : word w 1 &&& ~~~0xF3F = 0) (hlen : w.length = 8) (h2 : word w 2 &&& ~~~0xFFF00F3 = 0)
    (hv : bits (word w 2) 16 12 = (p.ten t).vni) (h3 : word w 3 &&& ~~~0xFFFFFFFFFFF80 = 0) (h5 : word w 5 &&& ~~~0xFFFFFFFFFFFFF = 0)
    (h6 : word w 6 &&& ~~~0xFFFFFFFFFFFFF = 0) (hd : (p.ten t).domains.contains (bits (word w 1) 0 6) = true)
    (hf : kget (p.dom (bits (word w 1) 0 6)).fw (bits (word w 1) 8 4) = none) {regs : List W64} {st : Nat}
    (hr : writeWindow (bits (word w 1) 0 6) (zeros 5) [word w 2, word w 3, word w 4, word w 5, word w 6] = (regs, st)) :
    let d := bits (word w 1) 0 6
    let n := bits (word w 1) 8 4
    exec (.fwset t) s = .next (endCommand ((if bit (word regs 0) 0 then p else dropWindow p d n).updDom d fun x =>
      { x with fw := kset x.fw n regs }) t w st []) := by
  have hnew : (w.drop 2).take 5 = [word w 2, word w 3, word w 4, word w 5, word w 6] := by
    match w, hlen with
    | [_, _, _, _, _, _, _, _], _ => rfl
  have reserved : (zeroBits (word w 1) 6 2 && zeroBits (word w 1) 12 52 && zeroBits (word w 2) 28 36 && zeroBits (word w 2) 12 4 &&
      zeroBits (word w 2) 8 4 && zeroBits (word w 2) 2 2 && zeroBits (word w 3) 52 12 && zeroBits (word w 3) 0 7 &&
      zeroBits (word w 5) 52 12 && zeroBits (word w 6) 52 12) = true := by
    simp only [Bool.and_eq_true]
    exact ⟨⟨⟨⟨⟨⟨⟨⟨⟨zeroBits_of_mask h1 (by decide) (by omega), zeroBits_of_mask h1 (by decide) (by omega)⟩,
      zeroBits_of_mask h2 (by decide) (by omega)⟩, zeroBits_of_mask h2 (by decide) (by omega)⟩,
      zeroBits_of_mask h2 (by decide) (by omega)⟩, zeroBits_of_mask h2 (by decide) (by omega)⟩,
      zeroBits_of_mask h3 (by decide) (by omega)⟩, zeroBits_of_mask h3 (by decide) (by omega)⟩,
      zeroBits_of_mask h5 (by decide) (by omega)⟩, zeroBits_of_mask h6 (by decide) (by omega)⟩
  intro d n
  refine (congrArg _ (runCommand_plain hc ho rfl hp _)).trans ?_
  simp only [hnew, hf, Option.getD_none]
  have w0 : ∀ a b c d e : W64, word [a, b, c, d, e] 0 = a := fun _ _ _ _ _ => rfl
  have w1 : ∀ a b c d e : W64, word [a, b, c, d, e] 1 = b := fun _ _ _ _ _ => rfl
  have w3 : ∀ a b c d e : W64, word [a, b, c, d, e] 3 = d := fun _ _ _ _ _ => rfl
  have w4 : ∀ a b c d e : W64, word [a, b, c, d, e] 4 = e := fun _ _ _ _ _ => rfl
  simp only [w0, w1, w3, w4, reserved, hv, hd, bit_zeros, hr, Bool.not_true, bne_self_eq_false, Bool.false_and, Bool.or_self,
    Bool.false_eq_true, if_false]
  rfl

/-- A window that is off takes an enable whose fields are in order (R63). -/
theorem writeWindow_taken {d : Nat} {a : W64} {r : List W64} (he : bit a 0 = true) (hr : windowRefused d (a :: r) = false) :
    writeWindow d (zeros 5) (a :: r) = (setAt (a :: r) 0 ((a &&& ~~~3#64) ||| 1), 0) := by
  simp only [writeWindow, bit_zeros, show word (a :: r) 0 = a from rfl, he, hr, Bool.not_true, Bool.false_eq_true, if_false]

/-- Else it refuses it with ERR, and keeps the other fields (R63). -/
theorem writeWindow_refused {d : Nat} {a : W64} {r : List W64} (he : bit a 0 = true) (hr : windowRefused d (a :: r) = true) :
    writeWindow d (zeros 5) (a :: r) = (setAt (a :: r) 0 ((a &&& ~~~3#64) ||| 2), 2) := by
  simp only [writeWindow, bit_zeros, show word (a :: r) 0 = a from rfl, he, hr, Bool.not_true, Bool.false_eq_true, if_false, if_true]

/-- The EN bit of a control word that takes, or refuses, an enable. -/
theorem enable_bit (a : W64) (r : List W64) : bit (word (setAt (a :: r) 0 ((a &&& ~~~3#64) ||| 1)) 0) 0 = true ∧
    bit (word (setAt (a :: r) 0 ((a &&& ~~~3#64) ||| 2)) 0) 0 = false := by
  have hw : ∀ v : W64, word (setAt (a :: r) 0 v) 0 = v := fun _ => rfl
  constructor <;> simp [hw, bit]

/-- Settles O54: each command by what its action answers at a plain command. -/
theorem tenantCommandSteps : Obligations.TenantCommandSteps := by
  refine ⟨⟨?load, ?loaded⟩, ⟨?unload, ?fwset, ?unpoison⟩, ⟨?lvlfree, ?rules, ?attest⟩⟩
  case load =>
    intro s t p w hc ho hp u e he v
    have h := load_ends hc ho hp he
    exact ⟨fun h0 => h.trans (by rw [if_pos h0, h0] <;> rfl), fun h0 => h.trans (by rw [if_neg h0] <;> rfl)⟩
  case loaded =>
    intro s t va len dest u bs f n hb hf hd hn v i hnew hroom hi
    refine ⟨_, n.stored f.portable, (loadObject_new hb hf hd hn).trans (loadNative_new hnew hroom hi), ?_, ?_, rfl, rfl, rfl, rfl⟩
    · simp [withImage, State.updTen_ten_self, kget_kset_self, i, v]
    · exact kget_kset_self ..
  case unload =>
    intro s t p w i hc ho hp hi
    refine (congrArg _ (runCommand_plain hc ho rfl hp _)).trans ?_
    simp only [unloadObject, hi]
  case fwset =>
    intro s t p w hc ho hp h1 d n new hlen h2 hv h3 h5 h6 hd hf
    refine ⟨fun he hr => ?_, fun he hr => ?_⟩
    · have h := fwset_ends hc ho hp h1 hlen h2 hv h3 h5 h6 hd hf (writeWindow_taken he hr)
      exact h.trans (by rw [if_pos (enable_bit _ _).1])
    · have h := fwset_ends hc ho hp h1 hlen h2 hv h3 h5 h6 hd hf (writeWindow_refused he hr)
      exact h.trans (by rw [if_neg (by simp only [(enable_bit _ _).2, Bool.false_eq_true, not_false_eq_true])])
  case unpoison =>
    intro s t p w hc ho hp hl
    refine (congrArg _ (runCommand_plain hc ho rfl hp _)).trans ?_
    simp only [hl, if_true]
  case lvlfree =>
    intro s t p w hc ho hp hz lvl id
    refine ⟨fun hs => (congrArg _ (runCommand_plain hc ho rfl hp _)).trans ?_,
      fun hs => (congrArg _ (runCommand_plain hc ho rfl hp _)).trans ?_⟩
    · simp only [hz, show ((p.ten t).counter (bits (word w 1) 0 2) (bits (word w 1) 2 12)).st = 3 from hs]
      rfl
    · have hb : (((p.ten t).counter (bits (word w 1) 0 2) (bits (word w 1) 2 12)).st == lvCancelled) = false := beq_false_of_ne hs
      simp only [hz, hb, Bool.not_true, Bool.false_eq_true, if_false]
  case rules =>
    intro s t p w u bs rs hc ho hp hb hr
    refine (congrArg _ (runCommand_plain hc ho rfl hp _)).trans ?_
    simp only [hb, hr]
  case attest =>
    intro s t p w u v nonce hc ho hp hn hb hv
    refine (congrArg _ (runCommand_plain hc ho rfl hp _)).trans ?_
    simp only [if_neg (show ¬ attestMax ≤ p.mod.attests from Nat.not_le.mpr hn), hb, hv]

end Sys2Proof.Machine
end

section
namespace Sys2Proof.Machine
open Sys2Proof

/-! ### Power-on (R31, R366, R375, R380, R401, R409, R411) -/

/-- Settles O60: nothing is listed at power-on, so that every record read is the fresh one of its kind. -/
theorem resetState : Obligations.ResetState := by
  refine ⟨rfl, fun _ => rfl, rfl, rfl, rfl, rfl, fun t => ?_, fun _ => rfl, fun _ => rfl, fun _ => rfl⟩
  have ht : State.reset.ten t = Tenant.fresh := rfl
  rw [ht]
  exact ⟨rfl, rfl, rfl, fun _ => ⟨rfl, rfl⟩, fun _ _ => rfl⟩

end Sys2Proof.Machine
end

section
namespace Sys2Proof.Machine
open Sys2Proof

/-! ### Channel configuration and status, command submission and idempotent regions (R138, R142-R145, R284-R286) -/

/-- The issue's count shows in a core's blocks alone. -/
theorem openIssue_core (s : State) (h : Here) (i : Nat) :
    (openIssue s h).core i = { s.core i with blocks := ((openIssue s h).core i).blocks } := State.updGroup_core ..

/-- The sources of an issue are those of the state it started from. -/
theorem fetchSrcs_openIssue (s : State) (h : Here) (r : Row) (x : Ext) (ls : List Nat) :
    fetchSrcs (openIssue s h) h r x ls = ((fetchSrcs s h r x ls).1, openIssue (fetchSrcs s h r x ls).2 h) :=
  fetchSrcs_updGroup ..

/-- CHCFG of an entry that is not in use (R138, R284). -/
theorem chcfg_writes {i : Instr} {x : Ext} {len : Nat} {s : State} {h : Here} (hu : UniIssue i s Rows.chcfg x len h false)
    (hfree : kget (s.core h.c).chans (x.aux8.extractLsb' 0 6).toNat = none)
    (hok : chanWordOk s h.ten h.blk.kern.scratch ((fetchSrcs s h Rows.chcfg x []).1.a 0) = true) :
    exec i s = .next (h.completed len x.s (configChan (openIssue (fetchSrcs s h Rows.chcfg x []).2 h) h.c h.b
      (x.aux8.extractLsb' 0 6).toNat ((fetchSrcs s h Rows.chcfg x []).1.a 0))) := by
  have hch : ((openIssue s h).core h.c).chan (x.aux8.extractLsb' 0 6).toNat = Chan.fresh := by
    rw [openIssue_core, Core.chan, hfree]; rfl
  have hw : chanWordOk (openIssue s h) h.ten h.blk.kern.scratch ((fetchSrcs s h Rows.chcfg x []).1.a 0) = true := hok
  rw [uniIssue_exec hu rfl (congrFun (groupBody_chcfg len) x) rfl]
  simp only [fetchSrcs_openIssue, hch, hw]
  rfl

/-- CHSTAT (R142, R284). -/
theorem chstat_sends {i : Instr} {x : Ext} {len : Nat} {s : State} {h : Here} (hu : UniIssue i s Rows.chstat x len h false) :
    exec i s = .next (h.completed len x.s (pendUni (openIssue s h) h Rows.chstat x
      (chanStatus (s.core h.c) h.b (x.aux8.extractLsb' 0 6).toNat) 0)) := by
  rw [uniIssue_exec hu rfl (congrFun (groupBody_chstat len) x) rfl, openIssue_core]
  rfl

/-- VQSEND of a checked command that finds room (R143, R285). -/
theorem vqsend_enqueues {i : Instr} {x : Ext} {len : Nat} {s : State} {h : Here} (hu : UniIssue i s Rows.vqsend x len h false)
    (hok : cmdOk (octet h x) = true) (hroom : 16 ≤ (s.core h.c).vqFree) (hlock : lockRoom (s.core h.c) (octet h x) = true) :
    exec i s = .next (h.completed len x.s (enqueueCmd (openIssue s h) h.c h.b h.g h.ten (octet h x))) := by
  have hl : lockRoom ((openIssue s h).core h.c) (octet h x) = true := by rw [openIssue_core]; exact hlock
  have hv : ((openIssue s h).core h.c).vqFree = (s.core h.c).vqFree := updGroup_vqFree ..
  rw [uniIssue_exec hu rfl (congrFun (groupBody_vqsend len) x) rfl]
  simp only [hok, hl, hv, Nat.not_lt.mpr hroom, Bool.not_true, Bool.false_eq_true, decide_false, Bool.or_self, if_false]
  rfl

/-- Where no base form issues a row, its length is that of an extended instruction (R177, R202). -/
theorem issued_ext_len {i : Instr} {r : Row} {x : Ext} {len : Nat} (h : i.issued = some (r, x, len))
    (hb : ∀ q b, i.form = .base q b → q.row.xop ≠ r.xop) : len = extLen x := by
  unfold Instr.issued at h
  split at h
  case h_1 =>
    simp only [Option.some.injEq, Prod.mk.injEq] at h
    obtain ⟨-, rfl, rfl⟩ := h
    rfl
  case h_2 hf =>
    simp only [Option.some.injEq, Prod.mk.injEq] at h
    exact absurd (congrArg Row.xop h.1) (hb _ _ hf)
  case h_3 => cases h

/-- MWAIT and IDMB have no base form (R202). -/
theorem base_row_ne_mwait_idmb {i : Instr} {r : BaseRow} {b : Base} (h : i.form = .base r b) :
    r.row.xop ≠ Rows.mwait.xop ∧ r.row.xop ≠ Rows.idmb.xop := by
  cases i <;> simp only [Instr.form, Form.base.injEq, reduceCtorEq] at h <;> (obtain ⟨rfl, -⟩ := h; decide)

/-- The block of a tenant that is not being pre-empted goes on inside a region (R397). -/
theorem finRegion_running {s : State} {h : Here} (hh : here s = some h) (hp : (s.ten h.blk.tenant).pstat ≠ 1) (f : Group → Group) :
    finRegion (s.updGroup h.c h.b h.g f) h = .fin (s.updGroup h.c h.b h.g f) := by
  have hk : (s.updGroup h.c h.b h.g f).block h.c h.b = some { h.blk with groups := kupd h.blk.groups h.g f } := by
    rw [State.updGroup, State.updBlock_block_self, (here_spec hh).1]; rfl
  have hp' : ((s.ten h.blk.tenant).pstat == 1) = false := beq_false_of_ne hp
  have hd : maybeDiscard (s.updGroup h.c h.b h.g f) h.c h.b = s.updGroup h.c h.b h.g f := by
    simp only [maybeDiscard, hk, State.updGroup_ten, hp', Bool.false_and, Bool.false_eq_true, if_false]
  simp only [finRegion, hd, State.updGroup_group_self, here_group hh, Option.map_some, Option.isSome_some, if_true]

/-- IDMB (R286). -/
theorem idmb_opens {i : Instr} {x : Ext} {len : Nat} {s : State} {h : Here} (hu : UniIssue i s Rows.idmb x len h false)
    (hp : (s.ten h.blk.tenant).pstat ≠ 1) :
    exec i s = .next (s.updGroup h.c h.b h.g fun _ => h.advanced len x.s { h.counted with
      restart := some ⟨h.ent.pc.plus len, h.ent.prio, h.ent.mask, (List.range 7).map fun j => h.grp.rs h.tick (j + 1)⟩ }) := by
  obtain ⟨-, -, -, ht, -⟩ := here_spec hu.2.1
  obtain rfl := issued_ext_len hu.1 fun _ _ hf => (base_row_ne_mwait_idmb hf).2
  rw [uniIssue_exec hu rfl (congrFun (groupBody_idmb _) x) rfl]
  simp only [openIssue_updGroup hu.2.1, finRegion_running hu.2.1 hp]
  exact congrArg _ (settle_fin_updGroup (here_group hu.2.1) ht.symm _ _ _)

/-- IDME (R286). -/
theorem idme_closes {i : Instr} {x : Ext} {len : Nat} {s : State} {h : Here} (hu : UniIssue i s Rows.idme x len h false) :
    exec i s = .next (s.updGroup h.c h.b h.g fun _ => h.advanced len x.s { h.counted with restart := none }) := by
  obtain ⟨-, -, -, ht, -⟩ := here_spec hu.2.1
  rw [uniIssue_exec hu rfl (congrFun (groupBody_idme len) x) rfl]
  simp only [openIssue_updGroup hu.2.1]
  exact congrArg _ (settle_fin_updGroup (here_group hu.2.1) ht.symm _ _ _)

/-- Settles O36: each of the five instructions as its issue carries it out. -/
theorem channelOperations : Obligations.ChannelOperations :=
  ⟨fun _ _ _ _ _ hu => chcfg_writes hu, fun _ _ _ _ _ hu => chstat_sends hu, fun _ _ _ _ _ hu => vqsend_enqueues hu,
    fun _ _ _ _ _ hu => idmb_opens hu, fun _ _ _ _ _ hu => idme_closes hu⟩

end Sys2Proof.Machine
end

section
namespace Sys2Proof.Machine
open Sys2Proof

/-! ### Copies, receipts, chain slots and monitors (R125, R126, R129, R130, R280-R283) -/

/-- A copy instruction whose record passes its checks and finds room (R125, R280). -/
theorem xfer_queued {i : Instr} {r : Row} {ops : List Nat} {x : Ext} {len : Nat} {s : State} {h : Here}
    (hu : UniIssue i s r x len h false) (ht : r.tile = false) (hb : groupBody r.xop len = xferBody r ops) :
    let w := 0 :: (octet h x).drop 1
    xOp w ∈ ops → xferOk w h.blk.clus h.blk.kern.scratch false = true → copyRoom (s.core h.c) w = true →
    exec i s = .next (h.completed len x.s (acceptXfer (beforePublish (openIssue s h) h true) h.c h.b h.ten h.g w none)) := by
  intro w hop hok hroom
  have hr : copyRoom ((openIssue s h).core h.c) w = true := by rw [openIssue_core]; exact hroom
  rw [uniIssue_exec hu ht (congrFun hb x) rfl]
  simp only [List.contains_iff_mem.mpr hop, hok, hr, w, Bool.not_true, Bool.or_self, Bool.false_eq_true, if_false]
  rfl

/-- MACK to a rank of the cluster (R130, R281). -/
theorem mack_receipts {i : Instr} {x : Ext} {len : Nat} {s : State} {h : Here} (hu : UniIssue i s Rows.mack x len h false) :
    let q := fetchSrcs s h Rows.mack x []
    (q.1.a 0).toNat < h.blk.clus →
    exec i s = .next (h.completed len x.s (giveReceipt (beforePublish (openIssue q.2 h) h true) h.blk (q.1.a 0).toNat
      (x.aux8.extractLsb' 0 2).toNat)) := by
  intro q hlt
  have hrank : ¬ h.blk.clus ≤ ((fetchSrcs s h Rows.mack x []).1.a 0).toNat := Nat.not_le.mpr hlt
  rw [uniIssue_exec hu rfl (congrFun (groupBody_mack len) x) rfl]
  simp only [fetchSrcs_openIssue, hrank, if_false]
  rfl

/-- What CHAIN makes of its slot (R126). -/
def chainedSlot (k : ChainSlot) (b a : Nat) : ChainSlot :=
  if k.state == 0 then ⟨1, b, a, a, none⟩ else if k.state == 3 then { k with state := 1, cur := a, tail := a }
  else { k with state := 1, tail := a }

theorem chainedSlot_idle {k : ChainSlot} (b a : Nat) (h : k.state = 0) : chainedSlot k b a = ⟨1, b, a, a, none⟩ := by
  rw [chainedSlot, h]; rfl
theorem chainedSlot_running {k : ChainSlot} (b a : Nat) (h : k.state = 1 ∨ k.state = 2) :
    chainedSlot k b a = { k with state := 1, tail := a } := by
  rcases h with h | h <;> (rw [chainedSlot, h]; rfl)
theorem chainedSlot_stopped {k : ChainSlot} (b a : Nat) (h : k.state = 3) :
    chainedSlot k b a = { k with state := 1, cur := a, tail := a } := by
  rw [chainedSlot, h]; rfl

/-- CHAIN on a slot that is idle or its block's own (R126, R282). -/
theorem chain_starts {i : Instr} {x : Ext} {len : Nat} {s : State} {h : Here} (hu : UniIssue i s Rows.chain x len h false) :
    let q := fetchSrcs s h Rows.chain x []
    let a := (q.1.a 0).toNat
    let n := (x.aux8.extractLsb' 0 2).toNat
    let k := (kget (s.core h.c).chains n).getD ⟨0, 0, 0, 0, none⟩
    a % 64 = 0 → (k.state = 0 ∨ k.owner = h.b) →
    exec i s = .next (h.completed len x.s ((beforePublish (openIssue q.2 h) h true).updCore h.c fun y =>
      { y with chains := kset y.chains n (chainedSlot k h.b a) })) := by
  intro q a n k ha hk
  have hc : ((openIssue s h).core h.c).chains = (s.core h.c).chains := by rw [openIssue_core]
  have hfree : (k.state != 0 && k.owner != h.b) = false := by
    rcases hk with hk | hk <;> simp [hk]
  have ha' : (a % 64 != 0) = false := by simp [ha]
  rw [uniIssue_exec hu rfl (congrFun (groupBody_chain len) x) rfl]
  simp only [fetchSrcs_openIssue, hc]
  simp only [k, n, a, q] at hfree ha'
  simp only [hfree, ha', Bool.false_eq_true, if_false]
  rfl

/-- MARM on a word of the share, and on a word of global memory that translates (R129, R283). -/
theorem marm_arms {i : Instr} {x : Ext} {len : Nat} {s : State} {h : Here} (hu : UniIssue i s Rows.marm x len h false) :
    let q := fetchSrcs s h Rows.marm x []
    let a := (q.1.a 0).toNat
    let arm (u : State) (at_ : Nat) := exec i s = .next (h.completed len x.s ((fetchSrcs u h Rows.marm x []).2.updGroup h.c h.b h.g
      fun g => { g with monitors := kset g.monitors (x.aux8.extractLsb' 0 2).toNat ⟨at_, x.mod6.getLsbD 0, a⟩ }))
    a % 8 = 0 →
    (x.mod6.getLsbD 0 = true → a < h.blk.kern.scratch → arm (openIssue s h) a) ∧
    (x.mod6.getLsbD 0 = false → ∀ s1 l va pa, translateLanes (openIssue s h) h false [(0, a)] = (s1, .ok [(l, va, pa)]) → arm s1 pa) := by
  intro q a arm ha
  have ha' : (a % 8 != 0) = false := by simp [ha]
  have hq : (fetchSrcs (openIssue s h) h Rows.marm x []).1 = q.1 := by rw [fetchSrcs_openIssue]
  simp only [a] at ha'
  simp only [arm]
  rw [uniIssue_exec hu rfl (congrFun (groupBody_marm len) x) rfl]
  simp only [hq, ha', Bool.false_eq_true, if_false]
  refine ⟨fun hsp hlt => ?_, fun hsp s1 l va pa htr => ?_⟩
  · rw [if_pos hsp, if_neg (Nat.not_le.mpr hlt)]
    rfl
  · rw [if_neg (by rw [hsp]; exact Bool.false_ne_true), show (fetchSrcs s h Rows.marm x []).1 = q.1 from rfl, htr]
    rfl

/-- The condition of MWAIT on a word (R129). -/
theorem monHit_iff (w v : W64) : monHit w.toNat v = true ↔ (w - v).toNat < 2 ^ 63 ∨ w = BitVec.allOnes 64 := by
  have hw : w.toNat = 2 ^ 64 - 1 ↔ w = BitVec.allOnes 64 := by
    rw [← BitVec.toNat_inj, BitVec.toNat_allOnes]
  simp only [monHit, BitVec.ofNat_toNat, BitVec.setWidth_eq, Bool.or_eq_true, decide_eq_true_eq, beq_iff_eq, hw]

/-- A trapped instruction's opportunity is not counted (R16, R19). -/
theorem uncount_openIssue {s : State} {h : Here} (hh : here s = some h) :
    uncount (openIssue s h) h = s.updGroup h.c h.b h.g fun _ => h.grp := by
  rw [uncount, openIssue_updGroup hh]
  rfl

/-- Delivery of a trap to the group that issues (R224): into its handler, or its block is killed. -/
theorem deliverTrap_here {s : State} {h : Here} (hh : here s = some h) (t : Trap) (xpc : Pc) :
    let u := s.updGroup h.c h.b h.g fun _ => h.grp
    (∀ target, h.blk.kern.trap = some target → h.grp.handler = none → deliverTrap u h.c h.b h.g h.ent t xpc =
      s.updGroup h.c h.b h.g fun _ => { enterHandler h.grp target h.ent.mask (some h.ent) with
        xpc := xpc.toTarget, xprio := h.ent.prio.setWidth 32, xcode := t.code.setWidth 32, xinfo := t.info }) ∧
    (h.blk.kern.trap = none ∨ h.grp.handler ≠ none →
      deliverTrap u h.c h.b h.g h.ent t xpc = killAndFail u h.c h.b t.code.toNat [h.ent.pc.toTarget, 0, 0, 0]) := by
  intro u
  have hg : u.group h.c h.b h.g = some h.grp := by rw [State.updGroup_group_self, here_group hh]; rfl
  have hk : u.block h.c h.b = some { h.blk with groups := kupd h.blk.groups h.g fun _ => h.grp } := by
    simp only [u, State.updGroup, State.updBlock_block_self, (here_spec hh).1, Option.map_some]
  refine ⟨fun target ht hn => ?_, fun hno => ?_⟩
  · simp only [deliverTrap, hk, hg, ht, hn, u, State.updGroup_updGroup]
  · simp only [deliverTrap, hk, hg]
    split
    · rename_i ht hn
      exact absurd hno (by simp [ht, hn])
    · rfl

/-- An instruction whose issue ends in a trap raises it with %xpc at itself (R185, R224). -/
theorem trapsWith_of_settle {i : Instr} {s : State} {h : Here} {len code : Nat} {sb : Bool} {info : W64} (hh : here s = some h)
    (hcode : code < 256) (he : exec i s = .next (settleOut h len sb (.trap (openIssue s h) code info))) :
    trapsWith i s h code info h.ent.pc := by
  have hw : (BitVec.ofNat 8 code).toNat = code := by simp [Nat.mod_eq_of_lt hcode]
  have hc : (BitVec.ofNat 8 code).setWidth 32 = BitVec.ofNat 32 code := by
    apply BitVec.eq_of_toNat_eq; rw [BitVec.toNat_setWidth, hw, BitVec.toNat_ofNat]
  obtain ⟨henter, hkill⟩ := deliverTrap_here hh ⟨BitVec.ofNat 8 code, info⟩ h.ent.pc
  simp only [settleOut, uncount_openIssue hh, raiseTrap] at he
  refine ⟨fun target ht => ?_, fun ht hn hm => ?_, fun hno => ?_⟩
  · obtain ⟨ht, hn, hm⟩ := ht
    rw [he, if_pos (by simp [hm]), henter target ht hn, hc]
    rfl
  · obtain ⟨target, ht⟩ := Option.ne_none_iff_exists'.mp ht
    rw [he, if_neg (by simp [ht, hn, hm]), State.updGroup_updGroup]
    simp only [hn, Option.isSome_none]
  · have hcond : (h.grp.mayEnter || h.blk.kern.trap.isNone || h.grp.handler.isSome) = true := by
      rcases hno with hno | hno
      · simp [hno]
      · simp [Option.isSome_iff_ne_none.mpr hno]
    rw [he, if_pos hcond, hkill hno, hw]

/-- Nothing of a push is stuck: it completes (R137, R143). -/
theorem finPush_free {s0 u : State} {x : Ext} (hf : x.dcl = true → vqStuck u s0.cur.core x.d.toNat = false) :
    finPush s0 x (u, true) = .fin u := by
  cases hd : x.dcl with
  | false => simp [finPush, hd]
  | true => simp [finPush, hd, hf hd]

/-- The agent of an issue is its group. -/
theorem openIssue_cur_core {s : State} {h : Here} (hh : here s = some h) : (openIssue s h).cur.core = h.c := by
  obtain ⟨-, -, -, -, hc⟩ := here_spec hh
  rw [openIssue, State.updGroup_cur, hc]

/-- MWAIT on an armed monitor (R129, R283): RANGELOCK, the word that has reached its value, or the wait for it. -/
theorem mwait_issues {i : Instr} {x : Ext} {len : Nat} {s : State} {h : Here} {m : Monitor}
    (hu : UniIssue i s Rows.mwait x len h false) (hm : kget h.grp.monitors (x.aux8.extractLsb' 0 2).toNat = some m) :
    let q := fetchSrcs s h Rows.mwait x []
    (rangeLocked s h.c h.b m.spad m.va 8 false = true → trapsWith i s h 0x05 (BitVec.ofNat 64 m.va) h.ent.pc) ∧
    ∀ s1 w, rangeLocked s h.c h.b m.spad m.va 8 false = false → monRead (openIssue q.2 h) h.c h.b h.ten m = (s1, some w) →
      (∀ u, monHit w (q.1.a 0) = true →
        dstUni (monAcquire s1 h m (x.aux8.extractLsb' 4 4) w) h Rows.mwait x (BitVec.ofNat 64 w) = (u, true) →
        (x.dcl = true → vqStuck u h.c x.d.toNat = false) → exec i s = .next (h.completed len x.s u)) ∧
      (monHit w (q.1.a 0) = false → exec i s = .next (h.departed x.s (waitAt
        (if x.dcl then reservePush s1 h.c x.d.toNat 2 else s1) h (.mon (x.aux8.extractLsb' 0 2).toNat m (q.1.a 0)
        (x.aux8.extractLsb' 4 4) x.dcl x.d.toNat (h.ent.pc.plus len))))) := by
  intro q
  obtain rfl := issued_ext_len hu.1 fun _ _ hf => (base_row_ne_mwait_idmb hf).1
  have hl : rangeLocked (openIssue s h) h.c h.b m.spad m.va 8 false = rangeLocked s h.c h.b m.spad m.va 8 false := by
    unfold rangeLocked; rw [openIssue_core]
  have he := uniIssue_exec hu rfl (congrFun (groupBody_mwait (extLen x)) x) rfl
  simp only [fetchSrcs_openIssue, hm, hl] at he
  refine ⟨fun hlock => ?_, fun s1 w hlock hr => ?_⟩
  · rw [if_pos hlock] at he
    exact trapsWith_of_settle hu.2.1 (by decide) he
  · simp only [hlock, show monRead (openIssue (fetchSrcs s h Rows.mwait x []).2 h) h.c h.b h.ten m = (s1, some w) from hr,
      Bool.false_eq_true, if_false] at he
    refine ⟨fun u hhit hd hf => ?_, fun hmiss => ?_⟩
    · rw [if_pos hhit, hd, finPush_free (by rw [openIssue_cur_core hu.2.1]; exact hf)] at he
      exact he
    · rw [if_neg (by rw [hmiss]; exact Bool.false_ne_true)] at he
      exact he

/-- Settles O35: each instruction as its issue carries it out, CHAIN by its slot's state. -/
theorem copyOperations : Obligations.CopyOperations := by
  refine ⟨⟨?cpy, fun _ _ _ _ _ hu => mack_receipts hu, ?chain, fun _ _ _ _ _ hu => marm_arms hu,
    fun _ _ _ _ _ _ hu hm => mwait_issues hu hm⟩, monHit_iff⟩
  case cpy =>
    intro p hp i x len s h hu
    simp only [List.mem_cons, List.not_mem_nil, or_false] at hp
    rcases hp with rfl | rfl | rfl
    · exact xfer_queued hu rfl (groupBody_cpy len)
    · exact xfer_queued hu rfl (groupBody_cpyr len)
    · exact xfer_queued hu rfl (groupBody_cpym len)
  case chain =>
    intro i x len s h hu q a n onto ha
    have hc := chain_starts hu ha
    refine ⟨fun hidle => ?_, fun k hk ho hst => ?_, fun k hk ho hst => ?_⟩
    · have h0 : ((kget (s.core h.c).chains n).getD ⟨0, 0, 0, 0, none⟩).state = 0 := by
        cases hk : kget (s.core h.c).chains n with
        | none => rfl
        | some k => exact hidle k hk
      rw [chainedSlot_idle h.b a h0] at hc
      exact hc (.inl h0)
    · rw [show kget (s.core h.c).chains (x.aux8.extractLsb' 0 2).toNat = some k from hk, Option.getD_some,
        chainedSlot_running _ _ hst] at hc
      exact hc (.inr ho)
    · rw [show kget (s.core h.c).chains (x.aux8.extractLsb' 0 2).toNat = some k from hk, Option.getD_some,
        chainedSlot_stopped _ _ hst] at hc
      exact hc (.inr ho)

end Sys2Proof.Machine
end

section
namespace Sys2Proof.Machine
open Sys2Proof

/-! ### Words pushed through channels (R138-R141, R143): each clause of O3 but for the empty push, which refutes it -/

/-- Every form of class F with a value for a vector register runs as its row's function on lanes (R229). -/
theorem valueRows_body : ∀ p ∈ valueRows, ∀ len, p.1.tile = false ∧ groupBody p.1.xop len = vecLanes p.1 p.2 := by
  simp only [valueRows, intRows, wordRows, fpRows, halfRows, moveRows, convertRows, List.cons_append, List.nil_append,
    List.forall_mem_cons]
  repeat' refine And.intro (fun _ => ⟨rfl, rfl⟩) ?_
  exact List.forall_mem_nil _

/-- Flags raised are no part of a record that is assembled. -/
theorem vqStuck_raiseFlags (s : State) (c b g t : Nat) (fl : Flags) (i ch : Nat) :
    vqStuck (raiseFlags s c b g t fl) i ch = vqStuck s i ch := by
  have hcount : ∀ u : State, vqStuck (countFlags u t fl) i ch = vqStuck u i ch := by
    intro u; unfold countFlags; split <;> rfl
  unfold raiseFlags
  split
  · rfl
  · rw [hcount, vqStuck, State.updGroup_core]; rfl

/-- A vector instruction of class F sends its lanes' words in lane order (R139, R140, R143). -/
theorem valueRows_push : ∀ p ∈ valueRows, vecPushes p.1 p.2 := by
  intro p hp i x len s u h hv hd q ws hpush hstuck
  obtain ⟨hi, hh, hiss⟩ := hv
  obtain ⟨ht, hb⟩ := valueRows_body p hp len
  rw [vecLanes_opens hi ht hb hh hiss]
  have hdst : dstVec (openIssue q.2 h) h p.1 x ((h.lanes x).map fun l => (l, (p.2 x h q.1 l).1)) = (u, true) := by
    simp only [dstVec, hd, if_true, List.map_map, Function.comp_def]
    exact hpush
  simp only [openIssue, q] at hdst
  simp only [hdst]
  rw [finPush_free fun _ => by rw [openIssue_cur_core hh, vqStuck_raiseFlags]; exact hstuck]
  rfl

/-- RDSR to a channel sends a word of each lane, or its one value (R139, R223). -/
theorem rdsr_pushes {i : Instr} {x : Ext} {len : Nat} {s u : State} {h : Here} (hu : UniIssue i s Rows.rdsr x len h false)
    (hm : specialMode x h = true) (hd : x.dcl = true) :
    let ws := if x.mod6.getLsbD 0 then lanePush false (laneList h.width h.ent.mask) fun l => readSpecial s h x.aux8 l
      else laneWords (uniWords Rows.rdsr x = 2) (readSpecial s h x.aux8 0)
    pushWords (reservePush (openIssue s h) h.c x.d.toNat ws.length) h.c h.b h.g h.ten x.d.toNat ws = (u, true) →
    vqStuck u h.c x.d.toNat = false → exec i s = .next (h.completed len x.s u) := by
  intro ws hpush hstuck
  have hfin : finPush (openIssue s h) x (u, true) = .fin u :=
    finPush_free fun _ => by rw [openIssue_cur_core hu.2.1]; exact hstuck
  have hp : pairOf Rows.rdsr.d x = false := rfl
  rw [uniIssue_exec hu rfl (congrFun (groupBody_rdsr len) x) hm]
  cases h0 : x.mod6.getLsbD 0 with
  | true =>
    simp only [ws, h0, if_true, lanePush, laneWords, Bool.false_eq_true, if_false] at hpush
    simp only [if_true, readSpecial_openIssue, dstVec, hd, hp, List.map_map, Function.comp_def, laneWords, low_half_of_masked,
      Bool.false_eq_true, if_false]
    rw [hpush, hfin]
    rfl
  | false =>
    simp only [ws, h0, Bool.false_eq_true, if_false] at hpush
    simp only [Bool.false_eq_true, if_false, readSpecial_openIssue, dstUni, hd, if_true]
    rw [hpush, hfin]
    rfl

/-- Words that complete no record are assembled behind those that wait (R143). -/
theorem pushVq_assembles (s : State) (c b g t ch : Nat) {ws : List W32} (hne : ws ≠ [])
    (hl : ((kget (s.core c).asm ch).getD []).length + ws.length < 16) :
    pushVq s c b g t ch ws = (s.updCore c fun k => { k with asm := kset k.asm ch (((kget k.asm ch).getD []) ++ ws) }, true) := by
  have hone : ∀ (u : State) (w : W32), ((kget (u.core c).asm ch).getD []).length + 1 < 16 → pushVq u c b g t ch [w] =
      (u.updCore c fun k => { k with asm := kset k.asm ch (((kget k.asm ch).getD []) ++ [w]) }, true) := by
    intro u w hu
    have h16 : (((kget (u.core c).asm ch).getD []) ++ [w]).length ≠ 16 := by rw [List.length_append, List.length_singleton]; omega
    simp only [pushVq, List.foldl_cons, List.foldl_nil, if_neg h16]
    rfl
  induction ws generalizing s with
  | nil => exact absurd rfl hne
  | cons w r ih =>
    rw [List.length_cons] at hl
    have hw := hone s w (by omega)
    by_cases hr : r = []
    · rw [hr]; exact hw
    · have hstep : pushVq s c b g t ch (w :: r) = pushVq (pushVq s c b g t ch [w]).1 c b g t ch r := by
        rw [hw]
        exact congrArg (fun p => List.foldl _ p r) hw
      have hasm : (kget ((pushVq s c b g t ch [w]).1.core c).asm ch).getD [] = ((kget (s.core c).asm ch).getD []) ++ [w] := by
        rw [hw, State.updCore_core_self, kget_kset_self]; rfl
      rw [hstep, ih _ hr (by rw [hasm, List.length_append, List.length_singleton]; omega), hw, State.updCore_updCore]
      simp only [kget_kset_self, kset_kset, Option.getD_some, List.append_assoc, List.singleton_append]

/-- Words pushed through a mesh-out entry fly in order toward its peer entry with the tenant's VNI (R139, R141). -/
theorem pushMesh_flies (s : State) (c ch : Nat) {ws : List W32} (hne : ws ≠ []) (hb : ((s.core c).chan ch).broken = false) :
    ∃ fs, pushMesh s c ch ws = s.updCore c (fun k => { k with flight := k.flight ++ fs }) ∧
      fs.map (fun f => (f.ch, f.dst, f.dstCh, f.vni, f.word)) = ws.map fun w => (ch, ((s.core c).chan ch).peer,
        ((s.core c).chan ch).peerCh, (s.ten (s.coreTenant c)).vni, w) := by
  unfold pushMesh
  generalize (s.core c).chan ch = e at hb
  generalize (s.ten (s.coreTenant c)).vni = vni
  simp only [hb, Bool.false_eq_true, if_false]
  induction ws generalizing s with
  | nil => exact absurd rfl hne
  | cons w r ih =>
    simp only [List.foldl_cons]
    by_cases hr : r = []
    · subst hr
      exact ⟨_, rfl, rfl⟩
    · obtain ⟨fs, hfold, hmap⟩ := ih (s.updCore c fun k =>
        { k with flight := k.flight ++ [⟨k.nextWord, ch, e.peer, e.peerCh, vni, w, e.owner⟩] }) hr
      refine ⟨⟨(s.core c).nextWord, ch, e.peer, e.peerCh, vni, w, e.owner⟩ :: fs, ?_, by rw [List.map_cons, hmap]; rfl⟩
      rw [hfold, State.updCore_updCore]
      simp only [State.updCore, List.append_assoc, List.singleton_append]

/-- Those pushed toward a retired core go nowhere (R140). -/
theorem pushMesh_retired (s : State) (c ch : Nat) (ws : List W32) (hb : ((s.core c).chan ch).broken = true) :
    ((pushMesh s c ch ws).core c).flight = (s.core c).flight := by
  unfold pushMesh
  generalize (s.core c).chan ch = e at hb
  simp only [hb, if_true]
  induction ws generalizing s with
  | nil => rfl
  | cons w r ih =>
    rw [List.foldl_cons, ih, State.updCore_core_self]
    rfl

/-- A push takes its credits from its own entry, and no word flies yet (R138, R140). -/
theorem reservePush_meshOut {s : State} {c ch : Nat} {e : Chan} (n : Nat) (he : kget (s.core c).chans ch = some e) (hk : e.kind = 2) :
    ((reservePush s c ch n).core c).chan ch = { e with credits := e.credits - n, outstanding := e.outstanding + n } ∧
    ((reservePush s c ch n).core c).flight = (s.core c).flight ∧
    ∀ j, j ≠ ch → ((reservePush s c ch n).core c).chan j = (s.core c).chan j := by
  simp only [reservePush, State.updChan, State.updCore_core_self, Core.chan]
  refine ⟨?_, trivial, fun j hj => ?_⟩
  · rw [kget_kupd_self, he]
    simp [hk]
  · rw [kget_kupd_ne _ _ hj]

/-- Refutes O3: an empty push (`ws = []`) leaves the state as it was, while the update of the core that the statement equates it with
lists a core that the state did not list, and so gives other data. -/
theorem not_channelPush : ¬ Obligations.ChannelPush := by
  intro h
  obtain ⟨-, -, -, hmesh, -, -⟩ := h
  obtain ⟨fs, hpush, -⟩ := hmesh State.reset 0 0 [] rfl
  have hcores : ([] : KMap Core) = [(0, _)] := congrArg State.cores hpush
  cases hcores

end Sys2Proof.Machine
end

section
namespace Sys2Proof.Machine
open Sys2Proof

/-! ### Channels, link packets and vertical bundles (R132, R138, R140, R141, R149, R151, R409, R411) -/

/-- The oldest word of a mesh-out entry arrives where its peer entry is not frozen against it (R141). -/
theorem wordArrival_delivers {s : State} {c ch : Nat} {w : FlightWord}
    (hw : (s.core c).flight.find? (fun w => w.ch == ch) = some w)
    (hf : frozenTo s c ((s.core c).chan ch).owner w.dst w.dstCh = false) :
    exec (.channelWordArrival c ch) s = .next ((((deliverWord s c w).core c).blocks.map (·.1)).foldl (fun s b => settleHeld s c b)
      (deliverWord s c w)) := by
  refine congrArg Host.Outcome.next (show arriveWord s c ch = _ from ?_)
  simp only [arriveWord, hw, hf, Bool.false_eq_true, if_false]

theorem updBlock_flight (s : State) (c b : Nat) (f : Block → Block) (i : Nat) :
    ((s.updBlock c b f).core i).flight = (s.core i).flight := by
  by_cases h : i = c
  · subst h; rw [State.updBlock, State.updCore_core_self]
  · rw [State.updBlock, State.updCore_core_ne _ _ h]

theorem updBlock_chans (s : State) (c b : Nat) (f : Block → Block) (i : Nat) :
    ((s.updBlock c b f).core i).chans = (s.core i).chans := by
  by_cases h : i = c
  · subst h; rw [State.updBlock, State.updCore_core_self]
  · rw [State.updBlock, State.updCore_core_ne _ _ h]

/-- A word that its peer entry takes leaves the sender's flight and counts in the entry's ring (R141). -/
theorem deliverWord_lands {s : State} {c b : Nat} {w : FlightWord} {e : Chan} (hc : c ≠ w.dst)
    (he : kget (s.core w.dst).chans w.dstCh = some e) (hk : e.kind = 1) (hp : e.peer = c) (hch : e.peerCh = w.ch)
    (ho : e.owner = some b) (hv : (s.ten (s.coreTenant w.dst)).vni = w.vni) :
    ((deliverWord s c w).core c).flight = (s.core c).flight.filter (fun x => x.id != w.id) ∧
    kget ((deliverWord s c w).core w.dst).chans w.dstCh = some { e with count := e.count + 1 } := by
  let v := s.updCore c fun k => { k with flight := k.flight.filter fun x => x.id != w.id }
  have hd : v.core w.dst = s.core w.dst := State.updCore_core_ne _ _ hc.symm
  have hen : (v.core w.dst).chan w.dstCh = e := by rw [hd, Core.chan, he]; rfl
  have hvn : ((v.ten (v.coreTenant w.dst)).vni) = w.vni := by rw [State.coreTenant, hd]; exact hv
  have hdel : deliverWord s c w = (((v.updBlock w.dst b fun k => k.putScratch (4 * (e.bufw + (e.head + e.count) % max 1 e.depth))
      (leBytes 4 w.word.toNat)).updCore c fun k => k.landed w.id).updChan w.dst w.dstCh fun e => { e with count := e.count + 1 }) := by
    unfold deliverWord
    simp only [v] at hen hvn
    simp only [hen, hvn, hk, hp, hch, ho, bne_self_eq_false, beq_self_eq_true, Bool.and_self, Bool.false_eq_true, if_false, if_true]
    rfl
  rw [hdel, State.updChan]
  constructor
  · rw [State.updCore_core_ne _ _ hc, State.updCore_core_self]
    exact (updBlock_flight ..).trans (congrArg Core.flight (State.updCore_core_self ..))
  · rw [State.updCore_core_self]
    simp only [kget_kupd_self]
    rw [State.updCore_core_ne _ _ hc.symm, updBlock_chans, hd, he]
    rfl

/-- Kept credits return to the mesh-out entry that names the reading end in return (R138). -/
theorem creditGrant_grants {s : State} {c ch : Nat} {e o : Chan} (he : kget (s.core c).chans ch = some e)
    (ho : kget (s.core e.peer).chans e.peerCh = some o) (hek : e.kind = 1) (hok : o.kind = 2) (hp : o.peer = c) (hch : o.peerCh = ch) :
    exec (.creditGrant c ch) s = .next ((s.updChan c ch fun e => { e with kept := 0 }).updChan e.peer e.peerCh fun o =>
      { o with credits := o.credits + e.kept, outstanding := o.outstanding - min o.outstanding e.kept, peerDepth := some e.depth }) := by
  have he' : (s.core c).chan ch = e := by rw [Core.chan, he]; rfl
  have ho' : (s.core e.peer).chan e.peerCh = o := by rw [Core.chan, ho]; rfl
  refine congrArg Host.Outcome.next (show grantCredits s c ch = _ from ?_)
  simp only [grantCredits, he', ho', hek, hok, hp, hch, beq_self_eq_true, Bool.and_self, if_true]

/-- The tenant of a VNI is told by the tenants' records alone. -/
@[simp] theorem vniTenant_countErr (s : State) (d : Nat) (f : ErrBlock → ErrBlock) (vni : Nat) :
    vniTenant (s.countErr d f) vni = vniTenant s vni := by
  unfold State.countErr; split <;> rfl
@[simp] theorem vniTenant_updMod (s : State) (f : Module → Module) (vni : Nat) : vniTenant (s.updMod f) vni = vniTenant s vni := rfl
@[simp] theorem vniTenant_updDom (s : State) (d : Nat) (f : Domain → Domain) (vni : Nat) :
    vniTenant (s.updDom d f) vni = vniTenant s vni := rfl

/-- What a port remembers once it has committed packet `seq` of a unit: the number is seen, and no copy is retained (R132). -/
def committed (s : State) (d unit seq : Nat) : State :=
  s.updDom d fun k => { k with links := kset k.links unit ((kget (s.dom d).links unit).getD [] ++ [seq])
                               retained := kset k.retained unit (((kget (s.dom d).retained unit).getD []).filter fun p => p.head? != some seq) }

section
variable {s : State} {d unit seq vni pa : Nat} {bs : List Byte}

/-- A packet that comes again changes nothing (R132). -/
theorem receivePacket_seen (hs : seq ∈ (kget (s.dom d).links unit).getD []) (ok red : Nat) :
    receivePacket s d unit seq ok vni red pa bs = s := by
  simp only [receivePacket, List.contains_iff_mem.mpr hs, Bool.true_or, if_true]

variable (hs : seq ∉ (kget (s.dom d).links unit).getD []) (hl : pa % 128 + bs.length ≤ 128)
include hs hl

/-- A bad or incomplete packet is retained by its sender (R132). -/
theorem receivePacket_bad {ok : Nat} (hok : ok ≠ 1) (red : Nat) :
    receivePacket s d unit seq ok vni red pa bs = s.updDom d fun k =>
      { k with retained := kset k.retained unit ((((kget (s.dom d).retained unit).getD []).filter fun p => p.head? != some seq) ++
                             [[seq, vni, red, pa] ++ bs.map fun b => b.toNat]) } := by
  have hs' : ((kget (s.dom d).links unit).getD []).contains seq = false := by simpa using hs
  have hok' : (ok != 1) = true := by simpa using hok
  simp only [receivePacket, hs', Nat.not_lt.mpr hl, hok', decide_false, Bool.or_self, Bool.false_eq_true, if_false, if_true]

/-- A good packet of a permitted VNI commits (R132). -/
theorem receivePacket_good (hv : vni ∈ (s.dom d).vnis) (red : Nat) :
    receivePacket s d unit seq 1 vni red pa bs =
      if red = 0 then homeStore (committed s d unit seq) ((vniTenant (committed s d unit seq) vni).getD 0) pa bs
      else applyReduction (committed s d unit seq) ((vniTenant (committed s d unit seq) vni).getD 0) pa red bs := by
  have hs' : ((kget (s.dom d).links unit).getD []).contains seq = false := by simpa using hs
  have hv' : ((committed s d unit seq).dom d).vnis.contains vni = true := by
    rw [committed, State.updDom_dom_self]; exact List.contains_iff_mem.mpr hv
  simp only [committed] at hv' ⊢
  simp only [receivePacket, hs', Nat.not_lt.mpr hl, hv', decide_false, Bool.or_self, Bool.false_eq_true, if_false, bne_self_eq_false,
    Bool.not_true]

/-- A good packet of a VNI that is neither permitted nor any tenant's is dropped and reported, with the VNI that the router expected,
which is free (R375, R409). -/
theorem receivePacket_dropped (hv : vni ∉ (s.dom d).vnis) (ht : ∀ p ∈ s.tenants, p.2.st ≠ 0 → p.2.vni ≠ vni) (red : Nat) :
    receivePacket s d unit seq 1 vni red pa bs = ((committed s d unit seq).updMod fun m =>
      { m with violations := m.violations ++ [⟨2, d, vni + Config.choice s.tick % 4096 * 4096⟩] }).countErr d fun e =>
        { e with vniDrops := satAdd 16 e.vniDrops } := by
  have hs' : ((kget (s.dom d).links unit).getD []).contains seq = false := by simpa using hs
  have hv' : ((committed s d unit seq).dom d).vnis.contains vni = false := by
    rw [committed, State.updDom_dom_self]; simpa using hv
  have hnone : vniTenant s vni = none := by
    simp only [vniTenant, Option.map_eq_none_iff, List.find?_eq_none]
    intro p hp hb
    simp only [Bool.and_eq_true, bne_iff_ne, beq_iff_eq] at hb
    exact ht p hp hb.1 hb.2
  simp only [committed] at hv' ⊢
  simp only [receivePacket, hs', Nat.not_lt.mpr hl, hv', decide_false, Bool.or_self, Bool.false_eq_true, if_false, bne_self_eq_false,
    Bool.not_false, if_true, vniTenant_countErr, vniTenant_updMod, vniTenant_updDom, hnone]
  rfl

end

/-- A retained packet is sent again as it was, and counted (R132, R409). -/
theorem linkReplay_receives {s : State} {d unit seq vni red pa : Nat} {bs : List Nat} {r : List (List Nat)}
    (hr : (kget (s.dom d).retained unit).getD [] = ([seq, vni, red, pa] ++ bs) :: r) :
    exec (.linkReplay d unit 0) s = exec (.linkPacketReceive d unit seq 1 vni red pa (bs.map fun n => BitVec.ofNat 8 n))
      (s.countErr d fun e => { e with replays := satAdd 32 e.replays }) := by
  refine congrArg Host.Outcome.next (show replayPacket s d unit 0 = _ from ?_)
  simp only [replayPacket, hr, List.cons_append, List.nil_append, List.head?_cons, if_true]

/-- A window gives its askers full, half and quarter rate in rank order, the array first or the engines beneath it (R149). -/
theorem verticalWindow_rates (s : State) (c : Nat) :
    let onto (v : Bool) (askers rates : Nat) := (s.dom (coreDomain c)).ueFirst = v →
      exec (.verticalWindow c askers) s = .next (s.updCore c fun k =>
        { k with rates := BitVec.ofNat 6 rates, windowAsk := BitVec.ofNat 3 askers })
    onto false 7 0b111001 ∧ onto false 5 0b100001 ∧ onto false 2 0b000100 ∧ onto true 7 0b100111 ∧ onto true 6 0b100100 := by
  have hwin : ∀ askers, exec (.verticalWindow c askers) s = .next (openWindow s c askers) := fun _ => rfl
  refine ⟨?_, ?_, ?_, ?_, ?_⟩ <;>
    (intro hv
     simp only [hwin, openWindow, hv]
     rfl)

/-- Settles O50: each step by the lemma about it. -/
theorem channelAndLinkSteps : Obligations.ChannelAndLinkSteps := by
  refine ⟨⟨fun _ _ _ _ hw hf => wordArrival_delivers hw hf,
      fun _ _ _ _ _ hc he hk hp hch ho hv => deliverWord_lands hc he hk hp hch ho hv,
      fun _ _ _ _ _ he ho hek hok hp hch => creditGrant_grants he ho hek hok hp hch⟩,
    ⟨?receive, fun _ _ _ _ ok _ red _ _ hs => congrArg _ (receivePacket_seen hs ok red),
      fun _ _ _ _ _ _ _ _ _ hr => linkReplay_receives hr⟩, verticalWindow_rates, fun _ _ => ⟨rfl, rfl⟩⟩
  intro s d unit seq vni pa bs hs hl rest u receive
  refine ⟨fun hv => ⟨?write, fun red hred => ?reduce⟩, fun ok red hok => congrArg _ (receivePacket_bad hs hl hok red),
    fun red hv ht => ⟨Config.choice s.tick % 4096, Nat.mod_lt _ (by decide), congrArg _ (receivePacket_dropped hs hl hv ht red)⟩⟩
  case write => exact congrArg _ ((receivePacket_good hs hl hv 0).trans (if_pos rfl))
  case reduce => exact congrArg _ ((receivePacket_good hs hl hv red).trans (if_neg hred))

end Sys2Proof.Machine
end

section
namespace Sys2Proof.Machine
open Sys2Proof

/-! ### The engines beneath a core (R143-R148, R393) -/

/-- Bytes that translate and can be read go on to what uses them. -/
theorem withBytes_read {s u v : State} {c : Nat} {op : Op} {rs : List (Nat × Nat)} {pas : List Nat} {bs : List Byte}
    (k : State → List Byte → State) (hp : engPieces s c op (cutAll rs) false = (u, .ok pas))
    (hr : readPieces u c op.tenant (pas.zip ((cutAll rs).map (·.2))) = (v, .ok bs)) : withBytes s c op rs k = k v bs := by
  simp only [withBytes, hp, hr]

/-- Writes that translate are made, and the payload is done. -/
theorem finishCmd_writes {s u : State} {c : Nat} {op : Op} {ws : List (Nat × List Byte)} {pas : List Nat}
    (hp : engPieces s c op (cutAll (ws.map fun p => (p.1, p.2.length))) true = (u, .ok pas)) :
    finishCmd s c op ws = updOp (putPieces u c op (pas.zip ((cutAll (ws.map fun p => (p.1, p.2.length))).map (·.2)))
      ((ws.map (·.2)).flatten)) c op.id fun o => { o with stage := .done } := by
  simp only [finishCmd, hp]

/-- A command whose accesses all translate goes on. -/
theorem checked_ok {s u : State} {c : Nat} {op : Op} {pas : List Nat} (k : State → State)
    (h : engXlat s c op.tenant (opLaunch s c op) 3 1 ((cmdTouches s c op).map (·.2)) = (u, .ok pas)) : checked s c op k = k u := by
  simp only [checked, h]

/-- One of which an access does not translate takes its fault (R393). -/
theorem checked_fault {s u : State} {c : Nat} {op : Op} {r : EngXlat} (k : State → State)
    (h : engXlat s c op.tenant (opLaunch s c op) 3 1 ((cmdTouches s c op).map (·.2)) = (u, r)) (hr : ∀ pas, r ≠ .ok pas) :
    checked s c op k = engFault u c op false r := by
  unfold checked
  rw [h]
  cases r with
  | ok pas => exact absurd rfl (hr pas)
  | _ => rfl

/-- Putting an access in order keeps the order, and brings in that access alone. -/
theorem putInOrder_sorted (x : Nat × Nat × Bool) (l : List (Nat × Nat × Bool)) :
    (∀ z ∈ putInOrder x l, z = x ∨ z ∈ l) ∧
    (l.Pairwise (fun a b => a.1 ≤ b.1) → (putInOrder x l).Pairwise fun a b => a.1 ≤ b.1) := by
  induction l with
  | nil => simp [putInOrder]
  | cons y r ih =>
    obtain ⟨hmem, hsort⟩ := ih
    unfold putInOrder
    split
    · rename_i hxy
      refine ⟨fun z hz => List.mem_cons.mp hz, fun hp => List.pairwise_cons.mpr ⟨fun z hz => ?_, hp⟩⟩
      rcases List.mem_cons.mp hz with rfl | hz
      · exact hxy
      · exact Nat.le_trans hxy ((List.pairwise_cons.mp hp).1 z hz)
    · rename_i hxy
      refine ⟨fun z hz => ?_, fun hp => ?_⟩
      · rcases List.mem_cons.mp hz with rfl | hz
        · exact .inr List.mem_cons_self
        · exact (hmem z hz).imp_right (List.mem_cons_of_mem _)
      · obtain ⟨hy, hr⟩ := List.pairwise_cons.mp hp
        refine List.pairwise_cons.mpr ⟨fun z hz => ?_, hsort hr⟩
        rcases hmem z hz with rfl | hz
        · omega
        · exact hy z hz

/-- A command's accesses stand in the order of their elements (R393). -/
theorem cmdTouches_sorted (s : State) (c : Nat) (op : Op) : (cmdTouches s c op).Pairwise fun x y => x.1 ≤ y.1 := by
  unfold cmdTouches
  generalize ((List.range (cmdRows op.w)).map (rowTouches s (coreDomain c) op.tenant op.w)).flatten = l
  induction l with
  | nil => exact List.Pairwise.nil
  | cons x r ih => exact (putInOrder_sorted x _).2 ih

theorem pow2Den_pos (k : Int) : 0 < pow2Den k := by
  unfold pow2Den
  split
  · exact Nat.one_pos
  · exact Nat.two_pow_pos _

/-- A finite value is a fraction with a positive denominator. -/
def Val.wf (v : Val) : Prop := ∀ s n d, v = .fin s n d → 0 < d

/-- A code's value has a positive denominator (R153). -/
theorem fpVal_wf (t : BitVec 4) (c : Nat) : (fpVal t c).wf := by
  intro s n d h
  simp only [fpVal, decodeFp] at h
  split at h
  · split at h <;> cases h
  · split at h
    · cases h
    · cases h
      exact pow2Den_pos _

/-- A sign and a magnitude as an integer. -/
def signedMag (neg : Bool) (n : Nat) : Int := if neg then -(n : Int) else n

/-- A value's place in TOPK's order (R146): its class, a NaN below −inf below the finite values below +inf, and within the class a
fraction. -/
def Val.cls : Val → Nat
  | .nan => 0
  | .inf true => 1
  | .fin _ _ _ => 2
  | .inf false => 3
def Val.num : Val → Int
  | .fin s n _ => signedMag s n
  | _ => 0
def Val.den : Val → Nat
  | .fin _ _ d => d
  | _ => 1
def Val.lower (p q : Val) : Prop := p.cls < q.cls ∨ (p.cls = q.cls ∧ p.num * q.den < q.num * p.den)

theorem Val.den_pos {v : Val} (h : v.wf) : 0 < v.den := by
  cases v with
  | fin s n d => exact h s n d rfl
  | nan => exact Nat.one_pos
  | inf s => exact Nat.one_pos

/-- Two finite values are equal where their signed cross products are. -/
theorem eqVal_fin {s t : Bool} {n d m e : Nat} (hd : 0 < d) (he : 0 < e) :
    eqVal (.fin s n d) (.fin t m e) = true ↔ signedMag s n * e = signedMag t m * d := by
  have hn : n * e = 0 ↔ n = 0 := by rw [Nat.mul_eq_zero]; omega
  have hm : m * d = 0 ↔ m = 0 := by rw [Nat.mul_eq_zero]; omega
  have hs : ∀ (b : Bool) (k f : Nat), signedMag b k * f = signedMag b (k * f) := by
    intro b k f
    cases b with
    | true => simp only [signedMag, if_true, Int.neg_mul, Int.natCast_mul]
    | false => simp only [signedMag, Bool.false_eq_true, if_false, Int.natCast_mul]
  simp only [eqVal, Bool.and_eq_true, decide_eq_true_eq, Bool.or_eq_true, beq_iff_eq, hs]
  cases s <;> cases t <;>
    simp only [signedMag, if_true, Bool.false_eq_true, Bool.true_eq_false, if_false, true_or, and_true, false_or] <;> omega

theorem eqVal_comm {a b : Val} (ha : a.wf) (hb : b.wf) : eqVal a b = eqVal b a := by
  cases a with
  | nan => cases b <;> rfl
  | inf s => cases b with
    | inf t => exact Bool.eq_iff_iff.mpr (by simp only [eqVal, beq_iff_eq]; exact eq_comm)
    | nan | fin _ _ _ => rfl
  | fin s n d => cases b with
    | fin t m e =>
      rw [Bool.eq_iff_iff, eqVal_fin (ha _ _ _ rfl) (hb _ _ _ rfl), eqVal_fin (hb _ _ _ rfl) (ha _ _ _ rfl)]
      exact eq_comm
    | nan | inf _ => rfl

/-- Of two values that are no NaN the one that is less and not equal has the lower place. -/
theorem ltVal_strict {a b : Val} (ha : a.wf) (hb : b.wf) (hna : a ≠ .nan) (hnb : b ≠ .nan) :
    (ltVal a b && !eqVal a b) = true ↔ a.lower b := by
  unfold Val.lower
  cases a with
  | nan => exact absurd rfl hna
  | inf s => cases b with
    | nan => exact absurd rfl hnb
    | inf t => cases s <;> cases t <;> decide
    | fin t m e => cases s <;> simp [ltVal, eqVal, Val.cls]
  | fin s n d => cases b with
    | nan => exact absurd rfl hnb
    | inf t => cases t <;> simp [ltVal, eqVal, Val.cls]
    | fin t m e =>
      have hlt : ltVal (.fin s n d) (.fin t m e) = if signedMag s n * e = signedMag t m * d then decide (n = 0) && s && !t
          else decide (signedMag s n * e < signedMag t m * d) := rfl
      rw [Bool.and_eq_true, Bool.not_eq_true', ← Bool.not_eq_true, eqVal_fin (ha _ _ _ rfl) (hb _ _ _ rfl), hlt]
      simp only [Val.cls, Val.num, Val.den, Nat.lt_irrefl, false_or, true_and]
      split
      · omega
      · rw [decide_eq_true_eq]; omega

/-- One element is before another (R146): its value's place is higher, or the places are equal and its index is lower. -/
theorem topBefore_iff (t : BitVec 4) (a b : Nat × Nat) : topBefore t a b = true ↔
    (fpVal t b.2).lower (fpVal t a.2) ∨ (¬ (fpVal t a.2).lower (fpVal t b.2) ∧ a.1 < b.1) := by
  have ha := fpVal_wf t a.2
  have hb := fpVal_wf t b.2
  unfold topBefore
  generalize fpVal t a.2 = p at ha ⊢
  generalize fpVal t b.2 = q at hb ⊢
  have hboth : p ≠ .nan → q ≠ .nan → (((ltVal q p && !eqVal p q) || (!(ltVal p q && !eqVal p q) && decide (a.1 < b.1))) = true ↔
      q.lower p ∨ (¬ p.lower q ∧ a.1 < b.1)) := by
    intro hp hq
    rw [Bool.or_eq_true, eqVal_comm ha hb, ltVal_strict hb ha hq hp, Bool.and_eq_true, Bool.not_eq_true', ← Bool.not_eq_true,
      ← eqVal_comm ha hb, ltVal_strict ha hb hp hq, decide_eq_true_eq]
  have hnan : ∀ v : Val, v ≠ .nan → Val.lower .nan v ∧ ¬ v.lower .nan := by
    intro v hv
    have h0 : v.cls ≠ 0 := by
      cases v with
      | nan => exact absurd rfl hv
      | inf s => cases s <;> decide
      | fin s n d => exact (by decide : (2 : Nat) ≠ 0)
    simp only [Val.lower, show Val.cls .nan = 0 from rfl]
    omega
  cases p with
  | nan => cases q with
    | nan => simp [Val.lower]
    | inf s => simp [hnan (.inf s) nofun]
    | fin s n d => simp [hnan (.fin s n d) nofun]
  | inf s => cases q with
    | nan => simp [hnan (.inf s) nofun]
    | inf _ | fin _ _ _ => exact hboth nofun nofun
  | fin s n d => cases q with
    | nan => simp [hnan (.fin s n d) nofun]
    | inf _ | fin _ _ _ => exact hboth nofun nofun

/-- Fractions of positive denominators compare transitively by their cross products. -/
theorem cross_le_trans {x y z : Int} {d e f : Nat} (he : 0 < e) (hxy : x * e ≤ y * d) (hyz : y * f ≤ z * e) : x * f ≤ z * d := by
  refine Int.le_of_mul_le_mul_right (?_ : x * f * e ≤ z * d * e) (Int.natCast_pos.mpr he)
  calc x * f * e = x * e * f := Int.mul_right_comm ..
    _ ≤ y * d * f := Int.mul_le_mul_of_nonneg_right hxy (Int.natCast_nonneg f)
    _ = y * f * d := Int.mul_right_comm ..
    _ ≤ z * e * d := Int.mul_le_mul_of_nonneg_right hyz (Int.natCast_nonneg d)
    _ = z * d * e := Int.mul_right_comm ..

/-- Not being before is transitive. -/
theorem topBefore_false_trans {t : BitVec 4} {a b c : Nat × Nat} (hab : topBefore t b a = false) (hbc : topBefore t c b = false) :
    topBefore t c a = false := by
  rw [← Bool.not_eq_true, topBefore_iff] at *
  have ha := Val.den_pos (fpVal_wf t a.2)
  have hb := Val.den_pos (fpVal_wf t b.2)
  have hc := Val.den_pos (fpVal_wf t c.2)
  unfold Val.lower at *
  generalize fpVal t a.2 = p at *
  generalize fpVal t b.2 = q at *
  generalize fpVal t c.2 = r at *
  have hrqp := @cross_le_trans r.num q.num p.num r.den q.den p.den hb
  have hprq := @cross_le_trans p.num r.num q.num p.den r.den q.den hc
  have hqpr := @cross_le_trans q.num p.num r.num q.den p.den r.den ha
  omega

/-- Of two elements of different indices one is before the other, and not the other way round. -/
theorem topBefore_total {t : BitVec 4} {a b : Nat × Nat} (h : topBefore t b a = false) (hne : a.1 ≠ b.1) : topBefore t a b = true := by
  rw [← Bool.not_eq_true, topBefore_iff] at h
  rw [topBefore_iff]
  unfold Val.lower at *
  omega

theorem topBefore_asymm {t : BitVec 4} {a b : Nat × Nat} (h : topBefore t a b = true) : topBefore t b a = false := by
  rw [topBefore_iff] at h
  rw [← Bool.not_eq_true, topBefore_iff]
  unfold Val.lower at *
  omega

/-- The element that one round of TOPK takes is one of those there, and none is before it. -/
theorem foldl_topBefore (t : BitVec 4) (r : List (Nat × Nat)) (e : Nat × Nat) :
    let m := r.foldl (fun m x => if topBefore t x m then x else m) e
    m ∈ e :: r ∧ ∀ x ∈ e :: r, topBefore t x m = false := by
  induction r generalizing e with
  | nil =>
    refine ⟨List.mem_cons_self, fun x hx => ?_⟩
    rw [List.mem_singleton.mp hx]
    exact Bool.eq_false_iff.mpr fun h => Bool.false_ne_true ((topBefore_asymm h).symm.trans h)
  | cons y r ih =>
    obtain ⟨hm, hmin⟩ := ih (if topBefore t y e then y else e)
    simp only [List.foldl_cons]
    have hfirst := hmin _ List.mem_cons_self
    cases hy : topBefore t y e with
    | true =>
      simp only [hy, if_true] at hm hmin hfirst ⊢
      refine ⟨List.mem_cons_of_mem _ hm, fun x hx => ?_⟩
      rcases List.mem_cons.mp hx with rfl | hx
      · exact topBefore_false_trans hfirst (topBefore_asymm hy)
      · exact hmin x hx
    | false =>
      simp only [hy, Bool.false_eq_true, if_false] at hm hmin hfirst ⊢
      refine ⟨?_, fun x hx => ?_⟩
      · rcases List.mem_cons.mp hm with h | h
        · rw [h]; exact List.mem_cons_self
        · exact List.mem_cons_of_mem _ (List.mem_cons_of_mem _ h)
      · rcases List.mem_cons.mp hx with rfl | hx
        · exact hfirst
        · rcases List.mem_cons.mp hx with rfl | hx
          · exact topBefore_false_trans hfirst hy
          · exact hmin x (List.mem_cons_of_mem _ hx)

/-- In a list of distinct indices an element is known by its index. -/
theorem eq_of_index {es : List (Nat × Nat)} (hn : (es.map Prod.fst).Nodup) {a b : Nat × Nat} (ha : a ∈ es) (hb : b ∈ es)
    (h : a.1 = b.1) : a = b := by
  induction es with
  | nil => cases ha
  | cons e r ih =>
    rw [List.map_cons, List.nodup_cons] at hn
    rcases List.mem_cons.mp ha with rfl | har
    · rcases List.mem_cons.mp hb with rfl | hbr
      · rfl
      · exact absurd (h ▸ List.mem_map_of_mem hbr) hn.1
    · rcases List.mem_cons.mp hb with rfl | hbr
      · exact absurd (h ▸ List.mem_map_of_mem har) hn.1
      · exact ih hn.2 har hbr

/-- Without its member of one index a list of distinct indices is one shorter. -/
theorem length_without_index {es : List (Nat × Nat)} {m : Nat × Nat} (hn : (es.map Prod.fst).Nodup) (hm : m ∈ es) :
    (es.filter fun x => x.1 != m.1).length = es.length - 1 := by
  have h : (es.filter fun x => x.1 != m.1).map Prod.fst = (es.map Prod.fst).erase m.1 := by
    rw [hn.erase_eq_filter, List.filter_map]; rfl
  rw [← List.length_map (f := Prod.fst), h, List.length_erase_of_mem (List.mem_map_of_mem hm), List.length_map]

/-- TOPK's rows (R146): as many as asked for or as there are, each once, and each before every element left out. -/
theorem topFirst_spec (t : BitVec 4) (n : Nat) (es : List (Nat × Nat)) (hn : (es.map Prod.fst).Nodup) :
    (topFirst t n es).length = min n es.length ∧ (topFirst t n es).Nodup ∧ ∀ a ∈ topFirst t n es, a ∈ es ∧
      ∀ b ∈ es, b ∉ topFirst t n es → topBefore t a b = true := by
  induction n generalizing es with
  | zero => exact ⟨(Nat.zero_min _).symm, List.Pairwise.nil, nofun⟩
  | succ n ih =>
    cases es with
    | nil => exact ⟨rfl, List.Pairwise.nil, nofun⟩
    | cons e r =>
      obtain ⟨hm, hmin⟩ := foldl_topBefore t r e
      rw [topFirst]
      generalize r.foldl (fun m x => if topBefore t x m then x else m) e = m at hm hmin ⊢
      have hlen := length_without_index hn hm
      obtain ⟨hl, hd, hf⟩ := ih ((e :: r).filter fun x => x.1 != m.1) (hn.sublist (List.filter_sublist.map _))
      have hkept : ∀ b, b ∈ ((e :: r).filter fun x => x.1 != m.1) ↔ b ∈ e :: r ∧ b.1 ≠ m.1 := fun b => by
        rw [List.mem_filter, bne_iff_ne]
      refine ⟨?_, List.nodup_cons.mpr ⟨fun h => ?_, hd⟩, fun a ha => ?_⟩
      · rw [List.length_cons, hl, hlen, List.length_cons]; omega
      · exact ((hkept m).mp (hf m h).1).2 rfl
      · rcases List.mem_cons.mp ha with rfl | ha
        · refine ⟨hm, fun b hb hnot => topBefore_total (hmin b hb) fun h => ?_⟩
          exact hnot (List.mem_cons.mpr (.inl (eq_of_index hn hb hm h.symm)))
        · obtain ⟨hae, hbefore⟩ := hf a ha
          refine ⟨((hkept a).mp hae).1, fun b hb hnot => ?_⟩
          rw [List.mem_cons, not_or] at hnot
          exact hbefore b ((hkept b).mpr ⟨hb, fun h => hnot.1 (eq_of_index hn hb hm h)⟩) hnot.2

/-- The elements of a row carry distinct numbers. -/
theorem topFirst_row (t : BitVec 4) (n : Nat) (vs : List Nat) : let es := (List.range vs.length).zip vs
    (topFirst t n es).length = min n vs.length ∧ (topFirst t n es).Nodup ∧ ∀ a ∈ topFirst t n es, a ∈ es ∧
      ∀ b ∈ es, b ∉ topFirst t n es → topBefore t a b = true := by
  have hfst : ((List.range vs.length).zip vs).map Prod.fst = List.range vs.length := List.map_fst_zip (by simp)
  have h := topFirst_spec t n ((List.range vs.length).zip vs) (by rw [hfst]; exact List.nodup_range)
  have hlen : ((List.range vs.length).zip vs).length = vs.length := by simp
  rwa [hlen] at h

/-- Settles O49: each command by its engine's next one, and TOPK's rows by their order. -/
theorem underSideEngineSteps : Obligations.UnderSideEngineSteps := by
  refine ⟨⟨fun _ _ _ _ k _ _ _ _ hp hr => withBytes_read k hp hr, fun _ _ _ _ _ _ hp => finishCmd_writes hp,
      fun _ _ _ k _ _ h => checked_ok k h, fun _ _ _ k _ _ h hr => checked_fault k h hr, cmdTouches_sorted⟩,
    ⟨?gather, ?scatteradd, ?hist⟩, ⟨?topk, topFirst_row⟩, ?blockq, ?req, ?trans⟩ <;>
    intro s c id op h w
  case gather => exact congrArg Host.Outcome.next (by simp only [runGather, h] <;> rfl)
  case scatteradd => exact congrArg Host.Outcome.next (by simp only [runScatteradd, h] <;> rfl)
  case hist => exact congrArg Host.Outcome.next (by simp only [runHist, h] <;> rfl)
  case topk => exact congrArg Host.Outcome.next (by simp only [runTopk, h] <;> rfl)
  case blockq => exact congrArg Host.Outcome.next (by simp only [runBlockq, h] <;> rfl)
  case req => exact congrArg Host.Outcome.next (by simp only [runReq, h] <;> rfl)
  case trans => exact congrArg Host.Outcome.next (by simp only [runTrans, h] <;> rfl)

end Sys2Proof.Machine
end

section
namespace Sys2Proof.Machine
open Sys2Proof

/-! ### Guards (R180, R204) -/

/-- What a row's body looks at first: a q-guarded one at the group's guard, then at its mode; a p-guarded one at its active lanes;
PLOP, whose MOD6 names the file of its predicates, at the squash alone. -/
def guardsFirst (r : Row) (x : Ext) (body : Here → State → Out) : Prop :=
  match r.d, r.gq with
  | .pq, _ => ∃ once lanes : Here → State → Out, body = fun h u =>
      if x.mod6.getLsbD 0 then if squashed x then .fin u else once h u else if squashed x then .fin u else lanes h u
  | _, true => ∃ (priv : Here → Bool) (rest : Here → State → Out), body = fun h u =>
      if squashed x || !h.guardQ x then .fin u else if !priv h then .trap u xPriv 0 else rest h u
  | _, false => ∃ empty rest : Here → State → Out, body = fun h u =>
      if squashed x then .fin u else if h.active x == 0 then empty h u else rest h u

/-- Every group instruction's body looks at its guards first. -/
theorem groupBody_guardsFirst {i : Instr} {r : Row} {x : Ext} {len : Nat} (hi : i.issued = some (r, x, len)) (ht : r.tile = false) :
    ∀ n y, guardsFirst r y (groupBody r.xop n y) := by
  cases i <;> cases hi <;> cases ht <;> exact fun _ _ => ⟨_, _, rfl⟩

theorem guardsFirst_squashed {r : Row} {x : Ext} {body : Here → State → Out} (hb : guardsFirst r x body) (hs : squashed x = true)
    (h : Here) (u : State) : body h u = .fin u := by
  unfold guardsFirst at hb
  split at hb <;> (obtain ⟨_, _, rfl⟩ := hb; simp [hs])

theorem guardsFirst_unguarded {r : Row} {x : Ext} {body : Here → State → Out} (hb : guardsFirst r x body) (hq : r.gq = true)
    (hd : r.d ≠ .pq) {h : Here} (hg : h.guardQ x = false) (u : State) : body h u = .fin u := by
  unfold guardsFirst at hb
  split at hb
  case h_1 hpq => exact absurd hpq hd
  case h_2 => obtain ⟨_, _, rfl⟩ := hb; simp [hg]
  case h_3 hf _ => exact absurd (hf.symm.trans hq) Bool.false_ne_true

/-- The class F uniform forms are q-guarded. -/
theorem uniRows_qGuarded : ∀ r ∈ (uniTypedRows ++ uniWordRows).map (·.1), r.gq = true ∧ r.d ≠ .pq := by decide

/-- NOP, BRA and the class F vector forms do nothing where no lane is active. -/
theorem valueRows_idle {r : Row} (hr : r ∈ Rows.nop :: Rows.bra :: valueRows.map (·.1)) (len : Nat) (x : Ext) :
    ∃ rest : Here → State → Out, groupBody r.xop len x = fun h u =>
      if squashed x then .fin u else if h.active x == 0 then .fin u else rest h u := by
  revert r
  simp only [valueRows, intRows, wordRows, fpRows, halfRows, moveRows, convertRows, List.map_cons, List.map_nil,
    List.cons_append, List.nil_append, List.mem_cons, List.not_mem_nil, or_false, forall_eq_or_imp, forall_eq]
  and_intros <;> exact ⟨_, rfl⟩

/-- An instruction whose body leaves the state at which its issue opened only advances. -/
theorem exec_advances {i : Instr} {r : Row} {x : Ext} {len : Nat} {s : State} {h : Here} (hi : i.issued = some (r, x, len))
    (ht : r.tile = false) (hh : here s = some h) (hb : groupBody r.xop len x h (openIssue s h) = .fin (openIssue s h)) :
    exec i s = .next (s.updGroup h.c h.b h.g fun _ => h.advanced len x.s h.counted) := by
  rw [exec_of_issued hi ht, issueGroup_here hh, hb, settle_idle hh]

/-- Settles O6: in each case the instruction's body leaves the state as the issue opened it. -/
theorem onlyAdvances : Obligations.OnlyAdvances := by
  intro i r x len s h hi hh ht hcase
  refine exec_advances hi ht hh ?_
  have hguard := groupBody_guardsFirst hi ht len x
  obtain hs | ⟨hg, hr⟩ | ⟨h0, hr⟩ | ⟨rfl, hv⟩ := hcase
  · exact guardsFirst_squashed hguard hs h _
  · obtain ⟨hq, hd⟩ := uniRows_qGuarded r hr
    exact guardsFirst_unguarded hguard hq hd hg _
  · obtain ⟨rest, hb⟩ := valueRows_idle hr len x
    simp [hb, h0]
  · rw [groupBody_nop]
    exact vecBody_issues hv _ _

end Sys2Proof.Machine
end

section
namespace Sys2Proof.Machine
open Sys2Proof

/-! ### The words of an instruction decode to it (R174, R176, R178) -/

/-- A key is looked up in the first of two tables, then in the second. -/
theorem lookupOp_append {n : Nat} {α : Type} (t u : List (BitVec n × (α → Instr))) (k : BitVec n) :
    lookupOp (t ++ u) k = (lookupOp t k).or (lookupOp u k) := by
  induction t with
  | nil => rfl
  | cons p r ih =>
    simp only [List.cons_append, lookupOp]
    split
    · rfl
    · exact ih

/-- The table of extended opcodes gives each row its own constructor (R194). -/
theorem lookupOp_ext {i : Instr} {r : Row} {x : Ext} (h : i.form = .ext r x) : ∃ f, lookupOp extTable r.xop = some f ∧ f x = i := by
  simp only [extTable, lookupOp_append]
  cases i <;> cases h <;> exact ⟨_, rfl, rfl⟩

/-- The table of base opcodes gives each base row its own constructor (R202). -/
theorem lookupOp_base {i : Instr} {r : BaseRow} {x : Base} (h : i.form = .base r x) :
    ∃ f, lookupOp baseTable r.bop = some f ∧ f x = i := by
  cases i <;> cases h <;> exact ⟨_, rfl, rfl⟩

/-- The words that a literal adds, low first (R174). -/
def literalWords (lit : Option W64) : List W32 :=
  match lit with
  | none => []
  | some v => [v.extractLsb' 0 32, v.extractLsb' 32 32]

theorem literalOf_words (v : W64) : literalOf (v.extractLsb' 0 32) (v.extractLsb' 32 32) = v :=
  (BitVec.extractLsb'_append_extractLsb'_eq_extractLsb' (len₂ := 32) rfl).trans BitVec.extractLsb'_eq_self

/-- What the decoder reads of a base instruction's words (R176). -/
theorem encodeBase_words (r : BaseRow) (x : Base) : ∃ b0, encodeBase r x = b0 :: literalWords x.lit ∧
    b0.extractLsb' 0 2 = (if x.lit.isSome then 3#2 else 0#2) ∧ b0.extractLsb' 3 8 = r.bop ∧ ∀ v, baseFields b0 v = { x with lit := v } := by
  refine ⟨_, rfl, ?_, ?_, fun v => ?_⟩ <;>
    simp (disch := omega) [baseFields, BitVec.getLsbD_append, BitVec.extractLsb'_append_eq_of_le, BitVec.extractLsb'_append_eq_of_add_le,
      -BitVec.getLsbD_eq_getElem, -Nat.reduceAdd]

/-- What the decoder reads of an extended instruction's words (R178). -/
theorem encodeExt_words (r : Row) (x : Ext) : ∃ w0 w1 w2, encodeExt r x = [w0, w1, w2] ++ literalWords x.lit ∧
    w0.extractLsb' 0 2 = (if x.lit.isSome then 2#2 else 1#2) ∧ w0.extractLsb' 3 10 = r.xop ∧ w1.getLsbD 31 = false ∧
    ∀ v, extFields w0 w1 w2 v = { x with lit := v } := by
  refine ⟨_, _, _, rfl, ?_, ?_, ?_, fun v => ?_⟩ <;>
    simp (disch := omega) [extFields, BitVec.getLsbD_append, BitVec.extractLsb'_append_eq_of_le, BitVec.extractLsb'_append_eq_of_add_le,
      -BitVec.getLsbD_eq_getElem, -Nat.reduceAdd]

/-- A base word with an instruction's opcode and fields is that instruction's (R202). -/
theorem decodeBase_of_fields {i : Instr} {r : BaseRow} {x : Base} (h : i.form = .base r x) (hw : i.WellFormed = true) {b0 : W32}
    (ho : b0.extractLsb' 3 8 = r.bop) (hf : baseFields b0 x.lit = x) : decodeBase b0 x.lit = .ok i := by
  obtain ⟨f, hl, hx⟩ := lookupOp_base h
  simp only [decodeBase, ho, hl, hf, hx]
  exact if_pos hw

/-- Extended words with an instruction's opcode and fields and the reserved bit zero are that instruction's (R194). -/
theorem decodeExt_of_fields {i : Instr} {r : Row} {x : Ext} (h : i.form = .ext r x) (hw : i.WellFormed = true) {w0 w1 w2 : W32}
    (ho : w0.extractLsb' 3 10 = r.xop) (hz : w1.getLsbD 31 = false) (hf : extFields w0 w1 w2 x.lit = x) :
    decodeExt w0 w1 w2 x.lit = .ok i := by
  obtain ⟨f, hl, hx⟩ := lookupOp_ext h
  simp only [decodeExt, ho, hl, hf, hx, hz, Bool.false_eq_true, if_false]
  exact if_pos hw

theorem decode_encodeBase {i : Instr} {r : BaseRow} {x : Base} (h : i.form = .base r x) (hw : i.WellFormed = true) (rest : List W32) :
    decode (encodeBase r x ++ rest) = .ok (i, rest) := by
  obtain ⟨b0, he, hl, ho, hf⟩ := encodeBase_words r x
  have hd := decodeBase_of_fields h hw ho (hf x.lit)
  rw [he]
  cases hx : x.lit <;> rw [hx] at hl hd <;> simp [decode, hl, literalWords, literalOf_words, hd, Except.map]

theorem decode_encodeExt {i : Instr} {r : Row} {x : Ext} (h : i.form = .ext r x) (hw : i.WellFormed = true) (rest : List W32) :
    decode (encodeExt r x ++ rest) = .ok (i, rest) := by
  obtain ⟨w0, w1, w2, he, hl, ho, hz, hf⟩ := encodeExt_words r x
  have hd := decodeExt_of_fields h hw ho hz (hf x.lit)
  rw [he]
  cases hx : x.lit <;> rw [hx] at hl hd <;> simp [decode, hl, literalWords, literalOf_words, hd, Except.map]

/-- The words of a well-formed group or tile instruction decode to it and to what follows them. -/
theorem decode_encode {i : Instr} (hf : i.form ≠ .event) (hw : i.WellFormed = true) (rest : List W32) :
    decode (encode i ++ rest) = .ok (i, rest) := by
  unfold encode
  split
  case h_1 h => exact decode_encodeExt h hw rest
  case h_2 h => exact decode_encodeBase h hw rest
  case h_3 h => exact absurd h hf

/-! ### Fetching (R174, R185, R209, R210) -/

theorem fetch_encode {k : Core} {pc : Pc} {i : Instr} {rest : List W32} (h : k.wordsAt pc = some (true, encode i ++ rest))
    (hf : i.form ≠ .event) (hw : i.WellFormed = true) : fetch k pc = .instr i := by
  simp only [fetch, h, decode_encode hf hw]

theorem fetch_noSegment {k : Core} {pc : Pc} (h : k.wordsAt pc = none) : fetch k pc = .missing := by simp only [fetch, h]

theorem fetch_noStart {k : Core} {pc : Pc} {ws : List W32} (h : k.wordsAt pc = some (false, ws)) : fetch k pc = .bad := by
  simp only [fetch, h]

theorem fetch_undecoded {k : Core} {pc : Pc} {ws : List W32} {e : DecodeError} (h : k.wordsAt pc = some (true, ws))
    (hd : decode ws = .error e) : fetch k pc = .bad := by
  simp only [fetch, h, hd]

end Sys2Proof.Machine
end

section
namespace Sys2Proof.Machine
open Sys2Proof

/-! ### Steps and turns (R185, R210, R227, R317, R324) -/

/-- A step takes the first turn of its schedule, once the groups are noted. -/
theorem step_of_turn {s : State} {t : Turn} {r : List Turn} (h : s.turns = t :: r) :
    step s = stepTurn { noteGroups { s with tick := s.tick + 1 } with turns := r } t := by
  have hn : (noteGroups { s with tick := s.tick + 1 }).turns = t :: r := h
  simp only [step, hn]

/-- What a stream's turn makes of what it has fetched. -/
def runFetched (u : State) (f : Fetched) : Host.Outcome State Fault Refusal :=
  match f with
  | .instr i => exec i u
  | .bad => .next (streamIllop u)
  | .missing => .next (streamMissing u)

theorem tryAgent_ready {s u : State} {pc : Pc} (hr : readyAgent s = (u, true)) (hp : nextPc u = some pc) :
    tryAgent s = runFetched u (fetch (u.core u.cur.core) pc) := by
  simp only [tryAgent, hr, hp]
  rfl

/-- A step on the turn of an agent that may issue runs what the agent fetches. -/
theorem step_of_takesTurn {s u : State} {a : Agent} {pc : Pc} (h : takesTurn s a u) (hp : nextPc u = some pc) :
    step s = runFetched u (fetch (u.core u.cur.core) pc) := by
  obtain ⟨r, ht, hpick, hr⟩ := h
  have hany : (a.grp.any fun g => outranked { noteGroups { s with tick := s.tick + 1 } with turns := r, cur := a } a.core a.block g) =
      false := by
    cases hg : a.grp with
    | none => rfl
    | some g => exact hpick g hg
  rw [step_of_turn ht, ← tryAgent_ready hr hp]
  simp only [stepTurn, stepAgent, hany, Bool.false_eq_true, if_false]

theorem streamIllop_here {u : State} {h : Here} (hh : here u = some h) : streamIllop u = raiseTrap u h xIllop 0 h.ent.pc := by
  simp only [streamIllop, hh]

theorem streamMissing_here {u : State} {h : Here} (hh : here u = some h) :
    streamMissing u = raiseTrap u h xCodemiss (BitVec.ofNat 64 h.ent.pc.seg) h.ent.pc := by
  simp only [streamMissing, hh]

/-- The instruction of another agent is the event's step. -/
theorem exec_of_event {i : Instr} {e : Event} (h : eventOf i = some e) (s : State) : exec i s = stepEvent e s := by
  cases i <;> cases h <;> rfl

theorem deliverDue_noLate {s : State} {c b g : Nat} {x : Group} (hx : s.group c b g = some x) (h : x.late = []) :
    deliverDue s c b g = none := by
  simp [deliverDue, hx, dueTrap, h]

/-- A group of a started block that is resident and not parked, with an entry that does not wait and no trap pending, may issue. -/
theorem readyAgent_group {s : State} {c b g : Nat} {k : Block} {x : Group} {e : Entry} (hc : s.cur = ⟨c, b, some g⟩)
    (hk : s.block c b = some k) (hx : s.group c b g = some x) (hs : k.started = true) (he : x.ended = false) (hr : x.resident = true)
    (hp : x.park = none) (hsel : selectEntry x = some e) (hl : x.late = []) :
    readyAgent s = (s.updGroup c b g fun y => { y with park := none }, true) := by
  simp only [readyAgent, hc, readyGroup, hk, hx, hs, he, hr, hp, hsel, deliverDue_noLate hx hl, Bool.not_true, Bool.or_self,
    Bool.false_eq_true, if_false]

/-- Noting the groups notes each one by what it may do in the state that is noted. -/
theorem noteGroups_group {s : State} {c b g : Nat} {x : Group} (h : s.group c b g = some x) :
    (noteGroups s).group c b g = some (x.noted s.tick (notesReady s c b g x)) := by
  unfold State.group State.block State.core at h ⊢
  simp only [noteGroups, kget_kmap]
  cases hc : kget s.cores c with
  | none => simp [hc, Core.fresh, kget] at h
  | some k =>
    simp only [hc, Option.getD_some, Option.map_some, kget_kmap, Option.bind_map] at h ⊢
    cases hb : kget k.blocks b with
    | none => simp [hb] at h
    | some y =>
      simp only [hb, Option.bind_some] at h
      simp [kget_kmap, h]

theorem mayIssue_notReady {s : State} {c b g : Nat} (h : (readyAgent { s with cur := ⟨c, b, some g⟩ }).2 = false) :
    mayIssue s c b g = false := by
  simp only [mayIssue, h, Bool.false_and]

/-- A group whose turn goes ahead issues unless the attempt leaves it held back. -/
theorem mayIssue_ready {s u : State} {c b g : Nat} {x : Group} (h : (readyAgent { s with cur := ⟨c, b, some g⟩ }).2 = true)
    (ht : tryAgent { s with cur := ⟨c, b, some g⟩ } = .next u) (hx : u.group c b g = some x) : mayIssue s c b g = !x.heldBack := by
  simp only [mayIssue, h, ht, hx, Bool.true_and, Option.all_some]

/-- Settles O58: an agent's turn by what it fetches, another agent's by its event, and readiness by its definition. -/
theorem stepRunsTheInstruction : Obligations.StepRunsTheInstruction := by
  refine ⟨?instr, fun _ _ _ _ h hf hw => fetch_encode h hf hw, ?traps, fun _ _ _ _ _ _ _ => readyAgent_group, ?event, ?elapse,
    fun _ _ _ _ _ => noteGroups_group, fun _ _ _ _ _ => rfl, fun _ _ _ _ => mayIssue_notReady, fun _ _ _ _ _ _ => mayIssue_ready⟩
  case instr =>
    intro s a u pc i ht hp hf
    rw [step_of_takesTurn ht hp, hf]
    rfl
  case traps =>
    intro s a u pc h ht hp hh
    rw [step_of_takesTurn ht hp, ← streamIllop_here hh, ← streamMissing_here hh]
    refine ⟨fun hw => ?_, fun ws hw => ?_, fun ws e hw hd => ?_⟩
    · rw [fetch_noSegment hw]; rfl
    · rw [fetch_noStart hw]; rfl
    · rw [fetch_undecoded hw hd]; rfl
  case event =>
    intro s e i r ht he
    rw [step_of_turn ht, exec_of_event he]
    rfl
  case elapse =>
    intro s n r ht
    rw [step_of_turn ht]
    rfl

end Sys2Proof.Machine
end

section
namespace Sys2Proof.Machine
open Sys2Proof

/-! ### Uniform integer and word instructions (R139, R204, R206) -/

/-- Every uniform form of class F with a value for a uniform register runs as its row's function on words (R206). -/
theorem uniRows_body : ∀ p ∈ uniTypedRows ++ uniWordRows, ∀ len, p.1.tile = false ∧ groupBody p.1.xop len = uniOp p.1 p.2 := by
  simp only [uniTypedRows, uniWordRows, List.cons_append, List.nil_append, List.forall_mem_cons]
  repeat' refine And.intro (fun _ => ⟨rfl, rfl⟩) ?_
  exact List.forall_mem_nil _

/-- A uniform instruction of class F with a channel as destination sends the words of its value (R139, R140, R143). -/
theorem uniOp_pushes {r : Row} {f : UniFn} (ht : r.tile = false) (hb : ∀ len, groupBody r.xop len = uniOp r f) : uniPushes r f := by
  intro i x len s u h hu hd q ws hpush hstuck
  rw [uniIssue_exec hu ht (congrFun (hb len) x) rfl]
  have hdst : dstUni (openIssue q.2 h) h r x (f x (q.1.a 0) (q.1.b 0) (q.1.c 0)) = (u, true) := by
    simp only [dstUni, hd, if_true]
    exact hpush
  have hfin : finPush (openIssue s h) x (u, true) = .fin u :=
    finPush_free fun _ => by rw [openIssue_cur_core hu.2.1]; exact hstuck
  simp only [fetchSrcs_openIssue, hdst, hfin, q]
  rfl

/-- A row that runs as a function on words writes its value to its register, or sends it through its mesh-out entry. -/
theorem uniRow_result {p : Row × UniFn} (hp : p ∈ uniTypedRows ++ uniWordRows) : uniCompletes p.1 p.2 ∧ uniPushes p.1 p.2 :=
  have hb := uniRows_body p hp
  ⟨fun _ _ len _ _ hu hd hq => uniOp_register hu.1 (hb len).1 (hb len).2 hu.2.1 hu.2.2 hd hq,
    uniOp_pushes (hb 0).1 fun len => (hb len).2⟩

/-- Settles O1: both lists of rows run as functions on words. -/
theorem uniformResult : Obligations.UniformResult :=
  ⟨fun _ hp => uniRow_result (List.mem_append_left _ hp), fun _ hp => uniRow_result (List.mem_append_right _ hp)⟩

end Sys2Proof.Machine
end

section
namespace Sys2Proof.Machine
open Sys2Proof

/-! ### Comparisons into a uniform predicate (R50, R199, R207, R245) -/

/-- A uniform predicate written with nothing on its way to it. -/
theorem putQ_idle (g : Group) (tick : Nat) {i : Nat} (v : Bool) (hi : i < 7) (h : ∀ p ∈ g.pend, ∀ w, p.2.wb ≠ .upred i w) :
    g.putQ tick i v = g.setQ (setBit7 g.q i v) := by
  unfold Group.putQ
  rw [if_neg (Nat.ne_of_lt hi)]
  split
  · rename_i w hw
    obtain ⟨⟨k, wb, f⟩, hp, hf⟩ := List.exists_of_findSome?_eq_some hw
    dsimp only at hf
    split at hf
    · rename_i j u
      split at hf
      · rename_i hij
        subst hij
        exact absurd rfl (h _ hp u)
      · cases hf
    · cases hf
  · rfl

/-- q7 discards (R50). -/
theorem putQ_seven (g : Group) (tick : Nat) (v : Bool) : g.putQ tick 7 v = g := if_pos rfl

/-- Writing a uniform predicate writes its bit alone. -/
theorem setBit7_getLsbD (q : BitVec 7) {n : Nat} (v : Bool) (j : Nat) (hn : n < 7) :
    (setBit7 q n v).getLsbD j = if j = n then v else q.getLsbD j := by
  have hbit : (BitVec.ofNat 7 (2 ^ n)).getLsbD j = decide (j = n) := by
    rw [BitVec.getLsbD_ofNat, Nat.testBit_two_pow]
    by_cases hj : j = n
    · simp [hj, hn]
    · simp [hj, Ne.symm hj]
  unfold setBit7
  generalize BitVec.ofNat 7 (2 ^ n) = m at hbit
  by_cases hj : j = n
  · subst hj
    cases v <;> simp [hbit]
  · cases v with
    | true => simp [hbit, hj]
    | false => simpa [hbit, hj] using fun h => BitVec.lt_of_getLsbD h

/-- UCMP writes its comparison to its predicate (R207). -/
theorem ucmp_writes {i : Instr} {x : Ext} {len : Nat} {s : State} {h : Here} (hu : UniIssue i s Rows.ucmp x len h false) :
    let q := fetchSrcs s h Rows.ucmp x []
    exec i s = .next (q.2.updGroup h.c h.b h.g fun _ => h.advanced len x.s (h.counted.putQ h.tick x.d.toNat
      (intCompare (cmpCode x) (uVal x.ty (q.1.a 0)) (uVal x.ty (q.1.b 0))))) := by
  obtain ⟨-, -, -, ht, -⟩ := here_spec hu.2.1
  intro q
  have hg : q.2.group h.c h.b h.g = some h.grp := (fetchSrcs_group ..).trans (here_group hu.2.1)
  rw [uniIssue_exec hu rfl (congrFun (groupBody_ucmp len) x) rfl]
  simp only [openIssue, fetchSrcs_updGroup, State.updGroup_updGroup]
  exact congrArg _ (settle_fin_updGroup hg ((fetchSrcs_tick ..).trans ht.symm) len x.s _)

/-- PLOP on uniform predicates writes its truth table's bit to its predicate, whatever its guards and lanes (R245). -/
theorem plop_uniform_writes {i : Instr} {x : Ext} {len : Nat} {s : State} {h : Here} (hi : i.issued = some (Rows.plop, x, len))
    (hh : here s = some h) (hm : x.mod6.getLsbD 0 = true) (hs : squashed x = false) :
    exec i s = .next (s.updGroup h.c h.b h.g fun _ => h.advanced len x.s (h.counted.putQ h.tick x.d.toNat
      (plopBit x (h.grp.rq h.tick x.a.toNat) (h.grp.rq h.tick x.b.toNat) (h.grp.rq h.tick x.c.toNat)))) := by
  obtain ⟨-, -, -, ht, -⟩ := here_spec hh
  rw [exec_of_issued hi rfl, issueGroup_here hh, groupBody_plop]
  simp only [bodyPlop, hm, hs, if_true, Bool.false_eq_true, if_false, openIssue_updGroup hh]
  exact congrArg _ (settle_fin_updGroup (here_group hh) ht.symm len x.s _)

/-- The words of an extended instruction that is not well formed do not decode (R185). -/
theorem decode_illFormed {i : Instr} {r : Row} {x : Ext} (h : i.form = .ext r x) (hw : i.WellFormed = false) (rest : List W32) :
    decode (encodeExt r x ++ rest) = .error .encoding := by
  obtain ⟨w0, w1, w2, he, hl, ho, hz, hf⟩ := encodeExt_words r x
  obtain ⟨f, hk, hx⟩ := lookupOp_ext h
  have hd : decodeExt w0 w1 w2 x.lit = .error .encoding := by
    simp only [decodeExt, ho, hk, hf, hx, hz, Bool.false_eq_true, if_false]
    exact if_neg (by simp [hw])
  rw [he]
  cases hx : x.lit <;> rw [hx] at hl hd <;> simp [decode, hl, literalWords, literalOf_words, hd, Except.map]

/-- The codes ord and uno are no encoding of UCMP (R199, R207). -/
theorem ucmp_illFormed {x : Ext} (hm : x.mod6 = 6 ∨ x.mod6 = 7) : (Instr.ucmp x).WellFormed = false := by
  have hextra : Rows.ucmp.extra x = false := by obtain hm | hm := hm <;> simp [Rows.ucmp, hm]
  exact (congrArg (_ && ·) hextra).trans (Bool.and_false _)

/-- Settles O5: each form by the predicate that it writes, and the codes ord and uno by their words, which do not decode. -/
theorem uniformPredicateResult : Obligations.UniformPredicateResult := by
  refine ⟨fun i x len s h hu hd hp => ?ucmp, fun i x len s h hu hd => ?discards, fun i x len s h hi hh hm hs hd hp => ?plop,
    fun q n v j hn => setBit7_getLsbD q v j hn, fun _ _ => ⟨rfl, rfl, rfl, rfl, rfl, rfl⟩, ?illop, rfl, rfl, rfl, ?bases⟩
  case ucmp => rw [ucmp_writes hu, putQ_idle h.counted h.tick _ hd hp]; rfl
  case discards => rw [ucmp_writes hu, hd, putQ_seven]
  case plop => rw [plop_uniform_writes hi hh hm hs, putQ_idle h.counted h.tick _ hd hp]; rfl
  case illop =>
    intro s a u pc h rest x ht hpc hh hm hw
    rw [step_of_takesTurn ht hpc, fetch_undecoded hw (decode_illFormed rfl (ucmp_illFormed hm) rest)]
    exact congrArg _ (streamIllop_here hh)
  case bases =>
    simp only [List.forall_mem_cons]
    exact ⟨fun _ => ⟨_, _, rfl, rfl, rfl, rfl, rfl⟩, fun _ => ⟨_, _, rfl, rfl, rfl, rfl, rfl⟩,
      fun _ => ⟨_, _, rfl, rfl, rfl, rfl, rfl⟩, List.forall_mem_nil _⟩

end Sys2Proof.Machine
end

section
namespace Sys2Proof.Machine
open Sys2Proof

/-! ### Branches, calls and returns (R17, R210-R215) -/

/-- A lane is in the part at a target and priority. -/
def inPart (ps : List (Pc × BitVec 14 × Lanes)) (p : Pc) (pr : BitVec 14) (l : Nat) : Prop :=
  ∃ m, (p, pr, m) ∈ ps ∧ m.getLsbD l = true

/-- One lane joins the part at its target and priority, or makes it. -/
def joinPart (ps : List (Pc × BitVec 14 × Lanes)) (a : Nat × Pc × BitVec 14) : List (Pc × BitVec 14 × Lanes) :=
  if ps.any fun q => q.1 == a.2.1 && q.2.1 == a.2.2 then
    ps.map fun q => if q.1 == a.2.1 && q.2.1 == a.2.2 then (q.1, q.2.1, q.2.2 ||| laneBit a.1) else q
  else ps ++ [(a.2.1, a.2.2, laneBit a.1)]

/-- The parts are made by the lanes' joining them, one after another (R212). -/
theorem gatherParts_eq (ls : List (Nat × Pc × BitVec 14)) : gatherParts ls = ls.foldl joinPart [] := rfl

/-- A lane that is in a part stays there when another joins. -/
theorem inPart_joinPart {ps : List (Pc × BitVec 14 × Lanes)} {p : Pc} {pr : BitVec 14} {l : Nat} (a : Nat × Pc × BitVec 14)
    (h : inPart ps p pr l) : inPart (joinPart ps a) p pr l := by
  obtain ⟨m, hm, hl⟩ := h
  unfold joinPart
  split
  · by_cases hq : (p == a.2.1 && pr == a.2.2) = true
    · exact ⟨m ||| laneBit a.1, List.mem_map.mpr ⟨_, hm, if_pos hq⟩, by simp [hl]⟩
    · exact ⟨m, List.mem_map.mpr ⟨_, hm, if_neg hq⟩, hl⟩
  · exact ⟨m, List.mem_append_left _ hm, hl⟩

/-- A lane that joins is in the part at its target and priority. -/
theorem joinPart_joins (ps : List (Pc × BitVec 14 × Lanes)) {a : Nat × Pc × BitVec 14} (h : a.1 < 64) :
    inPart (joinPart ps a) a.2.1 a.2.2 a.1 := by
  have hbit : (laneBit a.1).getLsbD a.1 = true := by simp [laneBit_getLsbD h]
  unfold joinPart
  split
  · rename_i hany
    obtain ⟨⟨p, pr, m⟩, hm, hq⟩ := List.any_eq_true.mp hany
    have hpart : p = a.2.1 ∧ pr = a.2.2 := by simpa using hq
    obtain ⟨rfl, rfl⟩ := hpart
    exact ⟨m ||| laneBit a.1, List.mem_map.mpr ⟨_, hm, if_pos hq⟩, by simp [hbit]⟩
  · exact ⟨_, List.mem_append_right _ List.mem_cons_self, hbit⟩

/-- Lanes that join after a lane leave it in its part. -/
theorem inPart_foldl {p : Pc} {pr : BitVec 14} {l : Nat} (ls : List (Nat × Pc × BitVec 14)) {ps : List (Pc × BitVec 14 × Lanes)}
    (h : inPart ps p pr l) : inPart (ls.foldl joinPart ps) p pr l := by
  induction ls generalizing ps with
  | nil => exact h
  | cons a r ih => exact ih (inPart_joinPart a h)

/-- Every lane is in the part at its target and priority (R212). -/
theorem gatherParts_has {ls : List (Nat × Pc × BitVec 14)} {a : Nat × Pc × BitVec 14} (ha : a ∈ ls) (h : a.1 < 64) :
    inPart (gatherParts ls) a.2.1 a.2.2 a.1 := by
  obtain ⟨before, after, rfl⟩ := List.append_of_mem ha
  rw [gatherParts_eq, List.foldl_append, List.foldl_cons]
  exact inPart_foldl after (joinPart_joins _ h)

/-- No base form issues a branch, a call or PREACK (R202). -/
theorem base_row_ne_branch {i : Instr} {r : BaseRow} {b : Base} (h : i.form = .base r b) :
    ∀ q ∈ [Rows.bra, Rows.brx, Rows.call, Rows.jfence, Rows.preack], r.row.xop ≠ q.xop := by
  cases i <;> simp only [Instr.form, Form.base.injEq, reduceCtorEq] at h <;> (obtain ⟨rfl, -⟩ := h; decide)

/-- So each has the length of an extended instruction. -/
theorem issued_branch_len {i : Instr} {r : Row} {x : Ext} {len : Nat} (h : i.issued = some (r, x, len))
    (hr : r ∈ [Rows.bra, Rows.brx, Rows.call, Rows.jfence, Rows.preack]) : len = extLen x :=
  issued_ext_len h fun _ _ hf => base_row_ne_branch hf r hr

/-- The issue's count does not show in the slots of a core. -/
theorem slotOf_openIssue (s : State) (h : Here) (seg : Nat) : ((openIssue s h).core h.c).slotOf seg = (s.core h.c).slotOf seg := by
  rw [openIssue_core]; rfl

/-- So it does not show in where a target word leads. -/
theorem farTarget_openIssue (s : State) (h : Here) (w : W64) : farTarget (openIssue s h) h w = farTarget s h w := by
  simp only [farTarget, slotOf_openIssue]

/-- BRA (R211). -/
theorem bra_departs {i : Instr} {x : Ext} {len : Nat} {s : State} {h : Here} {t : Pc} (hv : VecIssue i s Rows.bra x len h false)
    (ht : nearTarget h.ent.pc (x.lit.getD 0) = .ok t) :
    exec i s = .next (h.departed x.s (divide (openIssue s h) h len (h.active x) [(t, targetPrio x, h.active x)])) := by
  obtain rfl := issued_branch_len hv.1 (by simp)
  rw [vecIssue_exec hv rfl (congrFun (groupBody_bra _) x)]
  simp only [ht]
  rfl

/-- JFENCE (R215). -/
theorem jfence_departs {i : Instr} {x : Ext} {len : Nat} {s : State} {h : Here} {t : Pc}
    (hv : VecIssue i s Rows.jfence x len h false) (ht : farTarget s h (x.lit.getD 0) = .ok t) :
    exec i s = .next (h.departed x.s (divide (openIssue s h) h len (h.active x) [(t, targetPrio x, h.active x)])) := by
  obtain rfl := issued_branch_len hv.1 (by simp)
  rw [vecIssue_exec hv rfl (congrFun (groupBody_jfence _) x)]
  simp only [farTarget_openIssue, ht]
  rfl

/-- CALL writes the link to its lanes' pair before they leave (R213). -/
theorem call_departs {i : Instr} {x : Ext} {len : Nat} {s : State} {h : Here} {t : Pc}
    (hv : VecIssue i s Rows.call x len h false) (ht : farTarget s h (x.lit.getD 0) = .ok t) (hd : h.destIdle Rows.call x) :
    ∃ v, vecWritten h.grp.v v true x.d.toNat (h.lanes x) (fun _ => linkOf h.ent.prio (h.ent.pc.plus len)) ∧
      exec i s = .next (h.departed x.s (divide (s.updGroup h.c h.b h.g fun _ => h.counted.setV v) h len (h.active x)
        [(t, targetPrio x, h.active x)])) := by
  obtain rfl := issued_branch_len hv.1 (by simp)
  have hlink := foldl_putV2 ((h.lanes x).map fun l => (l, linkOf h.ent.prio (h.ent.pc.plus (extLen x)))) h.counted h.tick x.d.toNat
    (fun l => (hd l).1) (fun l => (hd l).2 rfl)
  refine ⟨_, vecWritten_pair (h.lanes x) _ h.grp.v x.d.toNat (laneList_nodup _ _) fun l => laneList_lt, ?_⟩
  rw [vecIssue_exec hv rfl (congrFun (groupBody_call _) x)]
  simp only [farTarget_openIssue, ht, openIssue_updGroup hv.2.1]
  rw [List.foldl_map] at hlink
  simp only [Here.lanes] at hlink
  rw [hlink]
  rfl

/-- BRX (R212). -/
theorem brx_departs {i : Instr} {x : Ext} {len : Nat} {s : State} {h : Here} {ps : List (Nat × Pc)}
    (hv : VecIssue i s Rows.brx x len h false)
    (hp : allOk ((h.lanes x).map fun l => (l, nearTarget h.ent.pc ((h.grp.rv h.tick x.a.toNat l).signExtend 64))) = .ok ps) :
    exec i s = .next (h.departed x.s (divide (openIssue s h) h len (h.active x)
      (gatherParts (ps.map fun p => (p.1, p.2, targetPrio x))))) := by
  obtain rfl := issued_branch_len hv.1 (by simp)
  rw [vecIssue_exec hv rfl (congrFun (groupBody_brx _) x)]
  simp only [Here.lanes] at hp
  simp only [hp]
  rfl

/-- RET, to segments that are in a slot (R214). -/
theorem ret_departs {i : Instr} {x : Ext} {len : Nat} {s : State} {h : Here} {ps : List (Nat × Pc × BitVec 14)}
    (hv : VecIssue i s Rows.ret x len h false)
    (hp : allOk ((h.lanes x).map fun l => (l, linkTarget (h.grp.rv2 h.tick x.a.toNat l))) = .ok ps)
    (hseg : ∀ p ∈ ps, p.2.1.seg = h.ent.pc.seg ∨ ((s.core h.c).slotOf p.2.1.seg).isSome) :
    exec i s = .next (h.departed x.s (divide (openIssue s h) h len (h.active x) (gatherParts ps))) := by
  have hfind : (ps.find? fun p => !(p.2.1.seg == h.ent.pc.seg || ((s.core h.c).slotOf p.2.1.seg).isSome)) = none :=
    List.find?_eq_none.mpr fun p hm => by obtain hs | hs := hseg p hm <;> simp only [hs, beq_self_eq_true, Bool.true_or,
      Bool.or_true, Bool.not_true, Bool.false_eq_true, not_false_eq_true]
  rw [vecIssue_exec hv rfl (congrFun (groupBody_ret len) x)]
  simp only [Here.lanes] at hp
  simp only [hp, slotOf_openIssue, hfind]
  rfl

/-- Settles O7: each instruction as its issue carries it out, and the parts by the lanes that join them. -/
theorem branchTaken : Obligations.BranchTaken :=
  ⟨⟨fun _ _ _ _ _ _ hv ht => bra_departs hv ht, fun _ _ _ _ _ _ hv ht => jfence_departs hv ht,
      fun _ _ _ _ _ _ hv ht hd => call_departs hv ht hd⟩,
    fun _ _ _ _ _ _ hv hp => brx_departs hv hp, fun _ _ _ _ _ _ hv hp hseg => ret_departs hv hp hseg,
    fun _ _ _ _ hm hl => gatherParts_has hm hl⟩

end Sys2Proof.Machine
end

section
namespace Sys2Proof.Machine
open Sys2Proof

/-! ### Returning from the handler (R15, R21, R227, R228, R258) -/

/-- The entries that ERET brings back (R227): those set aside but the trapped one, which stands at %xpc with %xprio and the lanes of
%xmask; none with a lane that has exited. -/
def comingBack (g : Group) (hd : Handler) : List Entry :=
  let others := hd.saved.filter fun e => hd.trapped.all fun t => e.pc != t.pc
  let back := hd.trapped.toList.map fun t : Entry =>
    { t with pc := Pc.ofTarget g.xpc, prio := g.xprio.setWidth 14, mask := g.xmask, count := 0, slot := none }
  (others ++ back).map fun e => { e with mask := e.mask &&& ~~~g.exited }

/-- They join one after another, and waits that are met proceed (R15, R21). -/
theorem returnHandler_eq (g : Group) (w : Nat) (hd : Handler) : returnHandler g w hd =
    settleReconv w ((comingBack g hd).foldl addEntry []).length
      { g with frontier := (comingBack g hd).foldl addEntry [], handler := none } := by
  unfold returnHandler comingBack
  cases hd.trapped <;> rfl

/-- With no entry that waits, nothing but their joining happens. -/
theorem returnHandler_noWait {g : Group} {hd : Handler} (w : Nat) (hw : ∀ e ∈ comingBack g hd, e.wait = none) :
    returnHandler g w hd = { g with frontier := (comingBack g hd).foldl addEntry [], handler := none } := by
  rw [returnHandler_eq]
  exact settleReconv_idle _ _ _ fun f hf => by
    simp [reconvMet, foldl_addEntry_noWait hw (by simp) f hf]

/-- What comes back is a set-aside entry or the trapped one. -/
theorem mem_comingBack {g : Group} {hd : Handler} {e : Entry} : e ∈ comingBack g hd ↔
    (∃ f ∈ hd.saved, (∀ t, hd.trapped = some t → f.pc ≠ t.pc) ∧ e = { f with mask := f.mask &&& ~~~g.exited }) ∨
    (∃ t, hd.trapped = some t ∧ e = { t with
      pc := Pc.ofTarget g.xpc, prio := g.xprio.setWidth 14, mask := g.xmask &&& ~~~g.exited, count := 0, slot := none }) := by
  unfold comingBack
  cases hd.trapped <;> simp [and_assoc, eq_comm (a := e)]

/-- None of them waits where none of those set aside did. -/
theorem comingBack_noWait {g : Group} {hd : Handler} (hs : ∀ f ∈ hd.saved, f.wait = none)
    (ht : ∀ t, hd.trapped = some t → t.wait = none) : ∀ e ∈ comingBack g hd, e.wait = none := by
  intro e he
  obtain ⟨f, hf, -, rfl⟩ | ⟨t, hh, rfl⟩ := mem_comingBack.mp he
  · exact hs f hf
  · exact ht t hh

/-- The lanes of the entries that join stand at their PCs (R15). -/
theorem foldl_addEntry_joins {es rest : List Entry} {e : Entry} {l : Nat} (he : e ∈ es) (hl : e.mask.getLsbD l = true) :
    laneAt (es.foldl addEntry rest) e.pc l := by
  obtain ⟨before, after, rfl⟩ := List.append_of_mem he
  rw [List.foldl_append, List.foldl_cons]
  exact List.foldlRecOn (motive := fun fr => laneAt fr e.pc l) after addEntry (addEntry_joins _ e hl)
    fun _ h f _ => addEntry_keeps_lane f h

/-- Entries without the lanes of a set stay so when one without them joins. -/
theorem addEntry_apart {es : List Entry} {e : Entry} {out : Lanes} (hes : ∀ f ∈ es, f.mask &&& out = 0) (he : e.mask &&& out = 0) :
    ∀ f ∈ addEntry es e, f.mask &&& out = 0 := by
  by_cases h0 : e.mask = 0
  · rwa [addEntry_empty es h0]
  induction es with
  | nil => simpa [addEntry_new [] h0] using he
  | cons x r ih =>
    rw [List.forall_mem_cons] at hes
    obtain ⟨hx, hr⟩ := hes
    by_cases hp : x.pc = e.pc
    · obtain ⟨m, hm, -, hmask, -⟩ := addEntry_merge r h0 hp
      have hor : m.mask &&& out = 0 := by
        rw [hmask, BitVec.and_comm, BitVec.and_or_distrib_left, BitVec.and_comm out, BitVec.and_comm out, hx, he, BitVec.or_self]
      rw [hm, List.forall_mem_cons]
      exact ⟨hor, hr⟩
    · rw [addEntry_past r h0 hp, List.forall_mem_cons]
      exact ⟨hx, ih hr⟩

/-- No entry that comes back has a lane that has exited (R22, R227). -/
theorem comingBack_apart (g : Group) (hd : Handler) : ∀ f ∈ (comingBack g hd).foldl addEntry [], f.mask &&& g.exited = 0 := by
  have hall : ∀ e ∈ comingBack g hd, e.mask &&& g.exited = 0 := by
    intro e he
    obtain ⟨f, -, -, rfl⟩ | ⟨t, -, rfl⟩ := mem_comingBack.mp he <;> simp [BitVec.and_assoc]
  exact List.foldlRecOn (motive := fun fr => ∀ f ∈ fr, f.mask &&& g.exited = 0) _ addEntry (List.forall_mem_nil _)
    fun _ h e he => addEntry_apart h (hall e he)

/-- ERET leaves the handler by the frontier that comes back (R227). -/
theorem eret_returns {i : Instr} {x : Ext} {len : Nat} {s : State} {h : Here} {hd : Handler}
    (hu : UniIssue i s Rows.eret x len h false) (hh : h.grp.handler = some hd) :
    let u := s.updGroup h.c h.b h.g fun _ => returnHandler h.counted h.width hd
    exec i s = .next (h.departed x.s (if hd.isPreempt && hd.resumed then unfreeze u h.c h.b else u)) := by
  have hc : h.counted.handler = some hd := hh
  rw [uniIssue_exec hu rfl (congrFun (groupBody_eret len) x) (by simp [hh])]
  simp only [hh, openIssue_updGroup hu.2.1, hc]
  rfl

/-- Only the trapped entry was set aside, and lanes of it are left: it goes on alone at %xpc with %xprio (R227). -/
theorem returnHandler_alone {g : Group} {hd : Handler} {e : Entry} (w : Nat) (hs : hd.saved = [e]) (ht : hd.trapped = some e)
    (hw : e.wait = none) (hm : g.xmask &&& ~~~g.exited ≠ 0) : returnHandler g w hd = { g with
      handler := none
      frontier := [{ e with pc := Pc.ofTarget g.xpc, prio := g.xprio.setWidth 14, mask := g.xmask &&& ~~~g.exited, count := 0, slot := none }] } := by
  have hback : comingBack g hd = [{ e with pc := Pc.ofTarget g.xpc, prio := g.xprio.setWidth 14, mask := g.xmask &&& ~~~g.exited
                                           count := 0, slot := none }] := by simp [comingBack, hs, ht]
  rw [returnHandler_noWait w (by simp [hback, hw]), hback, List.foldl_cons, List.foldl_nil, addEntry_new [] hm (by simp)]
  rfl

/-- Where no entry waits, each lane that has not exited stands where its entry comes back (R227). -/
theorem returnHandler_lanes (g : Group) (w : Nat) (hd : Handler) (hs : ∀ f ∈ hd.saved, f.wait = none)
    (ht : ∀ t, hd.trapped = some t → t.wait = none) :
    (∀ e ∈ hd.saved, (∀ t, hd.trapped = some t → t.pc ≠ e.pc) → ∀ l, e.mask.getLsbD l = true → g.exited.getLsbD l = false →
      laneAt (returnHandler g w hd).frontier e.pc l) ∧
    (hd.trapped ≠ none → ∀ l, g.xmask.getLsbD l = true → g.exited.getLsbD l = false →
      laneAt (returnHandler g w hd).frontier (Pc.ofTarget g.xpc) l) ∧
    (returnHandler g w hd).handler = none ∧ ∀ f ∈ (returnHandler g w hd).frontier, f.mask &&& g.exited = 0 := by
  have left : ∀ (m : Lanes) (l : Nat), m.getLsbD l = true → g.exited.getLsbD l = false → (m &&& ~~~g.exited).getLsbD l = true :=
    fun m l hm hx => by simpa [hm, BitVec.lt_of_getLsbD hm] using hx
  rw [returnHandler_noWait w (comingBack_noWait hs ht)]
  refine ⟨fun e he hpc l hl hx => ?_, fun hne l hl hx => ?_, rfl, comingBack_apart g hd⟩
  · have hback := (mem_comingBack (g := g)).mpr (.inl ⟨e, he, fun t h => (hpc t h).symm, rfl⟩)
    exact (foldl_addEntry_joins (rest := []) hback (left _ l hl hx) :)
  · obtain ⟨t, htr⟩ := Option.ne_none_iff_exists'.mp hne
    have hback := (mem_comingBack (g := g)).mpr (.inr ⟨t, htr, rfl⟩)
    exact foldl_addEntry_joins hback (left _ l hl hx)

/-- A q-guarded instruction that its mode forbids raises PRIV (R185). -/
theorem uniIssue_priv {i : Instr} {s : State} {r : Row} {x : Ext} {len : Nat} {h : Here} {glob : Bool} {priv : Here → Bool}
    {act : Here → State → Out} (hu : UniIssue i s r x len h glob) (ht : r.tile = false)
    (hb : groupBody r.xop len x = uniBody r x glob priv act) (hp : priv h = false) : trapsWith i s h 0x02 0 h.ent.pc := by
  obtain ⟨hi, hh, hsq, hg, -⟩ := hu
  refine trapsWith_of_settle (len := len) (sb := x.s) hh (by decide) ?_
  rw [exec_of_issued hi ht, issueGroup_here hh, hb]
  simp only [uniBody, hsq, hg, hp, Bool.not_true, Bool.not_false, Bool.or_self, Bool.false_eq_true, if_false, if_true]
  rfl

/-- PREACK with no token slot in use (R228, R258). -/
theorem preack_acknowledges {i : Instr} {x : Ext} {len : Nat} {s : State} {h : Here} {hd : Handler}
    (hu : UniIssue i s Rows.preack x len h false) (hh : h.grp.handler = some hd) (hp : hd.isPreempt = true)
    (ht : h.grp.tokens = []) :
    let g := moveEntry { h.counted with preacked := true } h.width h.ent.pc (h.ent.pc.plus len)
    exec i s = .next (tryRelease (s.updGroup h.c h.b h.g fun _ => { h.ending x.s g with park := some .preack }) h.c h.b) := by
  intro g
  obtain ⟨-, -, -, htick, -⟩ := here_spec hu.2.1
  obtain rfl := issued_branch_len hu.1 (by simp)
  have hend : finishIssue (s.updGroup h.c h.b h.g fun _ => g) h x.s = s.updGroup h.c h.b h.g fun _ => h.ending x.s g :=
    departed_updGroup (here_group hu.2.1) htick.symm x.s fun _ => g
  rw [uniIssue_exec hu rfl (congrFun (groupBody_preack _) x) (by simp [hh, hp])]
  simp only [ht, List.isEmpty_nil, Bool.not_true, Bool.false_eq_true, if_false, openIssue_updGroup hu.2.1]
  simp only [g] at hend
  rw [hend, State.updGroup_updGroup]
  rfl

/-- Settles O12: ERET by the frontier that comes back, outside a handler by its mode, and PREACK as its issue carries it out. -/
theorem handlerReturns : Obligations.HandlerReturns := by
  refine ⟨⟨?returns, ?resumes, fun g w hd e hs ht hw hm => returnHandler_alone w hs ht hw hm, fun g w hd hs ht => ?lanes⟩,
    ⟨?priv, ?codemiss⟩, fun i x len s h hd hu hh hp ht => preack_acknowledges hu hh hp ht⟩
  case returns =>
    intro i x len s h hd hu hh hres
    obtain ⟨-, -, -, ht, -⟩ := here_spec hu.2.1
    rw [eret_returns hu hh, hres]
    exact congrArg _ (departed_updGroup (here_group hu.2.1) ht.symm x.s fun _ => _)
  case resumes =>
    intro i x len s h hd hu hh hres
    rw [eret_returns hu hh, hres]
    rfl
  case lanes =>
    obtain ⟨hsaved, htrapped, hnone, hout⟩ := returnHandler_lanes g w hd hs ht
    exact ⟨hsaved, htrapped, hnone, hout⟩
  case priv =>
    intro i x len s h hu hh
    exact uniIssue_priv hu rfl (congrFun (groupBody_eret len) x) (by simp [hh])
  case codemiss =>
    intro s a u pc h ht hpc hh hw
    rw [step_of_takesTurn ht hpc, fetch_noSegment hw]
    exact congrArg _ (streamMissing_here hh)

end Sys2Proof.Machine
end

section
namespace Sys2Proof.Machine
open Sys2Proof

/-! ### Overlay fetches and capability words (R209, R216, R222, R319, R417) -/

/-- A slot whose fetch of a segment is under way (R209). -/
def fetchingSlot (seg : Nat) : Slot := { state := slotFetching, seg := 0, words := [], starts := [], pending := some seg }

/-- A fetch into a slot changes the slots alone, and only that one (R216). -/
theorem startFetch_frame (k : Core) (n seg : Nat) : startFetch k n seg = { k with slots := (startFetch k n seg).slots } ∧
    ∀ j, j ≠ n → kget (startFetch k n seg).slots j = kget k.slots j := by
  have hset : ∀ (v : Slot) (j : Nat), j ≠ n → kget (kset k.slots n v) j = kget k.slots j := fun v j hj => kget_kset_ne _ v hj
  unfold startFetch
  cases kget k.slots n with
  | none => exact ⟨rfl, hset _⟩
  | some w =>
    dsimp only
    split
    · exact ⟨rfl, fun _ _ => rfl⟩
    · split
      · exact ⟨rfl, hset _⟩
      · split <;> exact ⟨rfl, hset _⟩

/-- An empty slot goes to FETCHING. -/
theorem startFetch_empty {k : Core} {n : Nat} (seg : Nat) (h : kget k.slots n = none) :
    kget (startFetch k n seg).slots n = some (fetchingSlot seg) := by
  simp only [startFetch, h, kget_kset_self]
  rfl

/-- A segment that is already there stays. -/
theorem startFetch_present {k : Core} {n : Nat} {w : Slot} (h : kget k.slots n = some w) (hw : w.state = slotLoaded) :
    startFetch k n w.seg = k := by
  simp [startFetch, h, hw]

/-- A fetch under way is replaced. -/
theorem startFetch_underWay {k : Core} {n : Nat} {w : Slot} (seg : Nat) (h : kget k.slots n = some w)
    (hw : w.state = slotFetching ∨ w.state = slotDeferred) :
    kget (startFetch k n seg).slots n = some { w with pending := some seg } := by
  have hl : (w.state == slotLoaded) = false := by obtain hw | hw := hw <;> rw [hw] <;> decide
  have hf : (w.state == slotFetching || w.state == slotDeferred) = true := by simpa using hw
  simp only [startFetch, h, hl, hf, Bool.false_and, Bool.false_eq_true, if_false, if_true, kget_kset_self]

/-- Other words give way, or, where they are occupied, the fetch is deferred. -/
theorem startFetch_other {k : Core} {n seg : Nat} {w : Slot} (h : kget k.slots n = some w) (hw : w.state = slotLoaded)
    (hs : w.seg ≠ seg) : kget (startFetch k n seg).slots n =
      some (if k.occupied n then { w with state := slotDeferred, pending := some seg } else fetchingSlot seg) := by
  have hf : (w.state == slotFetching || w.state == slotDeferred) = false := by rw [hw]; decide
  have hl : (w.state == slotLoaded && w.seg == seg) = false := by simp [hs]
  simp only [startFetch, h, hl, hf, Bool.false_eq_true, if_false]
  cases k.occupied n <;> exact kget_kset_self _ _ _

/-- CFETCH of a segment that the code object has (R216). -/
theorem cfetch_begins {i : Instr} {x : Ext} {len : Nat} {s : State} {h : Here} (hu : UniIssue i s Rows.cfetch x len h false)
    (hseg : (segmentOf s h.blk.image ((fetchSrcs s h Rows.cfetch x []).1.a 0).toNat).isSome) :
    let q := fetchSrcs s h Rows.cfetch x []
    exec i s = .next (h.completed len x.s ((openIssue q.2 h).updCore h.c fun k =>
      startFetch k (x.aux8.extractLsb' 0 3).toNat (q.1.a 0).toNat)) := by
  obtain ⟨ws, hws⟩ := Option.isSome_iff_exists.mp hseg
  have hopen : segmentOf (openIssue s h) h.blk.image ((fetchSrcs s h Rows.cfetch x []).1.a 0).toNat = some ws := hws
  rw [uniIssue_exec hu rfl (congrFun (groupBody_cfetch len) x) rfl]
  simp only [fetchSrcs_openIssue, hopen]
  rfl

/-- CFETCH of one that it has not (R216). -/
theorem cfetch_misses {i : Instr} {x : Ext} {len : Nat} {s : State} {h : Here} (hu : UniIssue i s Rows.cfetch x len h false)
    (hseg : segmentOf s h.blk.image ((fetchSrcs s h Rows.cfetch x []).1.a 0).toNat = none) :
    trapsWith i s h 0x08 ((fetchSrcs s h Rows.cfetch x []).1.a 0) h.ent.pc := by
  have hopen : segmentOf (openIssue s h) h.blk.image ((fetchSrcs s h Rows.cfetch x []).1.a 0).toNat = none := hseg
  refine trapsWith_of_settle (len := len) (sb := x.s) hu.2.1 (by decide) ?_
  rw [uniIssue_exec hu rfl (congrFun (groupBody_cfetch len) x) rfl]
  simp only [fetchSrcs_openIssue, hopen]
  rfl

/-- A map each of whose records stays is the same map. -/
theorem kmap_eq_self {α : Type} {m : KMap α} {f : Nat → α → α} (h : ∀ p ∈ m, f p.1 p.2 = p.2) : kmap m f = m :=
  (List.map_congr_left fun p hp => congrArg (Prod.mk p.1) (h p hp)).trans (List.map_id m)

/-- A uniform result goes on its way under a number of its own where no other is on its way to its register (R319). -/
theorem addPend_uni_idle {g : Group} {r : Nat} (tick : Nat) (v : W64) (f : Flags) (h : g.uniIdle r) :
    ∃ n, kget g.pend n = none ∧ addPend g tick (.uni r v) f = { g with pend := kset g.pend n ⟨.uni r v, f⟩ } := by
  refine ⟨_, kget_none_of_above _ _ (lt_foldl_max g.pend 0).2, ?_⟩
  dsimp only [addPend]
  split
  · rename_i hprev
    obtain ⟨⟨k, wb, fl⟩, hp, hr⟩ := List.any_eq_true.mp (Bool.and_eq_true_iff.mp hprev).1
    dsimp only at hr
    split at hr
    · rename_i i u
      obtain rfl := eq_of_beq hr
      exact absurd rfl (h _ hp u)
    · cases hr
  · rw [kmap_eq_self]
    rintro ⟨k, wb, fl⟩ hp
    dsimp only
    split
    · rename_i i u
      rw [if_neg]
      rintro rfl
      exact h _ hp u rfl
    · rfl

/-- A capability word is of the tenant and the module: what the cores hold does not show in it (R222). -/
theorem capqWord_issue (s : State) (h : Here) (r : Row) (x : Ext) (ls : List Nat) (t i : Nat) :
    capqWord (openIssue (fetchSrcs s h r x ls).2 h) t i = capqWord s t i := by
  rw [fetchSrcs_rest]
  rfl

/-- CAPQ sends its word (R222, R319). -/
theorem capq_sends {i : Instr} {x : Ext} {len : Nat} {s : State} {h : Here} (hu : UniIssue i s Rows.capq x len h false) :
    let q := fetchSrcs s h Rows.capq x []
    exec i s = .next (h.completed len x.s (pendUni (openIssue q.2 h) h Rows.capq x
      (capqWord (openIssue q.2 h) h.ten (q.1.a 0).toNat) 0)) := by
  rw [uniIssue_exec hu rfl (congrFun (groupBody_capq len) x) rfl]
  simp only [fetchSrcs_openIssue]
  rfl

/-- CAPQ's word on its way to a register to which nothing else is. -/
theorem capq_register {i : Instr} {x : Ext} {len : Nat} {s : State} {h : Here} (hu : UniIssue i s Rows.capq x len h false)
    (hd : x.dcl = false) (hq : h.grp.uniIdle x.d.toNat) :
    let q := fetchSrcs s h Rows.capq x []
    ∃ n, kget h.grp.pend n = none ∧ exec i s = .next (q.2.updGroup h.c h.b h.g fun _ => h.advanced len x.s { h.counted with
      pend := kset h.grp.pend n ⟨.uni x.d.toNat (capqWord s h.ten (q.1.a 0).toNat), 0⟩ }) := by
  intro q
  obtain ⟨-, -, -, ht, -⟩ := here_spec hu.2.1
  have hg : q.2.group h.c h.b h.g = some h.grp := (fetchSrcs_group ..).trans (here_group hu.2.1)
  obtain ⟨n, hn, hpend⟩ := addPend_uni_idle (g := h.counted) h.tick (capqWord s h.ten (q.1.a 0).toNat) 0 hq
  refine ⟨n, hn, ?_⟩
  rw [capq_sends hu, capqWord_issue]
  simp only [pendUni, hd, Bool.false_eq_true, if_false, openIssue, State.updGroup_updGroup]
  exact congrArg _ ((settle_fin_updGroup hg ((fetchSrcs_tick ..).trans ht.symm) len x.s _).trans
    (congrArg (fun y => q.2.updGroup h.c h.b h.g fun _ => h.advanced len x.s y) hpend))

/-- An index of no word reads zero (R222). -/
theorem capqWord_none (s : State) (t : Nat) {i : Nat} (ha : i < 16 → (s.ten t).archWords = [])
    (hi : i ∉ [0x00, 0x01, 0x02, 0x03, 0x04, 0x10, 0x11, 0x12, 0x1F]) : capqWord s t i = 0 := by
  unfold capqWord
  dsimp only
  rw [if_neg fun h => h.2 (ha h.1)]
  split
  case h_10 => rfl
  all_goals exact absurd (by decide) hi

/-- The architectural words of a tenant that has not migrated (R222). -/
theorem capqWord_arch {s : State} {t : Nat} (h : (s.ten t).archWords = []) : capqWord s t 0 = 0x100 ∧ capqWord s t 1 = 0x7F ∧
    capqWord s t 2 = 0x05090F07 ∧ capqWord s t 3 = 1 ∧ capqWord s t 4 = 1 := by
  simp only [capqWord, h, ne_eq, not_true_eq_false, and_false, if_false]
  exact ⟨rfl, rfl, rfl, rfl, rfl⟩

/-- A field of a word that is given as a number. -/
theorem field_ofNat {v : Nat} (lo n : Nat) (h : v < 2 ^ 64) :
    ((BitVec.ofNat 64 v).extractLsb' lo n).toNat = v / 2 ^ lo % 2 ^ n := by
  rw [BitVec.extractLsb'_toNat, BitVec.toNat_ofNat, Nat.mod_eq_of_lt h, Nat.shiftRight_eq_div_pow]

/-- Word 0x10: the placement's domains, those of the tenant's window, and three flags (R222). -/
theorem capqWord_placement (s : State) (t : Nat) : ∃ flags < 8, capqWord s t 0x10 = BitVec.ofNat 64
    ((s.ten t).placement.length % 2 ^ 14 + (s.ten t).domains.length % 2 ^ 7 * 2 ^ 16 + flags * 2 ^ 23) := by
  have packed : ∀ (a : Nat) (x y z : Bool), ∃ flags < 8,
      a + x.toNat * 2 ^ 23 + y.toNat * 2 ^ 24 + z.toNat * 2 ^ 25 = a + flags * 2 ^ 23 := fun a x y z => by
    have hx := x.toNat_le
    have hy := y.toNat_le
    have hz := z.toNat_le
    exact ⟨x.toNat + 2 * y.toNat + 4 * z.toNat, by omega, by omega⟩
  unfold capqWord
  exact (packed _ _ _ _).imp fun _ ⟨hc, he⟩ =>
    ⟨hc, (if_neg fun h => absurd h.1 (by decide)).trans (congrArg (BitVec.ofNat 64) he)⟩

/-- Each count is cut to its field. -/
theorem capqWord_placement_fields (s : State) (t : Nat) :
    ((capqWord s t 0x10).extractLsb' 0 14).toNat = (s.ten t).placement.length % 2 ^ 14 ∧
    ((capqWord s t 0x10).extractLsb' 16 7).toNat = (s.ten t).domains.length % 2 ^ 7 := by
  obtain ⟨flags, hf, hw⟩ := capqWord_placement s t
  have hv : (s.ten t).placement.length % 2 ^ 14 + (s.ten t).domains.length % 2 ^ 7 * 2 ^ 16 + flags * 2 ^ 23 < 2 ^ 64 := by omega
  rw [hw, field_ofNat _ _ hv, field_ofNat _ _ hv]
  constructor <;> omega

/-- The live domains in word 0x11 (R222). -/
theorem capqWord_live (s : State) (t : Nat) : ((capqWord s t 0x11).extractLsb' 0 7).toNat = s.nlive % 2 ^ 7 := by
  have hw : capqWord s t 0x11 = BitVec.ofNat 64 (s.nlive % 2 ^ 7 + liveCores s % 2 ^ 14 * 2 ^ 16) := by
    unfold capqWord; exact if_neg fun h => absurd h.1 (by decide)
  rw [hw, field_ofNat _ _ (by omega)]
  omega

/-- Settles O13: CFETCH by what a fetch makes of its slot, CAPQ by the word it sends. -/
theorem fetchAndCapability : Obligations.FetchAndCapability := by
  refine ⟨fun i x len s h hu => ⟨fun hs => cfetch_begins hu hs, fun hs => cfetch_misses hu hs⟩, fun k n seg => ?slots,
    fun i x len s h hu hd hq => capq_register hu hd hq, fun i x len s h hu hd => capq_sends hu, fun s t ha => ?arch, fun s t => ?words⟩
  case slots =>
    obtain ⟨hcore, hothers⟩ := startFetch_frame k n seg
    exact ⟨hcore, hothers, startFetch_empty seg, fun w hw => ⟨fun hl hs => hs ▸ startFetch_present hw hl,
      startFetch_underWay seg hw, startFetch_other hw⟩⟩
  case arch =>
    obtain ⟨h0, h1, h2, h3, h4⟩ := capqWord_arch ha
    exact ⟨h0, h1, h2, h3, h4, fun i hi h16 =>
      capqWord_none s t (fun _ => ha) (by simp only [List.mem_cons, List.not_mem_nil, or_false]; omega)⟩
  case words =>
    obtain ⟨hplaced, hdomains⟩ := capqWord_placement_fields s t
    exact ⟨by simp [capqWord], by simp [capqWord], hplaced, hdomains, capqWord_live s t, fun i hi hn =>
      capqWord_none s t (fun h => absurd h (by omega)) (by simp only [List.mem_cons, List.not_mem_nil, or_false] at hn ⊢; omega)⟩

end Sys2Proof.Machine
end

section
namespace Sys2Proof.Machine
open Sys2Proof

/-! ### Lane predicates (R50, R229, R234, R238, R239, R245) -/

/-- Lanes that raise no flag raise none together (R164). -/
theorem foldl_noFlags {f : Nat → Flags} (h : ∀ l, f l = 0) (ls : List Nat) : ls.foldl (fun a l => a ||| f l) 0 = 0 := by
  induction ls with
  | nil => rfl
  | cons l r ih =>
    rw [List.foldl_cons, h]
    exact ih

/-- A row whose value is a truth and that raises no flag writes its lane predicate (R50, R229). -/
theorem vecLanes_writesPredicate {i : Instr} {r : Row} {x : Ext} {len : Nat} {f : LaneFn} {s : State} {h : Here}
    (hv : VecIssue i s r x len h false) (ht : r.tile = false) (hb : groupBody r.xop len x = vecLanes r f x) (hd : x.dcl = false)
    (hk : isVec r.d x = false) (hf : ∀ q l, (f x h q l).2 = 0) :
    let q := fetchSrcs s h r x (h.lanes x)
    ∃ p, exec i s = .next (q.2.updGroup h.c h.b h.g fun _ => h.advanced len x.s (h.counted.setP p)) ∧
      predWritten h.grp.p p x.d.toNat (h.lanes x) (fun l => (f x h q.1 l).1 != 0) := by
  intro q
  obtain ⟨-, -, -, htick, -⟩ := here_spec hv.2.1
  have hg : q.2.group h.c h.b h.g = some h.grp := (fetchSrcs_group ..).trans (here_group hv.2.1)
  have hwrite := foldl_putP ((h.lanes x).map fun l => (l, (f x h q.1 l).1 != 0)) h.counted x.d.toNat
  have hflags : (h.lanes x).foldl (fun (a : Flags) l => a ||| (f x h q.1 l).2) 0 = 0 :=
    foldl_noFlags (fun l => hf q.1 l) _
  simp only [List.foldl_map] at hwrite
  refine ⟨_, ?_, predWritten_fold (h.lanes x) _ h.grp.p x.d.toNat (laneList_nodup _ _) fun l hl => laneList_lt hl⟩
  rw [vecIssue_exec hv ht hb]
  simp only [fetchSrcs_openIssue, dstVec, hd, hk, Bool.false_eq_true, if_false, List.map_map, List.foldl_map, Function.comp_def]
  rw [show laneList h.width (h.active x) = h.lanes x from rfl, hflags]
  refine congrArg _ ((settle_classF hv.2.1 hg (fetchSrcs_tick ..) len x.s (openIssue s h) hd 0 _ hwrite).trans ?_)
  rw [raised_zero, countFlags_zero]
  rfl

/-- The rows with a lane predicate for result raise no flag. -/
theorem testRows_noFlags : ∀ p ∈ testRows, ∀ x h q l, (p.2 x h q l).2 = 0 := by
  simp [testRows]

/-- Each runs as its row's function on lanes; PLOP does so where it names lane predicates (R245). -/
theorem testRows_body : ∀ p ∈ testRows, ∀ (x : Ext) (len : Nat), (p.1.d = .pq → x.mod6.getLsbD 0 = false) →
    p.1.tile = false ∧ groupBody p.1.xop len x = vecLanes p.1 p.2 x ∧ isVec p.1.d x = false := by
  have hplop : ∀ (x : Ext) (len : Nat), x.mod6.getLsbD 0 = false → groupBody Rows.plop.xop len x =
      vecLanes Rows.plop (fun x _ v l => (truth (plopBit x (v.a l != 0) (v.b l != 0) (v.c l != 0)), 0)) x := fun x len hm => by
    rw [groupBody_plop]
    funext h s
    simp only [bodyPlop, hm, Bool.false_eq_true, if_false]
  simp only [testRows, List.forall_mem_cons]
  exact ⟨fun _ _ _ => ⟨rfl, rfl, rfl⟩, fun _ _ _ => ⟨rfl, rfl, rfl⟩, fun _ _ _ => ⟨rfl, rfl, rfl⟩,
    fun x len hm => ⟨rfl, hplop x len (hm rfl), rfl⟩, List.forall_mem_nil _⟩

/-- A well-formed instruction sets no bit of MOD6 that its row leaves unused (R183, R185). -/
theorem mod6_of_wellFormed {r : Row} {x : Ext} (h : x.wellFormed r = true) : x.mod6 &&& ~~~r.mod6 = 0 := by
  simp only [Ext.wellFormed, Bool.and_eq_true, beq_iff_eq] at h
  obtain ⟨⟨⟨⟨⟨⟨⟨⟨⟨_, hmod⟩, _⟩, _⟩, _⟩, _⟩, _⟩, _⟩, _⟩, _⟩ := h
  exact hmod

/-- Settles O4: each row by its function on lanes, and FCLASS's reserved bits by its row. -/
theorem vectorPredicateResult : Obligations.VectorPredicateResult := by
  refine ⟨fun p hp i x len s h hv hd hm => ?_, fun x hw => ?_⟩
  · obtain ⟨ht, hb, hk⟩ := testRows_body p hp x len hm
    exact vecLanes_writesPredicate hv ht hb hd hk (testRows_noFlags p hp x h)
  · have hreserved : ∀ m : BitVec 6, m &&& ~~~Rows.fclass.mod6 = 0 → m.extractLsb' 1 5 = 0 := by decide
    exact hreserved x.mod6 (mod6_of_wellFormed hw)

end Sys2Proof.Machine
end

section
namespace Sys2Proof.Machine
open Sys2Proof

/-! ### Group operations (R159, R236, R237, R251) -/

/-- A bit of the words' and is that of all of them. -/
theorem getLsbD_foldl_and (vs : List W32) (a : W32) (i : Nat) :
    (vs.foldl (fun a b => a &&& b) a).getLsbD i = (a.getLsbD i && vs.all fun v => v.getLsbD i) := by
  induction vs generalizing a with
  | nil => simp
  | cons v r ih => simp [ih, Bool.and_assoc]

/-- A bit of their or is that of any of them. -/
theorem getLsbD_foldl_or (vs : List W32) (a : W32) (i : Nat) :
    (vs.foldl (fun a b => a ||| b) a).getLsbD i = (a.getLsbD i || vs.any fun v => v.getLsbD i) := by
  induction vs generalizing a with
  | nil => simp
  | cons v r ih => simp [ih, Bool.or_assoc]

/-- A bit of their xor is the parity of theirs. -/
theorem getLsbD_foldl_xor (vs : List W32) (a : W32) (i : Nat) :
    (vs.foldl (fun a b => a ^^^ b) a).getLsbD i = (a.getLsbD i ^^ decide ((vs.countP fun v => v.getLsbD i) % 2 = 1)) := by
  induction vs generalizing a with
  | nil => simp
  | cons v r ih =>
    rw [List.foldl_cons, ih, BitVec.getLsbD_xor, List.countP_cons, Bool.xor_assoc]
    refine congrArg (a.getLsbD i ^^ ·) ?_
    cases v.getLsbD i with
    | false => simp
    | true =>
      rw [if_pos rfl, Bool.true_xor, ← decide_not, decide_eq_decide]
      omega

/-- Words added one after another are their sum modulo 2^32. -/
theorem toNat_foldl_add (vs : List W32) (a : W32) :
    (vs.foldl (fun a b => a + b) a).toNat = (a.toNat + (vs.map BitVec.toNat).sum) % 2 ^ 32 := by
  induction vs generalizing a with
  | nil => exact (Nat.mod_eq_of_lt a.isLt).symm
  | cons v r ih => rw [List.foldl_cons, ih, BitVec.toNat_add, List.map_cons, List.sum_cons, Nat.mod_add_mod, Nat.add_assoc]

/-- A step that gives one of its two values, no higher than either, leaves the least value of a list. -/
theorem foldl_choice {α : Type} {f : α → α → α} {le : α → α → Prop} (hrefl : ∀ a, le a a)
    (htrans : ∀ {a b c}, le a b → le b c → le a c) (hchoice : ∀ a b, f a b = a ∨ f a b = b)
    (hle : ∀ a b, le (f a b) a ∧ le (f a b) b) (a : α) (r : List α) :
    r.foldl f a ∈ a :: r ∧ ∀ w ∈ a :: r, le (r.foldl f a) w := by
  induction r generalizing a with
  | nil => exact ⟨List.mem_singleton_self a, fun w hw => List.mem_singleton.mp hw ▸ hrefl a⟩
  | cons b r ih =>
    obtain ⟨hmem, hleast⟩ := ih (f a b)
    obtain ⟨hstep, hrest⟩ := List.forall_mem_cons.mp hleast
    obtain ⟨ha, hb⟩ := hle a b
    refine ⟨?_, List.forall_mem_cons.mpr ⟨htrans hstep ha, List.forall_mem_cons.mpr ⟨htrans hstep hb, hrest⟩⟩⟩
    rw [List.foldl_cons]
    obtain hm | hm := List.mem_cons.mp hmem
    · rw [hm]
      obtain hc | hc := hchoice a b
      · rw [hc]; exact List.mem_cons_self
      · rw [hc]; exact List.mem_cons_of_mem _ List.mem_cons_self
    · exact List.mem_cons_of_mem _ (List.mem_cons_of_mem _ hm)

/-! The integer steps, their order, and their identities. -/

/-- The operation codes from 5 on are xor's. -/
theorem groupStep_xor (t : BitVec 4) {op : BitVec 3} (h : 5 ≤ op) : groupStep t op = fun a b => a ^^^ b := by
  have hop : ∀ o : BitVec 3, 5 ≤ o → o = 5 ∨ o = 6 ∨ o = 7 := by decide
  obtain rfl | rfl | rfl := hop op h <;> rfl

/-- Read by the type, a step of a minimum or maximum is that of integers. -/
theorem iVal_groupStep_min (t : BitVec 4) (a b : W32) : iVal t (groupStep t 1 a b) = min (iVal t a) (iVal t b) := by
  change iVal t (if iVal t b < iVal t a then b else a) = _
  split <;> omega

theorem iVal_groupStep_max (t : BitVec 4) (a b : W32) : iVal t (groupStep t 2 a b) = max (iVal t a) (iVal t b) := by
  change iVal t (if iVal t a < iVal t b then b else a) = _
  split <;> omega

/-- A step of a minimum or maximum gives one of its two values. -/
theorem groupStep_choice (t : BitVec 4) {op : BitVec 3} (h : op = 1 ∨ op = 2) (a b : W32) :
    groupStep t op a b = a ∨ groupStep t op a b = b := by
  have hite : ∀ (p : Prop) [Decidable p], (if p then b else a) = a ∨ (if p then b else a) = b := fun p _ => by
    split
    · exact .inr rfl
    · exact .inl rfl
  obtain rfl | rfl := h
  · exact hite (iVal t b < iVal t a)
  · exact hite (iVal t a < iVal t b)

/-- A word is told by what its type reads of it. -/
theorem iVal_injective (t : BitVec 4) {a b : W32} (h : iVal t a = iVal t b) : a = b := by
  unfold iVal at h
  split at h
  · exact BitVec.eq_of_toInt_eq h
  · exact BitVec.eq_of_toNat_eq (Int.ofNat_inj.mp h)

/-- The operation codes, those from 5 on taken together. -/
theorem groupOp_codes (op : BitVec 3) : op = 0 ∨ op = 1 ∨ op = 2 ∨ op = 3 ∨ op = 4 ∨ 5 ≤ op := by bv_omega

/-- The steps over two lanes may be made in either order. -/
theorem groupStep_right_comm (t : BitVec 4) (op : BitVec 3) (z a b : W32) :
    groupStep t op (groupStep t op z a) b = groupStep t op (groupStep t op z b) a := by
  obtain rfl | rfl | rfl | rfl | rfl | h := groupOp_codes op
  · change z + a + b = z + b + a
    ac_rfl
  · apply iVal_injective t
    simp only [iVal_groupStep_min]
    omega
  · apply iVal_injective t
    simp only [iVal_groupStep_max]
    omega
  · change z &&& a &&& b = z &&& b &&& a
    ac_rfl
  · change (z ||| a) ||| b = (z ||| b) ||| a
    ac_rfl
  · simp only [groupStep_xor t h]
    ac_rfl

/-- An operation's identity as a word. -/
def identityWord (t : BitVec 4) (op : BitVec 3) : W32 := BitVec.ofNat 32 (groupIdentity t op)

theorem identityWord_toNat : ∀ t op, (identityWord t op).toNat = groupIdentity t op := by decide

/-- Each operation's identity, by its code and type. -/
theorem identityWord_zero : ∀ t op, t ≠ tyF32 → op = 0 ∨ 4 ≤ op → identityWord t op = 0 := by decide
theorem identityWord_and : ∀ t, t ≠ tyF32 → identityWord t 3 = BitVec.allOnes 32 := by decide
theorem iVal_identityWord : ∀ t, t ≠ tyF32 →
    iVal t (identityWord t 1) = (if t = tyS32 then 2 ^ 31 - 1 else 2 ^ 32 - 1) ∧
    iVal t (identityWord t 2) = (if t = tyS32 then -2 ^ 31 else 0) := by decide

/-- No value lies above a minimum's identity, and none below a maximum's. -/
theorem iVal_bounds {t : BitVec 4} (ht : t ≠ tyF32) (a : W32) :
    iVal t a ≤ iVal t (identityWord t 1) ∧ iVal t (identityWord t 2) ≤ iVal t a := by
  obtain ⟨hmin, hmax⟩ := iVal_identityWord t ht
  have hlo := a.le_toInt
  have hhi := a.toInt_lt
  have hnat := a.isLt
  rw [hmin, hmax]
  simp only [iVal, beq_iff_eq]
  split <;> omega

/-- The identity of an operation gives way to any lane. -/
theorem groupStep_identity {t : BitVec 4} (ht : t ≠ tyF32) (op : BitVec 3) (a : W32) : groupStep t op (identityWord t op) a = a := by
  obtain ⟨hmax, hmin⟩ := iVal_bounds ht a
  obtain rfl | rfl | rfl | rfl | rfl | h := groupOp_codes op
  · rw [identityWord_zero t 0 ht (.inl rfl)]
    exact BitVec.zero_add a
  · exact iVal_injective t ((iVal_groupStep_min ..).trans (Int.min_eq_right hmax))
  · exact iVal_injective t ((iVal_groupStep_max ..).trans (Int.max_eq_right hmin))
  · rw [identityWord_and t ht]
    exact BitVec.allOnes_and
  · rw [identityWord_zero t 4 ht (.inr (by decide))]
    exact BitVec.zero_or
  · rw [groupStep_xor t h, identityWord_zero t op ht (.inr (by bv_omega))]
    exact BitVec.zero_xor

/-- An integer group operation folds its lanes into its identity. -/
theorem groupOp_int {t : BitVec 4} (ht : t ≠ tyF32) (op rm : BitVec 3) (vs : List W32) :
    groupOp t op rm vs = ((vs.foldl (groupStep t op) (identityWord t op)).toNat, 0) := by
  cases vs with
  | nil => simp [groupOp, identityWord_toNat]
  | cons a r => simp [groupOp, ht, groupStep_identity ht]

/-- Of one lane or more, the lanes after the first into it. -/
theorem groupOp_int_cons {t : BitVec 4} (ht : t ≠ tyF32) (op rm : BitVec 3) (a : W32) (r : List W32) :
    groupOp t op rm (a :: r) = ((r.foldl (groupStep t op) a).toNat, 0) := by
  simp [groupOp, ht]

/-- Its result as a word. -/
theorem groupOp_word {t : BitVec 4} (ht : t ≠ tyF32) (op rm : BitVec 3) (vs : List W32) :
    BitVec.ofNat 32 (groupOp t op rm vs).1 = vs.foldl (groupStep t op) (identityWord t op) := by
  rw [groupOp_int ht, BitVec.ofNat_toNat, BitVec.setWidth_eq]

/-- A bit of and, or and xor (R251). -/
theorem groupOp_bits {t : BitVec 4} (ht : t ≠ tyF32) (rm : BitVec 3) (vs : List W32) {i : Nat} (hi : i < 32) :
    (BitVec.ofNat 32 (groupOp t 3 rm vs).1).getLsbD i = (vs.all fun v => v.getLsbD i) ∧
    (BitVec.ofNat 32 (groupOp t 4 rm vs).1).getLsbD i = (vs.any fun v => v.getLsbD i) ∧
    (BitVec.ofNat 32 (groupOp t 5 rm vs).1).getLsbD i = decide ((vs.countP fun v => v.getLsbD i) % 2 = 1) := by
  simp only [groupOp_word ht, identityWord_and t ht, identityWord_zero t 4 ht (.inr (by decide)),
    identityWord_zero t 5 ht (.inr (by decide))]
  refine ⟨(getLsbD_foldl_and vs _ i).trans ?_, (getLsbD_foldl_or vs _ i).trans ?_, (getLsbD_foldl_xor vs _ i).trans ?_⟩
  · rw [BitVec.getLsbD_allOnes, decide_eq_true hi, Bool.true_and]
  · exact (congrArg (· || _) BitVec.getLsbD_zero).trans (Bool.false_or _)
  · exact (congrArg (· ^^ _) BitVec.getLsbD_zero).trans (Bool.false_xor _)

/-- An integer result does not depend on the order of the lanes. -/
theorem groupOp_perm {t : BitVec 4} (ht : t ≠ tyF32) (op rm : BitVec 3) {vs ws : List W32} (h : vs.Perm ws) :
    groupOp t op rm vs = groupOp t op rm ws := by
  rw [groupOp_int ht, groupOp_int ht, h.foldl_eq' fun a _ b _ z => groupStep_right_comm t op z a b]

/-- An integer sum is that of all lanes modulo 2^32. -/
theorem groupOp_sum {t : BitVec 4} (ht : t ≠ tyF32) (rm : BitVec 3) (vs : List W32) :
    groupOp t 0 rm vs = ((vs.map BitVec.toNat).sum % 2 ^ 32, 0) := by
  have hsum := (toNat_foldl_add vs 0).trans (congrArg (· % 2 ^ 32) (Nat.zero_add _))
  rw [groupOp_int ht, identityWord_zero t 0 ht (.inl rfl)]
  exact congrArg (·, 0) hsum

/-- A minimum is the value of a lane that no other is below. -/
theorem groupOp_min {t : BitVec 4} (ht : t ≠ tyF32) (rm : BitVec 3) {vs : List W32} (hne : vs ≠ []) :
    ∃ v ∈ vs, (groupOp t 1 rm vs).1 = v.toNat ∧ ∀ w ∈ vs, iVal t v ≤ iVal t w := by
  obtain ⟨a, r, rfl⟩ := List.exists_cons_of_ne_nil hne
  obtain ⟨hmem, hleast⟩ := foldl_choice (f := groupStep t 1) (le := fun a b => iVal t a ≤ iVal t b) (fun _ => Int.le_refl _) Int.le_trans
    (groupStep_choice t (.inl rfl))
    (fun a b => by rw [iVal_groupStep_min]; exact ⟨Int.min_le_left .., Int.min_le_right ..⟩) a r
  exact ⟨_, hmem, by rw [groupOp_int_cons ht], hleast⟩

/-- A maximum is the value of a lane that no other is above. -/
theorem groupOp_max {t : BitVec 4} (ht : t ≠ tyF32) (rm : BitVec 3) {vs : List W32} (hne : vs ≠ []) :
    ∃ v ∈ vs, (groupOp t 2 rm vs).1 = v.toNat ∧ ∀ w ∈ vs, iVal t w ≤ iVal t v := by
  obtain ⟨a, r, rfl⟩ := List.exists_cons_of_ne_nil hne
  obtain ⟨hmem, hmost⟩ := foldl_choice (f := groupStep t 2) (le := fun a b => iVal t b ≤ iVal t a) (fun _ => Int.le_refl _)
    (fun h1 h2 => Int.le_trans h2 h1) (groupStep_choice t (.inr rfl))
    (fun a b => by rw [iVal_groupStep_max]; exact ⟨Int.le_max_left .., Int.le_max_right ..⟩) a r
  exact ⟨_, hmem, by rw [groupOp_int_cons ht], hmost⟩

/-! The forms over f32. -/

/-- The exact sum of the lanes, rounded once, with the flags of both (R159, R236). -/
theorem groupOp_fsum (rm : BitVec 3) {vs : List W32} (hne : vs ≠ []) :
    let q := sumVals (vs.map fun c => fpVal tyF32 c.toNat) rm
    let o := roundFmt q.1 fmtF32 rm false
    groupOp tyF32 0 rm vs = (o.1, q.2 ||| o.2) := by
  obtain ⟨a, r, rfl⟩ := List.exists_cons_of_ne_nil hne
  rfl

/-- A NaN among the terms of a sum, and opposite infinities with none (R159). -/
theorem sumVals_nan {ts : List Val} (rm : BitVec 3) (h : .nan ∈ ts) : sumVals ts rm = (.nan, 0) :=
  if_pos (List.contains_iff_mem.mpr h)

theorem sumVals_infs {ts : List Val} (rm : BitVec 3) (hn : .nan ∉ ts) (hp : .inf false ∈ ts) (hm : .inf true ∈ ts) :
    sumVals ts rm = (.nan, flagIV) := by
  simp [sumVals, hn, hp, hm]

/-- A NaN among the lanes gives the canonical NaN. -/
theorem groupOp_fsum_nan (rm : BitVec 3) {vs : List W32} (h : ∃ v ∈ vs, fpVal tyF32 v.toNat = .nan) :
    (groupOp tyF32 0 rm vs).1 = 0x7FC00000 := by
  obtain ⟨v, hv, hnan⟩ := h
  rw [groupOp_fsum rm (List.ne_nil_of_mem hv), sumVals_nan rm (List.mem_map.mpr ⟨v, hv, hnan⟩)]
  rfl

/-- Opposite infinities alone give the canonical NaN and IV. -/
theorem groupOp_fsum_infs (rm : BitVec 3) {vs : List W32} (hn : ∀ v ∈ vs, fpVal tyF32 v.toNat ≠ .nan)
    (hp : (0x7F800000 : W32) ∈ vs) (hm : (0xFF800000 : W32) ∈ vs) : groupOp tyF32 0 rm vs = (0x7FC00000, flagIV) := by
  have hnone : Val.nan ∉ vs.map fun c => fpVal tyF32 c.toNat := fun hmem => by
    obtain ⟨v, hv, hnan⟩ := List.mem_map.mp hmem
    exact hn v hv hnan
  rw [groupOp_fsum rm (List.ne_nil_of_mem hp), sumVals_infs rm hnone (List.mem_map.mpr ⟨_, hp, by decide⟩)
    (List.mem_map.mpr ⟨_, hm, by decide⟩)]
  exact congrArg ((0x7FC00000 : Nat), ·) BitVec.or_zero

/-! FMIN and FMAX of a NaN and of a number (R237). -/

theorem fpMinMax_nan_nan (mx : Bool) {m c : Nat} (hm : fpVal tyF32 m = .nan) (hc : fpVal tyF32 c = .nan) :
    fpMinMax tyF32 mx m c = codeNan := by
  simp only [fpMinMax, hm, hc]
  rfl

theorem fpMinMax_nan_left (mx : Bool) {m c : Nat} (hm : fpVal tyF32 m = .nan) (hc : fpVal tyF32 c ≠ .nan) :
    fpMinMax tyF32 mx m c = c := by
  simp only [fpMinMax, hm]

theorem fpMinMax_number (mx : Bool) {m : Nat} (c : Nat) (hm : fpVal tyF32 m ≠ .nan) : fpVal tyF32 (fpMinMax tyF32 mx m c) ≠ .nan := by
  unfold fpMinMax
  split
  · exact absurd ‹_› hm
  · exact absurd ‹_› hm
  · exact hm
  · rename_i hc _
    split
    · split <;> assumption
    · split <;> assumption

/-- Making a NaN canonical before a minimum or maximum is making it so after it (R237). -/
theorem canonNan_fpMinMax (mx : Bool) (m c : Nat) : canonNan (fpMinMax tyF32 mx m c) = fpMinMax tyF32 mx (canonNan m) c := by
  have hcanon : fpVal tyF32 codeNan = .nan := by decide
  have hkeep : ∀ {k : Nat}, fpVal tyF32 k ≠ .nan → canonNan k = k := fun h => by simp [canonNan, h]
  have hmake : ∀ {k : Nat}, fpVal tyF32 k = .nan → canonNan k = codeNan := fun h => by simp [canonNan, h]
  by_cases hm : fpVal tyF32 m = .nan
  · rw [hmake hm]
    by_cases hc : fpVal tyF32 c = .nan
    · rw [fpMinMax_nan_nan mx hm hc, fpMinMax_nan_nan mx hcanon hc, hmake hcanon]
    · rw [fpMinMax_nan_left mx hm hc, fpMinMax_nan_left mx hcanon hc, hkeep hc]
  · rw [hkeep hm, hkeep (fpMinMax_number mx c hm)]

/-- A minimum or maximum over f32 takes the lanes one after another. -/
theorem groupOp_fminmax_append (op rm : BitVec 3) (h0 : op ≠ 0) {vs : List W32} (hne : vs ≠ []) (v : W32) :
    (groupOp tyF32 op rm (vs ++ [v])).1 = fpMinMax tyF32 (op == 2) (groupOp tyF32 op rm vs).1 v.toNat := by
  obtain ⟨a, r, rfl⟩ := List.exists_cons_of_ne_nil hne
  have h0' : (op == 0#3) = false := by simpa using h0
  simp only [groupOp, List.cons_append, beq_self_eq_true, if_true, h0', Bool.false_eq_true, if_false, List.foldl_append, List.foldl_cons,
    List.foldl_nil]
  exact canonNan_fpMinMax ..

/-- Settles O17: the integer forms by their fold from the identity, the f32 forms by their sum and by FMIN and FMAX. -/
theorem groupOperation : Obligations.GroupOperation := by
  refine ⟨fun rm => ?identities, fun t rm vs ht _ i hi => groupOp_bits ht rm vs hi, fun t op rm vs ws ht h => groupOp_perm ht op rm h,
    fun rm a b => ?two, fun rm vs h => groupOp_fsum_nan rm h, fun rm vs hn hp hm => groupOp_fsum_infs rm hn hp hm,
    fun rm vs v hne => ⟨groupOp_fminmax_append 1 rm (by decide) hne v, groupOp_fminmax_append 2 rm (by decide) hne v⟩,
    fun t rm vs ht _ => groupOp_sum ht rm vs, fun t rm vs ht hne => ⟨groupOp_min ht rm hne, groupOp_max ht rm hne⟩⟩
  case identities =>
    refine ⟨rfl, rfl, rfl, rfl, rfl, rfl, ?_, rfl, rfl, rfl⟩
    simp only [List.forall_mem_cons]
    exact ⟨⟨rfl, rfl, rfl⟩, ⟨rfl, rfl, rfl⟩, List.forall_mem_nil _⟩
  case two => rfl

end Sys2Proof.Machine
end

section
namespace Sys2Proof.Machine
open Sys2Proof

/-! ### Special functions and their token slots (R254-R258, R319) -/

/-- A choice of every element is the list. -/
theorem filter_const_true {α : Type} (l : List α) : (l.filter fun _ => true) = l := List.filter_eq_self.mpr fun _ _ => rfl

/-- A choice of a map's records, each shown through a function, is the same after an update that the choice and the function do not see. -/
theorem map_filter_kupd {α β : Type} (m : KMap α) (k : Nat) (f : α → α) (p : Nat × α → Bool) (φ : Nat × α → β)
    (hp : ∀ v, p (k, f v) = p (k, v)) (hφ : ∀ v, φ (k, f v) = φ (k, v)) :
    ((kupd m k f).filter p).map φ = (m.filter p).map φ := by
  induction m with
  | nil => rfl
  | cons a r ih =>
    obtain ⟨j, v⟩ := a
    simp only [kupd]
    split
    · rename_i hj
      subst hj
      simp only [List.filter_cons, hp]
      split <;> simp [hφ]
    · simp only [List.filter_cons]
      split <;> simp [ih]

/-- A special-function queue does not see what leaves a group's slot and tokens as they were (R254). -/
theorem queueTokens_updGroup (s : State) (c b g : Nat) {f : Group → Group} (i j slot : Nat)
    (hs : ∀ x, (f x).slot = x.slot) (ht : ∀ x, (f x).tokens = x.tokens) :
    queueTokens (s.updGroup c b g f) i j slot = queueTokens s i j slot := by
  unfold queueTokens State.updGroup State.updBlock
  by_cases hi : i = c
  · subst hi
    rw [State.updCore_core_self]
    have hgroups := fun k : Block => map_filter_kupd (β := List Token) k.groups g f (fun p => p.1 % 4 == j % 4 && p.2.slot / 4 == slot / 4)
      (fun p => p.2.tokens.map (·.2)) (fun v => by simp only [hs]) (fun v => by simp only [ht])
    have hblocks := map_filter_kupd (β := List (List Token)) (s.core i).blocks b (fun k => { k with groups := kupd k.groups g f })
      (fun _ => true) (fun p => (p.2.groups.filter fun q => q.1 % 4 == j % 4 && q.2.slot / 4 == slot / 4).map fun q => q.2.tokens.map (·.2))
      (fun _ => rfl) hgroups
    simp only [filter_const_true] at hblocks
    exact congrArg (fun l => l.flatten.flatten) hblocks
  · rw [State.updCore_core_ne s _ hi]

/-- The issue's count does not show in a token slot or in a queue (R255). -/
theorem tokenFree_openIssue (s : State) (h : Here) (x : Ext) : tokenFree (openIssue s h) h x = tokenFree s h x := by
  unfold tokenFree openIssue
  rw [queueTokens_updGroup (f := fun g => countIssue g h.ent.pc) _ _ _ _ _ _ _ (fun _ => rfl) (fun _ => rfl)]

/-- A write that brings a register of a lane nothing loses nothing there. -/
theorem loseVec_idle {w : WriteBack} {r l : Nat} (h : w.vecAt r l = none) : w.loseVec r l = w := by
  cases w with
  | vec d pair vals =>
    simp only [WriteBack.vecAt, WriteBack.loseVec] at h ⊢
    split
    · rename_i hr
      simp only [hr, if_true, Option.map_eq_none_iff, List.find?_eq_none] at h
      rw [List.filter_eq_self.mpr fun p hp => by simpa using h p hp]
    · rfl
  | _ => rfl

/-- A token whose register nothing is on its way to enters its slot whole (R255, R258). -/
theorem placeToken_idle {g : Group} {k : Token} (tick slot : Nat) (h : ∀ l, g.coming k.r l = []) :
    placeToken g tick slot k = { g with tokens := kset g.tokens slot k } := by
  have hnone : ∀ p ∈ g.pend, ∀ l, p.2.wb.vecAt k.r l = none := fun p hp l =>
    List.filterMap_eq_nil_iff.mp (List.append_eq_nil_iff.mp (h l)).1 p hp
  have hheld : ∀ l, (g.pend.any fun p => (p.2.wb.vecAt k.r l).isSome) = false := fun l =>
    List.any_eq_false.mpr fun p hp => by simp [hnone p hp l]
  have hlose : ∀ (ls : List (Nat × W32)), ∀ p ∈ g.pend, ls.foldl (fun w (q : Nat × W32) => w.loseVec k.r q.1) p.2.wb = p.2.wb := by
    intro ls p hp
    induction ls with
    | nil => rfl
    | cons q r ih => rw [List.foldl_cons, loseVec_idle (hnone p hp q.1), ih]
  simp only [placeToken, hheld, Bool.not_false, Bool.true_or, filter_const_true]
  rw [kmap_eq_self fun p hp => by rw [hlose _ p hp]]

/-- The special functions (R254). -/
def specialRows : List Row :=
  [Rows.exp2, Rows.log2, Rows.rcp, Rows.rsq, Rows.sqrt, Rows.tanh, Rows.lgst, Rows.sinp, Rows.cosp]

/-- Each of them runs by its row. -/
theorem specialRows_body : ∀ r ∈ specialRows, ∀ len, r.tile = false ∧ groupBody r.xop len = specialBody r := by
  simp only [specialRows, List.forall_mem_cons]
  repeat' refine And.intro (fun _ => ⟨rfl, rfl⟩) ?_
  exact List.forall_mem_nil _

/-- A special function with its slot and queue free puts its lanes' results into the slot (R255, R256). -/
theorem special_holds {i : Instr} {r : Row} {x : Ext} {len : Nat} {s : State} {h : Here} (hr : r ∈ specialRows)
    (hv : VecIssue i s r x len h false) (hfree : tokenFree s h x = true) (hq : h.destIdle r x) :
    let q := fetchSrcs s h r x (h.lanes x)
    let out (l : Nat) := specialFn r.xop.toNat (lo32 (q.1.a l)).toNat
    exec i s = .next (q.2.updGroup h.c h.b h.g fun _ => h.advanced len x.s { h.counted with
      tokens := kset h.grp.tokens (x.aux8.extractLsb' 0 3).toNat
        { r := x.d.toNat, vals := (h.lanes x).map fun l => (l, BitVec.ofNat 32 (out l).1)
          flags := (h.lanes x).foldl (fun f l => f ||| (out l).2) 0, order := h.tick } }) := by
  intro q out
  obtain ⟨ht, hb⟩ := specialRows_body r hr len
  obtain ⟨-, -, -, htick, -⟩ := here_spec hv.2.1
  have hg : q.2.group h.c h.b h.g = some h.grp := (fetchSrcs_group ..).trans (here_group hv.2.1)
  rw [vecIssue_exec hv ht (congrFun hb x)]
  simp only [tokenFree_openIssue, hfree, Bool.not_true, Bool.false_eq_true, if_false, fetchSrcs_openIssue, List.map_map, List.foldl_map]
  simp only [openIssue, State.updGroup_updGroup]
  refine congrArg _ ((settle_fin_updGroup hg ((fetchSrcs_tick ..).trans htick.symm) len x.s _).trans ?_)
  exact congrArg (fun y => q.2.updGroup h.c h.b h.g fun _ => h.advanced len x.s y)
    (placeToken_idle (g := h.counted) h.tick _ fun l => (hq l).1)

/-- A special function with no lane and its slot and queue free only advances (R180, R255). -/
theorem special_advances {i : Instr} {r : Row} {x : Ext} {len : Nat} {s : State} {h : Here} (hr : r ∈ specialRows)
    (hi : i.issued = some (r, x, len)) (hh : here s = some h) (hs : squashed x = false) (h0 : h.active x = 0)
    (hfree : tokenFree s h x = true) : exec i s = .next (s.updGroup h.c h.b h.g fun _ => h.advanced len x.s h.counted) := by
  obtain ⟨ht, hb⟩ := specialRows_body r hr len
  refine exec_advances hi ht hh ?_
  rw [congrFun hb x, specialBody, vecBody_empty hs h0, tokenFree_openIssue, if_pos hfree]

/-- A group that parks at an instruction is as it was but for the park (R16). -/
theorem settle_park {s : State} {h : Here} (hh : here s = some h) (len : Nat) (sb : Bool) (p : Park) :
    settleOut h len sb (.park (openIssue s h) p) = s.updGroup h.c h.b h.g fun _ => { h.grp with park := some p } := by
  rw [settleOut, uncount_openIssue hh, parkGroup, State.updGroup_updGroup]

/-- SFWAIT on empty slots only advances (R257). -/
theorem sfwait_advances {i : Instr} {x : Ext} {len : Nat} {s : State} {h : Here} (hv : VecIssue i s Rows.sfwait x len h false)
    (hempty : ∀ p ∈ h.grp.tokens, x.aux8.getLsbD p.1 = false) :
    exec i s = .next (s.updGroup h.c h.b h.g fun _ => h.advanced len x.s h.counted) := by
  have hany : (h.grp.tokens.any fun p => x.aux8.getLsbD p.1) = false := by simpa using hempty
  rw [vecIssue_exec hv rfl (congrFun (groupBody_sfwait len) x)]
  simp only [hany, Bool.false_eq_true, if_false, settle_idle hv.2.1]

/-- SFWAIT on a slot that holds a result parks (R257). -/
theorem sfwait_parks {i : Instr} {x : Ext} {len : Nat} {s : State} {h : Here} (hv : VecIssue i s Rows.sfwait x len h false)
    (hheld : ∃ p ∈ h.grp.tokens, x.aux8.getLsbD p.1 = true) :
    exec i s = .next (s.updGroup h.c h.b h.g fun _ => { h.grp with park := some .sfwait }) := by
  have hany : (h.grp.tokens.any fun p => x.aux8.getLsbD p.1) = true := List.any_eq_true.mpr hheld
  rw [vecIssue_exec hv rfl (congrFun (groupBody_sfwait len) x)]
  simp only [hany, if_true, settle_park hv.2.1]

/-- Settles O19: each case by what its instruction does. -/
theorem specialFunction : Obligations.SpecialFunction :=
  ⟨fun _ hr _ _ _ _ _ hv hfree hq => special_holds hr hv hfree hq,
    fun _ hr _ _ _ _ _ hi hh hs h0 hfree => special_advances hr hi hh hs h0 hfree,
    fun _ _ _ _ _ hv he => sfwait_advances hv he, fun _ _ _ _ _ hv hheld => sfwait_parks hv hheld⟩

end Sys2Proof.Machine
end

section
namespace Sys2Proof.Machine
open Sys2Proof

/-! ### Cross-lane instructions (R180, R247-R253) -/

/-- What a cross-lane instruction with a vector destination makes of its lanes, and what one with a uniform destination does. -/
abbrev CrossVecFn := Ext → Here → Srcs → List Nat → List (Nat × W64) × Flags
abbrev CrossUniFn := Ext → Here → Srcs → List Nat → W64 × Flags

/-- A row with a vector destination runs as a function of its lanes (R249, R252, R253). -/
def runsCrossVec (r : Row) (f : CrossVecFn) : Prop := r.tile = false ∧ ∀ len, groupBody r.xop len = crossVec r f

/-- So does a row with a uniform destination (R247, R250, R251); of no lane its function sees operand B alone, and V2S alone reads a
register then (R260). -/
def runsCrossUni (r : Row) (f : CrossUniFn) : Prop :=
  r.tile = false ∧ (∀ x h (v : Srcs), f x h v [] = f x h ⟨fun _ => 0, v.b, fun _ => 0, fun _ => 0⟩ []) ∧
  ∃ reads, (reads = true → r = Rows.v2s) ∧ ∀ len, groupBody r.xop len = crossUni r reads f

/-- With a vector destination it sends what it makes of its lanes. -/
theorem crossVec_sends {i : Instr} {r : Row} {x : Ext} {len : Nat} {f : CrossVecFn} {s : State} {h : Here} (hr : runsCrossVec r f)
    (hv : VecIssue i s r x len h false) :
    let q := fetchSrcs s h r x (h.lanes x)
    exec i s = .next (h.completed len x.s (pendVec (openIssue q.2 h) h r x (f x h q.1 (h.lanes x)).1 (f x h q.1 (h.lanes x)).2)) := by
  obtain ⟨ht, hb⟩ := hr
  rw [vecIssue_exec hv ht (congrFun (hb len) x)]
  simp only [fetchSrcs_openIssue]
  rfl

/-- With a uniform destination it does so too. -/
theorem crossUni_sends {i : Instr} {r : Row} {x : Ext} {len : Nat} {f : CrossUniFn} {s : State} {h : Here} (hr : runsCrossUni r f)
    (hv : VecIssue i s r x len h false) :
    let q := fetchSrcs s h r x (h.lanes x)
    exec i s = .next (h.completed len x.s (pendCross (openIssue q.2 h) h r x (f x h q.1 (h.lanes x)).1 (f x h q.1 (h.lanes x)).2)) := by
  obtain ⟨ht, -, reads, -, hb⟩ := hr
  rw [vecIssue_exec hv ht (congrFun (hb len) x)]
  simp only [fetchSrcs_openIssue]
  rfl

/-- And with no active lane it sends what it makes of none, and raises no flag (R180). -/
theorem crossUni_sends_noLane {i : Instr} {r : Row} {x : Ext} {len : Nat} {f : CrossUniFn} {s : State} {h : Here} (hr : runsCrossUni r f)
    (hi : i.issued = some (r, x, len)) (hh : here s = some h) (hs : squashed x = false) (h0 : h.active x = 0) (hd : x.dcl = false)
    (hbcl : x.bcl = false) (hboard : r = Rows.v2s → scoreboardHolds h Rows.v2s x false = false)
    (hreg : regOk h r.d x x.d.toNat x.dcl = true) :
    exec i s = .next (h.completed len x.s (pendCross (openIssue s h) h r x (f x h (fetchSrcs s h r x []).1 []).1 0)) := by
  obtain ⟨ht, hf, reads, hv2s, hb⟩ := hr
  have hwaits : (reads && scoreboardHolds h r x false) = false := by
    cases reads with
    | false => rfl
    | true => obtain rfl := hv2s rfl; exact hboard rfl
  rw [hd] at hreg
  rw [exec_of_issued hi ht, issueGroup_here hh, hb, crossUni, vecBody_empty hs h0]
  simp only [hwaits, hreg, hd, hbcl, fetchSrcs_openIssue, Bool.not_true, Bool.or_self, Bool.false_eq_true, if_false]
  rw [hf x h (fetchSrcs s h r x []).1]
  rfl

/-- SHFL runs as R249 gives it, its condition for a source lane as a proposition. -/
theorem shfl_runs : runsCrossVec Rows.shfl fun x h v ls => (ls.map fun l =>
    let j := shflLane (x.mod6.extractLsb' 0 2) l (lo32 (v.b l)).toNat
    (l, v.a (if 0 ≤ j ∧ j < h.width ∧ j.toNat ∈ ls then j.toNat else l)), 0) := by
  refine ⟨rfl, fun len => (groupBody_shfl len).trans ?_⟩
  simp only [bodyShfl, Bool.and_eq_true, decide_eq_true_eq, List.contains_iff_mem, and_assoc]

/-- A list with its indices is its indices with the list's elements. -/
theorem zip_range_eq (ls : List Nat) : (List.range ls.length).zip ls = (List.range ls.length).map fun n => (n, ls.getD n 0) := by
  refine List.ext_getElem (by simp) fun n hn _ => ?_
  have hlt : n < ls.length := by simpa using hn
  simp [List.getD_eq_getElem?_getD, hlt]

/-- SCANG's lane n takes the operation over the lanes up to it (R252). -/
theorem scang_sends {i : Instr} {x : Ext} {len : Nat} {s : State} {h : Here} (hv : VecIssue i s Rows.scang x len h false) :
    let q := fetchSrcs s h Rows.scang x (h.lanes x)
    let upTo (n : Nat) := groupOp x.ty (x.mod6.extractLsb' 0 3) x.rm
      (((h.lanes x).take (if x.mod6.getLsbD 3 then n else n + 1)).map fun l => lo32 (q.1.a l))
    let ns := List.range (h.lanes x).length
    exec i s = .next (h.completed len x.s (pendVec (openIssue q.2 h) h Rows.scang x
      (ns.map fun n => ((h.lanes x).getD n 0, BitVec.ofNat 64 (upTo n).1)) (ns.foldl (fun f n => f ||| (upTo n).2) 0))) := by
  rw [crossVec_sends ⟨rfl, groupBody_scang⟩ hv]
  simp only [zip_range_eq, List.map_map, List.foldl_map, Function.comp_def, fpOut, List.map_take]

/-- A well-formed VOTE leaves MOD6[5:2] zero (R250). -/
theorem vote_reserved {x : Ext} (hw : (Instr.vote x).WellFormed = true) : x.mod6.extractLsb' 2 4 = 0 := by
  have hreserved : ∀ m : BitVec 6, m &&& ~~~Rows.vote.mod6 = 0 → m.extractLsb' 2 4 = 0 := by decide
  exact hreserved x.mod6 (mod6_of_wellFormed hw)

/-- Settles O16: each row by the function that it runs as. -/
theorem crossLaneResult : Obligations.CrossLaneResult := by
  refine ⟨fun p hp => ?vector, fun i x len s h hv => scang_sends hv, fun p hp => ?uniform, fun x hw => vote_reserved hw⟩
  case vector =>
    have hr : runsCrossVec p.1 p.2 := by
      revert p
      simp only [List.forall_mem_cons]
      exact ⟨shfl_runs, ⟨rfl, groupBody_matchLanes⟩, List.forall_mem_nil _⟩
    exact fun i x len s h hv => crossVec_sends hr hv
  case uniform =>
    have hr : runsCrossUni p.1 p.2 := by
      revert p
      simp only [List.forall_mem_cons]
      exact ⟨⟨rfl, fun _ _ _ => rfl, true, fun _ => rfl, groupBody_v2s⟩, ⟨rfl, fun _ _ _ => rfl, false, by simp, groupBody_redg⟩,
        ⟨rfl, fun _ _ _ => rfl, false, by simp, groupBody_vote⟩, List.forall_mem_nil _⟩
    exact ⟨fun i x len s h hv => crossUni_sends hr hv, fun i x len s h hi hh hs h0 hd hb hboard hreg =>
      crossUni_sends_noLane hr hi hh hs h0 hd hb hboard hreg⟩

end Sys2Proof.Machine
end

section
namespace Sys2Proof.Machine
open Sys2Proof

/-! ### The new values of atomics (R237, R266, R270) -/

/-- The signed reading of a number below 2^n is that of the word. -/
theorem signedNat_toNat {n : Nat} (a : BitVec n) : signedNat n a.toNat = a.toInt := by
  rw [signedNat, Nat.mod_eq_of_lt a.isLt, BitVec.toInt_eq_msb_cond, BitVec.msb_eq_decide]
  simp only [decide_eq_true_eq]
  push_cast
  split <;> split <;> omega

theorem tySize_pos : ∀ t, 0 < tySize t := by decide

/-- The order of a type (R266): signed for s32 and s64, unsigned for the others. -/
def tyLess (t : BitVec 4) {n : Nat} (a b : BitVec n) : Bool := if t = tyS32 ∨ t = tyS64 then a.slt b else a.ult b

/-- It is the order of the atomics' minimum and maximum. -/
theorem tyLess_eq (t : BitVec 4) {n : Nat} (a b : BitVec n) :
    (if tySigned t then decide (signedNat n a.toNat < signedNat n b.toNat) else decide (a.toNat < b.toNat)) = tyLess t a b := by
  simp only [signedNat_toNat, tySigned, Bool.or_eq_true, beq_iff_eq]
  rfl

/-- An atomic reads of its operand no more than the type's bits. -/
theorem atomNew_of_ofNat {t : BitVec 4} {c : Nat} {b : BitVec (8 * tySize t)} (h : BitVec.ofNat (8 * tySize t) c = b)
    (op : BitVec 4) (old : Nat) : atomNew t op old c = atomNew t op old b.toNat := by
  subst h
  simp only [atomNew, BitVec.toNat_ofNat, Nat.mod_mod]

section
variable {t : BitVec 4} (ht : t ≠ tyF32) (a b : BitVec (8 * tySize t))

/-! Over an integer type, each operation as one on words. -/

include ht in
theorem atomNew_add : atomNew t 0 a.toNat b.toNat = (a + b).toNat := by
  simp [atomNew, ht]

include ht in
theorem atomNew_min : atomNew t 1 a.toNat b.toNat = (if tyLess t b a then b else a).toNat := by
  rw [apply_ite BitVec.toNat]
  simp [atomNew, ht, tyLess_eq]

include ht in
theorem atomNew_max : atomNew t 2 a.toNat b.toNat = (if tyLess t a b then b else a).toNat := by
  rw [apply_ite BitVec.toNat]
  simp [atomNew, ht, tyLess_eq]

theorem atomNew_and : atomNew t 3 a.toNat b.toNat = (a &&& b).toNat := by
  simp [atomNew]

theorem atomNew_or : atomNew t 4 a.toNat b.toNat = (a ||| b).toNat := by
  simp [atomNew]

theorem atomNew_xor : atomNew t 5 a.toNat b.toNat = (a ^^^ b).toNat := by
  simp [atomNew]

theorem atomNew_exch : atomNew t 6 a.toNat b.toNat = b.toNat := by
  simp [atomNew]

/-- An old value below the operand has room for one more. -/
theorem atomNew_inc : atomNew t 7 a.toNat b.toNat = (if a.ult b then a + 1 else 0).toNat := by
  have hone : (1#(8 * tySize t)).toNat = 1 := BitVec.toNat_one (by have := tySize_pos t; omega)
  have hb := b.isLt
  change (if b.toNat % 2 ^ (8 * tySize t) ≤ a.toNat then 0 else a.toNat + 1) = _
  rw [Nat.mod_eq_of_lt hb]
  by_cases h : a.toNat < b.toNat
  · have hroom : a.toNat + (1#(8 * tySize t)).toNat < 2 ^ (8 * tySize t) := by omega
    rw [if_neg (Nat.not_le.mpr h), if_pos (BitVec.ult_iff_lt.mpr h)]
    exact ((BitVec.toNat_add_of_lt hroom).trans (congrArg (a.toNat + ·) hone)).symm
  · rw [if_pos (Nat.not_lt.mp h), if_neg (mt BitVec.ult_iff_lt.mp h)]
    rfl

/-- An old value that is not zero has one to give. -/
theorem atomNew_dec : atomNew t 8 a.toNat b.toNat = (if a = 0 ∨ b.ult a then b else a - 1).toNat := by
  have hone : (1#(8 * tySize t)).toNat = 1 := BitVec.toNat_one (by have := tySize_pos t; omega)
  have hzero : a.toNat = 0 ↔ a = 0 := by simp [← BitVec.toNat_inj]
  have hcond : (a.toNat = 0 ∨ b.toNat < a.toNat) ↔ (a = 0 ∨ b.ult a = true) :=
    or_congr hzero BitVec.ult_iff_lt.symm
  change (if a.toNat = 0 ∨ b.toNat % 2 ^ (8 * tySize t) < a.toNat then b.toNat % 2 ^ (8 * tySize t) else a.toNat - 1) = _
  rw [Nat.mod_eq_of_lt b.isLt]
  by_cases h : a.toNat = 0 ∨ b.toNat < a.toNat
  · rw [if_pos h, if_pos (hcond.mp h)]
  · have hle : (1#(8 * tySize t)).toNat ≤ a.toNat := by omega
    rw [if_neg h, if_neg (mt hcond.mpr h)]
    exact ((BitVec.toNat_sub_of_le hle).trans (congrArg (a.toNat - ·) hone)).symm

end

/-- Over f32 the operand is a word's already, and each operation is the floating-point one on it. -/
theorem atomNew_f32 (a : Nat) (b : W32) :
    atomNew tyF32 0 a b.toNat = (fpAdd tyF32 0 a b.toNat).1 ∧ atomNew tyF32 1 a b.toNat = fpMinMax tyF32 false a b.toNat ∧
    atomNew tyF32 2 a b.toNat = fpMinMax tyF32 true a b.toNat ∧ atomNew tyF32 6 a b.toNat = b.toNat := by
  have hb : b.toNat % 2 ^ (8 * tySize tyF32) = b.toNat := Nat.mod_eq_of_lt b.isLt
  simp [atomNew, hb]

/-- Settles O25: the operand by its low bits, then each operation by its lemma. -/
theorem atomicValue : Obligations.AtomicValue := by
  refine ⟨fun t hmem a b => ?integer, fun a b => atomNew_f32 a.toNat b⟩
  case integer =>
    have hint : ∀ u ∈ [tyS32, tyU32, tyS64, tyU64], u ≠ tyF32 := by decide
    have ht := hint t hmem
    have low : ∀ {op : BitVec 4} {v : BitVec (8 * tySize t)}, atomNew t op a.toNat b.toNat = v.toNat →
        ∀ c, BitVec.ofNat (8 * tySize t) c = b → atomNew t op a.toNat c = v.toNat :=
      fun hv _ hc => (atomNew_of_ofNat hc _ _).trans hv
    exact ⟨low (atomNew_add ht a b), low (atomNew_min ht a b), low (atomNew_max ht a b), low (atomNew_and a b), low (atomNew_or a b),
      low (atomNew_xor a b), low (atomNew_exch a b), low (atomNew_inc a b), low (atomNew_dec a b)⟩

end Sys2Proof.Machine
end

section
namespace Sys2Proof.Machine
open Sys2Proof

/-! ### The elements of an accumulator (R291, R301, R305) -/

/-- An element that a map does not list is zero. -/
theorem accList_unlisted {m : ZMap 32} {k : Nat} (h : ∀ p ∈ m, p.1 ≠ k) (n : Nat) :
    accList m k (n + 1) = 0 :: accList m (k + 1) n := by
  cases m with
  | nil => rfl
  | cons p r => exact if_neg (h p List.mem_cons_self)

/-- The map of some elements, the first with index `k`: `accMap` begins at zero. -/
def accMapFrom (k : Nat) (l : List W32) : ZMap 32 :=
  ((List.range' k l.length).zip l).filterMap fun p => if p.2 = 0 then none else some p

theorem accMap_eq (l : List W32) : accMap l = accMapFrom 0 l :=
  congrArg (fun ks => (ks.zip l).filterMap fun p => if p.2 = 0 then none else some p) List.range_eq_range'

theorem accMapFrom_cons (k : Nat) (v : W32) (l : List W32) :
    accMapFrom k (v :: l) = if v = 0 then accMapFrom (k + 1) l else (k, v) :: accMapFrom (k + 1) l := by
  simp only [accMapFrom, List.length_cons, List.range'_succ, List.zip_cons_cons, List.filterMap_cons]
  by_cases hv : v = 0 <;> simp only [hv, if_true, if_false]

theorem accMapFrom_key {k : Nat} {l : List W32} {p : Nat × W32} (h : p ∈ accMapFrom k l) : k ≤ p.1 := by
  induction l generalizing k with
  | nil => exact absurd h List.not_mem_nil
  | cons v l ih =>
    rw [accMapFrom_cons] at h
    split at h
    · exact Nat.le_of_succ_le (ih h)
    · obtain rfl | h := List.mem_cons.mp h
      · exact Nat.le_refl _
      · exact Nat.le_of_succ_le (ih h)

/-- A map of elements gives them back. -/
theorem accList_accMapFrom (l : List W32) (k : Nat) : accList (accMapFrom k l) k l.length = l := by
  induction l generalizing k with
  | nil => rfl
  | cons v l ih =>
    rw [accMapFrom_cons, List.length_cons]
    split
    · next hv =>
      have hk : ∀ p ∈ accMapFrom (k + 1) l, p.1 ≠ k := fun p hp => Nat.ne_of_gt (accMapFrom_key hp)
      rw [accList_unlisted hk, ih, hv]
    · rw [accList, if_pos rfl, ih]

/-- An accumulator has 4,096 elements (R291). -/
theorem accList_length (m : ZMap 32) (k n : Nat) : (accList m k n).length = n := by
  induction n generalizing m k with
  | zero => rfl
  | succ n ih =>
    unfold accList
    split
    · split <;> simp [ih]
    · simp [ih]

@[simp] theorem Tile.accOf_length (t : Tile) (a : Nat) : (t.accOf a).length = 4096 := accList_length ..

/-- What is written to all of them is read back. -/
theorem Tile.accOf_putAcc (t : Tile) (a : Nat) {l : List W32} (f : Flags) (h : l.length = 4096) : (t.putAcc a l f).accOf a = l := by
  rw [Tile.accOf, Tile.putAcc, kget_kset_self, Option.getD_some, accMap_eq, ← h, accList_accMapFrom]

theorem accList_nil (k n : Nat) : accList [] k n = List.replicate n 0 := by
  induction n generalizing k with
  | zero => rfl
  | succ n ih => rw [accList, ih, List.replicate_succ]

/-- An accumulator that is not listed is zero. -/
theorem Tile.accOf_unlisted {t : Tile} {a : Nat} (h : kget t.acc a = none) (n : Nat) : (t.accOf a).getD n 0 = 0 := by
  rw [Tile.accOf, h, Option.getD_none, accList_nil, List.getD_eq_getElem?_getD, List.getElem?_replicate]
  split <;> rfl

/-- Element n of an accumulator that is mapped. -/
theorem mapAcc_getD {l : List W32} (f : Nat → Nat → W32 → Nat × Flags) {n : Nat} (h : n < l.length) :
    (mapAcc l f).1.getD n 0 = BitVec.ofNat 32 (f (n / 64) (n % 64) (l.getD n 0)).1 := by
  simp [mapAcc, List.getD_eq_getElem?_getD, h]

@[simp] theorem mapAcc_length (l : List W32) (f : Nat → Nat → W32 → Nat × Flags) : (mapAcc l f).1.length = l.length := by
  simp [mapAcc]

/-- The stream after a form that takes each element of operand A to a result and its flags (R305). -/
def Tile.mapped (t : Tile) (o : TileOp) (f : Nat → Nat → W32 → Nat × Flags) : Tile × Flags :=
  let r := mapAcc (t.accOf o.x.a.toNat) f
  (t.putAcc o.x.d.toNat r.1 r.2, r.2)

theorem Tile.mapped_getD (t : Tile) (o : TileOp) (f : Nat → Nat → W32 → Nat × Flags) {n : Nat} (h : n < 4096) :
    ((t.mapped o f).1.accOf o.x.d.toNat).getD n 0 =
      BitVec.ofNat 32 (f (n / 64) (n % 64) ((t.accOf o.x.a.toNat).getD n 0)).1 := by
  rw [Tile.mapped, Tile.accOf_putAcc _ _ _ (by simp), mapAcc_getD f (by simpa using h)]

/-! What each form does, by its opcode. -/
section
variable (t : Tile) {o : TileOp}

theorem elementwise_tzero (h : o.xop = opTzero) :
    elementwise t o = ({ t with acc := kdel t.acc o.x.d.toNat }.clearFlags o.x.d.toNat, 0) := by
  rw [elementwise, h]; rfl

theorem elementwise_tscale (h : o.xop = opTscale) :
    elementwise t o = t.mapped o fun _ _ v => fpMul tyF32 o.x.rm v.toNat (o.vb.extractLsb' 0 32).toNat := by
  rw [elementwise, h]; rfl

theorem elementwise_ttrans (h : o.xop = opTtrans) :
    elementwise t o = (t.putAcc o.x.d.toNat
      ((List.range 4096).map fun k => (t.accOf o.x.a.toNat).getD (k % 64 * 64 + k / 64) 0) (zget t.flags o.x.a.toNat), 0) := by
  rw [elementwise, h]; rfl

theorem elementwise_tadd (h : o.xop = opTadd) :
    elementwise t o = t.mapped o fun i j v =>
      let w := ((t.accOf o.x.b.toNat).getD (64 * i + j) 0).toNat
      if o.x.ty == tyF32 then fpAdd tyF32 o.x.rm v.toNat w else ((v.toNat + w) % 2 ^ 32, 0) := by
  rw [elementwise, h]; rfl

theorem elementwise_tcvt (h : o.xop = opTcvt) :
    elementwise t o = t.mapped o fun _ _ v =>
      convert (if o.x.ty == tyS8 then tyS32 else tyF32) o.x.ty o.x.rm o.x.sat v.toNat := by
  rw [elementwise, h]; rfl

end

/-- TADD's element n, over its two operands' (R305). -/
theorem tadd_getD (t : Tile) {o : TileOp} (h : o.xop = opTadd) {n : Nat} (hn : n < 4096) :
    let v := (t.accOf o.x.a.toNat).getD n 0
    let w := (t.accOf o.x.b.toNat).getD n 0
    ((elementwise t o).1.accOf o.x.d.toNat).getD n 0 =
      if o.x.ty = tyF32 then BitVec.ofNat 32 (fpAdd tyF32 o.x.rm v.toNat w.toNat).1 else v + w := by
  intro v w
  rw [elementwise_tadd t h, Tile.mapped_getD t o _ hn]
  simp only [Nat.div_add_mod, beq_iff_eq]
  split
  · rfl
  · exact BitVec.eq_of_toNat_eq (by simp [v, w])

/-- Settles O39: each form by its equation, the mapping ones by the element that they map. -/
theorem tileElements : Obligations.TileElements := by
  intro t o _ d e is n hn
  refine ⟨fun h => ?tzero, fun h => ?ttrans, fun h hty => ?integers, fun h hty => ?floats, fun h => ?tscale, fun h => ?tcvt⟩
  case tzero =>
    simp only [is, elementwise_tzero t h]
    exact ⟨Tile.accOf_unlisted (kget_kdel_self ..) n, zget_zset_self t.flags d 0⟩
  case ttrans =>
    have hput := Tile.accOf_putAcc t d (zget t.flags o.x.a.toNat)
      (l := (List.range 4096).map fun k => (t.accOf o.x.a.toNat).getD (k % 64 * 64 + k / 64) 0) (by simp)
    simp only [is, elementwise_ttrans t h, d] at hput ⊢
    rw [hput]
    simp [List.getD_eq_getElem?_getD, hn]
  case integers => exact (tadd_getD t h hn).trans (if_neg hty)
  case floats => exact (tadd_getD t h hn).trans (if_pos hty)
  case tscale =>
    simp only [is, elementwise_tscale t h]
    exact Tile.mapped_getD t o _ hn
  case tcvt =>
    simp only [is, elementwise_tcvt t h]
    exact Tile.mapped_getD t o _ hn

end Sys2Proof.Machine
end

section
namespace Sys2Proof.Machine
open Sys2Proof

/-! ### The tile stream's own state (R290, R300, R308, R309, R311) -/

/-- Two updates of one tile stream are one. -/
theorem State.updTile_updTile (s : State) (c b : Nat) (f g : Tile → Tile) :
    (s.updTile c b f).updTile c b g = s.updTile c b fun t => g (f t) := by
  simp [State.updTile, State.updBlock_updBlock, Function.comp_def]

/-- An update of the stream that is there, as its new value. -/
theorem State.updTile_const {s : State} {c b : Nat} {t : Tile} (h : s.tile c b = some t) (f : Tile → Tile) :
    s.updTile c b f = s.updTile c b fun _ => f t := by
  refine State.updBlock_congr s c b _ _ fun k hk => ?_
  have hkt : k.tile = some t := by rwa [State.tile, hk] at h
  rw [hkt]; rfl

theorem TileIssue.tile {i : Instr} {s : State} {r : Row} {x : Ext} {len c b : Nat} {k : Block} {t : Tile}
    (h : TileIssue i s r x len c b k t) : s.tile c b = some t := by
  obtain ⟨-, -, hk, ht, -⟩ := h
  rw [State.tile, hk]; exact ht

/-- A tile instruction without S settles what its body answers (R187, R289). -/
theorem TileIssue.exec_eq {i : Instr} {s : State} {r : Row} {x : Ext} {len c b : Nat} {k : Block} {t : Tile}
    (h : TileIssue i s r x len c b k t) (hr : r.tile = true) (hs : x.s = false) :
    exec i s = .next (settleTile c b len t.pc (tileBody r.xop x s c b k t)) := by
  have hstream := h.tile
  obtain ⟨hi, hcur, hk, ht, hrun⟩ := h
  have hturn : tileTurn s = true := by simp [tileTurn, hcur, hk, ht, hrun]
  rw [exec_of_issued_tile hi hr, issueTile, if_pos hturn]
  simp only [hcur, hs, hk, ht, hstream, Bool.false_eq_true, if_false, Option.map_some, Option.getD_some]

/-- A stream that its instruction has updated goes on to the next (R290). -/
theorem settleTile_done {s : State} {c b : Nat} {t : Tile} (h : s.tile c b = some t) (len : Nat) (f : Tile → Tile) :
    settleTile c b len t.pc (.done (s.updTile c b f)) = s.updTile c b fun _ => { f t with pc := t.pc.plus len } :=
  (State.updTile_updTile s c b f _).trans (State.updTile_const h _)

/-! TLOOP by its count (R309). -/

theorem bodyTloop_zero {x : Ext} {t : Tile} (h : zget t.x x.a.toNat = 0) (s : State) (c b : Nat) (k : Block) :
    bodyTloop x s c b k t = .done s := by
  simp [bodyTloop, h]

theorem bodyTloop_one {x : Ext} {t : Tile} (h : zget t.x x.a.toNat = 1) (s : State) (c b : Nat) (k : Block) :
    bodyTloop x s c b k t = .done (s.updTile c b fun y => { y with x := zset y.x x.a.toNat 0 }) := by
  simp [bodyTloop, h]

theorem bodyTloop_back {x : Ext} {t : Tile} (h0 : zget t.x x.a.toNat ≠ 0) (h1 : zget t.x x.a.toNat ≠ 1)
    {onto : Int} (honto : onto = t.pc.off + (x.lit.getD 0).toInt) (h4 : (x.lit.getD 0).toInt % 4 = 0) (hlo : 0 ≤ onto)
    (hhi : onto < 16384) (s : State) (c b : Nat) (k : Block) :
    bodyTloop x s c b k t = .went (s.updTile c b fun y =>
      { y with x := zset y.x x.a.toNat (zget t.x x.a.toNat - 1), pc := ⟨t.pc.seg, onto.toNat⟩ }) := by
  subst honto
  simp only [bodyTloop, beq_iff_eq, h0, h1, if_false]
  rw [if_pos ⟨h4, hlo, hhi⟩, State.updTile_updTile]

/-- Settles O37: each instruction by what its body answers, TLOOP by its count. -/
theorem streamOperations : Obligations.StreamOperations := by
  refine ⟨fun i x len s c b k t h hs => ?tset, fun i x len s c b k t h hs => ?rwperm, fun i x len s c b k t h hs => ?tnop,
    fun i x len s c b k t h hs => ⟨fun h0 => ?fallsThrough, fun h1 => ?endsLoop, fun h0 h1 h4 hlo hhi => ?goesBack⟩⟩
  case tset =>
    rw [h.exec_eq rfl hs, tileBody_tset, bodyTset, settleTile_done h.tile]
  case rwperm =>
    rw [h.exec_eq rfl hs, tileBody_rwperm, bodyRwperm, settleTile_done h.tile]
  case tnop =>
    rw [h.exec_eq rfl hs, tileBody_tnop, bodyTnop, settleTile, State.updTile_const h.tile]
  case fallsThrough =>
    rw [h.exec_eq rfl hs, tileBody_tloop, bodyTloop_zero h0, settleTile, State.updTile_const h.tile]
  case endsLoop =>
    rw [h.exec_eq rfl hs, tileBody_tloop, bodyTloop_one h1, settleTile_done h.tile]
  case goesBack =>
    rw [h.exec_eq rfl hs, tileBody_tloop, bodyTloop_back h0 h1 rfl h4 hlo hhi, settleTile, State.updTile_const h.tile]

end Sys2Proof.Machine
end

section
namespace Sys2Proof.Machine
open Sys2Proof

/-! ### Results on their way and their landing (R50, R319, R322) -/

/-- Nothing is on its way to a register of a lane when no write and no special-function result is. -/
theorem coming_eq_nil_iff {g : Group} {r l : Nat} :
    g.coming r l = [] ↔ (∀ p ∈ g.pend, p.2.wb.vecAt r l = none) ∧ ∀ p ∈ g.tokens, p.2.vecAt r l = none := by
  rw [Group.coming, List.append_eq_nil_iff, List.filterMap_eq_nil_iff, List.filterMap_eq_nil_iff]

/-- A list of lanes stays whole without a lane that it does not hold. -/
theorem filter_ne_of_find_none {α : Type} {vals : List (Nat × α)} {l : Nat}
    (h : (vals.find? fun (i, _) => i == l) = none) : vals.filter (fun (i, _) => i != l) = vals := by
  rw [List.find?_eq_none] at h
  exact List.filter_eq_self.mpr fun p hp => by simpa using h p hp

/-- A write that brings a lane's register nothing loses nothing there (R322). -/
theorem loseVec_of_vecAt_none {w : WriteBack} {r l : Nat} (h : w.vecAt r l = none) : w.loseVec r l = w := by
  cases w with
  | vec r0 pair vals =>
    by_cases hr : r = r0
    · subst hr
      simp only [WriteBack.vecAt, if_true, Option.map_eq_none_iff] at h
      rw [WriteBack.loseVec, if_pos rfl, filter_ne_of_find_none h]
    · exact if_neg hr
  | uni | upred | push | nothing => rfl

/-- A write that brings a register nothing on any lane loses no listed lane of it. -/
theorem foldl_loseVec_idle {w : WriteBack} {r : Nat} (h : ∀ l, w.vecAt r l = none) (vals : List (Nat × W64)) :
    vals.foldl (fun w (p : Nat × W64) => w.loseVec r p.1) w = w := by
  induction vals with
  | nil => rfl
  | cons p rest ih => rw [List.foldl_cons, loseVec_of_vecAt_none (h p.1), ih]

/-- A special-function result that brings its register nothing holds no lane. -/
theorem token_vals_nil {k : Token} (h : ∀ l, k.vecAt k.r l = none) : k.vals = [] := by
  refine List.eq_nil_iff_forall_not_mem.mpr fun p hp => ?_
  have hl := h p.1
  rw [Token.vecAt, if_pos rfl, Option.map_eq_none_iff, List.find?_eq_none] at hl
  simpa using hl p hp

/-- A vector result goes on its way whole, under a number of its own, where nothing else is on its way to its register (R319). -/
theorem addPend_vec_idle {g : Group} {r : Nat} (tick : Nat) (pair : Bool) (vals : List (Nat × W64)) (f : Flags)
    (h : ∀ l, g.coming r l = []) : ∃ n, kget g.pend n = none ∧
      addPend g tick (.vec r pair vals) f = { g with pend := kset g.pend n ⟨.vec r false vals, f⟩ } := by
  refine ⟨_, kget_none_of_above _ _ (lt_foldl_max g.pend 0).2, ?_⟩
  have hstay : vals.filter (fun (l, _) => (g.coming r l).isEmpty || Config.takesNew tick r l) = vals :=
    List.filter_eq_self.mpr fun p _ => by simp [h p.1]
  have hpend : kmap g.pend (fun _ p => { p with wb := vals.foldl (fun w (l, _) => w.loseVec r l) p.wb }) = g.pend :=
    kmap_eq_self fun p hp => by
      dsimp only
      rw [foldl_loseVec_idle fun l => (coming_eq_nil_iff.mp (h l)).1 p hp]
  have htok : kmap g.tokens (fun _ k => if k.r = r then
      { k with vals := k.vals.filter fun (i, _) => !(vals.any fun (l, _) => l == i) } else k) = g.tokens :=
    kmap_eq_self fun p hp => by
      split
      · rename_i hr
        have hnil := token_vals_nil fun l => hr ▸ (coming_eq_nil_iff.mp (h l)).2 p hp
        rw [hnil, List.filter_nil, ← hnil]
      · rfl
  simp only [addPend, hstay, hpend, htok]

/-- A uniform predicate's result goes on its way where no other is on its way to its predicate (R319). -/
theorem addPend_upred_idle {g : Group} {i : Nat} (tick : Nat) (v : Bool) (f : Flags) (hi : i < 7)
    (h : ∀ p ∈ g.pend, ∀ w, p.2.wb ≠ .upred i w) :
    ∃ n, kget g.pend n = none ∧ addPend g tick (.upred i v) f = { g with pend := kset g.pend n ⟨.upred i v, f⟩ } := by
  refine ⟨_, kget_none_of_above _ _ (lt_foldl_max g.pend 0).2, ?_⟩
  dsimp only [addPend]
  rw [if_neg (Nat.ne_of_lt hi), if_neg, kmap_eq_self]
  · rintro ⟨k, wb, fl⟩ hp
    cases wb with
    | upred j u => exact if_neg fun hj => h _ hp u (by rw [hj])
    | vec | uni | push | nothing => rfl
  · intro hprev
    obtain ⟨⟨k, wb, fl⟩, hp, hj⟩ := List.any_eq_true.mp (Bool.and_eq_true_iff.mp hprev).1
    cases wb with
    | upred j u => exact h _ hp u (by rw [eq_of_beq hj])
    | vec | uni | push | nothing => cases hj

/-- A result for q7 goes on its way to nothing (R50). -/
theorem addPend_upred_seven (g : Group) (tick : Nat) (v : Bool) (f : Flags) :
    ∃ n, kget g.pend n = none ∧ addPend g tick (.upred 7 v) f = { g with pend := kset g.pend n ⟨.nothing, f⟩ } :=
  ⟨_, kget_none_of_above _ _ (lt_foldl_max g.pend 0).2, rfl⟩

/-- A write that brings a register nothing, once on its way, leaves that register with nothing on its way. -/
theorem coming_kset_pend {g : Group} {r l : Nat} (n : Nat) {p : Pend} (h : g.coming r l = []) (hp : p.wb.vecAt r l = none) :
    ({ g with pend := kset g.pend n p } : Group).coming r l = [] := by
  obtain ⟨hpend, htok⟩ := coming_eq_nil_iff.mp h
  have hall := all_kset g.pend n p (fun q => (q.2.wb.vecAt r l).isNone) (by simpa using hpend) (by simpa using hp)
  exact coming_eq_nil_iff.mpr ⟨by simpa using hall, htok⟩

/-! The halves of a pair hold the low and the high word of each lane (R50). -/

theorem extract_low_half (v : W64) : (v &&& 0xFFFFFFFF).extractLsb' 0 32 = v.extractLsb' 0 32 := by
  refine BitVec.eq_of_toNat_eq ?_
  simp only [BitVec.extractLsb'_toNat, BitVec.toNat_and, Nat.shiftRight_zero]
  rw [show (0xFFFFFFFF : W64).toNat = 2 ^ 32 - 1 from rfl, Nat.and_two_pow_sub_one_eq_mod, Nat.mod_mod]

theorem extract_high_half (v : W64) : (v >>> 32).extractLsb' 0 32 = v.extractLsb' 32 32 := by
  refine BitVec.eq_of_toNat_eq ?_
  simp only [BitVec.extractLsb'_toNat, BitVec.toNat_ushiftRight, Nat.shiftRight_zero]

/-- A pair with nothing on its way to either register goes as its two halves, each under a number of its own (R322). -/
theorem addPend_pair_idle {g : Group} {r : Nat} (tick : Nat) (lo hi : List (Nat × W64)) (f e : Flags)
    (h : ∀ l, g.coming r l = []) (h' : ∀ l, g.coming (r + 1) l = []) :
    ∃ n m, n ≠ m ∧ kget g.pend n = none ∧ kget g.pend m = none ∧
      addPend (addPend g tick (.vec r false lo) f) tick (.vec (r + 1) false hi) e =
        { g with pend := kset (kset g.pend n ⟨.vec r false lo, f⟩) m ⟨.vec (r + 1) false hi, e⟩ } := by
  obtain ⟨n, hn, hlo⟩ := addPend_vec_idle tick false lo f h
  have hidle : ∀ l, (addPend g tick (.vec r false lo) f).coming (r + 1) l = [] := fun l => by
    rw [hlo]
    exact coming_kset_pend n (h' l) (by simp [WriteBack.vecAt])
  obtain ⟨m, hm, hhi⟩ := addPend_vec_idle tick false hi e hidle
  simp only [hlo] at hm hhi
  have hne : n ≠ m := by
    rintro rfl
    simp [kget_kset_self] at hm
  exact ⟨n, m, hne, hn, by rwa [kget_kset_ne _ _ hne.symm] at hm, by rw [hlo, hhi]⟩

/-- Class V results for a pair of registers go on their way as the two halves of each lane's value (R319, R322). -/
theorem pendVec_pair {s : State} {h : Here} {r : Row} {x : Ext} (vals : List (Nat × W64)) (f : Flags) {g : Group}
    (hd : x.dcl = false) (hp : pairOf r.d x = true) (hg : s.group h.c h.b h.g = some g) :
    pendVec s h r x vals f = s.updGroup h.c h.b h.g fun _ =>
      addPend (addPend g h.tick (splitPair vals x.d.toNat).1 f) h.tick (splitPair vals x.d.toNat).2 0 := by
  simp only [pendVec, hd, hp, Bool.false_eq_true, if_false, if_true]
  exact State.updGroup_const _ _ _ _ _ g hg

/-- A vector result that lands writes exactly its lanes of its register, or of its pair (R50, R319). -/
theorem landWrite_vec {s : State} {c b g : Nat} {x : Group} (hg : s.group c b g = some x) (pair : Bool) (d : Nat) (ls : List Nat)
    (val : Nat → W64) (hn : ls.Nodup) (h64 : ∀ l ∈ ls, l < 64) :
    ∃ v, landWrite s c b g (.vec d pair (ls.map fun l => (l, val l))) = s.updGroup c b g (fun _ => x.setV v) ∧
      vecWritten x.v v pair d ls val := by
  cases pair with
  | false => exact ⟨_, State.updGroup_const _ _ _ _ _ x hg, vecWritten_single ls val x.v d hn h64⟩
  | true => exact ⟨_, State.updGroup_const _ _ _ _ _ x hg, vecWritten_pair ls val x.v d hn h64⟩

/-- Settles O18: how each kind of result goes on its way, then how each lands. -/
theorem resultOnItsWay : Obligations.ResultOnItsWay := by
  refine ⟨fun g tick d vals f h => addPend_vec_idle tick false vals f h, fun g tick d v f h => addPend_uni_idle tick v f h,
    fun s h r x vals f g hd hp hg hlo hhi => ?pairSent, fun g tick i v f hi h => addPend_upred_idle tick v f hi h,
    fun g tick v f => addPend_upred_seven g tick v f,
    fun s c b g x d ls val hg hn h64 => landWrite_vec hg true d ls val hn h64, fun s c b g x i v hg hi => ?predicateLands,
    fun s c b g x d ls val hg hn h64 => landWrite_vec hg false d ls val hn h64, fun s c b g x d v hg => ?uniformLands⟩
  case pairSent =>
    obtain ⟨n, m, hne, hn, hm, hpend⟩ := addPend_pair_idle h.tick (vals.map fun (l, v) => (l, v &&& 0xFFFFFFFF))
      (vals.map fun (l, v) => (l, v >>> 32)) f 0 hlo hhi
    refine ⟨n, m, hne, hn, hm, _, _, by rw [pendVec_pair vals f hd hp hg, splitPair, hpend], ?_, ?_⟩
    · rw [List.map_map]
      exact List.map_congr_left fun p _ => congrArg (Prod.mk p.1) (extract_low_half p.2)
    · rw [List.map_map]
      exact List.map_congr_left fun p _ => congrArg (Prod.mk p.1) (extract_high_half p.2)
  case predicateLands =>
    exact ⟨_, State.updGroup_const _ _ _ _ _ x hg, fun j _ => setBit7_getLsbD x.q v j hi⟩
  case uniformLands => exact State.updGroup_const _ _ _ _ _ x hg

end Sys2Proof.Machine
end

section
namespace Sys2Proof.Machine
open Sys2Proof

/-! ### Entering the rewrite window (R187, R289, R325-R328) -/

/-- The rows of the window's instructions (R325). -/
def windowRows : List Row :=
  [Rows.tdesc, Rows.tzero, Rows.tldacc, Rows.tmma, Rows.tmmab, Rows.tscale, Rows.ttrans, Rows.tadd, Rows.tcvt, Rows.tstore]

/-- Each has the window's body under its own opcode. -/
theorem windowRows_body : ∀ r ∈ windowRows, r.tile = true ∧ tileBody r.xop = bodyWindow r.xop := by
  simp only [windowRows, List.forall_mem_cons]
  exact ⟨⟨rfl, tileBody_tdesc⟩, ⟨rfl, tileBody_tzero⟩, ⟨rfl, tileBody_tldacc⟩, ⟨rfl, tileBody_tmma⟩, ⟨rfl, tileBody_tmmab⟩,
    ⟨rfl, tileBody_tscale⟩, ⟨rfl, tileBody_ttrans⟩, ⟨rfl, tileBody_tadd⟩, ⟨rfl, tileBody_tcvt⟩, ⟨rfl, tileBody_tstore⟩,
    fun _ h => absurd h List.not_mem_nil⟩

/-- Nothing issues from a window that is empty or does not hold too many (R327). -/
theorem issueDown_stays {s : State} {c b : Nat} {t : Tile} {tooMany : Tile → Bool} (ht : s.tile c b = some t)
    (h : t.window = [] ∨ tooMany t = false) (n : Nat) : issueDown s c b tooMany n = .ok s := by
  cases n with
  | zero => rfl
  | succ n =>
    have hstays : (t.window.isEmpty || !tooMany t) = true := by simpa using h
    simp only [issueDown, ht, hstays, if_true]

/-- A flush of an empty window puts the rule table in force (R327, R334). -/
theorem flushWindow_empty {s : State} {c b : Nat} {k : Block} {t : Tile} (hk : s.block c b = some k) (ht : k.tile = some t)
    (hw : t.window = []) (hd : k.draining = false) :
    flushWindow s c b = .ok (s.updTile c b fun _ => { t with rules := rulesOf s k.tenant }) := by
  have hst : s.tile c b = some t := by rw [State.tile, hk]; exact ht
  simp only [flushWindow, hst, issueDown_stays hst (.inl hw), hk, hd, Bool.false_eq_true, if_false]
  rw [State.updTile_const hst]

/-- The block after its stream is updated. -/
theorem State.updTile_block {s : State} {c b : Nat} {k : Block} (hk : s.block c b = some k) (f : Tile → Tile) :
    (s.updTile c b f).block c b = some { k with tile := k.tile.map f } := by
  rw [State.updTile, State.updBlock_block_self, hk, Option.map_some]

/-- The stream after its update. -/
theorem State.updTile_tile {s : State} {c b : Nat} {t : Tile} (ht : s.tile c b = some t) (f : Tile → Tile) :
    (s.updTile c b f).tile c b = some (f t) := by
  obtain ⟨k, hk, hkt⟩ := Option.bind_eq_some_iff.mp ht
  rw [State.tile, State.updTile_block hk, Option.bind_some, hkt, Option.map_some]

/-- A tile instruction with S and nothing pending settles what its body answers with the rule table in force (R187, R289, R334). -/
theorem TileIssue.exec_eq_flushed {i : Instr} {s : State} {r : Row} {x : Ext} {len c b : Nat} {k : Block} {t : Tile}
    (h : TileIssue i s r x len c b k t) (hr : r.tile = true) (hs : x.s = true) (hw : t.window = []) (hd : k.draining = false) :
    let t' := { t with rules := rulesOf s k.tenant }
    exec i s = .next (settleTile c b len t.pc
      (tileBody r.xop x (s.updTile c b fun _ => t') c b { k with tile := some t' } t')) := by
  have hstream := h.tile
  obtain ⟨hi, hcur, hk, ht, hrun⟩ := h
  have hturn : tileTurn s = true := by simp [tileTurn, hcur, hk, ht, hrun]
  rw [exec_of_issued_tile hi hr, issueTile, if_pos hturn]
  simp only [hcur, hs, afterFlush, flushWindow_empty hk ht hw hd, State.updTile_block hk, ht, hstream, if_true, Option.map_some,
    Option.getD_some]

/-- An instruction without S joins a window that has room, and rules are matched (R327, R328). -/
theorem bodyWindow_joins {xop : BitVec 10} {x : Ext} {s : State} {c b : Nat} {k : Block} {t : Tile} (ht : s.tile c b = some t)
    (hs : x.s = false) (hroom : windowOps t < 8)
    (hf : needsFlush k t ((entering t xop x false).ops.headD ⟨t.pc, 0, x, 0, 0, 0⟩) = false) :
    bodyWindow xop x s c b k t = .done (s.updTile c b fun _ =>
      { t with window := matchWindow k { t with window := t.window ++ [entering t xop x false] } }) := by
  have hdown := issueDown_stays (tooMany := fun t => decide (8 ≤ windowOps t)) ht
    (.inr (decide_eq_false (Nat.not_le.mpr hroom))) (t.window.length + 1)
  simp only [entering, List.headD_cons] at hf
  simp only [bodyWindow, hs, hf, hdown, Bool.false_eq_true, if_false]
  rw [State.updTile_updTile, State.updTile_const ht]
  rfl

/-- An instruction with S, alone in its window, issues at once (R327). -/
theorem bodyWindow_issues {xop : BitVec 10} {x : Ext} {s v : State} {c b : Nat} {k : Block} {t : Tile} (ht : s.tile c b = some t)
    (hs : x.s = true) (hw : t.window = [])
    (hv : issueOldest (s.updTile c b fun t' => { t' with window := [entering t' xop x true] }) c b = .ok v) :
    bodyWindow xop x s c b k t = .done v := by
  rw [State.updTile_const ht] at hv
  simp only [bodyWindow, hs, if_true]
  rw [State.updTile_const ht, hw, List.nil_append]
  simp only [entering] at hv
  rw [hv]

/-- Settles O38: the entry joins the window, or with S is issued from it alone. -/
theorem windowEntry : Obligations.WindowEntry := by
  intro r hr
  obtain ⟨htile, hbody⟩ := windowRows_body r hr
  refine ⟨fun i x len s c b k t h hs hroom hf => ?joins, fun i x len s c b k t v h hs hw hd hv => ?issues⟩
  case joins =>
    rw [h.exec_eq htile hs, hbody, bodyWindow_joins h.tile hs hroom hf, settleTile_done h.tile]
  case issues =>
    rw [h.exec_eq_flushed htile hs hw hd, hbody, bodyWindow_issues (State.updTile_tile h.tile _) hs hw hv]
    rfl

end Sys2Proof.Machine
end

section
namespace Sys2Proof.Machine
open Sys2Proof

/-! ### Words that decode are the words of what they decode to (R174, R176, R178, R185) -/

/-- What a look-up finds stands in the table under its key. -/
theorem mem_of_lookupOp {n : Nat} {α : Type} {t : List (BitVec n × (α → Instr))} {k : BitVec n} {f : α → Instr}
    (h : lookupOp t k = some f) : (k, f) ∈ t := by
  induction t with
  | nil => cases h
  | cons p r ih =>
    obtain ⟨j, g⟩ := p
    rw [lookupOp] at h
    split at h
    case isTrue hj => cases h; exact hj ▸ List.mem_cons_self
    case isFalse => exact List.mem_cons_of_mem _ (ih h)

/-- Each constructor in the table of extended opcodes has a row with its key as opcode (R194). -/
theorem extTable_form : ∀ p ∈ extTable, ∃ r : Row, r.xop = p.1 ∧ ∀ x, (p.2 x).form = .ext r x := by
  simp only [extTable, extTable0, extTable1, extTable2, extTable3, extTable4, extTable5, extTable6, List.cons_append, List.nil_append,
    List.forall_mem_cons]
  repeat' refine And.intro ⟨_, rfl, fun _ => rfl⟩ ?_
  exact List.forall_mem_nil _

/-- Each constructor in the table of base opcodes has a base row with its key as opcode (R202). -/
theorem baseTable_form : ∀ p ∈ baseTable, ∃ r : BaseRow, r.bop = p.1 ∧ ∀ x, (p.2 x).form = .base r x := by
  simp only [baseTable, baseTable0, baseTable1, baseTable2, baseTable3, List.cons_append, List.nil_append, List.forall_mem_cons]
  repeat' refine And.intro ⟨_, rfl, fun _ => rfl⟩ ?_
  exact List.forall_mem_nil _

/-- A bit as a word of one bit. -/
theorem ofBool_getLsbD {n : Nat} (w : BitVec n) (i : Nat) : BitVec.ofBool (w.getLsbD i) = w.extractLsb' i 1 := by
  refine BitVec.eq_of_getLsbD_eq fun j hj => ?_
  obtain rfl : j = 0 := by omega
  simp

/-- The literal's words give the literal. -/
theorem literalWords_literalOf (lo hi : W32) : literalWords (some (literalOf lo hi)) = [lo, hi] := by
  simp (disch := omega) [literalWords, literalOf, BitVec.extractLsb'_append_eq_of_le, BitVec.extractLsb'_append_eq_of_add_le,
    -Nat.reduceAdd]

/-- A first word is its length field under the rest (R174). -/
theorem append_lengthField (w : W32) : (w.extractLsb' 2 30 ++ w.extractLsb' 0 2 : W32) = w :=
  (BitVec.extractLsb'_append_extractLsb'_eq_extractLsb' rfl).trans BitVec.extractLsb'_eq_self

/-- A base word is the word of its fields, its opcode and its length (R176). -/
theorem encodeBase_fields {r : BaseRow} {b0 : W32} {lit : Option W64} (hl : b0.extractLsb' 0 2 = if lit.isSome then 3#2 else 0#2)
    (ho : b0.extractLsb' 3 8 = r.bop) : encodeBase r (baseFields b0 lit) = b0 :: literalWords lit := by
  change (_ ++ (if lit.isSome then 3#2 else 0#2) : W32) :: literalWords lit = _
  rw [← hl]
  simp only [baseFields, ← ho, ofBool_getLsbD]
  simp (disch := omega) only [BitVec.extractLsb'_append_extractLsb'_eq_extractLsb']
  simp only [Nat.reduceAdd, append_lengthField]

/-- Three extended words whose reserved bit is zero are the words of their fields, their opcode and their length (R178). -/
theorem encodeExt_fields {r : Row} {w0 w1 w2 : W32} {lit : Option W64} (hl : w0.extractLsb' 0 2 = if lit.isSome then 2#2 else 1#2)
    (ho : w0.extractLsb' 3 10 = r.xop) (hz : w1.getLsbD 31 = false) :
    encodeExt r (extFields w0 w1 w2 lit) = [w0, w1, w2] ++ literalWords lit := by
  have hz : 0#1 = w1.extractLsb' 31 1 := by rw [← ofBool_getLsbD, hz]; rfl
  change [(_ ++ (if lit.isSome then 2#2 else 1#2) : W32), _, _] ++ literalWords lit = _
  rw [← hl]
  simp only [extFields, ← ho, hz, ofBool_getLsbD]
  simp (disch := omega) only [BitVec.extractLsb'_append_extractLsb'_eq_extractLsb']
  simp only [Nat.reduceAdd, BitVec.extractLsb'_eq_self, append_lengthField]

/-- An instruction that passes the encoding checks is the one checked, and is well formed (R185). -/
theorem checked_eq_ok {i j : Instr} (h : Sys2Proof.checked i = .ok j) : i = j ∧ j.WellFormed = true := by
  unfold Sys2Proof.checked at h
  split at h
  case isTrue hw => cases h; exact ⟨rfl, hw⟩
  case isFalse => cases h

/-- What a base word decodes to is well formed, and has that word and the literal's for its own (R176, R202). -/
theorem decodeBase_ok {b0 : W32} {lit : Option W64} {i : Instr} (hl : b0.extractLsb' 0 2 = if lit.isSome then 3#2 else 0#2)
    (h : decodeBase b0 lit = .ok i) : i.form ≠ .event ∧ i.WellFormed = true ∧ encode i = b0 :: literalWords lit := by
  unfold decodeBase at h
  split at h
  case h_1 => cases h
  case h_2 f hf =>
    obtain ⟨r, ho, hform⟩ := baseTable_form _ (mem_of_lookupOp hf)
    obtain ⟨rfl, hw⟩ := checked_eq_ok h
    exact ⟨by simp [hform], hw, by simp only [encode, hform]; exact encodeBase_fields hl ho.symm⟩

/-- What extended words decode to is well formed, and has those words and the literal's for its own (R178, R194). -/
theorem decodeExt_ok {w0 w1 w2 : W32} {lit : Option W64} {i : Instr} (hl : w0.extractLsb' 0 2 = if lit.isSome then 2#2 else 1#2)
    (h : decodeExt w0 w1 w2 lit = .ok i) :
    i.form ≠ .event ∧ i.WellFormed = true ∧ encode i = [w0, w1, w2] ++ literalWords lit := by
  unfold decodeExt at h
  split at h
  case h_1 => cases h
  case h_2 f hf =>
    split at h
    case isTrue => cases h
    case isFalse hz =>
      obtain ⟨r, ho, hform⟩ := extTable_form _ (mem_of_lookupOp hf)
      obtain ⟨rfl, hw⟩ := checked_eq_ok h
      exact ⟨by simp [hform], hw, by simp only [encode, hform]; exact encodeExt_fields hl ho.symm (by simpa using hz)⟩

/-- What is decoded with the words after it. -/
theorem map_pair_ok {e : Except DecodeError Instr} {r rest : List W32} {i : Instr} (h : e.map (·, r) = .ok (i, rest)) :
    e = .ok i ∧ r = rest := by
  cases e with
  | error => cases h
  | ok j => cases h; exact ⟨rfl, rfl⟩

/-- Words that decode are the words of the instruction they decode to, which is well formed, and the words after it. -/
theorem decode_ok {ws rest : List W32} {i : Instr} (h : decode ws = .ok (i, rest)) :
    i.form ≠ .event ∧ i.WellFormed = true ∧ ws = encode i ++ rest := by
  unfold decode at h
  split at h
  case h_1 => cases h
  case h_2 w0 r =>
    split at h
    case h_1 hl =>
      obtain ⟨hd, rfl⟩ := map_pair_ok h
      obtain ⟨hf, hw, he⟩ := decodeBase_ok hl hd
      exact ⟨hf, hw, by rw [he]; rfl⟩
    case h_2 hl =>
      obtain ⟨hd, rfl⟩ := map_pair_ok h
      obtain ⟨hf, hw, he⟩ := decodeExt_ok hl hd
      exact ⟨hf, hw, by rw [he]; rfl⟩
    case h_3 hl =>
      obtain ⟨hd, rfl⟩ := map_pair_ok h
      obtain ⟨hf, hw, he⟩ := decodeExt_ok hl hd
      exact ⟨hf, hw, by rw [he, literalWords_literalOf]; rfl⟩
    case h_4 hl =>
      obtain ⟨hd, rfl⟩ := map_pair_ok h
      obtain ⟨hf, hw, he⟩ := decodeBase_ok hl hd
      exact ⟨hf, hw, by rw [he, literalWords_literalOf]; rfl⟩
    case h_5 => cases h

/-- Settles O56: a well-formed instruction's words decode to it, and words that decode are those of what they decode to. -/
theorem decodeAndEncodeAgree : Obligations.DecodeAndEncodeAgree := by
  refine fun ws rest i => ⟨decode_ok, ?_⟩
  rintro ⟨hf, hw, rfl⟩
  exact decode_encode hf hw rest

end Sys2Proof.Machine
end

section
namespace Sys2Proof.Machine
open Sys2Proof

/-! ### Vector registers (R50, R229-R246) -/

/-- The result of every vector form of class F is a lane's register or pair. -/
theorem valueRows_isVec : ∀ p ∈ valueRows, ∀ x, isVec p.1.d x = true := by
  simp only [valueRows, intRows, wordRows, fpRows, halfRows, moveRows, convertRows, List.cons_append, List.nil_append,
    List.forall_mem_cons]
  repeat' refine And.intro (fun _ => rfl) ?_
  exact List.forall_mem_nil _

/-- Every vector form of class F completes with its row's function on lanes (R229). -/
theorem valueRows_complete : ∀ p ∈ valueRows, vecCompletes p.1 p.2 := by
  intro p hp i x len s h ⟨hi, hh, hv⟩ hd hq
  obtain ⟨ht, hb⟩ := valueRows_body p hp len
  exact vecLanes_register hi ht hb hh hv hd (valueRows_isVec p hp x) hq

/-- Settles O2: each list of rows is a part of the vector forms of class F. -/
theorem vectorResult : Obligations.VectorResult := by
  refine ⟨fun p hp => valueRows_complete p ?_, fun p hp => valueRows_complete p ?_, fun p hp => valueRows_complete p ?_⟩ <;>
    simp only [valueRows, List.mem_append] at hp ⊢ <;> tauto

end Sys2Proof.Machine
end

section
namespace Sys2Proof.Machine
open Sys2Proof

/-- Settles O57: the decoder run on each of the words. -/
theorem sampleWords : Obligations.SampleWords := by
  unfold Obligations.SampleWords
  decide +kernel

end Sys2Proof.Machine
end

section
/-! ### Memory's canonical form (log 2)

Memory is written by two operations of the model, `putHome` and `clearPoison`. Every other one
reaches it through them or leaves it as it is, so each keeps the form when what it calls does: one lemma `f_wf` per
operation `f`, in the order of the model's files. -/
namespace Sys2Proof.Machine
open Sys2Proof

/-- The state that an instruction's result carries. -/
def Out.MemWf : Out → Prop
  | .fin s | .went s | .trap s _ _ | .trapNext s _ _ | .park s _ | .gone s => s.MemWf
/-- The state that a tile instruction's result carries. -/
def TRes.MemWf : TRes → Prop
  | .done s | .went s | .park s _ | .die s _ _ _ | .poison s _ => s.MemWf
/-- The state that a window's issue leaves. -/
def Issued.MemWf : Issued → Prop
  | .ok s | .stop s => s.MemWf
/-- The state that an element's read leaves. -/
def Payload.MemWf : Payload → Prop
  | .ready s _ _ | .stop s => s.MemWf
/-- The state that an admin command leaves. -/
def Ended.MemWf : Ended → Prop
  | .done s _ | .waits s => s.MemWf
/-- A step to a next state leaves memory in form. -/
def OutcomeWf (o : Host.Outcome State Fault Refusal) : Prop := ∀ t, o = .next t → t.MemWf

theorem foldl_wf {α : Type} {f : State → α → State} (h : ∀ s a, s.MemWf → (f s a).MemWf) (l : List α) {s : State}
    (hs : s.MemWf) : (l.foldl f s).MemWf := foldl_keeps State.MemWf f h l s hs

theorem foldl_fst_wf {α β : Type} {f : State × β → α → State × β} (h : ∀ p a, p.1.MemWf → (f p a).1.MemWf) (l : List α)
    {p : State × β} (hp : p.1.MemWf) : (l.foldl f p).1.MemWf := foldl_keeps (fun p => p.1.MemWf) f h l p hp

theorem getD_wf {o : Option State} {s : State} (ho : ∀ u, o = some u → u.MemWf) (hs : s.MemWf) : (o.getD s).MemWf := by
  cases o with
  | none => exact hs
  | some u => exact ho u rfl

/-! #### Machine/Access.lean -/

theorem updTen_wf {s : State} (t : Nat) (f : Tenant → Tenant) (hs : s.MemWf) : (State.updTen s t f).MemWf := hs

theorem updRegion_wf {s : State} (r : Nat) (f : Region → Region) (hs : s.MemWf) : (State.updRegion s r f).MemWf := hs

theorem updMod_wf {s : State} (f : Module → Module) (hs : s.MemWf) : (State.updMod s f).MemWf := hs

theorem updBlock_wf {s : State} (c b : Nat) (f : Block → Block) (hs : s.MemWf) : (State.updBlock s c b f).MemWf := hs

theorem updTile_wf {s : State} (c b : Nat) (f : Tile → Tile) (hs : s.MemWf) : (State.updTile s c b f).MemWf := hs

theorem countErr_wf {s : State} (d : Nat) (f : ErrBlock → ErrBlock) (hs : s.MemWf) : (State.countErr s d f).MemWf := by
  grind [State.countErr, updDom_wf]

theorem updLaunch_wf {s : State} (t l : Nat) (f : Launch → Launch) (hs : s.MemWf) : (State.updLaunch s t l f).MemWf := hs

theorem updChan_wf {s : State} (c ch : Nat) (f : Chan → Chan) (hs : s.MemWf) : (State.updChan s c ch f).MemWf := hs

theorem unpoison_wf {s : State} (line : Nat) (hs : s.MemWf) : (State.unpoison s line).MemWf := by
  grind [State.MemWf, State.unpoison, updDom_wf]

/-! #### Machine/Cache.lean -/

theorem absent_wf {s : State} (h line d : Nat) (hs : s.MemWf) : (absent s h line d).MemWf := by
  grind [absent, setDir_wf]

theorem reportDrop_wf {s : State} (h line d : Nat) (hs : s.MemWf) : (reportDrop s h line d).MemWf := by
  grind [reportDrop, absent_wf]

theorem dropWindow_wf {s : State} (d n : Nat) (hs : s.MemWf) : (dropWindow s d n).MemWf := hs

/-! #### Machine/Coherence.lean -/

theorem svPut_wf {s : State} (h line : Nat) (e : SvEntry) (hs : s.MemWf) : (svPut s h line e).MemWf := hs

theorem acquireAt_wf {s : State} (c : Option Nat) (who : Who) (scope : BitVec 4) (pa : Nat) (hs : s.MemWf) :
    (acquireAt s c who scope pa).MemWf := by
  unfold acquireAt
  (repeat' split) <;> grind [State.MemWf, updCore_wf, svPut_wf, flushGuests_wf, writeBack_wf, foldl_wf, foldl_fst_wf, getD_wf]

theorem acquireAll_wf {s : State} (c t : Nat) (hs : s.MemWf) : (acquireAll s c t).MemWf := by
  grind [acquireAll, updCore_wf, flushGuests_wf]

/-! #### Machine/Books.lean -/

theorem sbReadHome_wf {s : State} (t pa : Nat) (k : SbHome) (hs : s.MemWf) : (sbReadHome s t pa k).1.MemWf := by
  grind [sbReadHome, sbRecall_wf]

theorem sbCloseHome_wf {s : State} (t pa : Nat) (k : SbHome) (hs : s.MemWf) : (sbCloseHome s t pa k).1.MemWf := by
  grind [sbCloseHome, sbRecall_wf, sbSetBooks_wf, updDom_wf, sbStore_wf]

theorem sbDeliver_wf {s : State} (r : SbReq) (res : Option Nat) (hs : s.MemWf) : (sbDeliver s r res).MemWf := by
  grind [sbDeliver, deliverSlot_wf]

theorem sbFlush_wf {s : State} (t pa : Nat) (hs : s.MemWf) : (sbFlush s t pa).MemWf := by
  grind [sbFlush, updDom_wf, sbServe_wf, foldl_wf, foldl_fst_wf]

/-! #### Machine/Stores.lean -/

theorem noteReadOf_wf {s : State} (c b g t l : Nat) (scope : BitVec 4) (pa n : Nat) (hs : s.MemWf) :
    (noteReadOf s c b g t l scope pa n).MemWf := hs

/-! #### Machine/Translate.lean -/

theorem updRing_wf {s : State} (t q : Nat) (f : Ring → Ring) (hs : s.MemWf) : (State.updRing s t q f).MemWf := hs

theorem updPfRing_wf {s : State} (q : Nat) (f : Ring → Ring) (hs : s.MemWf) : (State.updPfRing s q f).MemWf := hs

theorem msix_wf {s : State} (fn vec : Nat) (hs : s.MemWf) : (State.msix s fn vec).MemWf := hs

theorem ringPush_wf {u : State} {s : State} (t q vec : Nat) (ws : List W64) (hs : s.MemWf)
    (h : ringPush s t q vec ws = some u) :
    u.MemWf := by
  grind [ringPush, deviceStore_wf, updRing_wf, msix_wf]

theorem setEsum_wf {s : State} (t : Nat) (b : BitVec 7) (hs : s.MemWf) : (State.setEsum s t b).MemWf := hs

theorem postFault_wf {s : State} (t kind core launch : Nat) (ws : List W64) (hs : s.MemWf) :
    (postFault s t kind core launch ws).MemWf := by
  grind [postFault, ringPush_wf, setEsum_wf, updTen_wf]

theorem postWaiting_wf {s : State} (t n : Nat) (hs : s.MemWf) : (postWaiting s t n).MemWf := by
  induction n generalizing s with
  | zero => exact hs
  | succ n ih => grind [State.MemWf, postWaiting, ringPush_wf, updTen_wf]

theorem postEvent_wf {s : State} (kind core : Nat) (ws : List W64) (hs : s.MemWf) : (postEvent s kind core ws).MemWf := by
  grind [postEvent, updMod_wf, homeStore_wf, updPfRing_wf, msix_wf, foldl_wf, foldl_fst_wf]

theorem deadLetter_wf {s : State} (t : Nat) (w : List W64) (reason source org ring core : Nat) (hs : s.MemWf) :
    (deadLetter s t w reason source org ring core).MemWf := by
  grind [deadLetter, ringPush_wf, setEsum_wf, updTen_wf]

theorem accessPage_wf {s : State} (d t va : Nat) (write : Bool) (agent core launch : Nat) (hs : s.MemWf) :
    (accessPage s d t va write agent core launch).1.MemWf := by
  unfold accessPage
  grind [State.MemWf, translate_wf, updTen_wf, postWaiting_wf, updDom_wf, ringPush_wf]

/-! #### Machine/Barriers.lean -/

theorem setBar_wf {s : State} (c b : Nat) (k : Block) (g lvl n : Nat) (v : Bar) (hs : s.MemWf) :
    (setBar s c b k g lvl n v).MemWf := by
  grind [setBar, updBlock_wf, updLaunch_wf]

theorem updSharers_wf {s : State} (c b : Nat) (k : Block) (lvl : Nat) (f : Block → Block) (hs : s.MemWf) :
    (updSharers s c b k lvl f).MemWf := by
  grind [State.MemWf, updSharers, updBlock_wf]

theorem completeBar_wf {s : State} (c b : Nat) (k : Block) (g lvl n : Nat) (hs : s.MemWf) :
    (completeBar s c b k g lvl n).MemWf := by
  grind [completeBar, setBar_wf, updBlock_wf, updSharers_wf]

theorem completeGrid_wf {s : State} (t l n : Nat) (hs : s.MemWf) : (completeGrid s t l n).MemWf := by
  grind [State.MemWf, completeGrid, updLaunch_wf]

theorem tryComplete_wf {s : State} (c b g lvl n : Nat) (hs : s.MemWf) : (tryComplete s c b g lvl n).MemWf := by
  grind [tryComplete, completeBar_wf]

theorem recheckGrid_wf {s : State} (t l : Nat) (hs : s.MemWf) : (recheckGrid s t l).MemWf := by
  grind [recheckGrid, completeGrid_wf, foldl_wf, foldl_fst_wf]

theorem memberArrive_wf {s : State} (c b g lvl n member : Nat) (hs : s.MemWf) : (memberArrive s c b g lvl n member).MemWf := by
  grind [memberArrive, tryComplete_wf, setBar_wf]

theorem deriveArrivals_wf {s : State} (c b lvl n : Nat) (hs : s.MemWf) : (deriveArrivals s c b lvl n).MemWf := by
  grind [deriveArrivals, updBlock_wf, memberArrive_wf, foldl_wf, foldl_fst_wf]

theorem settleHeld_wf {s : State} (c b : Nat) (hs : s.MemWf) : (settleHeld s c b).MemWf := by
  grind [settleHeld, updCore_wf, updBlock_wf, memberArrive_wf, foldl_wf, foldl_fst_wf]

theorem heldPushed_wf {s : State} (c b g i : Nat) (words : List Nat) (hs : s.MemWf) :
    (heldPushed s c b g i words).MemWf := settleHeld_wf _ _ hs

theorem recheckBlock_wf {s : State} (c b : Nat) (hs : s.MemWf) : (recheckBlock s c b).MemWf := by
  grind [recheckBlock, tryComplete_wf, deriveArrivals_wf, foldl_wf, foldl_fst_wf]

theorem arriveLanes_wf {u : State} {z : BitVec 16} {s : State} (c b g lvl n : Nat) (lanes : Lanes) (step : Bool) (hs : s.MemWf)
    (h : arriveLanes s c b g lvl n lanes step = some (u, z)) :
    u.MemWf := by
  grind [arriveLanes, setBar_wf, tryComplete_wf, updBlock_wf, deriveArrivals_wf]

/-! #### Machine/Tree.lean -/

theorem takeSlots_wf {s : State} (t l : Nat) (hs : s.MemWf) : (takeSlots s t l).MemWf := by
  grind [State.MemWf, takeSlots]

theorem treeSync_wf {s : State} (t l : Nat) (hs : s.MemWf) : (treeSync s t l).MemWf := hs

theorem treePlace_wf {s : State} (t l c : Nat) (hs : s.MemWf) : (treePlace s t l c).MemWf := by
  grind [State.MemWf, treePlace, treeSync_wf, foldl_wf, foldl_fst_wf]

theorem treeArrive_wf {s : State} (t l n node : Nat) (hs : s.MemWf) : (treeArrive s t l n node).MemWf := by
  grind [State.MemWf, treeArrive]

theorem treeRelease_wf {s : State} (t l n : Nat) (hs : s.MemWf) : (treeRelease s t l n).MemWf := by
  grind [State.MemWf, treeRelease, treeSync_wf, completeGrid_wf]

/-! #### Machine/Levels.lean -/

theorem freeSlots_wf {s : State} (t l : Nat) (hs : s.MemWf) : (freeSlots s t l).MemWf := hs

theorem refill_wf {s : State} (t : Nat) (hs : s.MemWf) : (refill s t).MemWf := hs

theorem openNext_wf {s : State} (t p : Nat) (hs : s.MemWf) : (openNext s t p).MemWf := by
  grind [openNext, refill_wf, updTen_wf]

theorem lowerCounter_wf {s : State} (t lvl id n : Nat) (hs : s.MemWf) : (lowerCounter s t lvl id n).MemWf := by
  induction n generalizing s lvl id with
  | zero => exact hs
  | succ n ih => grind [State.MemWf, lowerCounter, freeSlots_wf, openNext_wf, updTen_wf]

theorem dropRecords_wf {s : State} (t : Nat) (hs : s.MemWf) : (dropRecords s t).MemWf := refill_wf _ hs

theorem barAcquire_wf {s : State} (c t lvl : Nat) (hs : s.MemWf) : (barAcquire s c t lvl).MemWf := by
  grind [barAcquire, acquireAll_wf, updCore_wf]

theorem releaseBarrier_wf {s : State} (c b lvl n : Nat) (hs : s.MemWf) : (releaseBarrier s c b lvl n).MemWf := by
  grind [releaseBarrier, barAcquire_wf, updGroup_wf, updTile_wf, foldl_wf, foldl_fst_wf]

theorem releaseDone_wf {s : State} (c b : Nat) (hs : s.MemWf) : (releaseDone s c b).MemWf := by
  grind [releaseDone, releaseBarrier_wf, foldl_wf, foldl_fst_wf]

theorem cancelBlocks_wf {s : State} (t l : Nat) (hs : s.MemWf) : (cancelBlocks s t l).MemWf := by
  grind [State.MemWf, cancelBlocks, updBlock_wf, releaseDone_wf, updTen_wf, freeSlots_wf, updLaunch_wf, foldl_wf, foldl_fst_wf]

theorem cancelLevel_wf {s : State} (t lvl id : Nat) (hs : s.MemWf) : (cancelLevel s t lvl id).MemWf := by
  grind [cancelLevel, updTen_wf, cancelBlocks_wf, dropRecords_wf, openNext_wf, lowerCounter_wf, foldl_wf, foldl_fst_wf]

theorem returnCredits_wf {s : State} (c b : Nat) (hs : s.MemWf) : (returnCredits s c b).MemWf := by
  grind [returnCredits, updChan_wf, foldl_wf, foldl_fst_wf]

theorem settlePreempt_wf {s : State} (t : Nat) (hs : s.MemWf) : (settlePreempt s t).MemWf := by
  grind [settlePreempt, msix_wf, updTen_wf]

theorem blockGone_wf {s : State} (k : Block) (c : Nat) (hs : s.MemWf) : (blockGone s k c).MemWf := by
  grind [blockGone, updCore_wf, settlePreempt_wf, updLaunch_wf, treeSync_wf, lowerCounter_wf, recheckGrid_wf, recheckBlock_wf,
    foldl_wf, foldl_fst_wf]

theorem killBlock_wf {s : State} (c b : Nat) (hs : s.MemWf) : (killBlock s c b).MemWf := by
  grind [State.MemWf, killBlock, returnCredits_wf, updCore_wf, blockGone_wf]

theorem failLaunch_wf {s : State} (t l code c idx : Nat) (more : List W64) (hs : s.MemWf) :
    (failLaunch s t l code c idx more).MemWf := by
  grind [failLaunch, updLaunch_wf, postFault_wf, cancelLevel_wf, setEsum_wf]

theorem killAndFail_wf {s : State} (c b code : Nat) (more : List W64) (hs : s.MemWf) : (killAndFail s c b code more).MemWf := by
  grind [killAndFail, failLaunch_wf, killBlock_wf]

theorem poisonKill_wf {s : State} (c b line : Nat) (hs : s.MemWf) : (poisonKill s c b line).MemWf := killAndFail_wf _ _ _ _ hs

theorem completeBlock_wf {s : State} (c b : Nat) (hs : s.MemWf) : (completeBlock s c b).MemWf := by
  grind [completeBlock, returnCredits_wf, drainCore_wf, updCore_wf, blockGone_wf]

/-! #### Machine/Flags.lean -/

theorem countFlags_wf {s : State} (t : Nat) (f : Flags) (hs : s.MemWf) : (countFlags s t f).MemWf := by
  grind [countFlags, updTen_wf, foldl_wf, foldl_fst_wf]

theorem raiseFlags_wf {s : State} (c b g t : Nat) (f : Flags) (hs : s.MemWf) : (raiseFlags s c b g t f).MemWf := by
  grind [raiseFlags, countFlags_wf, updGroup_wf]

theorem raiseScopeMiss_wf {s : State} (c b g t : Nat) (hs : s.MemWf) : (raiseScopeMiss s c b g t).MemWf := setEsum_wf _ _ hs

/-! #### Machine/Operands.lean -/

theorem popWords_wf {s : State} (c ch n : Nat) (hs : s.MemWf) : (popWords s c ch n).MemWf := hs

theorem fetchSrcs_wf {s : State} (h : Here) (r : Row) (x : Ext) (lanes : List Nat) (hs : s.MemWf) :
    (fetchSrcs s h r x lanes).2.MemWf := by
  grind [fetchSrcs, popWords_wf, foldl_wf, foldl_fst_wf]

/-! #### Machine/Channels.lean -/

theorem grantCredits_wf {s : State} (c ch : Nat) (hs : s.MemWf) : (grantCredits s c ch).MemWf := by
  grind [grantCredits, updChan_wf]

theorem deliverWord_wf {s : State} (src : Nat) (w : FlightWord) (hs : s.MemWf) : (deliverWord s src w).MemWf := by
  grind [deliverWord, updCore_wf, updMod_wf, countErr_wf, postFault_wf, updBlock_wf, updChan_wf]

theorem pushMesh_wf {s : State} (c ch : Nat) (ws : List W32) (hs : s.MemWf) : (pushMesh s c ch ws).MemWf := by
  grind [pushMesh, updCore_wf, foldl_wf, foldl_fst_wf]

theorem enqueueCmd_wf {s : State} (c b g t : Nat) (w : List W64) (hs : s.MemWf) : (enqueueCmd s c b g t w).MemWf := by
  grind [enqueueCmd, drainCore_wf, serveGroup_wf, updCore_wf]

theorem pushVq_wf {s : State} (c b g t ch : Nat) (ws : List W32) (hs : s.MemWf) : (pushVq s c b g t ch ws).1.MemWf := by
  grind [pushVq, updCore_wf, enqueueCmd_wf, foldl_wf, foldl_fst_wf]

theorem pushWords_wf {s : State} (c b g t ch : Nat) (ws : List W32) (hs : s.MemWf) : (pushWords s c b g t ch ws).1.MemWf := by
  grind [pushWords, pushVq_wf, updChan_wf, pushMesh_wf]

theorem reservePush_wf {s : State} (c ch n : Nat) (hs : s.MemWf) : (reservePush s c ch n).MemWf := hs

/-! #### Machine/Ops.lean -/

theorem finishIssue_wf {s : State} (h : Here) (sbit : Bool) (hs : s.MemWf) : (finishIssue s h sbit).MemWf := hs

theorem deliverTrap_wf {s : State} (c b g : Nat) (e : Entry) (t : Trap) (xpc : Pc) (hs : s.MemWf) :
    (deliverTrap s c b g e t xpc).MemWf := by
  grind [deliverTrap, updGroup_wf, killAndFail_wf]

theorem raiseTrap_wf {s : State} (h : Here) (code : Nat) (info : W64) (xpc : Pc) (hs : s.MemWf) :
    (raiseTrap s h code info xpc).MemWf := by
  grind [raiseTrap, deliverTrap_wf, updGroup_wf]

theorem freezeChannels_wf {s : State} (c b : Nat) (hs : s.MemWf) : (freezeChannels s c b).MemWf := by
  grind [freezeChannels, deliverWord_wf, updCore_wf, foldl_wf, foldl_fst_wf]

theorem deliverPreempt_wf {s : State} (c b g : Nat) (hs : s.MemWf) : (deliverPreempt s c b g).MemWf := by
  grind [deliverPreempt, updGroup_wf, freezeChannels_wf]

theorem waitAt_wf {s : State} (h : Here) (w : Wait) (hs : s.MemWf) : (waitAt s h w).MemWf := hs

theorem parkGroup_wf {s : State} (h : Here) (p : Park) (hs : s.MemWf) : (parkGroup s h p).MemWf := hs

theorem uncount_wf {s : State} (h : Here) (hs : s.MemWf) : (uncount s h).MemWf := hs

theorem settleOut_wf (h : Here) (len : Nat) (sbit : Bool) {o : Out} (ho : o.MemWf) : (settleOut h len sbit o).MemWf := by
  cases o <;> grind [State.MemWf, settleOut, Out.MemWf, finishIssue_wf, updGroup_wf, raiseTrap_wf, uncount_wf, parkGroup_wf]

theorem openIssue_wf {s : State} (h : Here) (hs : s.MemWf) : (openIssue s h).MemWf := hs

theorem tileIllop_wf {s : State} (hs : s.MemWf) : (tileIllop s).MemWf := by
  grind [tileIllop, killAndFail_wf, updBlock_wf]

theorem issueGroup_wf {s : State} (len : Nat) (sbit : Bool) {body : Here → State → Out} (hs : s.MemWf)
    (hb : ∀ h u, u.MemWf → (body h u).MemWf) :
    OutcomeWf (issueGroup s len sbit body) := by
  grind [issueGroup, OutcomeWf, settleOut_wf, openIssue_wf, tileIllop_wf]

theorem withChecks_wf (h : Here) {s : State} (r : Row) (x : Ext) (glob : Bool) (lanes : Nat) {rest : Out} (hs : s.MemWf)
    (hr : rest.MemWf) :
    (withChecks h s r x glob lanes rest).MemWf := by
  grind [withChecks, Out.MemWf]

theorem vecBody_wf (r : Row) (x : Ext) (glob : Bool) {empty : Here → State → Out} {act : Here → State → Lanes → Out} (h : Here)
    {s : State} (hs : s.MemWf) (he : ∀ h u, u.MemWf → (empty h u).MemWf) (ha : ∀ h u m, u.MemWf → (act h u m).MemWf) :
    (vecBody r x glob empty act h s).MemWf := by
  grind [vecBody, Out.MemWf, withChecks_wf]

theorem uniBody_wf (r : Row) (x : Ext) (glob : Bool) (priv : Here → Bool) {act : Here → State → Out} (h : Here) {s : State}
    (hs : s.MemWf) (ha : ∀ h u, u.MemWf → (act h u).MemWf) :
    (uniBody r x glob priv act h s).MemWf := by
  grind [uniBody, Out.MemWf, withChecks_wf]

theorem idle_wf (h : Here) {s : State} (hs : s.MemWf) : (idle h s).MemWf := hs

theorem dstUni_wf {s : State} (h : Here) (r : Row) (x : Ext) (v : W64) (hs : s.MemWf) : (dstUni s h r x v).1.MemWf := by
  grind [dstUni, reservePush_wf, pushWords_wf, updGroup_wf]

theorem dstVec_wf {s : State} (h : Here) (r : Row) (x : Ext) (vals : List (Nat × W64)) (hs : s.MemWf) :
    (dstVec s h r x vals).1.MemWf := by
  grind [dstVec, reservePush_wf, pushWords_wf, updGroup_wf, foldl_wf, foldl_fst_wf]

theorem finPush_wf {s0 : State} (x : Ext) {r : State × Bool} (hs : s0.MemWf) (hr : r.1.MemWf) : (finPush s0 x r).MemWf := by
  grind [finPush, Out.MemWf]

theorem pendUni_wf {s : State} (h : Here) (r : Row) (x : Ext) (v : W64) (f : Flags) (hs : s.MemWf) :
    (pendUni s h r x v f).MemWf := by
  grind [pendUni, reservePush_wf, updGroup_wf]

theorem pendVec_wf {s : State} (h : Here) (r : Row) (x : Ext) (vals : List (Nat × W64)) (f : Flags) (hs : s.MemWf) :
    (pendVec s h r x vals f).MemWf := by
  grind [pendVec, reservePush_wf, updGroup_wf]

theorem landWrite_wf {s : State} (c b g : Nat) (wb : WriteBack) (hs : s.MemWf) : (landWrite s c b g wb).MemWf := by
  unfold landWrite
  grind [State.MemWf, updGroup_wf, pushWords_wf, foldl_wf, foldl_fst_wf]

/-! #### Machine/MemOps.lean -/

theorem translateLanes_wf {s : State} (h : Here) (write : Bool) (ls : List (Nat × Nat)) (hs : s.MemWf) :
    (translateLanes s h write ls).1.MemWf := by
  grind [translateLanes, accessPage_wf, foldl_wf, foldl_fst_wf]

theorem checkAccess_wf {s : State} (h : Here) (sp : Space) (n align : Nat) (write chkSb : Bool) (ls : List (Nat × W64))
    (hs : s.MemWf) :
    (checkAccess s h sp n align write chkSb ls).1.MemWf := by
  unfold checkAccess
  split
  · exact hs
  · extract_lets limit bad
    split
    · exact hs
    · generalize hp : (if sp = .scratch then _ else _ : State × Checked) = p
      have hw : p.1.MemWf := by grind [translateLanes_wf]
      grind

theorem constRead_fill_wf {s : State} (c pa va n : Nat) (hint : BitVec 2) (u : Nat) (hs : s.MemWf) :
    (constRead.fill c va pa n hint s u).1.MemWf := by
  grind [constRead.fill, weakRead_wf, updCore_wf]

theorem constRead_wf {s : State} (c va pa n : Nat) (hint : BitVec 2) (hs : s.MemWf) : (constRead s c va pa n hint).1.MemWf := by
  grind [constRead, constRead_fill_wf]

theorem readPlace_wf {s : State} (c b : Nat) (sp : Space) (place pa n : Nat) (hint : BitVec 2) (hs : s.MemWf) :
    (readPlace s c b sp place pa n hint).1.MemWf := by
  unfold readPlace
  grind [State.MemWf, constRead_wf, weakRead_wf]

theorem writePlace_wf {s : State} (c b : Nat) (sp : Space) (place pa n v : Nat) (hs : s.MemWf) :
    (writePlace s c b sp place pa n v).MemWf := by
  unfold writePlace
  grind [State.MemWf, updBlock_wf, weakWrite_wf]

theorem readLanes_wf {s : State} (h : Here) (sp : Space) (n : Nat) (hint : BitVec 2) (ls : List (Nat × Nat × Nat))
    (hs : s.MemWf) :
    (readLanes s h sp n hint ls).1.MemWf := by
  grind [readLanes, readPlace_wf, foldl_wf, foldl_fst_wf]

theorem afterCheck_wf {r : State × Checked} {k : State → List (Nat × Nat × Nat) → Out} (hr : r.1.MemWf)
    (hk : ∀ u ls, u.MemWf → (k u ls).MemWf) :
    (afterCheck r k).MemWf := by
  unfold afterCheck
  grind [State.MemWf, Out.MemWf, poisonKill_wf]

theorem loadThen_wf {s : State} (h : Here) (sp : Space) (n : Nat) (hint : BitVec 2) (ls : List (Nat × W64))
    {k : State → List (Nat × Nat) → Out} (hs : s.MemWf) (hk : ∀ u vs, u.MemWf → (k u vs).MemWf) :
    (loadThen s h sp n hint ls k).MemWf := by
  grind [loadThen, Out.MemWf, afterCheck_wf, checkAccess_wf, readLanes_wf, poisonKill_wf]

theorem storeThen_wf {s : State} (h : Here) (sp : Space) (n : Nat) (ls : List (Nat × W64)) (val : Nat → W64)
    {pop : State → State} (hs : s.MemWf) (hp : ∀ u, u.MemWf → (pop u).MemWf) :
    (storeThen s h sp n ls val pop).MemWf := by
  grind [storeThen, Out.MemWf, afterCheck_wf, checkAccess_wf, poisonKill_wf, writePlace_wf, foldl_wf, foldl_fst_wf]

/-! #### Machine/Strong.lean -/

theorem clearSig_wf {s : State} (c b : Nat) (hs : s.MemWf) : (clearSig s c b).MemWf := hs

theorem beforePublish_wf {s : State} (h : Here) (rel : Bool) (hs : s.MemWf) : (beforePublish s h rel).MemWf := by
  grind [beforePublish, drainCore_wf, serveGroup_wf]

theorem publishAt_wf {s : State} (h : Here) (p : Option (BitVec 4)) (sig : BitVec 1024) (l pa n : Nat) (hs : s.MemWf) :
    (publishAt s h p sig l pa n).MemWf := by
  unfold publishAt
  grind [State.MemWf, publish_wf]

theorem afterPublish_wf {s : State} (h : Here) (published : Bool) (hs : s.MemWf) : (afterPublish s h published).MemWf := by
  grind [afterPublish, clearSig_wf]

theorem acquireLane_wf {s : State} (h : Here) (scope : BitVec 4) (l pa n : Nat) (hs : s.MemWf) :
    (acquireLane s h scope l pa n).MemWf := by
  grind [acquireLane, acquireAt_wf, raiseScopeMiss_wf]

theorem noteRead_wf {s : State} (h : Here) (scope : BitVec 4) (l pa n : Nat) (hs : s.MemWf) :
    (noteRead s h scope l pa n).MemWf := noteReadOf_wf _ _ _ _ _ _ _ _ hs

theorem fenceAcquire_wf {s : State} (h : Here) (scope : BitVec 4) (m : Lanes) (n : ReadNote) (hs : s.MemWf) :
    (fenceAcquire s h scope m n).MemWf := by
  grind [fenceAcquire, acquireAt_wf, raiseScopeMiss_wf]

theorem releaseWafer_wf {s : State} (h : Here) (pa n : Nat) (hs : s.MemWf) :
    (releaseWafer s h pa n).MemWf := beforePublish_wf h _ hs

theorem tenantBytes_wf {s : State} (t va n : Nat) (hs : s.MemWf) : (tenantBytes s t va n).1.MemWf := by
  grind [tenantBytes, loadBytes_wf]

theorem tenantWords_wf {s : State} (t va n : Nat) (hs : s.MemWf) : (tenantWords s t va n).1.MemWf := by
  grind [tenantWords, tenantBytes_wf]

/-! #### Machine/Preempt.lean -/

theorem sendBack_wf {s : State} (c b : Nat) (relaunches : Nat) (restarts : Option (KMap Restart)) (avoid : Option Nat)
    (after : List (Nat × BitVec 16)) (hs : s.MemWf) :
    (sendBack s c b relaunches restarts avoid after).MemWf := by
  grind [State.MemWf, sendBack, returnCredits_wf, updCore_wf, updLaunch_wf, updTen_wf, settlePreempt_wf, recheckGrid_wf,
    treeSync_wf]

theorem withdraw_wf {s : State} (k : Block) (keep : List (Nat × BitVec 16)) (hs : s.MemWf) : (withdraw s k keep).MemWf := hs

theorem relaunch_wf {s : State} (c b : Nat) (keep : List (Nat × BitVec 16)) (hs : s.MemWf) : (relaunch s c b keep).MemWf := by
  grind [relaunch, sendBack_wf, withdraw_wf]

theorem discardBlock_wf {s : State} (c b : Nat) (hs : s.MemWf) : (discardBlock s c b).MemWf := by
  grind [discardBlock, sendBack_wf]

theorem maybeDiscard_wf {s : State} (c b : Nat) (hs : s.MemWf) : (maybeDiscard s c b).MemWf := by
  grind [maybeDiscard, discardBlock_wf]

theorem writeContext_wf {s : State} (c t : Nat) (hs : s.MemWf) : (writeContext s c t).MemWf := by
  grind [writeContext, homeStore_wf]

theorem tryRelease_wf {s : State} (c b : Nat) (hs : s.MemWf) : (tryRelease s c b).MemWf := by
  grind [tryRelease, updCore_wf, drainCore_wf, settlePreempt_wf, writeContext_wf, foldl_wf, foldl_fst_wf]

theorem unfreeze_wf {s : State} (c b : Nat) (hs : s.MemWf) : (unfreeze s c b).MemWf := by
  grind [unfreeze, updCore_wf]

/-! #### Machine/Accept.lean -/

theorem hintBytes_wf {s : State} (t : Nat) (w : List W64) (blocks : Nat × Nat) (hs : s.MemWf) :
    (hintBytes s t w blocks).1.MemWf := by
  grind [hintBytes, tenantBytes_wf]

theorem scheduleSet_wf {s : State} (t : Nat) (w : List W64) (hs : s.MemWf) : (scheduleSet s t w).1.MemWf := by
  grind [scheduleSet, tenantWords_wf, foldl_wf, foldl_fst_wf]

theorem selectVariant_wf {s : State} (t : Nat) (sel : Nat × List Variant) (hs : s.MemWf) : (selectVariant s t sel).1.MemWf := by
  grind [selectVariant, tenantWords_wf]

theorem selectNow_wf {s : State} (t : Nat) (w : List W64) (set : Except Nat (Nat × List Variant)) (hs : s.MemWf) :
    (selectNow s t w set).1.MemWf := by
  unfold selectNow
  grind [State.MemWf, selectVariant_wf, tenantWords_wf]

theorem checkRecord_wf {s : State} (t : Nat) (w : List W64) (source ring core : Nat) (hs : s.MemWf) :
    (checkRecord s t w source ring core).1.MemWf := by
  unfold checkRecord
  extract_lets code ranged
  generalize hj : (if recJoin w = 0 || recJoin w % 128 != 0 then (s, some []) else tenantBytes s t (recJoin w) 128) = j
  have hjw : j.1.MemWf := by grind [tenantBytes_wf]
  obtain ⟨s₁, join⟩ := j
  dsimp only
  generalize he : (if recSset w = true then scheduleSet s₁ t w else (s₁, .ok (0, []))) = e
  have hew : e.1.MemWf := by grind [scheduleSet_wf]
  obtain ⟨s₂, set⟩ := e
  have hsw := selectNow_wf t w set hew
  dsimp only at hsw ⊢
  generalize selectNow s₂ t w set = p at hsw ⊢
  obtain ⟨s₃, pick⟩ := p
  dsimp only
  generalize hh : (if ranged = true then hintBytes s₃ t w (hintBlocks w set pick) else (s₃, some [])) = q
  have hqw : q.1.MemWf := by grind [hintBytes_wf]
  split <;> exact hqw

theorem enterRecord_wf {s : State} (t : Nat) (r : Record) (hs : s.MemWf) : (enterRecord s t r).MemWf := by
  grind [enterRecord, updTen_wf, lowerCounter_wf]

theorem acceptRecord_wf {s : State} (t : Nat) (w : List W64) (source ring core : Nat) (hs : s.MemWf) :
    (acceptRecord s t w source ring core).MemWf := by
  grind [acceptRecord, checkRecord_wf, deadLetter_wf, enterRecord_wf, updTen_wf]

theorem joinGate_wf {s : State} (t : Nat) (w : List W64) (hs : s.MemWf) : (joinGate s t w).1.MemWf := by
  grind [joinGate, homeAccess_wf, walk_wf]

theorem refuseRecord_wf {s : State} (t : Nat) (w : List W64) (code source ring core : Nat) (hs : s.MemWf) :
    (refuseRecord s t w code source ring core).MemWf := by
  grind [refuseRecord, checkRecord_wf, deadLetter_wf]

/-! #### Machine/Control.lean -/

theorem farTrap_wf {s : State} (f : FarFault) (hs : s.MemWf) : (farTrap s f).MemWf := by
  unfold farTrap
  grind [State.MemWf, Out.MemWf]

theorem divide_wf {s : State} (h : Here) (len : Nat) (taken : Lanes) (parts : List (Pc × BitVec 14 × Lanes)) (hs : s.MemWf) :
    (divide s h len taken parts).MemWf := hs

theorem bodyBra_wf (x : Ext) (h : Here) {s : State} (hs : s.MemWf) : (bodyBra x h s).MemWf := by
  unfold bodyBra
  grind [State.MemWf, Out.MemWf, vecBody_wf, idle_wf, divide_wf]

theorem bodyBrx_wf (x : Ext) (h : Here) {s : State} (hs : s.MemWf) : (bodyBrx x h s).MemWf := by
  unfold bodyBrx
  grind [State.MemWf, Out.MemWf, vecBody_wf, idle_wf, divide_wf]

theorem bodyCall_wf (x : Ext) (h : Here) {s : State} (hs : s.MemWf) : (bodyCall x h s).MemWf := by
  unfold bodyCall
  grind [State.MemWf, Out.MemWf, vecBody_wf, idle_wf, updGroup_wf, divide_wf, farTrap_wf, foldl_wf, foldl_fst_wf]

theorem bodyRet_wf (len : Nat) (x : Ext) (h : Here) {s : State} (hs : s.MemWf) : (bodyRet len x h s).MemWf := by
  unfold bodyRet
  grind [State.MemWf, Out.MemWf, vecBody_wf, idle_wf, divide_wf]

theorem bodyJfence_wf (x : Ext) (h : Here) {s : State} (hs : s.MemWf) : (bodyJfence x h s).MemWf := by
  unfold bodyJfence
  grind [State.MemWf, Out.MemWf, vecBody_wf, idle_wf, divide_wf, farTrap_wf]

theorem bodyCfetch_wf (x : Ext) (h : Here) {s : State} (hs : s.MemWf) : (bodyCfetch x h s).MemWf := by
  unfold bodyCfetch
  grind [State.MemWf, Out.MemWf, uniBody_wf, fetchSrcs_wf, updCore_wf]

theorem afterExit_wf {s : State} (c b : Nat) (resumed : Bool) (hs : s.MemWf) : (afterExit s c b resumed).MemWf := by
  grind [afterExit, maybeDiscard_wf, tryRelease_wf, recheckBlock_wf, unfreeze_wf]

theorem bodyExit_wf (len : Nat) (x : Ext) (h : Here) {s : State} (hs : s.MemWf) : (bodyExit len x h s).MemWf := by
  unfold bodyExit
  grind [State.MemWf, Out.MemWf, vecBody_wf, idle_wf, updGroup_wf, divide_wf, afterExit_wf]

theorem bodyYld_wf (len : Nat) (x : Ext) (h : Here) {s : State} (hs : s.MemWf) : (bodyYld len x h s).MemWf := by
  unfold bodyYld
  grind [State.MemWf, Out.MemWf, vecBody_wf, idle_wf, updGroup_wf]

theorem bodyReconv_wf (x : Ext) (h : Here) {s : State} (hs : s.MemWf) : (bodyReconv x h s).MemWf := by
  unfold bodyReconv
  grind [State.MemWf, Out.MemWf, vecBody_wf, idle_wf, fetchSrcs_wf, waitAt_wf]

theorem bodyNop_wf (x : Ext) (h : Here) {s : State} (hs : s.MemWf) : (bodyNop x h s).MemWf :=
  vecBody_wf _ _ _ h hs (fun _ _ hu => hu) fun _ _ _ hu => hu

theorem bodyCapq_wf (x : Ext) (h : Here) {s : State} (hs : s.MemWf) : (bodyCapq x h s).MemWf := by
  unfold bodyCapq
  grind [State.MemWf, Out.MemWf, uniBody_wf, fetchSrcs_wf, pendUni_wf]

theorem bodyRdsr_wf (x : Ext) (h : Here) {s : State} (hs : s.MemWf) : (bodyRdsr x h s).MemWf := by
  unfold bodyRdsr
  grind [State.MemWf, Out.MemWf, uniBody_wf, finPush_wf, dstVec_wf, dstUni_wf]

theorem bodyWrsr_wf (x : Ext) (h : Here) {s : State} (hs : s.MemWf) : (bodyWrsr x h s).MemWf := by
  unfold bodyWrsr
  grind [State.MemWf, Out.MemWf, uniBody_wf, fetchSrcs_wf, updGroup_wf]

theorem bodyTrap_wf (x : Ext) (h : Here) {s : State} (hs : s.MemWf) : (bodyTrap x h s).MemWf := by
  unfold bodyTrap
  grind [State.MemWf, Out.MemWf, uniBody_wf]

theorem bodyEret_wf (x : Ext) (h : Here) {s : State} (hs : s.MemWf) : (bodyEret x h s).MemWf := by
  unfold bodyEret
  grind [State.MemWf, Out.MemWf, uniBody_wf, updGroup_wf, unfreeze_wf]

theorem bodyPreack_wf (x : Ext) (h : Here) {s : State} (hs : s.MemWf) : (bodyPreack x h s).MemWf := by
  unfold bodyPreack
  grind [State.MemWf, Out.MemWf, uniBody_wf, updGroup_wf, finishIssue_wf, tryRelease_wf]

/-! #### Machine/Service.lean -/

theorem takeFigures_wf {s : State} (hs : s.MemWf) : (takeFigures s).MemWf := hs

theorem sorterSets_wf {s : State} (control v : Nat) {f : State → State} (hs : s.MemWf) (hf : ∀ u, u.MemWf → (f u).MemWf) :
    (sorterSets s control v f).MemWf := by
  grind [sorterSets, updMod_wf]

theorem loadRoutes_wf {s : State} (hs : s.MemWf) : (loadRoutes s).MemWf := hs

theorem publishPage_wf {s : State} (t : Nat) (hs : s.MemWf) : (publishPage s t).MemWf := by
  grind [publishPage, homeStore_wf]

theorem publishPf_wf {s : State} (hs : s.MemWf) : (publishPf s).MemWf := by
  grind [publishPf, homeStore_wf]

theorem publish1_wf {s : State} (hs : s.MemWf) : (publish1 s).MemWf := by
  grind [publish1, publishPf_wf, updMod_wf, publishPage_wf, foldl_wf, foldl_fst_wf]

theorem publishLat_wf {s : State} (t : Nat) (hs : s.MemWf) : (publishLat s t).MemWf := by
  grind [publishLat, homeStore_wf]

theorem publishAll_wf {s : State} (hs : s.MemWf) : (publishAll s).MemWf := by
  grind [publishAll, publish1_wf, homeStore_wf, publishLat_wf, foldl_wf, foldl_fst_wf]

theorem raiseTopo_wf {s : State} (hs : s.MemWf) : (raiseTopo s).MemWf := by
  grind [raiseTopo, updMod_wf, publishAll_wf, takeFigures_wf]

theorem requestRepl_wf {s : State} (i : Nat) (hs : s.MemWf) : (requestRepl s i).MemWf := by
  grind [requestRepl, updMod_wf, raiseTopo_wf, postEvent_wf]

theorem checkSpares_wf {s : State} (d : Nat) (hs : s.MemWf) : (checkSpares s d).MemWf := by
  grind [checkSpares, requestRepl_wf]

/-! #### Machine/Uniform.lean -/

theorem uniOp_wf (r : Row) (f : Ext → W64 → W64 → W64 → W64) (x : Ext) (h : Here) {s : State} (hs : s.MemWf) :
    (uniOp r f x h s).MemWf := by
  unfold uniOp
  grind [State.MemWf, Out.MemWf, uniBody_wf, fetchSrcs_wf, finPush_wf, dstUni_wf]

theorem uniInt_wf (r : Row) (f : BitVec 4 → Int → Int → Int → Int) (x : Ext) (h : Here) {s : State} (hs : s.MemWf) :
    (uniInt r f x h s).MemWf := uniOp_wf _ _ x h hs

theorem bodyUadd_wf (x : Ext) (h : Here) {s : State} (hs : s.MemWf) : (bodyUadd x h s).MemWf := uniInt_wf _ _ x h hs

theorem bodyUsub_wf (x : Ext) (h : Here) {s : State} (hs : s.MemWf) : (bodyUsub x h s).MemWf := uniInt_wf _ _ x h hs

theorem bodyUmul_wf (x : Ext) (h : Here) {s : State} (hs : s.MemWf) : (bodyUmul x h s).MemWf := uniInt_wf _ _ x h hs

theorem bodyUmulh_wf (x : Ext) (h : Here) {s : State} (hs : s.MemWf) : (bodyUmulh x h s).MemWf := uniInt_wf _ _ x h hs

theorem bodyUmad_wf (x : Ext) (h : Here) {s : State} (hs : s.MemWf) : (bodyUmad x h s).MemWf := uniInt_wf _ _ x h hs

theorem bodyUand_wf (x : Ext) (h : Here) {s : State} (hs : s.MemWf) : (bodyUand x h s).MemWf := uniOp_wf _ _ x h hs

theorem bodyUor_wf (x : Ext) (h : Here) {s : State} (hs : s.MemWf) : (bodyUor x h s).MemWf := uniOp_wf _ _ x h hs

theorem bodyUxor_wf (x : Ext) (h : Here) {s : State} (hs : s.MemWf) : (bodyUxor x h s).MemWf := uniOp_wf _ _ x h hs

theorem bodyUshl_wf (x : Ext) (h : Here) {s : State} (hs : s.MemWf) : (bodyUshl x h s).MemWf := uniOp_wf _ _ x h hs

theorem bodyUshr_wf (x : Ext) (h : Here) {s : State} (hs : s.MemWf) : (bodyUshr x h s).MemWf := uniOp_wf _ _ x h hs

theorem bodyUsra_wf (x : Ext) (h : Here) {s : State} (hs : s.MemWf) : (bodyUsra x h s).MemWf := uniOp_wf _ _ x h hs

theorem bodyUmin_wf (x : Ext) (h : Here) {s : State} (hs : s.MemWf) : (bodyUmin x h s).MemWf := uniInt_wf _ _ x h hs

theorem bodyUmax_wf (x : Ext) (h : Here) {s : State} (hs : s.MemWf) : (bodyUmax x h s).MemWf := uniInt_wf _ _ x h hs

theorem bodyUclz_wf (x : Ext) (h : Here) {s : State} (hs : s.MemWf) : (bodyUclz x h s).MemWf := uniOp_wf _ _ x h hs

theorem bodyUpopc_wf (x : Ext) (h : Here) {s : State} (hs : s.MemWf) : (bodyUpopc x h s).MemWf := uniOp_wf _ _ x h hs

theorem bodyUlea_wf (x : Ext) (h : Here) {s : State} (hs : s.MemWf) : (bodyUlea x h s).MemWf := uniOp_wf _ _ x h hs

theorem bodyUsel_wf (x : Ext) (h : Here) {s : State} (hs : s.MemWf) : (bodyUsel x h s).MemWf := uniOp_wf _ _ x h hs

theorem bodyUmov_wf (x : Ext) (h : Here) {s : State} (hs : s.MemWf) : (bodyUmov x h s).MemWf := uniOp_wf _ _ x h hs

theorem bodyUcmp_wf (x : Ext) (h : Here) {s : State} (hs : s.MemWf) : (bodyUcmp x h s).MemWf := by
  unfold bodyUcmp
  grind [State.MemWf, Out.MemWf, uniBody_wf, fetchSrcs_wf, updGroup_wf]

theorem bodyUld_wf (x : Ext) (h : Here) {s : State} (hs : s.MemWf) : (bodyUld x h s).MemWf := by
  unfold bodyUld
  grind [State.MemWf, Out.MemWf, uniBody_wf, loadThen_wf, pendUni_wf]

theorem bodyUst_wf (x : Ext) (h : Here) {s : State} (hs : s.MemWf) : (bodyUst x h s).MemWf := by
  unfold bodyUst
  grind [State.MemWf, Out.MemWf, uniBody_wf, fetchSrcs_wf, storeThen_wf]

/-! #### Machine/Vector.lean -/

theorem vecLanes_wf (r : Row) (f : Ext → Here → Srcs → Nat → W64 × Flags) (x : Ext) (h : Here) {s : State} (hs : s.MemWf) :
    (vecLanes r f x h s).MemWf := by
  unfold vecLanes
  grind [State.MemWf, Out.MemWf, vecBody_wf, idle_wf, fetchSrcs_wf, dstVec_wf, finPush_wf, raiseFlags_wf, foldl_wf,
    foldl_fst_wf]

theorem vecWord_wf (r : Row) (f : Ext → W32 → W32 → W32 → W32) (x : Ext) (h : Here) {s : State} (hs : s.MemWf) :
    (vecWord r f x h s).MemWf := vecLanes_wf _ _ x h hs

theorem vecInt_wf (r : Row) (f : Int → Int → Int → Int) (x : Ext) (h : Here) {s : State} (hs : s.MemWf) :
    (vecInt r f x h s).MemWf := vecWord_wf _ _ x h hs

theorem bodyIadd_wf (x : Ext) (h : Here) {s : State} (hs : s.MemWf) : (bodyIadd x h s).MemWf := vecInt_wf _ _ x h hs

theorem bodyIsub_wf (x : Ext) (h : Here) {s : State} (hs : s.MemWf) : (bodyIsub x h s).MemWf := vecInt_wf _ _ x h hs

theorem bodyImul_wf (x : Ext) (h : Here) {s : State} (hs : s.MemWf) : (bodyImul x h s).MemWf := vecInt_wf _ _ x h hs

theorem bodyImulh_wf (x : Ext) (h : Here) {s : State} (hs : s.MemWf) : (bodyImulh x h s).MemWf := vecInt_wf _ _ x h hs

theorem bodyImad_wf (x : Ext) (h : Here) {s : State} (hs : s.MemWf) : (bodyImad x h s).MemWf := vecInt_wf _ _ x h hs

theorem bodyImin_wf (x : Ext) (h : Here) {s : State} (hs : s.MemWf) : (bodyImin x h s).MemWf := vecInt_wf _ _ x h hs

theorem bodyImax_wf (x : Ext) (h : Here) {s : State} (hs : s.MemWf) : (bodyImax x h s).MemWf := vecInt_wf _ _ x h hs

theorem bodyIabs_wf (x : Ext) (h : Here) {s : State} (hs : s.MemWf) : (bodyIabs x h s).MemWf := vecInt_wf _ _ x h hs

theorem bodyIand_wf (x : Ext) (h : Here) {s : State} (hs : s.MemWf) : (bodyIand x h s).MemWf := vecWord_wf _ _ x h hs

theorem bodyIor_wf (x : Ext) (h : Here) {s : State} (hs : s.MemWf) : (bodyIor x h s).MemWf := vecWord_wf _ _ x h hs

theorem bodyIxor_wf (x : Ext) (h : Here) {s : State} (hs : s.MemWf) : (bodyIxor x h s).MemWf := vecWord_wf _ _ x h hs

theorem bodyIshl_wf (x : Ext) (h : Here) {s : State} (hs : s.MemWf) : (bodyIshl x h s).MemWf := vecWord_wf _ _ x h hs

theorem bodyIshr_wf (x : Ext) (h : Here) {s : State} (hs : s.MemWf) : (bodyIshr x h s).MemWf := vecWord_wf _ _ x h hs

theorem bodyIsra_wf (x : Ext) (h : Here) {s : State} (hs : s.MemWf) : (bodyIsra x h s).MemWf := vecWord_wf _ _ x h hs

theorem bodyIclz_wf (x : Ext) (h : Here) {s : State} (hs : s.MemWf) : (bodyIclz x h s).MemWf := vecWord_wf _ _ x h hs

theorem bodyIpopc_wf (x : Ext) (h : Here) {s : State} (hs : s.MemWf) : (bodyIpopc x h s).MemWf := vecWord_wf _ _ x h hs

theorem bodyIbfx_wf (x : Ext) (h : Here) {s : State} (hs : s.MemWf) : (bodyIbfx x h s).MemWf := vecWord_wf _ _ x h hs

theorem bodyIbfi_wf (x : Ext) (h : Here) {s : State} (hs : s.MemWf) : (bodyIbfi x h s).MemWf := vecWord_wf _ _ x h hs

theorem bodyIset_wf (x : Ext) (h : Here) {s : State} (hs : s.MemWf) : (bodyIset x h s).MemWf := vecLanes_wf _ _ x h hs

theorem bodyIsel_wf (x : Ext) (h : Here) {s : State} (hs : s.MemWf) : (bodyIsel x h s).MemWf := vecLanes_wf _ _ x h hs

theorem vecFp_wf (r : Row) (f : Ext → Nat → Nat → Nat → Nat × Flags) (x : Ext) (h : Here) {s : State} (hs : s.MemWf) :
    (vecFp r f x h s).MemWf := vecLanes_wf _ _ x h hs

theorem bodyFadd_wf (x : Ext) (h : Here) {s : State} (hs : s.MemWf) : (bodyFadd x h s).MemWf := vecFp_wf _ _ x h hs

theorem bodyFsub_wf (x : Ext) (h : Here) {s : State} (hs : s.MemWf) : (bodyFsub x h s).MemWf := vecFp_wf _ _ x h hs

theorem bodyFmul_wf (x : Ext) (h : Here) {s : State} (hs : s.MemWf) : (bodyFmul x h s).MemWf := vecFp_wf _ _ x h hs

theorem bodyFfma_wf (x : Ext) (h : Here) {s : State} (hs : s.MemWf) : (bodyFfma x h s).MemWf := vecFp_wf _ _ x h hs

theorem bodyFmin_wf (x : Ext) (h : Here) {s : State} (hs : s.MemWf) : (bodyFmin x h s).MemWf := vecFp_wf _ _ x h hs

theorem bodyFmax_wf (x : Ext) (h : Here) {s : State} (hs : s.MemWf) : (bodyFmax x h s).MemWf := vecFp_wf _ _ x h hs

theorem bodyFset_wf (x : Ext) (h : Here) {s : State} (hs : s.MemWf) : (bodyFset x h s).MemWf := vecLanes_wf _ _ x h hs

theorem bodyFclass_wf (x : Ext) (h : Here) {s : State} (hs : s.MemWf) : (bodyFclass x h s).MemWf := vecLanes_wf _ _ x h hs

theorem vecHalf_wf (r : Row) (f : Ext → Nat → Nat → Nat → Nat × Flags) (x : Ext) (h : Here) {s : State} (hs : s.MemWf) :
    (vecHalf r f x h s).MemWf := vecFp_wf _ _ x h hs

theorem bodyHadd2_wf (x : Ext) (h : Here) {s : State} (hs : s.MemWf) : (bodyHadd2 x h s).MemWf := vecHalf_wf _ _ x h hs

theorem bodyHmul2_wf (x : Ext) (h : Here) {s : State} (hs : s.MemWf) : (bodyHmul2 x h s).MemWf := vecHalf_wf _ _ x h hs

theorem bodyHfma2_wf (x : Ext) (h : Here) {s : State} (hs : s.MemWf) : (bodyHfma2 x h s).MemWf := vecHalf_wf _ _ x h hs

theorem bodyHmin2_wf (x : Ext) (h : Here) {s : State} (hs : s.MemWf) : (bodyHmin2 x h s).MemWf := vecHalf_wf _ _ x h hs

theorem bodyHmax2_wf (x : Ext) (h : Here) {s : State} (hs : s.MemWf) : (bodyHmax2 x h s).MemWf := vecHalf_wf _ _ x h hs

theorem bodyCvt_wf (x : Ext) (h : Here) {s : State} (hs : s.MemWf) : (bodyCvt x h s).MemWf := vecLanes_wf _ _ x h hs

theorem bodyPack4_wf (x : Ext) (h : Here) {s : State} (hs : s.MemWf) : (bodyPack4 x h s).MemWf := vecLanes_wf _ _ x h hs

theorem bodyUnpk4_wf (x : Ext) (h : Here) {s : State} (hs : s.MemWf) : (bodyUnpk4 x h s).MemWf := vecLanes_wf _ _ x h hs

theorem bodyPlop_wf (x : Ext) (h : Here) {s : State} (hs : s.MemWf) : (bodyPlop x h s).MemWf := by
  grind [bodyPlop, Out.MemWf, updGroup_wf, vecLanes_wf]

theorem bodyMov_wf (x : Ext) (h : Here) {s : State} (hs : s.MemWf) : (bodyMov x h s).MemWf := vecLanes_wf _ _ x h hs

theorem bodyS2v_wf (x : Ext) (h : Here) {s : State} (hs : s.MemWf) : (bodyS2v x h s).MemWf := vecLanes_wf _ _ x h hs

/-! #### Machine/Memory.lean -/

theorem loadBody_wf (r : Row) (glob : Bool) (sp : Space) (x : Ext) (h : Here) {s : State} (hs : s.MemWf) :
    (loadBody r glob sp x h s).MemWf := by
  unfold loadBody
  grind [State.MemWf, Out.MemWf, vecBody_wf, idle_wf, loadThen_wf, pendVec_wf]

theorem storeBody_wf (r : Row) (glob : Bool) (sp : Space) (x : Ext) (h : Here) {s : State} (hs : s.MemWf) :
    (storeBody r glob sp x h s).MemWf := by
  unfold storeBody
  grind [State.MemWf, Out.MemWf, vecBody_wf, idle_wf, storeThen_wf, fetchSrcs_wf]

theorem prefetchLane_wf {s : State} (h : Here) (x : Ext) (l : Nat) (hs : s.MemWf) : (prefetchLane s h x l).MemWf := by
  grind [prefetchLane, translate_wf, weakRead_wf]

theorem bodyLdg_wf (x : Ext) (h : Here) {s : State} (hs : s.MemWf) : (bodyLdg x h s).MemWf := loadBody_wf _ _ _ x h hs

theorem bodyStg_wf (x : Ext) (h : Here) {s : State} (hs : s.MemWf) : (bodyStg x h s).MemWf := storeBody_wf _ _ _ x h hs

theorem bodyLds_wf (x : Ext) (h : Here) {s : State} (hs : s.MemWf) : (bodyLds x h s).MemWf := loadBody_wf _ _ _ x h hs

theorem bodySts_wf (x : Ext) (h : Here) {s : State} (hs : s.MemWf) : (bodySts x h s).MemWf := storeBody_wf _ _ _ x h hs

theorem bodyLdl_wf (x : Ext) (h : Here) {s : State} (hs : s.MemWf) : (bodyLdl x h s).MemWf := loadBody_wf _ _ _ x h hs

theorem bodyStl_wf (x : Ext) (h : Here) {s : State} (hs : s.MemWf) : (bodyStl x h s).MemWf := storeBody_wf _ _ _ x h hs

theorem bodyLdc_wf (x : Ext) (h : Here) {s : State} (hs : s.MemWf) : (bodyLdc x h s).MemWf := loadBody_wf _ _ _ x h hs

theorem bodyPfch_wf (x : Ext) (h : Here) {s : State} (hs : s.MemWf) : (bodyPfch x h s).MemWf := by
  unfold bodyPfch
  grind [State.MemWf, Out.MemWf, vecBody_wf, idle_wf, prefetchLane_wf, foldl_wf, foldl_fst_wf]

/-! #### Machine/Atomic.lean -/

theorem strongLane_wf (h : Here) (acq rel reads : Bool) (scope : BitVec 4) (n : Nat) (step : Nat → Nat → Option Nat)
    {s : State} (l pa : Nat) (hs : s.MemWf) :
    (strongLane h acq rel reads scope n step s l pa).1.MemWf := by
  grind [strongLane, strongPrep_wf, noteRead_wf, acquireLane_wf, updBlock_wf, strongWrite_wf, publishAt_wf]

theorem strongLanes_wf {s : State} (h : Here) (acq rel reads : Bool) (scope : BitVec 4) (n : Nat) (ls : List (Nat × Nat × Nat))
    (step : Nat → Nat → Option Nat) (hs : s.MemWf) :
    (strongLanes s h acq rel reads scope n ls step).1.MemWf := by
  grind [strongLanes, beforePublish_wf, strongLane_wf, afterPublish_wf, foldl_wf, foldl_fst_wf]

theorem addBoard_wf {s : State} (h : Here) (r : Row) (x : Ext) (vals : List (Nat × W64)) (left : Nat)
    (fault : Option (Nat × W64)) (hs : s.MemWf) :
    (addBoard s h r x vals left fault).MemWf := hs

theorem strongChecks_wf {s : State} (h : Here) (x : Ext) (ls : List Nat) (reads writes : Bool)
    {k : State → List (Nat × Nat × Nat) → Out} (hs : s.MemWf) (hk : ∀ u ls, u.MemWf → (k u ls).MemWf) :
    (strongChecks s h x ls reads writes k).MemWf := by
  grind [strongChecks, Out.MemWf, afterCheck_wf, checkAccess_wf, poisonKill_wf]

theorem sendStrong_wf {s : State} (h : Here) (rel : Bool) (scope : BitVec 4) (n : Nat) (o : StrongOp) (ret : Option Nat)
    (oks : List (Nat × Nat × Nat)) (hs : s.MemWf) :
    (sendStrong s h rel scope n o ret oks).MemWf := by
  grind [sendStrong, serveGroup_wf, updCore_wf, clearSig_wf, updBlock_wf, foldl_wf, foldl_fst_wf]

theorem returnStrong_wf (r : Row) (x : Ext) (h : Here) {s : State} (o : StrongOp) (oks : List (Nat × Nat × Nat))
    (hs : s.MemWf) :
    (returnStrong r x h s o oks).MemWf := by
  grind [returnStrong, strongLanes_wf, addBoard_wf, sendStrong_wf, foldl_wf, foldl_fst_wf]

theorem returnBody_wf (r : Row) (o : Ext → Srcs → StrongOp) (x : Ext) (h : Here) {s : State} (hs : s.MemWf) :
    (returnBody r o x h s).MemWf := by
  unfold returnBody
  grind [State.MemWf, Out.MemWf, vecBody_wf, idle_wf, fetchSrcs_wf, strongChecks_wf, returnStrong_wf]

theorem bodyAtom_wf (x : Ext) (h : Here) {s : State} (hs : s.MemWf) : (bodyAtom x h s).MemWf := returnBody_wf _ _ x h hs

theorem bodyAtomc_wf (x : Ext) (h : Here) {s : State} (hs : s.MemWf) : (bodyAtomc x h s).MemWf := returnBody_wf _ _ x h hs

theorem bodyRed_wf (x : Ext) (h : Here) {s : State} (hs : s.MemWf) : (bodyRed x h s).MemWf := by
  unfold bodyRed
  grind [State.MemWf, Out.MemWf, vecBody_wf, idle_wf, fetchSrcs_wf, strongChecks_wf, sendStrong_wf]

theorem bodyAtoms_wf (x : Ext) (h : Here) {s : State} (hs : s.MemWf) : (bodyAtoms x h s).MemWf := by
  unfold bodyAtoms
  grind [State.MemWf, Out.MemWf, vecBody_wf, idle_wf, fetchSrcs_wf, afterCheck_wf, checkAccess_wf, updBlock_wf, addBoard_wf,
    foldl_wf, foldl_fst_wf]

theorem bodyLda_wf (x : Ext) (h : Here) {s : State} (hs : s.MemWf) : (bodyLda x h s).MemWf := by
  unfold bodyLda
  grind [State.MemWf, Out.MemWf, vecBody_wf, idle_wf, strongChecks_wf, strongLanes_wf, pendVec_wf]

theorem bodyStrl_wf (x : Ext) (h : Here) {s : State} (hs : s.MemWf) : (bodyStrl x h s).MemWf := by
  unfold bodyStrl
  grind [State.MemWf, Out.MemWf, vecBody_wf, idle_wf, fetchSrcs_wf, strongChecks_wf, sendStrong_wf]

theorem fenceRelease_wf {s : State} (h : Here) (scope : BitVec 4) (m : Lanes) (hs : s.MemWf) :
    (fenceRelease s h scope m).MemWf := hs

theorem fenceAcquires_wf {s : State} (h : Here) (scope : BitVec 4) (m : Lanes) (hs : s.MemWf) :
    (fenceAcquires s h scope m).MemWf := by
  grind [fenceAcquires, fenceAcquire_wf, updGroup_wf, foldl_wf, foldl_fst_wf]

theorem bodyFence_wf (x : Ext) (h : Here) {s : State} (hs : s.MemWf) : (bodyFence x h s).MemWf := by
  unfold bodyFence
  grind [State.MemWf, Out.MemWf, vecBody_wf, idle_wf, beforePublish_wf, fenceRelease_wf, fenceAcquires_wf]

/-! #### Machine/Engine.lean -/

theorem acceptXfer_wf {s : State} (c b t g : Nat) (w : List W64) (chain : Option (Nat × Nat)) (hs : s.MemWf) :
    (acceptXfer s c b t g w chain).MemWf := hs

theorem updOp_wf {s : State} (c id : Nat) (f : Op → Op) (hs : s.MemWf) : (updOp s c id f).MemWf := hs

theorem engXlat_wf {s : State} (c t l agent n : Nat) (ls : List (Nat × Bool)) (hs : s.MemWf) :
    (engXlat s c t l agent n ls).1.MemWf := by
  grind [engXlat, accessPage_wf, foldl_wf, foldl_fst_wf]

theorem engRead_wf {s : State} (t d pa n : Nat) (hs : s.MemWf) : (engRead s t d pa n).1.MemWf := by
  grind [engRead, l2Read_wf]

theorem engWrite_wf {s : State} (c id t d pa n v : Nat) (hs : s.MemWf) : (engWrite s c id t d pa n v).MemWf := by
  grind [engWrite, updOp_wf, l2Write_wf]

theorem elemRead_wf {s : State} (c b t : Nat) (spad : Bool) (a n : Nat) (hs : s.MemWf) :
    (elemRead s c b t spad a n).1.MemWf := by
  grind [elemRead, engRead_wf]

theorem readElems_wf {s : State} (c b t : Nat) (spad : Bool) (n : Nat) (es : List Elem) (hs : s.MemWf) :
    (readElems s c b t spad n es).1.MemWf := by
  grind [readElems, elemRead_wf, foldl_wf, foldl_fst_wf]

theorem keepOld_wf {s : State} (c : Nat) (op : Op) (va dst n : Nat) (hs : s.MemWf) : (keepOld s c op va dst n).MemWf := by
  grind [keepOld, elemRead_wf, updOp_wf, foldl_wf, foldl_fst_wf]

theorem putElem_wf {s : State} (c : Nat) (op : Op) (dst v : Nat) (hs : s.MemWf) : (putElem s c op dst v).MemWf := by
  grind [putElem, updBlock_wf, homeAccess_wf, strongWrite_wf, updOp_wf, engWrite_wf]

theorem engFault_wf {s : State} (c : Nat) (op : Op) (moved : Bool) (r : EngXlat) (hs : s.MemWf) :
    (engFault s c op moved r).MemWf := by
  unfold engFault
  grind [State.MemWf, updOp_wf, killAndFail_wf, poisonKill_wf]

theorem fetchPayload_wf {s : State} (c : Nat) (op : Op) (hs : s.MemWf) : (fetchPayload s c op).MemWf := by
  grind [fetchPayload, Payload.MemWf, engXlat_wf, readElems_wf, poisonKill_wf, engFault_wf]

theorem startOp_wf {s : State} (c : Nat) (op : Op) (hs : s.MemWf) : (startOp s c op).MemWf := updOp_wf _ _ _ hs

theorem startedOp_wf {u : State} {z : Op} {s : State} (c id kind : Nat) (hs : s.MemWf)
    (h : startedOp s c id kind = some (u, z)) :
    u.MemWf := by
  grind [startedOp, startOp_wf]

theorem moveElem_wf {s : State} (c id : Nat) (i : Nat) (e : Int × Int) (hs : s.MemWf) : (moveElem s c id i e).1.MemWf := by
  grind [moveElem, engXlat_wf, elemRead_wf, putElem_wf, keepOld_wf, updOp_wf, poisonKill_wf, engFault_wf]

theorem movePayload_wf {s : State} (c id kind : Nat) (hs : s.MemWf) : (movePayload s c id kind).MemWf := by
  grind [State.MemWf, movePayload, startedOp_wf, moveElem_wf, updOp_wf]

theorem deliverRank_wf {s : State} (c : Nat) (op : Op) (rank : Nat) (es : List Elem) (vs : List Nat) (hs : s.MemWf) :
    (deliverRank s c op rank es vs).1.MemWf := by
  grind [deliverRank, updBlock_wf, foldl_wf, foldl_fst_wf]

theorem postmark_wf {s : State} (c : Nat) (op : Op) (pm : Nat) (scope : BitVec 4) (v : W64) (agent : Nat) (hs : s.MemWf) :
    (postmark s c op pm scope v agent).1.MemWf := by
  grind [postmark, engXlat_wf, homeAccess_wf, strongWrite_wf, publish_wf, engFault_wf]

theorem leaveOp_wf {s : State} (c : Nat) (op : Op) (hs : s.MemWf) : (leaveOp s c op).MemWf := settleHeld_wf _ _ hs

theorem addReceipt_wf {s : State} (c b j : Nat) (hs : s.MemWf) : (addReceipt s c b j).MemWf := by
  grind [addReceipt, setEsum_wf, updBlock_wf]

/-! #### Machine/Tile.lean -/

theorem pageLines_wf {s : State} (c t l : Nat) (ls : List (Nat × Nat × Bool)) (hs : s.MemWf) :
    (pageLines s c t l ls).1.MemWf := by
  grind [pageLines, accessPage_wf, foldl_wf, foldl_fst_wf]

theorem fillLines_wf {s : State} (t d : Nat) (pas : KMap Nat) (hs : s.MemWf) : (fillLines s t d pas).1.MemWf := by
  grind [fillLines, l2Read_wf, foldl_wf, foldl_fst_wf]

theorem attach_wf {s : State} (t d : Nat) (ty : BitVec 4) (line : Nat) (hs : s.MemWf) : (attach s t d ty line).1.MemWf := by
  grind [attach, attachLine_wf]

theorem pinLine_wf {s : State} (d line : Nat) (hs : s.MemWf) : (pinLine s d line).MemWf := hs

theorem attachTypes_wf {s : State} (t d line : Nat) (tys : List (BitVec 4)) (hs : s.MemWf) :
    (attachTypes s t d line tys).1.MemWf := by
  grind [attachTypes, attach_wf, foldl_wf, foldl_fst_wf]

theorem fetchLines_wf {s : State} (t d : Nat) (tys : Nat → List (BitVec 4)) (pas : KMap Nat) (hs : s.MemWf) :
    (fetchLines s t d tys pas).1.MemWf := by
  grind [fetchLines, l2Read_wf, pinLine_wf, attachTypes_wf, updDom_wf, foldl_wf, foldl_fst_wf]

theorem fetchStop_wf {s : State} (a0 : FetchStop) (hs : s.MemWf) : (fetchStop s a0).MemWf := by
  unfold fetchStop
  grind [State.MemWf, TRes.MemWf]

theorem storeTile_wf {s : State} (c b t : Nat) (acc : List W32) (d : Desc) (pas : KMap Nat) (hs : s.MemWf) :
    (storeTile s c b t acc d pas).MemWf := by
  grind [storeTile, updBlock_wf, l2Write_wf, foldl_wf, foldl_fst_wf]

theorem actOp_wf {s : State} (c b : Nat) (k : Block) (d : KMap Desc) (pas : KMap Nat) (o : TileOp) (hs : s.MemWf) :
    (actOp s c b k d pas o).MemWf := by
  grind [actOp, TRes.MemWf, fetchLines_wf, fetchStop_wf, countFlags_wf, updTile_wf, storeTile_wf]

theorem actOps_wf (c b : Nat) (k : Block) (pas : KMap Nat) (ops : List (KMap Desc × TileOp)) {r : TRes} (hr : r.MemWf) :
    (ops.foldl (fun r (d, o) => match r with
      | .done s => actOp s c b k d pas o
      | r => r) r).MemWf := by
  refine foldl_keeps TRes.MemWf _ (fun r o hr => ?_) ops r hr
  cases r with
  | done s => exact actOp_wf c b k o.1 pas o.2 hr
  | _ => exact hr

theorem runEntry_wf {s : State} (c b : Nat) (k : Block) (t : Tile) (e : WinEntry) (hs : s.MemWf) :
    (runEntry s c b k t e).MemWf := by
  unfold runEntry
  split
  · exact hs
  · extract_lets ops lines
    have hw := pageLines_wf c k.tenant k.launch lines hs
    split
    case h_1 hp => rwa [hp] at hw
    case h_2 hp => rwa [hp] at hw
    case h_3 hp => rwa [hp] at hw
    case h_4 u pas hp =>
      rw [hp] at hw
      split
      · exact hw
      · have ho := actOps_wf c b k pas ops (r := .done u) hw
        dsimp only
        generalize ops.foldl _ _ = out at ho ⊢
        cases out with
        | done v => exact updTile_wf c b _ ho
        | _ => exact ho

/-! #### Machine/Rewrite.lean -/

theorem issueOldest_wf {s : State} (c b : Nat) (hs : s.MemWf) : (issueOldest s c b).MemWf := by
  unfold issueOldest
  (repeat' split) <;> grind [State.MemWf, Issued.MemWf, TRes.MemWf, runEntry_wf, updTile_wf, killAndFail_wf]

theorem issueDown_wf {s : State} (c b : Nat) (tooMany : Tile → Bool) (n : Nat) (hs : s.MemWf) :
    (issueDown s c b tooMany n).MemWf := by
  induction n generalizing s with
  | zero => exact hs
  | succ n ih => grind [State.MemWf, issueDown, Issued.MemWf, issueOldest_wf]

theorem endTile_wf {s : State} (c b : Nat) (hs : s.MemWf) : (endTile s c b).MemWf := by
  grind [endTile, recheckBlock_wf, updTile_wf, tryRelease_wf]

theorem flushWindow_wf {s : State} (c b : Nat) (hs : s.MemWf) : (flushWindow s c b).MemWf := by
  grind [flushWindow, Issued.MemWf, issueDown_wf, endTile_wf, updTile_wf]

/-! #### Machine/TileStream.lean -/

theorem settleTile_wf (c b len : Nat) (pc : Pc) {r : TRes} (hr : r.MemWf) : (settleTile c b len pc r).MemWf := by
  cases r <;> grind [State.MemWf, settleTile, TRes.MemWf, updTile_wf, killAndFail_wf]

theorem afterFlush_wf {s : State} (c b : Nat) {act : State → TRes} (hs : s.MemWf) (ha : ∀ u, u.MemWf → (act u).MemWf) :
    (afterFlush s c b act).MemWf := by
  grind [afterFlush, TRes.MemWf, Issued.MemWf, flushWindow_wf]

theorem issueTile_wf (len : Nat) (x : Ext) {act : State → Nat → Nat → Block → Tile → TRes} {s : State} (hs : s.MemWf)
    (ha : ∀ u c b k t, u.MemWf → (act u c b k t).MemWf) : OutcomeWf (issueTile len x act s) := by
  have hgo : ∀ (u : State) (c b : Nat), u.MemWf → (match u.block c b with
      | some k => match k.tile with
        | some t => act u c b k t
        | none => .went u
      | none => .went u : TRes).MemWf := by
    intro u c b hu
    split
    · split
      · exact ha _ _ _ _ _ hu
      · exact hu
    · exact hu
  unfold issueTile
  split
  · rintro _ ⟨⟩
    refine settleTile_wf _ _ len _ ?_
    split
    · exact afterFlush_wf _ _ hs fun u hu => hgo u _ _ hu
    · exact hgo s _ _ hs
  · exact issueGroup_wf len false hs fun _ _ hu => hu

theorem bodyTset_wf (x : Ext) {s : State} (c b : Nat) (k : Block) (t : Tile) (hs : s.MemWf) : (bodyTset x s c b k t).MemWf := hs

theorem bodyTloop_wf (x : Ext) {s : State} (c b : Nat) (k : Block) (t : Tile) (hs : s.MemWf) :
    (bodyTloop x s c b k t).MemWf := by
  grind [bodyTloop, TRes.MemWf, updTile_wf, afterFlush_wf]

theorem bodyRwperm_wf (x : Ext) {s : State} (c b : Nat) (k : Block) (t : Tile) (hs : s.MemWf) :
    (bodyRwperm x s c b k t).MemWf := hs

theorem bodyTnop_wf (x : Ext) {s : State} (c b : Nat) (k : Block) (t : Tile) (hs : s.MemWf) : (bodyTnop x s c b k t).MemWf := hs

theorem bodyWindow_wf (xop : BitVec 10) (x : Ext) {s : State} (c b : Nat) (k : Block) (t : Tile) (hs : s.MemWf) :
    (bodyWindow xop x s c b k t).MemWf := by
  grind [bodyWindow, TRes.MemWf, Issued.MemWf, updTile_wf, issueOldest_wf, afterFlush_wf, issueDown_wf]

theorem bodyTbar_wf (x : Ext) {s : State} (c b : Nat) (k : Block) (t : Tile) (hs : s.MemWf) : (bodyTbar x s c b k t).MemWf := by
  grind [bodyTbar, TRes.MemWf, afterFlush_wf, memberArrive_wf, updTile_wf]

theorem bodyTfence_wf (x : Ext) {s : State} (c b : Nat) (k : Block) (t : Tile) (hs : s.MemWf) :
    (bodyTfence x s c b k t).MemWf := by
  grind [bodyTfence, TRes.MemWf, afterFlush_wf]

theorem bodyTend_wf (x : Ext) {s : State} (c b : Nat) (k : Block) (t : Tile) (hs : s.MemWf) : (bodyTend x s c b k t).MemWf := by
  grind [bodyTend, TRes.MemWf, afterFlush_wf, endTile_wf]

theorem bodyTexit_wf (x : Ext) {s : State} (c b : Nat) (k : Block) (t : Tile) (hs : s.MemWf) :
    (bodyTexit x s c b k t).MemWf := endTile_wf _ _ hs

theorem writeImage_wf {s : State} {c b : Nat} {k : Block} {x : Tile} {a : Nat} {r : TRes} (hs : s.MemWf)
    (h : writeImage s c b k x a = r) : r.MemWf := by
  unfold writeImage at h
  grind [State.MemWf, TRes.MemWf, pageLines_wf, l2Write_wf, updBlock_wf, foldl_fst_wf]

theorem readImage_wf {s : State} {c : Nat} {k : Block} {g a : Nat} {r : TRes} {o} (hs : s.MemWf)
    (h : readImage s c k g a = (r, o)) : r.MemWf := by
  unfold readImage at h
  grind [TRes.MemWf, pageLines_wf, fillLines_wf]

theorem bodyTsave_wf (x : Ext) {s : State} (c b : Nat) (k : Block) (t : Tile) (hs : s.MemWf) :
    (bodyTsave x s c b k t).MemWf := by
  refine afterFlush_wf c b hs fun u hu => ?_
  split
  · split
    · exact hu
    · grind [writeImage_wf]
  · exact hu

theorem saveStream_wf {s : State} (c b : Nat) (hs : s.MemWf) : (saveStream s c b).MemWf := by
  unfold saveStream
  split
  case h_1 k _ =>
    split
    case h_1 t _ =>
      split
      · exact hs
      · refine tryRelease_wf c b (settleTile_wf c b 0 t.pc ?_)
        split
        · exact hs
        · generalize hw : writeImage s c b k t (zget t.x 31).toNat = r
          have hr := writeImage_wf hs hw
          split
          · exact updTile_wf c b _ hr
          · exact hr
    case h_2 => exact hs
  case h_2 => exact hs

theorem restoreStream_wf {s : State} (c b : Nat) (hs : s.MemWf) : (restoreStream s c b).MemWf := by
  unfold restoreStream
  split
  case h_1 k _ =>
    split
    case h_1 t _ =>
      refine settleTile_wf c b 0 t.pc ?_
      split
      case h_1 hr => exact updTile_wf c b _ (readImage_wf hs hr)
      case h_2 hr => exact readImage_wf hs hr
    case h_2 => exact hs
  case h_2 => exact hs

theorem bodyTrstr_wf (x : Ext) {s : State} (c b : Nat) (k : Block) (t : Tile) (hs : s.MemWf) :
    (bodyTrstr x s c b k t).MemWf := by
  refine afterFlush_wf c b hs fun u hu => ?_
  split
  case h_1 k _ =>
    split
    · exact hu
    · split
      case h_1 hr => exact updTile_wf c b _ (readImage_wf hu hr)
      case h_2 hr => exact readImage_wf hu hr
  case h_2 => exact hu

theorem readyConsts_wf {s : State} (c b : Nat) (k : Block) (hs : s.MemWf) : (readyConsts s c b k).MemWf := by
  refine settleTile_wf c b 0 _ ?_
  generalize hp : pageLines _ _ _ _ _ = p
  have hw : p.1.MemWf := hp ▸ pageLines_wf _ _ _ _ hs
  split
  · exact hw
  · exact hw
  · exact hw
  · generalize hf : fillLines _ _ _ _ = q
    have hq : q.1.MemWf := hf ▸ fillLines_wf _ _ _ hw
    split
    · exact hq
    · exact updTile_wf c b _ hq

/-! #### Machine/Turns.lean -/

theorem endGroup_wf {s : State} (c b g : Nat) (hs : s.MemWf) : (endGroup s c b g).MemWf := by
  grind [endGroup, updGroup_wf, maybeDiscard_wf, tryRelease_wf, recheckBlock_wf]

theorem atSwitchPoint_wf {u : State} {s : State} (c b g : Nat) (hs : s.MemWf)
    (h : atSwitchPoint s c b g = some u) : u.MemWf := by
  grind [atSwitchPoint, endGroup_wf, deliverPreempt_wf]

theorem deliverDue_wf {s u : State} {c b g : Nat} (hs : s.MemWf) (h : deliverDue s c b g = some u) : u.MemWf := by
  simp only [deliverDue, Option.bind_eq_some_iff, Option.map_eq_some_iff] at h
  obtain ⟨x, -, e, -, rfl⟩ := h
  grind [State.MemWf, deliverTrap_wf, updGroup_wf]

theorem readyGroup_wf {s : State} (c b g : Nat) (hs : s.MemWf) : (readyGroup s c b g).1.MemWf := by
  unfold readyGroup
  (repeat' split) <;> grind [State.MemWf, updGroup_wf, deliverDue_wf, atSwitchPoint_wf, getD_wf]

theorem streamIllop_wf {s : State} (hs : s.MemWf) : (streamIllop s).MemWf := by
  grind [streamIllop, raiseTrap_wf, tileIllop_wf]

theorem streamMissing_wf {s : State} (hs : s.MemWf) : (streamMissing s).MemWf := by
  grind [streamMissing, raiseTrap_wf, tileIllop_wf]

theorem readyTile_wf {s : State} (c b : Nat) (hs : s.MemWf) : (readyTile s c b).1.MemWf := by
  grind [readyTile, TRes.MemWf, restoreStream_wf, saveStream_wf, updTile_wf, readyConsts_wf, settleTile_wf, afterFlush_wf]

theorem readyAgent_wf {s : State} (hs : s.MemWf) : (readyAgent s).1.MemWf := by
  grind [readyAgent, readyGroup_wf, readyTile_wf]

/-! #### Machine/Placement.lean -/

theorem takeUnit_wf {s : State} (t : Nat) (u : Unit1) (hs : s.MemWf) : (takeUnit s t u).MemWf := updTen_wf _ _ hs

theorem adjustFigures_wf {s : State} (t d n : Nat) (hs : s.MemWf) : (adjustFigures s t d n).MemWf := by
  induction n generalizing s with
  | zero => exact hs
  | succ n ih => grind [State.MemWf, adjustFigures, updMod_wf]

theorem sendUnit_wf {s : State} (t : Nat) (u : Unit1) (d : Nat) (hs : s.MemWf) :
    (sendUnit s t u d).MemWf := adjustFigures_wf _ _ _ hs

theorem prepareStarts_wf {s : State} (t l : Nat) (hs : s.MemWf) : (prepareStarts s t l).MemWf := by
  grind [prepareStarts, updLaunch_wf]

theorem treeReady_wf {u : State} {s : State} (t l image : Nat) (hs : s.MemWf)
    (h : treeReady s t l image = some u) : u.MemWf := by
  grind [treeReady, takeSlots_wf]

theorem nextDispatch_wf {s u : State} {z : Unit1} (t : Nat) (hs : s.MemWf) (h : nextDispatch s t = some (u, z)) : u.MemWf := by
  unfold nextDispatch at h
  split at h
  · cases h
  · obtain ⟨_, -, hu⟩ := Option.map_eq_some_iff.mp h
    cases hu
    exact prepareStarts_wf t _ hs

theorem countServed_wf {s : State} (t : Nat) (hs : s.MemWf) : (countServed s t).MemWf := hs

theorem dispatchUnit_wf {s : State} (t : Nat) (hs : s.MemWf) : (dispatchUnit s t).MemWf := by
  unfold dispatchUnit
  (repeat' split) <;> grind [State.MemWf, nextDispatch_wf, takeUnit_wf, countServed_wf, sendUnit_wf, treeReady_wf,
    updLaunch_wf, getD_wf]

theorem expirePatience_wf {s : State} (t l : Nat) (hs : s.MemWf) : (expirePatience s t l).MemWf := by
  grind [expirePatience, dispatchUnit_wf]

theorem promoteRecords_wf {s : State} (t : Nat) (hs : s.MemWf) : (promoteRecords s t).MemWf := by
  grind [promoteRecords, refill_wf, updTen_wf, foldl_wf, foldl_fst_wf]

theorem enterGate_wf {s : State} (t ring : Nat) (w : List W64) (a0 : Gate) (hs : s.MemWf) :
    (enterGate s t ring w a0).MemWf := by
  unfold enterGate
  grind [State.MemWf, acceptRecord_wf, refuseRecord_wf, homeStore_wf]

theorem takeLaunchRecord_wf {s : State} (t ring : Nat) (hs : s.MemWf) : (takeLaunchRecord s t ring).MemWf := by
  grind [takeLaunchRecord, tenantWords_wf, joinGate_wf, updRing_wf, enterGate_wf]

theorem admitStart_wf (t l : Nat) {acc : State × Option Nat × Bool} (r : Nat) (ha : acc.1.MemWf) :
    (admitStart t l acc r).1.MemWf := by
  grind [admitStart, updLaunch_wf]

theorem admitRegions_wf {s : State} (hs : s.MemWf) : (admitRegions s).MemWf := by
  grind [admitRegions, admitStart_wf, updMod_wf, foldl_wf, foldl_fst_wf]

theorem selectSchedule_wf {s : State} (t l : Nat) (hs : s.MemWf) : (selectSchedule s t l).MemWf := by
  grind [selectSchedule, updTen_wf, refill_wf, lowerCounter_wf, selectVariant_wf, deadLetter_wf, updLaunch_wf]

theorem placeBlock_wf {s : State} (c : Nat) (u : Waiting) (i : Nat) (hs : s.MemWf) :
    (placeBlock s c u i).MemWf := treePlace_wf _ _ _ hs

theorem wantSegment_wf {s : State} (c seg : Nat) (hs : s.MemWf) : (wantSegment s c seg).MemWf := by
  grind [wantSegment, updCore_wf]

theorem fillFile_wf {s : State} (c b : Nat) (hs : s.MemWf) : (fillFile s c b).MemWf := by
  grind [fillFile, updGroup_wf, foldl_wf, foldl_fst_wf]

theorem startBlock_wf {s : State} (c b : Nat) (hs : s.MemWf) : (startBlock s c b).MemWf := by
  grind [startBlock, acquireAll_wf, updLaunch_wf, updBlock_wf, fillFile_wf, addReceipt_wf, foldl_wf, foldl_fst_wf]

theorem startNext_wf {s : State} (d : Nat) (hs : s.MemWf) : (startNext s d).MemWf := by
  unfold startNext
  grind [State.MemWf, startBlock_wf, wantSegment_wf, updDom_wf, placeBlock_wf, foldl_wf, foldl_fst_wf]

theorem finishBlock_wf {s : State} (c b : Nat) (hs : s.MemWf) : (finishBlock s c b).MemWf := by
  grind [finishBlock, completeBlock_wf, writeBackHost_wf]

theorem execLaunchRecord_wf (t ring : Nat) {s : State} (hs : s.MemWf) : OutcomeWf (execLaunchRecord t ring s) := by
  grind [execLaunchRecord, OutcomeWf, takeLaunchRecord_wf]

theorem execQueuePromotion_wf (t : Nat) {s : State} (hs : s.MemWf) : OutcomeWf (execQueuePromotion t s) := by
  grind [execQueuePromotion, OutcomeWf, promoteRecords_wf]

theorem execBlockDispatch_wf (t : Nat) {s : State} (hs : s.MemWf) : OutcomeWf (execBlockDispatch t s) := by
  grind [execBlockDispatch, OutcomeWf, dispatchUnit_wf]

theorem execPatienceExpiry_wf (t l : Nat) {s : State} (hs : s.MemWf) : OutcomeWf (execPatienceExpiry t l s) := by
  grind [execPatienceExpiry, OutcomeWf, expirePatience_wf]

theorem execRegionAdmissionStep_wf {s : State} (hs : s.MemWf) : OutcomeWf (execRegionAdmissionStep s) := by
  grind [execRegionAdmissionStep, OutcomeWf, admitRegions_wf]

theorem execBlockStart_wf (d : Nat) {s : State} (hs : s.MemWf) : OutcomeWf (execBlockStart d s) := by
  grind [execBlockStart, OutcomeWf, startNext_wf]

theorem execBlockComplete_wf (c b : Nat) {s : State} (hs : s.MemWf) : OutcomeWf (execBlockComplete c b s) := by
  grind [execBlockComplete, OutcomeWf, finishBlock_wf]

theorem execScheduleSetSelection_wf (t l : Nat) {s : State} (hs : s.MemWf) : OutcomeWf (execScheduleSetSelection t l s) := by
  grind [execScheduleSetSelection, OutcomeWf, selectSchedule_wf]

/-! #### Machine/Repair.lean -/

theorem loseBlock_wf {s : State} (c b : Nat) (keep : List (Nat × BitVec 16)) (hs : s.MemWf) : (loseBlock s c b keep).MemWf := by
  grind [loseBlock, relaunch_wf, killAndFail_wf]

theorem loseBlocks_wf {s : State} (c : Nat) (hs : s.MemWf) : (loseBlocks s c).MemWf := by
  grind [loseBlocks, loseBlock_wf, foldl_wf, foldl_fst_wf]

theorem deadlineBlock_wf {s : State} (c b code : Nat) (hs : s.MemWf) : (deadlineBlock s c b code).MemWf := by
  grind [deadlineBlock, discardBlock_wf, killAndFail_wf]

theorem deadlineCore_wf {s : State} (c : Nat) (hs : s.MemWf) : (deadlineCore s c).MemWf := by
  grind [deadlineCore, deadlineBlock_wf, foldl_wf, foldl_fst_wf]

theorem breakChannels_wf {s : State} (c : Nat) (hs : s.MemWf) : (breakChannels s c).MemWf := hs

theorem postRetired_wf {s : State} (c cause launch : Nat) (hs : s.MemWf) : (postRetired s c cause launch).MemWf := by
  grind [postRetired, postFault_wf]

theorem orphanKept_wf {s : State} (c : Nat) (hs : s.MemWf) : (orphanKept s c).MemWf := by
  grind [orphanKept, updCore_wf, updLaunch_wf, withdraw_wf, treeSync_wf, foldl_wf, foldl_fst_wf]

theorem freshCore_wf {s : State} (c : Nat) (hs : s.MemWf) : (freshCore s c).MemWf := hs

theorem renumberCore_wf {s : State} (c : Nat) (hs : s.MemWf) : (renumberCore s c).MemWf := by
  grind [State.MemWf, renumberCore, freshCore_wf]

theorem ceaseCore_wf {s : State} (c : Nat) (hs : s.MemWf) : (ceaseCore s c).MemWf := by
  grind [State.MemWf, ceaseCore, updTen_wf, updCore_wf, freshCore_wf]

theorem postRemapped_wf {s : State} (c phys how : Nat) (hs : s.MemWf) :
    (postRemapped s c phys how).MemWf := postEvent_wf _ _ _ hs

theorem markDead_wf {s : State} (c : Nat) (hs : s.MemWf) : (markDead s c).MemWf := by
  grind [markDead, updMod_wf]

theorem remapCore_wf (n : Nat) {s : State} (c : Nat) (hs : s.MemWf) : (remapCore n s c).1.MemWf := by
  induction n generalizing s with
  | zero => exact hs
  | succ n ih => grind [State.MemWf, remapCore, updMod_wf, countErr_wf, checkSpares_wf, raiseTopo_wf, renumberCore_wf,
    postRemapped_wf, ceaseCore_wf, breakChannels_wf, orphanKept_wf, drainCore_wf, deadlineCore_wf, postRetired_wf]

theorem failCore_wf {s : State} (c : Nat) (hs : s.MemWf) : (failCore s c).MemWf := by
  grind [failCore, remapCore_wf, markDead_wf, updCore_wf, orphanKept_wf, loseBlocks_wf, postRetired_wf, breakChannels_wf]

theorem tearOp_wf {s : State} (c : Nat) (op : Op) (hs : s.MemWf) : (tearOp s c op).MemWf := by
  grind [State.MemWf, tearOp, deviceStore_wf, deviceLoad_wf, getD_wf, postFault_wf]

/-! #### Machine/Residency.lean -/

theorem joinDirs_wf {s : State} (t h : Nat) (lines : List Nat) (hs : s.MemWf) : (joinDirs s t h lines).1.MemWf := by
  grind [joinDirs, writeBack_wf, foldl_wf, foldl_fst_wf]

theorem declareObj_wf {s : State} (t : Nat) (w : List W64) (hs : s.MemWf) : (declareObj s t w).1.MemWf := by
  grind [declareObj, joinDirs_wf, updDom_wf]

theorem bodyObjdecl_wf (x : Ext) (h : Here) {s : State} (hs : s.MemWf) : (bodyObjdecl x h s).MemWf := by
  unfold bodyObjdecl
  grind [State.MemWf, Out.MemWf, uniBody_wf, fetchSrcs_wf, afterCheck_wf, checkAccess_wf, weakRead_wf, declareObj_wf,
    pendUni_wf, poisonKill_wf]

theorem dropObj_wf {s : State} (t h k : Nat) (o : CObj) (hs : s.MemWf) : (dropObj s t h k o).MemWf := by
  grind [dropObj, dropGuest_wf, updDom_wf, foldl_wf, foldl_fst_wf]

theorem bodyObjdrop_wf (x : Ext) (h : Here) {s : State} (hs : s.MemWf) : (bodyObjdrop x h s).MemWf := by
  unfold bodyObjdrop
  grind [State.MemWf, Out.MemWf, uniBody_wf, fetchSrcs_wf, dropObj_wf]

theorem purgePages_wf {s : State} (t va n : Nat) (pas : List Nat) (hs : s.MemWf) : (purgePages s t va n pas).MemWf := by
  grind [purgePages, drainLine_wf, updCore_wf, dropGuest_wf, updDom_wf, reportDrop_wf, foldl_wf, foldl_fst_wf]

theorem rangeThen_wf (r : Row) (whole : Bool) {act : State → Here → Nat → Nat → List Nat → State × Nat} (x : Ext) (h : Here)
    {s : State} (hs : s.MemWf) (ha : ∀ u h a n pas, u.MemWf → (act u h a n pas).1.MemWf) :
    (rangeThen r whole act x h s).MemWf := by
  unfold rangeThen
  grind [State.MemWf, Out.MemWf, uniBody_wf, fetchSrcs_wf, afterCheck_wf, translateLanes_wf, finPush_wf, dstUni_wf]

theorem sealAct_wf {s : State} (h : Here) (a n : Nat) (pas : List Nat) (hs : s.MemWf) : (sealAct s h a n pas).1.MemWf := by
  grind [sealAct, beforePublish_wf, updTen_wf, purgePages_wf]

theorem unsealAct_wf {s : State} (h : Here) (a n : Nat) (pas : List Nat) (hs : s.MemWf) : (unsealAct s h a n pas).1.MemWf := by
  grind [unsealAct, beforePublish_wf, updTen_wf, acquireAll_wf, purgePages_wf]

theorem bodySealRange_wf (x : Ext) (h : Here) {s : State} (hs : s.MemWf) : (bodySealRange x h s).MemWf := by
  unfold bodySealRange
  grind [State.MemWf, Out.MemWf, rangeThen_wf, sealAct_wf]

theorem bodyUnsealRange_wf (x : Ext) (h : Here) {s : State} (hs : s.MemWf) : (bodyUnsealRange x h s).MemWf := by
  unfold bodyUnsealRange
  grind [State.MemWf, Out.MemWf, rangeThen_wf, unsealAct_wf]

theorem residencyBody_wf (r : Row) {act : State → Here → Ext → W64 → W64 → State × Nat} (x : Ext) (h : Here) {s : State}
    (hs : s.MemWf) (ha : ∀ u h x a b, u.MemWf → (act u h x a b).1.MemWf) :
    (residencyBody r act x h s).MemWf := by
  unfold residencyBody
  grind [State.MemWf, Out.MemWf, uniBody_wf, fetchSrcs_wf, pendUni_wf]

theorem activate_wf {s : State} (ds : List Nat) (key : Nat) (hs : s.MemWf) : (activate s ds key).MemWf := by
  grind [activate, updDom_wf, foldl_wf, foldl_fst_wf]

theorem rsdeclAct_wf {s : State} (h : Here) (x : Ext) (a b : W64) (hs : s.MemWf) : (rsdeclAct s h x a b).1.MemWf := by
  grind [rsdeclAct, updTen_wf, fitAll_wf, activate_wf, foldl_wf, foldl_fst_wf]

theorem rssetAct_wf {s : State} (h : Here) (x : Ext) (a b : W64) (hs : s.MemWf) : (rssetAct s h x a b).1.MemWf := by
  grind [rssetAct, updTen_wf, fitAll_wf, activate_wf, foldl_wf, foldl_fst_wf]

theorem rsevictAct_wf {s : State} (h : Here) (x : Ext) (a b : W64) (hs : s.MemWf) : (rsevictAct s h x a b).1.MemWf := by
  grind [rsevictAct, dropGuest_wf, updDom_wf, updTen_wf, foldl_wf, foldl_fst_wf]

theorem demoteRemapped_wf {s : State} (t va n : Nat) (hs : s.MemWf) : (demoteRemapped s t va n).MemWf := by
  grind [State.MemWf, demoteRemapped, foldl_wf, foldl_fst_wf]

theorem bodyRsdecl_wf (x : Ext) (h : Here) {s : State} (hs : s.MemWf) : (bodyRsdecl x h s).MemWf := by
  unfold bodyRsdecl
  grind [State.MemWf, Out.MemWf, residencyBody_wf, rsdeclAct_wf]

theorem bodyRsset_wf (x : Ext) (h : Here) {s : State} (hs : s.MemWf) : (bodyRsset x h s).MemWf :=
  residencyBody_wf _ x h hs fun _ h x a b hu => rssetAct_wf h x a b hu

theorem bodyRsevict_wf (x : Ext) (h : Here) {s : State} (hs : s.MemWf) : (bodyRsevict x h s).MemWf :=
  residencyBody_wf _ x h hs fun _ h x a b hu => rsevictAct_wf h x a b hu

/-! #### Machine/FaultEvents.lean -/

theorem retryFault_wf {s : State} (d fid : Nat) (hs : s.MemWf) : (retryFault s d fid).MemWf := hs

theorem failFault_wf {s : State} (d fid : Nat) (hs : s.MemWf) : (failFault s d fid).MemWf := by
  grind [failFault, updGroup_wf, raiseTrap_wf, killAndFail_wf, foldl_wf, foldl_fst_wf]

theorem answerFault_wf {s : State} (t : Nat) (hs : s.MemWf) : (answerFault s t).MemWf := by
  grind [answerFault, deviceLoad_wf, updTen_wf, updRing_wf, postWaiting_wf, updDom_wf, retryFault_wf, failFault_wf]

theorem completeWalk_wf {s : State} (d t va write agent core l : Nat) (hs : s.MemWf) :
    (completeWalk s d t va write agent core l).MemWf := accessPage_wf _ _ _ _ _ _ _ hs

theorem invalidateGo_wf {s : State} (d : Nat) (hs : s.MemWf) : (invalidateGo s d).MemWf := by
  grind [State.MemWf, invalidateGo, updDom_wf, demoteRemapped_wf]

theorem performStores_wf {s : State} (t : Nat) (hs : s.MemWf) : (performStores s t).MemWf := by
  grind [performStores, drainCore_wf, writeBack_wf, foldl_wf, foldl_fst_wf]

theorem invalidateDone_wf {s : State} (d : Nat) (hs : s.MemWf) : (invalidateDone s d).MemWf := by
  grind [invalidateDone, updDom_wf, performStores_wf]

theorem preemptBlock_wf {s : State} (c b : Nat) (hs : s.MemWf) : (preemptBlock s c b).MemWf := by
  grind [preemptBlock, maybeDiscard_wf, updBlock_wf, saveStream_wf]

theorem preemptGo_wf {s : State} (hs : s.MemWf) : (preemptGo s).MemWf := by
  grind [preemptGo, updTen_wf, settlePreempt_wf, preemptBlock_wf, foldl_wf, foldl_fst_wf]

theorem preemptDeadline_wf {s : State} (t : Nat) (hs : s.MemWf) : (preemptDeadline s t).MemWf := by
  grind [preemptDeadline, settlePreempt_wf, killAndFail_wf, foldl_wf, foldl_fst_wf]

theorem restoreBlock_wf {s : State} (c b : Nat) (k : Block) (hs : s.MemWf) : (restoreBlock s c b k).MemWf := by
  grind [restoreBlock, updCore_wf, settleHeld_wf, loseBlock_wf, recheckBlock_wf, restoreStream_wf, foldl_wf, foldl_fst_wf]

theorem resumeGo_wf {s : State} (t : Nat) (hs : s.MemWf) : (resumeGo s t).MemWf := hs

theorem resumeBlocks_wf {s : State} (t : Nat) (hs : s.MemWf) : (resumeBlocks s t).MemWf := by
  grind [resumeBlocks, updTen_wf, restoreBlock_wf, foldl_wf, foldl_fst_wf]

theorem resumeTenant_wf {s : State} (t : Nat) (hs : s.MemWf) : (resumeTenant s t).MemWf := by
  grind [resumeTenant, resumeBlocks_wf, resumeGo_wf]

theorem execPageWalkComplete_wf (d t va write agent core l : Nat) {s : State} (hs : s.MemWf) :
    OutcomeWf (execPageWalkComplete d t va write agent core l s) := by
  grind [execPageWalkComplete, OutcomeWf, completeWalk_wf]

theorem execFaultResponse_wf (t : Nat) {s : State} (hs : s.MemWf) : OutcomeWf (execFaultResponse t s) := by
  grind [execFaultResponse, OutcomeWf, answerFault_wf]

theorem execXinvGo_wf (d : Nat) {s : State} (hs : s.MemWf) : OutcomeWf (execXinvGo d s) := by
  grind [execXinvGo, OutcomeWf, invalidateGo_wf]

theorem execXinvComplete_wf (d : Nat) {s : State} (hs : s.MemWf) : OutcomeWf (execXinvComplete d s) := by
  grind [execXinvComplete, OutcomeWf, invalidateDone_wf]

theorem execPreemptGo_wf {s : State} (hs : s.MemWf) : OutcomeWf (execPreemptGo s) := by
  grind [execPreemptGo, OutcomeWf, preemptGo_wf]

theorem execPreemptDeadline_wf (t : Nat) {s : State} (hs : s.MemWf) : OutcomeWf (execPreemptDeadline t s) := by
  grind [execPreemptDeadline, OutcomeWf, preemptDeadline_wf]

theorem execResume_wf (t : Nat) {s : State} (hs : s.MemWf) : OutcomeWf (execResume t s) := by
  grind [execResume, OutcomeWf, resumeTenant_wf]

/-! #### Machine/Stamp.lean -/

theorem sbLocal_wf {u : State} {s : State} (t op pa d n : Nat) (hs : s.MemWf)
    (h : sbLocal s t op pa d n = some u) : u.MemWf := by
  grind [sbLocal, sbSetBook_wf]

theorem sbLane_wf {s : State} (h : Here) (op slot l va pa n : Nat) (hs : s.MemWf) : (sbLane s h op slot l va pa n).MemWf := by
  grind [sbLane, strongPrep_wf, sbLocal_wf, sbDeliver_wf, updDom_wf, sbFlush_wf, sbAtHome_wf]

theorem sbBody_go_wf (op : Nat) (h : Here) {s : State} (r : Row) (x : Ext) (v : Srcs) (slot : Nat)
    (oks : List (Nat × Nat × Nat)) (hs : s.MemWf) :
    (sbBody.go op h s r x v slot oks).MemWf := by
  grind [sbBody.go, Out.MemWf, beforePublish_wf, addBoard_wf, sbLane_wf, noteRead_wf, publishAt_wf, afterPublish_wf, foldl_wf,
    foldl_fst_wf]

theorem sbBody_wf (r : Row) (op : Nat) (x : Ext) (h : Here) {s : State} (hs : s.MemWf) : (sbBody r op x h s).MemWf := by
  unfold sbBody
  grind [State.MemWf, Out.MemWf, vecBody_wf, idle_wf, fetchSrcs_wf, afterCheck_wf, checkAccess_wf, sbBody_go_wf, poisonKill_wf,
    foldl_wf, foldl_fst_wf]

theorem bodySbinit_wf (x : Ext) (h : Here) {s : State} (hs : s.MemWf) : (bodySbinit x h s).MemWf := sbBody_wf _ _ x h hs

theorem bodySbtake_wf (x : Ext) (h : Here) {s : State} (hs : s.MemWf) : (bodySbtake x h s).MemWf := sbBody_wf _ _ x h hs

theorem bodySbgive_wf (x : Ext) (h : Here) {s : State} (hs : s.MemWf) : (bodySbgive x h s).MemWf := sbBody_wf _ _ x h hs

theorem bodySbread_wf (x : Ext) (h : Here) {s : State} (hs : s.MemWf) : (bodySbread x h s).MemWf := sbBody_wf _ _ x h hs

theorem bodySbclose_wf (x : Ext) (h : Here) {s : State} (hs : s.MemWf) : (bodySbclose x h s).MemWf := sbBody_wf _ _ x h hs

/-! #### Machine/Copy.lean -/

theorem xferBody_wf (r : Row) (ops : List Nat) (x : Ext) (h : Here) {s : State} (hs : s.MemWf) :
    (xferBody r ops x h s).MemWf := by
  unfold xferBody
  grind [State.MemWf, Out.MemWf, uniBody_wf, acceptXfer_wf, beforePublish_wf]

theorem bodyCpy_wf (x : Ext) (h : Here) {s : State} (hs : s.MemWf) : (bodyCpy x h s).MemWf := xferBody_wf _ _ x h hs

theorem bodyCpyr_wf (x : Ext) (h : Here) {s : State} (hs : s.MemWf) : (bodyCpyr x h s).MemWf := xferBody_wf _ _ x h hs

theorem bodyCpym_wf (x : Ext) (h : Here) {s : State} (hs : s.MemWf) : (bodyCpym x h s).MemWf := xferBody_wf _ _ x h hs

theorem giveReceipt_wf {s : State} (k : Block) (rank j : Nat) (hs : s.MemWf) : (giveReceipt s k rank j).MemWf := by
  grind [giveReceipt, addReceipt_wf, setEsum_wf, updCore_wf, updLaunch_wf]

theorem bodyMack_wf (x : Ext) (h : Here) {s : State} (hs : s.MemWf) : (bodyMack x h s).MemWf := by
  unfold bodyMack
  grind [State.MemWf, Out.MemWf, uniBody_wf, fetchSrcs_wf, giveReceipt_wf, beforePublish_wf]

theorem bodyChain_wf (x : Ext) (h : Here) {s : State} (hs : s.MemWf) : (bodyChain x h s).MemWf := by
  unfold bodyChain
  grind [State.MemWf, Out.MemWf, uniBody_wf, fetchSrcs_wf, updCore_wf, beforePublish_wf]

theorem bodyMarm_wf (x : Ext) (h : Here) {s : State} (hs : s.MemWf) : (bodyMarm x h s).MemWf := by
  unfold bodyMarm
  grind [State.MemWf, Out.MemWf, uniBody_wf, fetchSrcs_wf, updGroup_wf, afterCheck_wf, translateLanes_wf]

theorem monRead_wf {s : State} (c b t : Nat) (m : Monitor) (hs : s.MemWf) : (monRead s c b t m).1.MemWf := by
  grind [monRead, strongPrep_wf]

theorem monAcquire_wf {s : State} (h : Here) (m : Monitor) (scope : BitVec 4) (w : Nat) (hs : s.MemWf) :
    (monAcquire s h m scope w).MemWf := by
  grind [monAcquire, updCore_wf, acquireLane_wf]

theorem bodyMwait_wf (x : Ext) (h : Here) {s : State} (hs : s.MemWf) : (bodyMwait x h s).MemWf := by
  unfold bodyMwait
  grind [State.MemWf, Out.MemWf, uniBody_wf, fetchSrcs_wf, monRead_wf, poisonKill_wf, finPush_wf, dstUni_wf, monAcquire_wf,
    reservePush_wf, waitAt_wf]

/-! #### Machine/EngineEvents.lean -/

theorem setSlot_wf {s : State} (c i : Nat) (k : ChainSlot) (hs : s.MemWf) : (setSlot s c i k).MemWf := hs

theorem takeRecord_wf {s : State} (c i : Nat) (n : ChainSlot) (k : Block) (pa : Nat) (w : List W64) (hs : s.MemWf) :
    (takeRecord s c i n k pa w).MemWf := by
  grind [takeRecord, setSlot_wf, postFault_wf, acceptXfer_wf, homeAccess_wf, strongWrite_wf]

theorem slotFault_wf {s : State} (c i : Nat) (n : ChainSlot) (r : EngXlat) (hs : s.MemWf) : (slotFault s c i n r).MemWf := by
  unfold slotFault
  grind [State.MemWf, setSlot_wf, killAndFail_wf, poisonKill_wf]

theorem fetchRecord_wf {s : State} (c i : Nat) (hs : s.MemWf) : (fetchRecord s c i).MemWf := by
  unfold fetchRecord
  (repeat' split) <;> grind [State.MemWf, engXlat_wf, poisonKill_wf, homeRead_wf, drainLine_wf, acquireAt_wf, takeRecord_wf,
    slotFault_wf, getD_wf]

theorem leaveIfBare_wf {s : State} (c id : Nat) (hs : s.MemWf) : (leaveIfBare s c id).MemWf := by
  grind [leaveIfBare, leaveOp_wf]

theorem runNop_wf {s : State} (c id : Nat) (hs : s.MemWf) : (runNop s c id).MemWf := by
  grind [State.MemWf, runNop, startedOp_wf, leaveIfBare_wf, updOp_wf]

theorem deliverAll_wf {s : State} (c id : Nat) (ranks : List Nat) (hs : s.MemWf) : (deliverAll s c id ranks).MemWf := by
  unfold deliverAll
  (repeat' split) <;> grind [State.MemWf, Payload.MemWf, fetchPayload_wf, deliverRank_wf, updOp_wf, leaveIfBare_wf, foldl_wf,
    foldl_fst_wf, getD_wf]

theorem runMcast_wf {s : State} (c id : Nat) (hs : s.MemWf) : (runMcast s c id).MemWf := by
  grind [runMcast, startedOp_wf, deliverAll_wf]

theorem ackDelivery_wf {s : State} (c id rank : Nat) (hs : s.MemWf) : (ackDelivery s c id rank).MemWf := by
  grind [ackDelivery, updOp_wf, leaveIfBare_wf, deliverAll_wf]

theorem runCopy_wf {s : State} (c id kind : Nat) (hs : s.MemWf) : (runCopy s c id kind).MemWf := by
  grind [runCopy, leaveIfBare_wf, movePayload_wf]

theorem finishOp_wf {s : State} (c id : Nat) (hs : s.MemWf) : (finishOp s c id).MemWf := by
  grind [finishOp, leaveOp_wf, postmark_wf]

theorem arriveWord_wf {s : State} (c ch : Nat) (hs : s.MemWf) : (arriveWord s c ch).MemWf := by
  grind [arriveWord, deliverWord_wf, settleHeld_wf, foldl_wf, foldl_fst_wf]

theorem applyReduction_wf {s : State} (t pa red : Nat) (payload : List Byte) (hs : s.MemWf) :
    (applyReduction s t pa red payload).MemWf := by
  grind [applyReduction, homeAccess_wf, strongWrite_wf, foldl_wf, foldl_fst_wf]

theorem receivePacket_wf {s : State} (d unit seqno crcOk vni red pa : Nat) (payload : List Byte) (hs : s.MemWf) :
    (receivePacket s d unit seqno crcOk vni red pa payload).MemWf := by
  grind [receivePacket, updDom_wf, updMod_wf, countErr_wf, postFault_wf, homeStore_wf, applyReduction_wf]

theorem replayPacket_wf {s : State} (d unit rerouted : Nat) (hs : s.MemWf) : (replayPacket s d unit rerouted).MemWf := by
  grind [replayPacket, countErr_wf, receivePacket_wf]

theorem openWindow_wf {s : State} (c askers : Nat) (hs : s.MemWf) : (openWindow s c askers).MemWf := hs

theorem failWire_wf {s : State} (d spareLeft : Nat) (hs : s.MemWf) : (failWire s d spareLeft).MemWf := by
  grind [failWire, countErr_wf, requestRepl_wf]

theorem execChainRecordFetch_wf (c slot : Nat) {s : State} (hs : s.MemWf) : OutcomeWf (execChainRecordFetch c slot s) := by
  grind [execChainRecordFetch, OutcomeWf, fetchRecord_wf]

theorem execXferNop_wf (c id : Nat) {s : State} (hs : s.MemWf) : OutcomeWf (execXferNop c id s) := by
  grind [execXferNop, OutcomeWf, runNop_wf]

theorem execCopy_wf (c id : Nat) {s : State} (hs : s.MemWf) : OutcomeWf (execCopy c id s) := by
  grind [execCopy, OutcomeWf, runCopy_wf]

theorem execReduce_wf (c id : Nat) {s : State} (hs : s.MemWf) : OutcomeWf (execReduce c id s) := by
  grind [execReduce, OutcomeWf, runCopy_wf]

theorem execMcast_wf (c id : Nat) {s : State} (hs : s.MemWf) : OutcomeWf (execMcast c id s) := by
  grind [execMcast, OutcomeWf, runMcast_wf]

theorem execMulticastDeliveryAck_wf (c id rank : Nat) {s : State} (hs : s.MemWf) :
    OutcomeWf (execMulticastDeliveryAck c id rank s) := by
  grind [execMulticastDeliveryAck, OutcomeWf, ackDelivery_wf]

theorem execCopyOperationComplete_wf (c id : Nat) {s : State} (hs : s.MemWf) : OutcomeWf
    (execCopyOperationComplete c id s) := by
  grind [execCopyOperationComplete, OutcomeWf, finishOp_wf]

theorem execChannelWordArrival_wf (c ch : Nat) {s : State} (hs : s.MemWf) : OutcomeWf (execChannelWordArrival c ch s) := by
  grind [execChannelWordArrival, OutcomeWf, arriveWord_wf]

theorem execCreditGrant_wf (c ch : Nat) {s : State} (hs : s.MemWf) : OutcomeWf (execCreditGrant c ch s) := by
  grind [execCreditGrant, OutcomeWf, grantCredits_wf]

theorem execLinkPacketReceive_wf (d unit seqno crcOk vni red pa : Nat) (payload : List Byte) {s : State} (hs : s.MemWf) :
    OutcomeWf (execLinkPacketReceive d unit seqno crcOk vni red pa payload s) := by
  grind [execLinkPacketReceive, OutcomeWf, receivePacket_wf]

theorem execLinkReplay_wf (d unit rerouted : Nat) {s : State} (hs : s.MemWf) : OutcomeWf
    (execLinkReplay d unit rerouted s) := by
  grind [execLinkReplay, OutcomeWf, replayPacket_wf]

theorem execVerticalWindow_wf (c askers : Nat) {s : State} (hs : s.MemWf) : OutcomeWf (execVerticalWindow c askers s) := by
  grind [execVerticalWindow, OutcomeWf, openWindow_wf]

theorem execVerticalWireFailure_wf (d spareLeft : Nat) {s : State} (hs : s.MemWf) :
    OutcomeWf (execVerticalWireFailure d spareLeft s) := by
  grind [execVerticalWireFailure, OutcomeWf, failWire_wf]

/-! #### Machine/UnderEngines.lean -/

theorem engPieces_wf {s : State} (c : Nat) (op : Op) (ps : List (Nat × Nat)) (write : Bool) (hs : s.MemWf) :
    (engPieces s c op ps write).1.MemWf := engXlat_wf _ _ _ _ _ _ hs

theorem readPieces_wf {s : State} (c t : Nat) (ps : List (Nat × Nat)) (hs : s.MemWf) : (readPieces s c t ps).1.MemWf := by
  grind [readPieces, engRead_wf, foldl_wf, foldl_fst_wf]

theorem withBytes_wf {s : State} (c : Nat) (op : Op) (rs : List (Nat × Nat)) {k : State → List Byte → State} (hs : s.MemWf)
    (hk : ∀ u bs, u.MemWf → (k u bs).MemWf) :
    (withBytes s c op rs k).MemWf := by
  grind [withBytes, engPieces_wf, readPieces_wf, poisonKill_wf, engFault_wf]

theorem putPieces_wf {s : State} (c : Nat) (op : Op) (ps : List (Nat × Nat)) (bs : List Byte) (hs : s.MemWf) :
    (putPieces s c op ps bs).MemWf := by
  induction ps generalizing s bs with
  | nil => exact hs
  | cons p r ih => exact ih _ (engWrite_wf _ _ _ _ _ _ _ hs)

theorem finishCmd_wf {s : State} (c : Nat) (op : Op) (ws : List (Nat × List Byte)) (hs : s.MemWf) :
    (finishCmd s c op ws).MemWf := by
  grind [finishCmd, engPieces_wf, putPieces_wf, updOp_wf, engFault_wf]

theorem checked_wf {s : State} (c : Nat) (op : Op) {k : State → State} (hs : s.MemWf) (hk : ∀ u, u.MemWf → (k u).MemWf) :
    (checked s c op k).MemWf := by
  grind [checked, engXlat_wf, engFault_wf]

theorem runGather_wf {s : State} (c id : Nat) (hs : s.MemWf) : (runGather s c id).MemWf := by
  grind [runGather, checked_wf, withBytes_wf, finishCmd_wf, foldl_wf, foldl_fst_wf]

theorem addElem_wf {s : State} (c : Nat) (op : Op) (pa size rtype v : Nat) (hs : s.MemWf) :
    (addElem s c op pa size rtype v).MemWf := by
  grind [addElem, homeAccess_wf, strongWrite_wf, updOp_wf]

theorem addAll_wf {s : State} (c : Nat) (op : Op) (size rtype : Nat) (es : List (Nat × Nat)) (hs : s.MemWf) :
    (addAll s c op size rtype es).MemWf := by
  grind [addAll, engXlat_wf, poisonKill_wf, addElem_wf, updOp_wf, engFault_wf, foldl_wf, foldl_fst_wf]

theorem runScatteradd_wf {s : State} (c id : Nat) (hs : s.MemWf) : (runScatteradd s c id).MemWf := by
  grind [runScatteradd, checked_wf, withBytes_wf, addAll_wf]

theorem runTopk_wf {s : State} (c id : Nat) (hs : s.MemWf) : (runTopk s c id).MemWf := by
  grind [runTopk, checked_wf, withBytes_wf, finishCmd_wf]

theorem runHist_wf {s : State} (c id : Nat) (hs : s.MemWf) : (runHist s c id).MemWf := by
  grind [runHist, checked_wf, withBytes_wf, addAll_wf]

theorem runBlockq_wf {s : State} (c id : Nat) (hs : s.MemWf) : (runBlockq s c id).MemWf := by
  grind [runBlockq, checked_wf, withBytes_wf, finishCmd_wf]

theorem runReq_wf {s : State} (c id : Nat) (hs : s.MemWf) : (runReq s c id).MemWf := by
  grind [runReq, checked_wf, withBytes_wf, finishCmd_wf]

theorem runTrans_wf {s : State} (c id : Nat) (hs : s.MemWf) : (runTrans s c id).MemWf := by
  grind [runTrans, checked_wf, withBytes_wf, finishCmd_wf]

theorem execGather_wf (c id : Nat) {s : State} (hs : s.MemWf) : OutcomeWf (execGather c id s) := by
  grind [execGather, OutcomeWf, runGather_wf]

theorem execScatteradd_wf (c id : Nat) {s : State} (hs : s.MemWf) : OutcomeWf (execScatteradd c id s) := by
  grind [execScatteradd, OutcomeWf, runScatteradd_wf]

theorem execTopk_wf (c id : Nat) {s : State} (hs : s.MemWf) : OutcomeWf (execTopk c id s) := by
  grind [execTopk, OutcomeWf, runTopk_wf]

theorem execHist_wf (c id : Nat) {s : State} (hs : s.MemWf) : OutcomeWf (execHist c id s) := by
  grind [execHist, OutcomeWf, runHist_wf]

theorem execBlockq_wf (c id : Nat) {s : State} (hs : s.MemWf) : OutcomeWf (execBlockq c id s) := by
  grind [execBlockq, OutcomeWf, runBlockq_wf]

theorem execReq_wf (c id : Nat) {s : State} (hs : s.MemWf) : OutcomeWf (execReq c id s) := by
  grind [execReq, OutcomeWf, runReq_wf]

theorem execTrans_wf (c id : Nat) {s : State} (hs : s.MemWf) : OutcomeWf (execTrans c id s) := by
  grind [execTrans, OutcomeWf, runTrans_wf]

/-! #### Machine/Power.lean -/

theorem updPair_wf {s : State} (r : Nat) (f : Region → Region) (hs : s.MemWf) : (updPair s r f).MemWf := hs

theorem writeLimit_wf {s : State} (val : Nat) (hs : s.MemWf) : (writeLimit s val).MemWf := hs

theorem droopAlarm_wf {s : State} (r : Nat) (hs : s.MemWf) : (droopAlarm s r).MemWf := by
  grind [droopAlarm, updRegion_wf]

theorem droopRecovery_wf {s : State} (r : Nat) (hs : s.MemWf) : (droopRecovery s r).MemWf := by
  grind [droopRecovery, updRegion_wf]

theorem startDraining_wf {s : State} (r : Nat) (toStack : Bool) (hs : s.MemWf) :
    (startDraining s r toStack).MemWf := updPair_wf _ _ hs

theorem forceFallback_wf {s : State} (r : Nat) (hs : s.MemWf) : (forceFallback s r).MemWf := by
  grind [forceFallback, startDraining_wf]

theorem restack_wf {s : State} (r : Nat) (hs : s.MemWf) : (restack s r).MemWf := by
  grind [restack, startDraining_wf]

theorem balance_wf {s : State} (heavy light since : Nat) (hs : s.MemWf) : (balance s heavy light since).MemWf := by
  grind [balance, sorterSets_wf, updRegion_wf]

theorem lift_wf {s : State} (r : Nat) (hs : s.MemWf) : (lift s r).MemWf := by
  grind [lift, sorterSets_wf, updRegion_wf]

theorem sampleImbalance_wf {s : State} (p : Nat) (hs : s.MemWf) : (sampleImbalance s p).MemWf := by
  grind [sampleImbalance, updRegion_wf, updPair_wf, startDraining_wf, balance_wf, lift_wf]

theorem endDraining_wf {s : State} (r : Nat) (hs : s.MemWf) : (endDraining s r).MemWf := by
  grind [endDraining, updPair_wf, deadlineCore_wf, foldl_wf, foldl_fst_wf]

theorem endSwitching_wf {s : State} (r : Nat) (hs : s.MemWf) : (endSwitching s r).MemWf := by
  grind [endSwitching, updPair_wf]

theorem tearOps_wf {s : State} (torn : List (Nat × Op)) (hs : s.MemWf) : (tearOps s torn).MemWf := by
  grind [tearOps, leaveOp_wf, tearOp_wf, foldl_wf, foldl_fst_wf]

theorem loseBooks_wf {s : State} (d : Nat) (hs : s.MemWf) : (loseBooks s d).MemWf := by
  grind [loseBooks, sbSetBook_wf, sbSetBooks_wf, setEsum_wf, sbStore_wf, foldl_wf, foldl_fst_wf]

theorem loseCounters_wf {s : State} (d : Nat) (hs : s.MemWf) : (loseCounters s d).MemWf := by
  grind [loseCounters, sbDeliver_wf, sbSetBook_wf, updDom_wf, foldl_wf, foldl_fst_wf]

theorem dropCopies_wf {s : State} (p : Nat → Bool) (hs : s.MemWf) : (dropCopies s p).MemWf := hs

theorem dropPresence_wf {s : State} (d : Nat) (hs : s.MemWf) : (dropPresence s d).MemWf := hs

theorem loseOne_wf (told : List Nat) (d cause : Nat) {s : State} (hs : s.MemWf) : (loseOne told d cause s).MemWf := by
  grind [loseOne, orphanKept_wf, loseBlocks_wf, freshCore_wf, updTen_wf, loseCounters_wf, loseBooks_wf, dropPresence_wf,
    dropCopies_wf, updDom_wf, postEvent_wf, postFault_wf, requestRepl_wf, raiseTopo_wf, foldl_wf, foldl_fst_wf]

theorem loseDomains_wf {s : State} (ds : List Nat) (cause : Nat) (hs : s.MemWf) : (loseDomains s ds cause).MemWf := by
  grind [loseDomains, updDom_wf, loseOne_wf, tearOps_wf, foldl_wf, foldl_fst_wf]

theorem loseDomain_wf {s : State} (d cause : Nat) (hs : s.MemWf) : (loseDomain s d cause).MemWf := loseDomains_wf _ _ hs

theorem tripRegion_wf {s : State} (r : Nat) (hs : s.MemWf) : (tripRegion s r).MemWf := by
  grind [tripRegion, updRegion_wf, loseDomains_wf, foldl_wf, foldl_fst_wf]

theorem endTripped_wf {s : State} (r : Nat) (hs : s.MemWf) : (endTripped s r).MemWf := by
  grind [endTripped, updRegion_wf]

theorem endRestarting_wf {s : State} (r pass : Nat) (hs : s.MemWf) : (endRestarting s r pass).MemWf := by
  grind [endRestarting, updRegion_wf, updDom_wf, checkSpares_wf, raiseTopo_wf, foldl_wf, foldl_fst_wf]

theorem setPoint_wf {s : State} (d tier pt : Nat) (hs : s.MemWf) : (setPoint s d tier pt).MemWf := by
  grind [setPoint, sorterSets_wf, updDom_wf]

theorem referencePulse_wf {s : State} (hs : s.MemWf) : (referencePulse s).MemWf := by
  grind [referencePulse, updDom_wf, updMod_wf, foldl_wf, foldl_fst_wf]

theorem cxlDown_wf {s : State} (p : Nat) (hs : s.MemWf) : (cxlDown s p).MemWf := by
  grind [cxlDown, updMod_wf, dropCopies_wf, requestRepl_wf, raiseTopo_wf]

theorem courierDown_wf {s : State} (port : Nat) (hs : s.MemWf) : (courierDown s port).MemWf := by
  grind [courierDown, updMod_wf, tearOps_wf, requestRepl_wf]

theorem peerAccess_wf {s : State} (m vni pa size write val : Nat) (hs : s.MemWf) :
    (peerAccess s m vni pa size write val).MemWf := by
  grind [peerAccess, homeStore_wf, homeRead_wf]

theorem execPwstepWrite_wf (val : Nat) {s : State} (hs : s.MemWf) : OutcomeWf (execPwstepWrite val s) := by
  grind [execPwstepWrite, OutcomeWf, writeLimit_wf]

theorem execDroopAlarm_wf (r : Nat) {s : State} (hs : s.MemWf) : OutcomeWf (execDroopAlarm r s) := by
  grind [execDroopAlarm, OutcomeWf, droopAlarm_wf]

theorem execDroopRecovery_wf (r : Nat) {s : State} (hs : s.MemWf) : OutcomeWf (execDroopRecovery r s) := by
  grind [execDroopRecovery, OutcomeWf, droopRecovery_wf]

theorem execImbalanceSample_wf (pair : Nat) {s : State} (hs : s.MemWf) : OutcomeWf (execImbalanceSample pair s) := by
  grind [execImbalanceSample, OutcomeWf, sampleImbalance_wf]

theorem execForcefb_wf (r : Nat) {s : State} (hs : s.MemWf) : OutcomeWf (execForcefb r s) := by
  grind [execForcefb, OutcomeWf, forceFallback_wf]

theorem execRestack_wf (r : Nat) {s : State} (hs : s.MemWf) : OutcomeWf (execRestack r s) := by
  grind [execRestack, OutcomeWf, restack_wf]

theorem execDrainingEnd_wf (r : Nat) {s : State} (hs : s.MemWf) : OutcomeWf (execDrainingEnd r s) := by
  grind [execDrainingEnd, OutcomeWf, endDraining_wf]

theorem execSwitchingEnd_wf (r : Nat) {s : State} (hs : s.MemWf) : OutcomeWf (execSwitchingEnd r s) := by
  grind [execSwitchingEnd, OutcomeWf, endSwitching_wf]

theorem execRegionTrip_wf (r : Nat) {s : State} (hs : s.MemWf) : OutcomeWf (execRegionTrip r s) := by
  grind [execRegionTrip, OutcomeWf, tripRegion_wf]

theorem execTrippedEnd_wf (r : Nat) {s : State} (hs : s.MemWf) : OutcomeWf (execTrippedEnd r s) := by
  grind [execTrippedEnd, OutcomeWf, endTripped_wf]

theorem execRestartingEnd_wf (r pass : Nat) {s : State} (hs : s.MemWf) : OutcomeWf (execRestartingEnd r pass s) := by
  grind [execRestartingEnd, OutcomeWf, endRestarting_wf]

theorem execDomainLoss_wf (d cause : Nat) {s : State} (hs : s.MemWf) : OutcomeWf (execDomainLoss d cause s) := by
  grind [execDomainLoss, OutcomeWf, loseDomain_wf]

theorem execOperatingPointChange_wf (d tier pt : Nat) {s : State} (hs : s.MemWf) :
    OutcomeWf (execOperatingPointChange d tier pt s) := by
  grind [execOperatingPointChange, OutcomeWf, setPoint_wf]

theorem execTimeReferencePulse_wf {s : State} (hs : s.MemWf) : OutcomeWf (execTimeReferencePulse s) := by
  grind [execTimeReferencePulse, OutcomeWf, referencePulse_wf]

theorem execCxlLinkDown_wf (p : Nat) {s : State} (hs : s.MemWf) : OutcomeWf (execCxlLinkDown p s) := by
  grind [execCxlLinkDown, OutcomeWf, cxlDown_wf]

theorem execCourierLinkDown_wf (port : Nat) {s : State} (hs : s.MemWf) : OutcomeWf (execCourierLinkDown port s) := by
  grind [execCourierLinkDown, OutcomeWf, courierDown_wf]

theorem execPeerAccess_wf (m vni va size write val : Nat) {s : State} (hs : s.MemWf) :
    OutcomeWf (execPeerAccess m vni va size write val s) := by
  grind [execPeerAccess, OutcomeWf, peerAccess_wf]

/-! #### Machine/Reset.lean -/

theorem sweepImages_wf {s : State} (hs : s.MemWf) : (sweepImages s).MemWf := hs

theorem dropImage_wf {s : State} (i : Nat) (hs : s.MemWf) : (dropImage s i).MemWf := sweepImages_wf hs

theorem flushTenant_wf {s : State} (t : Nat) (hs : s.MemWf) : (flushTenant s t).MemWf := by
  grind [flushTenant, reportDrop_wf, dropGuest_wf, foldl_wf, foldl_fst_wf]

theorem recallBooks_wf {s : State} (t : Nat) (hs : s.MemWf) : (recallBooks s t).MemWf := by
  grind [recallBooks, sbRecall_wf, foldl_wf, foldl_fst_wf]

theorem resetTenant_wf {s : State} (t : Nat) (hs : s.MemWf) : (resetTenant s t).MemWf := by
  grind [State.MemWf, resetTenant, updTen_wf, drainCore_wf, killBlock_wf, recallBooks_wf, flushTenant_wf, dropWindow_wf,
    dropImage_wf, msix_wf, foldl_wf, foldl_fst_wf]

theorem resetFunction_wf {s : State} (vf : Nat) (hs : s.MemWf) : (resetFunction s vf).MemWf := by
  grind [resetFunction, resetTenant_wf]

theorem execTenantReset_wf (t : Nat) {s : State} (hs : s.MemWf) : OutcomeWf (execTenantReset t s) := by
  grind [execTenantReset, OutcomeWf, resetTenant_wf]

theorem execFunctionLevelReset_wf (vf : Nat) {s : State} (hs : s.MemWf) : OutcomeWf (execFunctionLevelReset vf s) := by
  grind [execFunctionLevelReset, OutcomeWf, resetFunction_wf]

/-! #### Machine/Loader.lean -/

theorem loadNative_wf {s : State} (t dest : Nat) (n : Native) (portable : Bool) (data : List Byte) (hs : s.MemWf) :
    (loadNative s t dest n portable data).1.MemWf := by
  grind [State.MemWf, loadNative, sweepImages_wf, dropImage_wf, updTen_wf, putBytes_wf, foldl_wf, foldl_fst_wf]

theorem loadObject_wf {s : State} (t va len dest : Nat) (hs : s.MemWf) : (loadObject s t va len dest).1.MemWf := by
  grind [loadObject, tenantBytes_wf, loadNative_wf]

theorem unloadObject_wf {s : State} (t index : Nat) (hs : s.MemWf) : (unloadObject s t index).1.MemWf := by
  grind [unloadObject, dropImage_wf, updTen_wf]

/-! #### Machine/Commands.lean -/

theorem headCommand_wf {s : State} (t : Nat) (hs : s.MemWf) : (headCommand s t).1.MemWf := by
  grind [headCommand, tenantWords_wf]

theorem endCommand_wf {s : State} (t : Nat) (w : List W64) (status : Nat) (results : List (Nat × W64)) (hs : s.MemWf) :
    (endCommand s t w status results).MemWf := by
  grind [State.MemWf, endCommand, deviceStore_wf, foldl_wf, getD_wf, updRing_wf, updTen_wf, msix_wf]

theorem runCommand_wf {s : State} (t op : Nat) {act : State → List W64 → State × Nat × List (Nat × W64)} (hs : s.MemWf)
    (ha : ∀ u w, u.MemWf → (act u w).1.MemWf) :
    (runCommand s t op act).MemWf := by
  grind [runCommand, headCommand_wf, endCommand_wf]

theorem cmdLoad_wf {s : State} (t : Nat) (hs : s.MemWf) : (cmdLoad s t).MemWf := by
  grind [cmdLoad, runCommand_wf, loadObject_wf, putBytes_wf]

theorem cmdUnload_wf {s : State} (t : Nat) (hs : s.MemWf) : (cmdUnload s t).MemWf := by
  grind [cmdUnload, runCommand_wf, unloadObject_wf]

theorem cmdFwset_wf {s : State} (t : Nat) (hs : s.MemWf) : (cmdFwset s t).MemWf := by
  grind [cmdFwset, runCommand_wf, dropWindow_wf, updDom_wf]

theorem cmdUnpoison_wf {s : State} (t : Nat) (hs : s.MemWf) : (cmdUnpoison s t).MemWf := by
  grind [cmdUnpoison, runCommand_wf, clearPoison_wf]

theorem cmdLvlfree_wf {s : State} (t : Nat) (hs : s.MemWf) : (cmdLvlfree s t).MemWf := by
  grind [cmdLvlfree, runCommand_wf, updTen_wf]

theorem cmdRules_wf {s : State} (t : Nat) (hs : s.MemWf) : (cmdRules s t).MemWf := by
  grind [cmdRules, runCommand_wf, tenantBytes_wf, updTen_wf]

theorem cmdAttest_wf {s : State} (t : Nat) (hs : s.MemWf) : (cmdAttest s t).MemWf := by
  grind [cmdAttest, runCommand_wf, tenantBytes_wf, putBytes_wf, updMod_wf]

theorem execLoad_wf (t : Nat) {s : State} (hs : s.MemWf) : OutcomeWf (execLoad t s) := by
  grind [execLoad, OutcomeWf, cmdLoad_wf]

theorem execUnload_wf (t : Nat) {s : State} (hs : s.MemWf) : OutcomeWf (execUnload t s) := by
  grind [execUnload, OutcomeWf, cmdUnload_wf]

theorem execFwset_wf (t : Nat) {s : State} (hs : s.MemWf) : OutcomeWf (execFwset t s) := by
  grind [execFwset, OutcomeWf, cmdFwset_wf]

theorem execUnpoison_wf (t : Nat) {s : State} (hs : s.MemWf) : OutcomeWf (execUnpoison t s) := by
  grind [execUnpoison, OutcomeWf, cmdUnpoison_wf]

theorem execLvlfree_wf (t : Nat) {s : State} (hs : s.MemWf) : OutcomeWf (execLvlfree t s) := by
  grind [execLvlfree, OutcomeWf, cmdLvlfree_wf]

theorem execRules_wf (t : Nat) {s : State} (hs : s.MemWf) : OutcomeWf (execRules t s) := by
  grind [execRules, OutcomeWf, cmdRules_wf]

theorem execAttest_wf (t : Nat) {s : State} (hs : s.MemWf) : OutcomeWf (execAttest t s) := by
  grind [execAttest, OutcomeWf, cmdAttest_wf]

/-! #### Machine/Admin.lean -/

theorem endAdmin_wf {s : State} (w : List W64) (status : Nat) (hs : s.MemWf) : (endAdmin s w status).MemWf := by
  grind [endAdmin, homeStore_wf, msix_wf, updPfRing_wf]

theorem runAdmin_wf {s : State} (op : Nat) {act : State → List W64 → Ended} (hs : s.MemWf)
    (ha : ∀ u w, u.MemWf → (act u w).MemWf) :
    (runAdmin s op act).MemWf := by
  grind [State.MemWf, runAdmin, Ended.MemWf, endAdmin_wf]

theorem permitVni_wf {s : State} (vni : Nat) (on : Bool) (hs : s.MemWf) : (permitVni s vni on).MemWf := by
  grind [permitVni, updDom_wf, foldl_wf, foldl_fst_wf]

theorem admitCommand_wf {s : State} (w : List W64) (hs : s.MemWf) : (admitCommand s w).MemWf := by
  grind [State.MemWf, admitCommand, Ended.MemWf, updCore_wf, permitVni_wf, publishLat_wf, publishPage_wf, foldl_wf,
    foldl_fst_wf]

theorem retire_wf {s : State} (w : List W64) (hs : s.MemWf) : (retire s w).MemWf := by
  grind [State.MemWf, retire, Ended.MemWf, updCore_wf, permitVni_wf, foldl_wf, foldl_fst_wf]

theorem expireDrain_wf {s : State} (hs : s.MemWf) : (expireDrain s).MemWf := by
  grind [expireDrain, deadlineCore_wf, foldl_wf, foldl_fst_wf]

theorem setDrain_wf {s : State} (d : Nat) (on : Bool) (hs : s.MemWf) : (setDrain s d on).MemWf := countErr_wf _ _ hs

theorem startDrain_wf {s : State} (op target ns : Nat) (hs : s.MemWf) : (startDrain s op target ns).MemWf := by
  grind [startDrain, updMod_wf, updCore_wf, raiseTopo_wf, setDrain_wf, foldl_wf, foldl_fst_wf]

theorem endDrain_wf {s : State} (x : Drain) (hs : s.MemWf) : (endDrain s x).MemWf := by
  grind [endDrain, updMod_wf, raiseTopo_wf, setDrain_wf]

theorem drainCoreCmd_wf {s : State} (w : List W64) (hs : s.MemWf) : (drainCoreCmd s w).MemWf := by
  grind [drainCoreCmd, Ended.MemWf, drainCore_wf, markDead_wf, postRetired_wf, breakChannels_wf, orphanKept_wf, remapCore_wf,
    endDrain_wf, startDrain_wf]

theorem domainRepair_wf {s : State} (op ok : Nat) (w : List W64) (hs : s.MemWf) : (domainRepair s op ok w).MemWf := by
  grind [domainRepair, Ended.MemWf, endDrain_wf, loseDomain_wf, startDrain_wf]

theorem postFirmware_wf {s : State} (bs : List Byte) (status : Nat) (hs : s.MemWf) :
    (postFirmware s bs status).MemWf := postEvent_wf _ _ _ hs

theorem fallBack_wf {s : State} (im : List Byte) (hs : s.MemWf) : (fallBack s im).MemWf := postFirmware_wf _ _ hs

theorem updateFirmware_wf {s : State} (w : List W64) (hs : s.MemWf) : (updateFirmware s w).MemWf := by
  grind [updateFirmware, Ended.MemWf, fallBack_wf, updMod_wf, postFirmware_wf]

theorem loadSorter_wf {s : State} (ok : Nat) (w : List W64) (hs : s.MemWf) : (loadSorter s ok w).MemWf := by
  grind [loadSorter, Ended.MemWf, updMod_wf]

theorem attestModule_wf {s : State} (w : List W64) (hs : s.MemWf) : (attestModule s w).MemWf := by
  grind [attestModule, Ended.MemWf, updMod_wf, homeStore_wf]

theorem migrate_wf {s : State} (w : List W64) (hs : s.MemWf) : (migrate s w).MemWf := by
  grind [migrate, Ended.MemWf, updTen_wf]

theorem coreFails_wf {s : State} (c : Nat) (hs : s.MemWf) : (coreFails s c).MemWf := by
  grind [coreFails, failCore_wf]

theorem execAdmit_wf {s : State} (hs : s.MemWf) : OutcomeWf (execAdmit s) := by
  grind [execAdmit, OutcomeWf, Ended.MemWf, runAdmin_wf, admitCommand_wf]

theorem execRetire_wf {s : State} (hs : s.MemWf) : OutcomeWf (execRetire s) := by
  grind [execRetire, OutcomeWf, Ended.MemWf, runAdmin_wf, retire_wf]

theorem execDraincore_wf {s : State} (hs : s.MemWf) : OutcomeWf (execDraincore s) := by
  grind [execDraincore, OutcomeWf, Ended.MemWf, runAdmin_wf, drainCoreCmd_wf]

theorem execRetrain_wf (ok : Nat) {s : State} (hs : s.MemWf) : OutcomeWf (execRetrain ok s) := by
  grind [execRetrain, OutcomeWf, Ended.MemWf, runAdmin_wf, domainRepair_wf]

theorem execRecal_wf {s : State} (hs : s.MemWf) : OutcomeWf (execRecal s) := by
  grind [execRecal, OutcomeWf, Ended.MemWf, runAdmin_wf, domainRepair_wf]

theorem execDrainDeadline_wf {s : State} (hs : s.MemWf) : OutcomeWf (execDrainDeadline s) := by
  grind [execDrainDeadline, OutcomeWf, expireDrain_wf]

theorem execFwupdate_wf {s : State} (hs : s.MemWf) : OutcomeWf (execFwupdate s) := by
  grind [execFwupdate, OutcomeWf, Ended.MemWf, runAdmin_wf, updateFirmware_wf]

theorem execSorterload_wf (ok : Nat) {s : State} (hs : s.MemWf) : OutcomeWf (execSorterload ok s) := by
  grind [execSorterload, OutcomeWf, Ended.MemWf, runAdmin_wf, loadSorter_wf]

theorem execAdminAttest_wf {s : State} (hs : s.MemWf) : OutcomeWf (execAdminAttest s) := by
  grind [execAdminAttest, OutcomeWf, Ended.MemWf, runAdmin_wf, attestModule_wf]

theorem execMigset_wf {s : State} (hs : s.MemWf) : OutcomeWf (execMigset s) := by
  grind [execMigset, OutcomeWf, Ended.MemWf, runAdmin_wf, migrate_wf]

theorem execCoreFailure_wf (c : Nat) {s : State} (hs : s.MemWf) : OutcomeWf (execCoreFailure c s) := by
  grind [execCoreFailure, OutcomeWf, coreFails_wf]

theorem execAndTreeArrival_wf (t l n node : Nat) {s : State} (hs : s.MemWf) : OutcomeWf (execAndTreeArrival t l n node s) := by
  grind [execAndTreeArrival, OutcomeWf, treeArrive_wf]

theorem execAndTreeRelease_wf (t l n : Nat) {s : State} (hs : s.MemWf) : OutcomeWf (execAndTreeRelease t l n s) := by
  grind [execAndTreeRelease, OutcomeWf, treeRelease_wf]

/-! #### Machine/BarrierOps.lean -/

theorem emptyUni_wf (r : Row) (x : Ext) (v : Here → State → W64) (h : Here) {s : State} (hs : s.MemWf) :
    (emptyUni r x v h s).MemWf := by
  grind [emptyUni, Out.MemWf, updGroup_wf]

theorem barRelease_wf {s : State} (c lvl : Nat) (hs : s.MemWf) : (barRelease s c lvl).MemWf := by
  grind [barRelease, drainCore_wf]

theorem bodyBara_wf (x : Ext) (h : Here) {s : State} (hs : s.MemWf) : (bodyBara x h s).MemWf := by
  unfold bodyBara
  grind [State.MemWf, Out.MemWf, vecBody_wf, emptyUni_wf, arriveLanes_wf, barRelease_wf, pendUni_wf]

theorem waitBar_wf {s : State} (h : Here) (r : Row) (x : Ext) (gen : BitVec 16) (step : Bool) {s0 : State} (hs : s.MemWf)
    (hs0 : s0.MemWf) :
    (waitBar s h r x gen step s0).MemWf := by
  grind [waitBar, Out.MemWf, finPush_wf, dstUni_wf, barAcquire_wf, reservePush_wf, waitAt_wf]

theorem bodyBarw_wf (x : Ext) (h : Here) {s : State} (hs : s.MemWf) : (bodyBarw x h s).MemWf := by
  unfold bodyBarw
  grind [State.MemWf, Out.MemWf, vecBody_wf, emptyUni_wf, fetchSrcs_wf, waitBar_wf]

theorem arriveWait_wf (r : Row) (step : Bool) (x : Ext) (h : Here) {s : State} (hs : s.MemWf) :
    (arriveWait r step x h s).MemWf := by
  unfold arriveWait
  grind [State.MemWf, Out.MemWf, vecBody_wf, emptyUni_wf, arriveLanes_wf, barRelease_wf, updGroup_wf, waitBar_wf]

theorem bodyBars_wf (x : Ext) (h : Here) {s : State} (hs : s.MemWf) : (bodyBars x h s).MemWf := arriveWait_wf _ _ x h hs

theorem bodySstep_wf (x : Ext) (h : Here) {s : State} (hs : s.MemWf) : (bodySstep x h s).MemWf := arriveWait_wf _ _ x h hs

theorem bodyBargen_wf (x : Ext) (h : Here) {s : State} (hs : s.MemWf) : (bodyBargen x h s).MemWf := by
  unfold bodyBargen
  grind [State.MemWf, Out.MemWf, uniBody_wf, pendUni_wf]

theorem bodyBarcfg_wf (x : Ext) (h : Here) {s : State} (hs : s.MemWf) : (bodyBarcfg x h s).MemWf := by
  unfold bodyBarcfg
  grind [State.MemWf, Out.MemWf, uniBody_wf, fetchSrcs_wf, setBar_wf]

/-! #### Machine/CrossLane.lean -/

theorem pendCross_wf {s : State} (h : Here) (r : Row) (x : Ext) (v : W64) (f : Flags) (hs : s.MemWf) :
    (pendCross s h r x v f).MemWf := by
  grind [pendCross, updGroup_wf, pendUni_wf]

theorem crossUni_wf (r : Row) (reads : Bool) (f : Ext → Here → Srcs → List Nat → W64 × Flags) (x : Ext) (h : Here) {s : State}
    (hs : s.MemWf) :
    (crossUni r reads f x h s).MemWf := by
  unfold crossUni
  grind [State.MemWf, Out.MemWf, vecBody_wf, fetchSrcs_wf, pendCross_wf]

theorem crossVec_wf (r : Row) (f : Ext → Here → Srcs → List Nat → List (Nat × W64) × Flags) (x : Ext) (h : Here) {s : State}
    (hs : s.MemWf) :
    (crossVec r f x h s).MemWf := by
  unfold crossVec
  grind [State.MemWf, Out.MemWf, vecBody_wf, idle_wf, fetchSrcs_wf, pendVec_wf]

theorem bodyV2s_wf (x : Ext) (h : Here) {s : State} (hs : s.MemWf) : (bodyV2s x h s).MemWf := crossUni_wf _ _ _ x h hs

theorem bodyShfl_wf (x : Ext) (h : Here) {s : State} (hs : s.MemWf) : (bodyShfl x h s).MemWf := crossVec_wf _ _ x h hs

theorem bodyVote_wf (x : Ext) (h : Here) {s : State} (hs : s.MemWf) : (bodyVote x h s).MemWf := crossUni_wf _ _ _ x h hs

theorem bodyRedg_wf (x : Ext) (h : Here) {s : State} (hs : s.MemWf) : (bodyRedg x h s).MemWf := crossUni_wf _ _ _ x h hs

theorem bodyScang_wf (x : Ext) (h : Here) {s : State} (hs : s.MemWf) : (bodyScang x h s).MemWf := crossVec_wf _ _ x h hs

theorem bodyMatchLanes_wf (x : Ext) (h : Here) {s : State} (hs : s.MemWf) :
    (bodyMatchLanes x h s).MemWf := crossVec_wf _ _ x h hs

/-! #### Machine/MemEvents.lean -/

theorem directoryRequest_wf {s : State} (e line write : Nat) (hs : s.MemWf) : (directoryRequest s e line write).MemWf := by
  grind [directoryRequest, l2Write_wf, guestRead_wf]

theorem guestDrop_wf {s : State} (e line : Nat) (hs : s.MemWf) : (guestDrop s e line).MemWf := by
  grind [guestDrop, reportDrop_wf, foldl_wf, foldl_fst_wf]

theorem poisonLine_wf {s : State} (line : Nat) (hs : s.MemWf) : (poisonLine s line).MemWf := countErr_wf _ _ hs

theorem l2Error_wf {s : State} (d line : Nat) (ok : Bool) (hs : s.MemWf) : (l2Error s d line ok).MemWf := by
  grind [l2Error, countErr_wf, poisonLine_wf, updDom_wf, guestRead_wf]

theorem memoryError_wf {s : State} (level loc correctable : Nat) (hs : s.MemWf) :
    (memoryError s level loc correctable).MemWf := by
  grind [memoryError, countErr_wf, updCore_wf, l2Error_wf, poisonLine_wf]

theorem clearCounters_wf {s : State} (d w : Nat) (hs : s.MemWf) : (clearCounters s d w).MemWf := by
  grind [clearCounters, countErr_wf]

theorem execWriteCombiningDrain_wf (c line : Nat) {s : State} (hs : s.MemWf) : OutcomeWf
    (execWriteCombiningDrain c line s) := by
  grind [execWriteCombiningDrain, OutcomeWf, drainLine_wf]

theorem execDirectoryRequest_wf (e line write : Nat) {s : State} (hs : s.MemWf) :
    OutcomeWf (execDirectoryRequest e line write s) := by
  grind [execDirectoryRequest, OutcomeWf, directoryRequest_wf]

theorem execGuestDropReport_wf (e line : Nat) {s : State} (hs : s.MemWf) : OutcomeWf (execGuestDropReport e line s) := by
  grind [execGuestDropReport, OutcomeWf, guestDrop_wf]

theorem execMemoryError_wf (level loc correctable : Nat) {s : State} (hs : s.MemWf) :
    OutcomeWf (execMemoryError level loc correctable s) := by
  grind [execMemoryError, OutcomeWf, memoryError_wf]

theorem execErrorCounterClear_wf (d word : Nat) {s : State} (hs : s.MemWf) : OutcomeWf (execErrorCounterClear d word s) := by
  grind [execErrorCounterClear, OutcomeWf, clearCounters_wf]

/-! #### Machine/HostIo.lean -/

theorem writeTenantWindow_wf {s : State} (t o v : Nat) (hs : s.MemWf) : (writeTenantWindow s t o v).MemWf := by
  grind [writeTenantWindow, updRing_wf, postWaiting_wf, updTen_wf, resetTenant_wf, raiseTopo_wf]

theorem writeModuleBlock_wf {s : State} (o v : Nat) (hs : s.MemWf) : (writeModuleBlock s o v).MemWf := by
  grind [writeModuleBlock, updMod_wf, preemptGo_wf, resumeGo_wf, writeLimit_wf, updTen_wf]

theorem writeControl_wf {s : State} (d o v : Nat) (hs : s.MemWf) : (writeControl s d o v).MemWf := by
  grind [writeControl, updMod_wf, updDom_wf, invalidateGo_wf, forceFallback_wf, restack_wf, writeModuleBlock_wf]

theorem writePf_wf {s : State} (o v : Nat) (hs : s.MemWf) : (writePf s o v).MemWf := by
  grind [writePf, writeTenantWindow_wf, updMod_wf, updPfRing_wf, clearCounters_wf, checkSpares_wf, writeControl_wf, foldl_wf,
    foldl_fst_wf]

theorem writeBar4_wf {s : State} (fn o v : Nat) (hs : s.MemWf) : (writeBar4 s fn o v).MemWf := by
  grind [writeBar4, updMod_wf]

theorem writeNumVfs_wf {s : State} (port v : Nat) (hs : s.MemWf) : (writeNumVfs s port v).MemWf := by
  grind [writeNumVfs, updMod_wf]

theorem writeRegister_wf {s : State} (fn off v : Nat) (hs : s.MemWf) : (writeRegister s fn off v).MemWf := by
  grind [writeRegister, writeNumVfs_wf, writeBar4_wf, writePf_wf, writeTenantWindow_wf]

theorem writeRingTail_wf {s : State} (fn off v : Nat) (hs : s.MemWf) : (writeRingTail s fn off v).MemWf := by
  grind [writeRingTail, writeRegister_wf]

theorem hostXlat_wf {s : State} (t va : Nat) (write : Bool) (hs : s.MemWf) : (hostXlat s t va write).1.MemWf := by
  grind [hostXlat, translate_wf, updDom_wf, updTen_wf, postWaiting_wf]

theorem complete_wf {s : State} (r : Option (List Byte)) (hs : s.MemWf) : (State.complete s r).MemWf := hs

theorem hostAccess_wf {s : State} (t pa : Nat) (payload : List Byte) (hs : s.MemWf) : (hostAccess s t pa payload).MemWf := by
  grind [hostAccess, complete_wf, homeRead_wf, homeStore_wf]

theorem hostBar2_wf {s : State} (fn addr : Nat) (payload : List Byte) (hs : s.MemWf) : (hostBar2 s fn addr payload).MemWf := by
  grind [hostBar2, hostAccess_wf, complete_wf, hostXlat_wf]

theorem execRegisterWrite_wf (fn off val : Nat) {s : State} (hs : s.MemWf) : OutcomeWf (execRegisterWrite fn off val s) := by
  grind [execRegisterWrite, OutcomeWf, writeRegister_wf]

theorem execRingTailWrite_wf (fn off val : Nat) {s : State} (hs : s.MemWf) : OutcomeWf (execRingTailWrite fn off val s) := by
  grind [execRingTailWrite, OutcomeWf, writeRingTail_wf]

theorem execHostBar2Access_wf (fn addr : Nat) (payload : List Byte) {s : State} (hs : s.MemWf) :
    OutcomeWf (execHostBar2Access fn addr payload s) := by
  grind [execHostBar2Access, OutcomeWf, hostBar2_wf]

/-! #### Machine/Boot.lean -/

theorem mapFields_wf {s : State} (fields : List Nat) (hs : s.MemWf) : (mapFields s fields).MemWf := hs

theorem pruneRoutes_wf {s : State} (n : Nat) (hs : s.MemWf) : (pruneRoutes s n).MemWf := by
  induction n generalizing s with
  | zero => exact hs
  | succ n ih => grind [State.MemWf, pruneRoutes, mapFields_wf]

theorem remapAll_wf {s : State} (hs : s.MemWf) : (remapAll s).MemWf := by
  grind [remapAll, pruneRoutes_wf, mapFields_wf, loadRoutes_wf, updMod_wf]

theorem trainAll_wf {s : State} (hs : s.MemWf) : (trainAll s).MemWf := by
  grind [trainAll, remapAll_wf, updMod_wf]

theorem bootShort_wf {s : State} (hs : s.MemWf) : (bootShort s).MemWf := postEvent_wf _ _ _ hs

theorem bootFrom_wf {s : State} (image sorter : List Byte) (hs : s.MemWf) : (bootFrom s image sorter).MemWf := by
  grind [bootFrom, updMod_wf, remapAll_wf, bootShort_wf, trainAll_wf, checkSpares_wf, publishAll_wf, takeFigures_wf, foldl_wf,
    foldl_fst_wf]

theorem powerOn_wf {s : State} (image sorter : List Byte) (hs : s.MemWf) : (powerOn s image sorter).MemWf := by
  grind [powerOn, updMod_wf, bootFrom_wf]

theorem mailboxImage_wf {s : State} (image : List Byte) (hs : s.MemWf) : (mailboxImage s image).MemWf := by
  grind [mailboxImage, bootFrom_wf, updMod_wf]

theorem heartbeat_wf {s : State} (hs : s.MemWf) : (heartbeat s).MemWf := hs

theorem heartbeatLost_wf {s : State} (hs : s.MemWf) : (heartbeatLost s).MemWf := by
  grind [heartbeatLost, postEvent_wf, updMod_wf]

theorem performControl_wf {s : State} (off v : Nat) (hs : s.MemWf) : (performControl s off v).MemWf := by
  grind [performControl, updRegion_wf, updDom_wf, fitAll_wf, updMod_wf, raiseTopo_wf, writeControl_wf]

theorem mailboxWrite_wf {s : State} (off v : Nat) (hs : s.MemWf) : (mailboxWrite s off v).MemWf := by
  grind [mailboxWrite, sorterSets_wf, performControl_wf]

theorem refreshTopology_wf {s : State} (hs : s.MemWf) : (refreshTopology s).MemWf := by
  grind [refreshTopology, publish1_wf, takeFigures_wf]

theorem execPowerOnBoot_wf (image sorter : List Byte) {s : State} (hs : s.MemWf) :
    OutcomeWf (execPowerOnBoot image sorter s) := by
  grind [execPowerOnBoot, OutcomeWf, powerOn_wf]

theorem execHostMailboxImage_wf (image : List Byte) {s : State} (hs : s.MemWf) : OutcomeWf (execHostMailboxImage image s) := by
  grind [execHostMailboxImage, OutcomeWf, mailboxImage_wf]

theorem execSorterHeartbeat_wf {s : State} (hs : s.MemWf) : OutcomeWf (execSorterHeartbeat s) := by
  grind [execSorterHeartbeat, OutcomeWf, heartbeat_wf]

theorem execSorterHeartbeatTimeout_wf {s : State} (hs : s.MemWf) : OutcomeWf (execSorterHeartbeatTimeout s) := by
  grind [execSorterHeartbeatTimeout, OutcomeWf, heartbeatLost_wf]

theorem execSorterMailboxWrite_wf (off val : Nat) {s : State} (hs : s.MemWf) : OutcomeWf
    (execSorterMailboxWrite off val s) := by
  grind [execSorterMailboxWrite, OutcomeWf, mailboxWrite_wf]

theorem execTopologyRefresh_wf {s : State} (hs : s.MemWf) : OutcomeWf (execTopologyRefresh s) := by
  grind [execTopologyRefresh, OutcomeWf, refreshTopology_wf]

/-! #### Machine/ChannelOps.lean -/

theorem giveBack_wf {s : State} (c ch : Nat) (e : Chan) (hs : s.MemWf) : (giveBack s c ch e).MemWf := by
  grind [giveBack, updChan_wf]

theorem configChan_wf {s : State} (c b ch : Nat) (w : W64) (hs : s.MemWf) : (configChan s c b ch w).MemWf := by
  grind [configChan, giveBack_wf, updCore_wf, grantCredits_wf]

theorem bodyChcfg_wf (x : Ext) (h : Here) {s : State} (hs : s.MemWf) : (bodyChcfg x h s).MemWf := by
  unfold bodyChcfg
  grind [State.MemWf, Out.MemWf, uniBody_wf, fetchSrcs_wf, configChan_wf]

theorem bodyChstat_wf (x : Ext) (h : Here) {s : State} (hs : s.MemWf) : (bodyChstat x h s).MemWf := by
  unfold bodyChstat
  grind [State.MemWf, Out.MemWf, uniBody_wf, pendUni_wf]

theorem bodyVqsend_wf (x : Ext) (h : Here) {s : State} (hs : s.MemWf) : (bodyVqsend x h s).MemWf := by
  unfold bodyVqsend
  grind [State.MemWf, Out.MemWf, uniBody_wf, enqueueCmd_wf]

theorem finRegion_wf {s : State} (h : Here) (hs : s.MemWf) : (finRegion s h).MemWf := by
  grind [finRegion, Out.MemWf, maybeDiscard_wf]

theorem bodyIdmb_wf (x : Ext) (h : Here) {s : State} (hs : s.MemWf) : (bodyIdmb x h s).MemWf := by
  unfold bodyIdmb
  grind [State.MemWf, Out.MemWf, uniBody_wf, finRegion_wf, updGroup_wf]

theorem bodyIdme_wf (x : Ext) (h : Here) {s : State} (hs : s.MemWf) : (bodyIdme x h s).MemWf := by
  unfold bodyIdme
  grind [State.MemWf, Out.MemWf, uniBody_wf, updGroup_wf]

/-! #### Machine/SpecialFn.lean -/

theorem specialBody_wf (r : Row) (x : Ext) (h : Here) {s : State} (hs : s.MemWf) : (specialBody r x h s).MemWf := by
  unfold specialBody
  grind [State.MemWf, Out.MemWf, vecBody_wf, fetchSrcs_wf, updGroup_wf, foldl_wf, foldl_fst_wf]

theorem bodyExp2_wf (x : Ext) (h : Here) {s : State} (hs : s.MemWf) : (bodyExp2 x h s).MemWf := specialBody_wf _ x h hs

theorem bodyLog2_wf (x : Ext) (h : Here) {s : State} (hs : s.MemWf) : (bodyLog2 x h s).MemWf := specialBody_wf _ x h hs

theorem bodyRcp_wf (x : Ext) (h : Here) {s : State} (hs : s.MemWf) : (bodyRcp x h s).MemWf := specialBody_wf _ x h hs

theorem bodyRsq_wf (x : Ext) (h : Here) {s : State} (hs : s.MemWf) : (bodyRsq x h s).MemWf := specialBody_wf _ x h hs

theorem bodySqrt_wf (x : Ext) (h : Here) {s : State} (hs : s.MemWf) : (bodySqrt x h s).MemWf := specialBody_wf _ x h hs

theorem bodyTanh_wf (x : Ext) (h : Here) {s : State} (hs : s.MemWf) : (bodyTanh x h s).MemWf := specialBody_wf _ x h hs

theorem bodyLgst_wf (x : Ext) (h : Here) {s : State} (hs : s.MemWf) : (bodyLgst x h s).MemWf := specialBody_wf _ x h hs

theorem bodySinp_wf (x : Ext) (h : Here) {s : State} (hs : s.MemWf) : (bodySinp x h s).MemWf := specialBody_wf _ x h hs

theorem bodyCosp_wf (x : Ext) (h : Here) {s : State} (hs : s.MemWf) : (bodyCosp x h s).MemWf := specialBody_wf _ x h hs

theorem bodySfwait_wf (x : Ext) (h : Here) {s : State} (hs : s.MemWf) : (bodySfwait x h s).MemWf := by
  unfold bodySfwait
  grind [State.MemWf, Out.MemWf, vecBody_wf, idle_wf]

/-! #### Machine/GroupEvents.lean -/

theorem promoteEntries_wf {s : State} (c b g : Nat) (hs : s.MemWf) : (promoteEntries s c b g).MemWf := hs

theorem releaseReconv_wf {s : State} (c b g : Nat) (hs : s.MemWf) : (releaseReconv s c b g).MemWf := by
  grind [releaseReconv, updGroup_wf, foldl_wf, foldl_fst_wf]

theorem returnResult_wf {s : State} (c b g i : Nat) (hs : s.MemWf) : (returnResult s c b g i).MemWf := by
  grind [returnResult, updGroup_wf, landWrite_wf, heldPushed_wf, raiseFlags_wf]

theorem returnBoard_wf {s : State} (c b g i : Nat) (hs : s.MemWf) : (returnBoard s c b g i).MemWf := by
  grind [returnBoard, updGroup_wf, landWrite_wf, foldl_wf, foldl_fst_wf]

theorem completeToken_wf {s : State} (c b g k : Nat) (hs : s.MemWf) : (completeToken s c b g k).MemWf := by
  grind [completeToken, updGroup_wf, landWrite_wf, raiseFlags_wf]

theorem forceSwitch_wf {s : State} (c b g : Nat) (hs : s.MemWf) : (forceSwitch s c b g).MemWf := hs

theorem demoteGroup_wf {s : State} (c b g : Nat) (hs : s.MemWf) : (demoteGroup s c b g).MemWf := by
  grind [demoteGroup, updGroup_wf]

theorem recallGroup_wf {s : State} (c b g : Nat) (hs : s.MemWf) : (recallGroup s c b g).MemWf := by
  grind [recallGroup, updGroup_wf]

theorem deliverPending_wf {s : State} (c b g : Nat) (hs : s.MemWf) : (deliverPending s c b g).MemWf := by
  unfold deliverPending
  (repeat' split) <;> grind [State.MemWf, deliverDue_wf, atSwitchPoint_wf, getD_wf]

theorem holdError_wf {s : State} (c b g key : Nat) (hs : s.MemWf) : (holdError s c b g key).MemWf := countErr_wf _ _ hs

theorem scratchError_wf {s : State} (c b : Nat) (hs : s.MemWf) : (scratchError s c b).MemWf := by
  grind [scratchError, countErr_wf, killBlock_wf, relaunch_wf, killAndFail_wf]

theorem landSegment_wf {s : State} (c i : Nat) (hs : s.MemWf) : (landSegment s c i).MemWf := by
  grind [landSegment, updCore_wf]

theorem startDeferred_wf {s : State} (c i : Nat) (hs : s.MemWf) : (startDeferred s c i).MemWf := by
  grind [startDeferred, updCore_wf]

theorem testMonitor_wf {s : State} (c b g m : Nat) (hs : s.MemWf) : (testMonitor s c b g m).MemWf := by
  unfold testMonitor
  (repeat' split) <;> grind [State.MemWf, monRead_wf, poisonKill_wf, updGroup_wf, monAcquire_wf, foldl_wf, foldl_fst_wf,
    getD_wf]

theorem serveBook_wf {s : State} (d : Nat) (hs : s.MemWf) : (serveBook s d).MemWf := by
  grind [serveBook, updDom_wf, sbServe_wf]

theorem windowTimeout_wf {s : State} (c b : Nat) (hs : s.MemWf) : (windowTimeout s c b).MemWf := by
  grind [windowTimeout, Issued.MemWf, issueOldest_wf]

theorem execEntryPromotion_wf (c b g : Nat) {s : State} (hs : s.MemWf) : OutcomeWf (execEntryPromotion c b g s) := by
  grind [execEntryPromotion, OutcomeWf, promoteEntries_wf]

theorem execReconvDeadlockRelease_wf (c b g : Nat) {s : State} (hs : s.MemWf) :
    OutcomeWf (execReconvDeadlockRelease c b g s) := by
  grind [execReconvDeadlockRelease, OutcomeWf, releaseReconv_wf]

theorem execVariableLatencyReturn_wf (c b g i : Nat) {s : State} (hs : s.MemWf) :
    OutcomeWf (execVariableLatencyReturn c b g i s) := by
  grind [execVariableLatencyReturn, OutcomeWf, returnResult_wf]

theorem execScoreboardReturn_wf (c b g i : Nat) {s : State} (hs : s.MemWf) : OutcomeWf (execScoreboardReturn c b g i s) := by
  grind [execScoreboardReturn, OutcomeWf, returnBoard_wf]

theorem execTokenComplete_wf (c b g k : Nat) {s : State} (hs : s.MemWf) : OutcomeWf (execTokenComplete c b g k s) := by
  grind [execTokenComplete, OutcomeWf, completeToken_wf]

theorem execForcedSwitch_wf (c b g : Nat) {s : State} (hs : s.MemWf) : OutcomeWf (execForcedSwitch c b g s) := by
  grind [execForcedSwitch, OutcomeWf, forceSwitch_wf]

theorem execGroupDemotion_wf (c b g : Nat) {s : State} (hs : s.MemWf) : OutcomeWf (execGroupDemotion c b g s) := by
  grind [execGroupDemotion, OutcomeWf, demoteGroup_wf]

theorem execGroupRecall_wf (c b g : Nat) {s : State} (hs : s.MemWf) : OutcomeWf (execGroupRecall c b g s) := by
  grind [execGroupRecall, OutcomeWf, recallGroup_wf]

theorem execTrapDelivery_wf (c b g : Nat) {s : State} (hs : s.MemWf) : OutcomeWf (execTrapDelivery c b g s) := by
  grind [execTrapDelivery, OutcomeWf, deliverPending_wf]

theorem execHoldEccError_wf (c b g key : Nat) {s : State} (hs : s.MemWf) : OutcomeWf (execHoldEccError c b g key s) := by
  grind [execHoldEccError, OutcomeWf, holdError_wf]

theorem execScratchpadEccError_wf (c b : Nat) {s : State} (hs : s.MemWf) : OutcomeWf (execScratchpadEccError c b s) := by
  grind [execScratchpadEccError, OutcomeWf, scratchError_wf]

theorem execSegmentFetchComplete_wf (c slot : Nat) {s : State} (hs : s.MemWf) :
    OutcomeWf (execSegmentFetchComplete c slot s) := by
  grind [execSegmentFetchComplete, OutcomeWf, landSegment_wf]

theorem execDeferredFetchStart_wf (c slot : Nat) {s : State} (hs : s.MemWf) : OutcomeWf (execDeferredFetchStart c slot s) := by
  grind [execDeferredFetchStart, OutcomeWf, startDeferred_wf]

theorem execBarrierRelease_wf (c b lvl n : Nat) {s : State} (hs : s.MemWf) : OutcomeWf (execBarrierRelease c b lvl n s) := by
  grind [execBarrierRelease, OutcomeWf, releaseBarrier_wf]

theorem execMonitorWake_wf (c b g m : Nat) {s : State} (hs : s.MemWf) : OutcomeWf (execMonitorWake c b g m s) := by
  grind [execMonitorWake, OutcomeWf, testMonitor_wf]

theorem execMonitorPoll_wf (c b g m : Nat) {s : State} (hs : s.MemWf) : OutcomeWf (execMonitorPoll c b g m s) := by
  grind [execMonitorPoll, OutcomeWf, testMonitor_wf]

theorem execStampBookHomeRequest_wf (d : Nat) {s : State} (hs : s.MemWf) : OutcomeWf (execStampBookHomeRequest d s) := by
  grind [execStampBookHomeRequest, OutcomeWf, serveBook_wf]

theorem execRewriteWindowTimeout_wf (c b : Nat) {s : State} (hs : s.MemWf) : OutcomeWf (execRewriteWindowTimeout c b s) := by
  grind [execRewriteWindowTimeout, OutcomeWf, windowTimeout_wf]

/-! #### Machine/Hierarchy.lean -/

theorem bodySpawn_wf (x : Ext) (h : Here) {s : State} (hs : s.MemWf) : (bodySpawn x h s).MemWf := by
  unfold bodySpawn
  grind [State.MemWf, Out.MemWf, uniBody_wf, joinGate_wf, beforePublish_wf, acceptRecord_wf, refuseRecord_wf, strongPrep_wf,
    strongWrite_wf, releaseWafer_wf, foldl_wf, foldl_fst_wf]

theorem bodyJoin_wf (x : Ext) (h : Here) {s : State} (hs : s.MemWf) : (bodyJoin x h s).MemWf := by
  unfold bodyJoin
  grind [State.MemWf, Out.MemWf, uniBody_wf, fetchSrcs_wf, afterCheck_wf, checkAccess_wf, poisonKill_wf, strongPrep_wf,
    beforePublish_wf, releaseWafer_wf, setEsum_wf, strongWrite_wf, acceptRecord_wf, foldl_wf, foldl_fst_wf]

theorem bodyCancel_wf (x : Ext) (h : Here) {s : State} (hs : s.MemWf) : (bodyCancel x h s).MemWf := by
  unfold bodyCancel
  grind [State.MemWf, Out.MemWf, uniBody_wf, fetchSrcs_wf, cancelLevel_wf]

theorem bodyLvlrd_wf (x : Ext) (h : Here) {s : State} (hs : s.MemWf) : (bodyLvlrd x h s).MemWf := by
  unfold bodyLvlrd
  grind [State.MemWf, Out.MemWf, uniBody_wf, fetchSrcs_wf, acquireAll_wf, pendUni_wf]

/-! #### A step -/

/-- Each opcode of a group keeps the form. -/
theorem groupBody_wf (xop : BitVec 10) (len : Nat) (x : Ext) (h : Here) {s : State} (hs : s.MemWf) : (groupBody xop len x h s).MemWf := by
  unfold groupBody
  split
  exacts [
    bodyAtom_wf x h hs, bodyAtomc_wf x h hs, bodyRed_wf x h hs, bodyAtoms_wf x h hs, bodyLda_wf x h hs, bodyStrl_wf x h hs,
    bodyFence_wf x h hs, bodyBara_wf x h hs, bodyBarw_wf x h hs, bodyBars_wf x h hs, bodyBargen_wf x h hs, bodyBarcfg_wf x h hs,
    bodySstep_wf x h hs, bodyChcfg_wf x h hs, bodyChstat_wf x h hs, bodyVqsend_wf x h hs, bodyIdmb_wf x h hs, bodyIdme_wf x h hs,
    bodyBra_wf x h hs, bodyBrx_wf x h hs, bodyCall_wf x h hs, bodyRet_wf len x h hs, bodyJfence_wf x h hs, bodyCfetch_wf x h hs,
    bodyExit_wf len x h hs, bodyYld_wf len x h hs, bodyReconv_wf x h hs, bodyNop_wf x h hs, bodyCapq_wf x h hs,
    bodyRdsr_wf x h hs, bodyWrsr_wf x h hs, bodyTrap_wf x h hs, bodyEret_wf x h hs, bodyPreack_wf x h hs, bodyCpy_wf x h hs,
    bodyCpyr_wf x h hs, bodyCpym_wf x h hs, bodyMack_wf x h hs, bodyChain_wf x h hs, bodyMarm_wf x h hs, bodyMwait_wf x h hs,
    bodyV2s_wf x h hs, bodyShfl_wf x h hs, bodyVote_wf x h hs, bodyRedg_wf x h hs, bodyScang_wf x h hs, bodyMatchLanes_wf x h hs,
    bodySpawn_wf x h hs, bodyJoin_wf x h hs, bodyCancel_wf x h hs, bodyLvlrd_wf x h hs, bodyLdg_wf x h hs, bodyStg_wf x h hs,
    bodyLds_wf x h hs, bodySts_wf x h hs, bodyLdl_wf x h hs, bodyStl_wf x h hs, bodyLdc_wf x h hs, bodyPfch_wf x h hs,
    bodyObjdecl_wf x h hs, bodyObjdrop_wf x h hs, bodySealRange_wf x h hs, bodyUnsealRange_wf x h hs, bodyRsdecl_wf x h hs,
    bodyRsset_wf x h hs, bodyRsevict_wf x h hs, bodyExp2_wf x h hs, bodyLog2_wf x h hs, bodyRcp_wf x h hs, bodyRsq_wf x h hs,
    bodySqrt_wf x h hs, bodyTanh_wf x h hs, bodyLgst_wf x h hs, bodySinp_wf x h hs, bodyCosp_wf x h hs, bodySfwait_wf x h hs,
    bodySbinit_wf x h hs, bodySbtake_wf x h hs, bodySbgive_wf x h hs, bodySbread_wf x h hs, bodySbclose_wf x h hs,
    bodyUadd_wf x h hs, bodyUsub_wf x h hs, bodyUmul_wf x h hs, bodyUmulh_wf x h hs, bodyUmad_wf x h hs, bodyUand_wf x h hs,
    bodyUor_wf x h hs, bodyUxor_wf x h hs, bodyUshl_wf x h hs, bodyUshr_wf x h hs, bodyUsra_wf x h hs, bodyUmin_wf x h hs,
    bodyUmax_wf x h hs, bodyUclz_wf x h hs, bodyUpopc_wf x h hs, bodyUlea_wf x h hs, bodyUsel_wf x h hs, bodyUcmp_wf x h hs,
    bodyUmov_wf x h hs, bodyUld_wf x h hs, bodyUst_wf x h hs, bodyIadd_wf x h hs, bodyIsub_wf x h hs, bodyImul_wf x h hs,
    bodyImulh_wf x h hs, bodyImad_wf x h hs, bodyImin_wf x h hs, bodyImax_wf x h hs, bodyIabs_wf x h hs, bodyIand_wf x h hs,
    bodyIor_wf x h hs, bodyIxor_wf x h hs, bodyIshl_wf x h hs, bodyIshr_wf x h hs, bodyIsra_wf x h hs, bodyIclz_wf x h hs,
    bodyIpopc_wf x h hs, bodyIbfx_wf x h hs, bodyIbfi_wf x h hs, bodyIset_wf x h hs, bodyIsel_wf x h hs, bodyFadd_wf x h hs,
    bodyFsub_wf x h hs, bodyFmul_wf x h hs, bodyFfma_wf x h hs, bodyFmin_wf x h hs, bodyFmax_wf x h hs, bodyFset_wf x h hs,
    bodyFclass_wf x h hs, bodyHadd2_wf x h hs, bodyHmul2_wf x h hs, bodyHfma2_wf x h hs, bodyHmin2_wf x h hs, bodyHmax2_wf x h hs,
    bodyCvt_wf x h hs, bodyPack4_wf x h hs, bodyUnpk4_wf x h hs, bodyPlop_wf x h hs, bodyMov_wf x h hs, bodyS2v_wf x h hs, hs]

/-- Each opcode of a tile stream keeps the form. -/
theorem tileBody_wf (xop : BitVec 10) (x : Ext) {s : State} (c b : Nat) (k : Block) (t : Tile) (hs : s.MemWf) :
    (tileBody xop x s c b k t).MemWf := by
  unfold tileBody
  split
  exacts [
    bodyTset_wf x c b k t hs, bodyWindow_wf _ x c b k t hs, bodyWindow_wf _ x c b k t hs, bodyWindow_wf _ x c b k t hs,
    bodyWindow_wf _ x c b k t hs, bodyWindow_wf _ x c b k t hs, bodyWindow_wf _ x c b k t hs, bodyWindow_wf _ x c b k t hs,
    bodyWindow_wf _ x c b k t hs, bodyWindow_wf _ x c b k t hs, bodyWindow_wf _ x c b k t hs, bodyTbar_wf x c b k t hs,
    bodyTloop_wf x c b k t hs, bodyTend_wf x c b k t hs, bodyTfence_wf x c b k t hs, bodyRwperm_wf x c b k t hs,
    bodyTsave_wf x c b k t hs, bodyTrstr_wf x c b k t hs, bodyTnop_wf x c b k t hs, bodyTexit_wf x c b k t hs,
    bodyTnop_wf x c b k t hs]

/-- Each event of the schedule keeps the form. -/
theorem stepEvent_wf (e : Event) {s : State} (hs : s.MemWf) : OutcomeWf (stepEvent e s) := by
  cases e with
  | entryPromotion c b g => exact execEntryPromotion_wf c b g hs
  | reconvDeadlockRelease c b g => exact execReconvDeadlockRelease_wf c b g hs
  | launchRecord t ring => exact execLaunchRecord_wf t ring hs
  | queuePromotion t => exact execQueuePromotion_wf t hs
  | blockDispatch t => exact execBlockDispatch_wf t hs
  | patienceExpiry t l => exact execPatienceExpiry_wf t l hs
  | regionAdmissionStep => exact execRegionAdmissionStep_wf hs
  | blockStart d => exact execBlockStart_wf d hs
  | blockComplete c b => exact execBlockComplete_wf c b hs
  | scheduleSetSelection t l => exact execScheduleSetSelection_wf t l hs
  | variableLatencyReturn c b g i => exact execVariableLatencyReturn_wf c b g i hs
  | scoreboardReturn c b g i => exact execScoreboardReturn_wf c b g i hs
  | tokenComplete c b g k => exact execTokenComplete_wf c b g k hs
  | forcedSwitch c b g => exact execForcedSwitch_wf c b g hs
  | groupDemotion c b g => exact execGroupDemotion_wf c b g hs
  | groupRecall c b g => exact execGroupRecall_wf c b g hs
  | trapDelivery c b g => exact execTrapDelivery_wf c b g hs
  | writeCombiningDrain c line => exact execWriteCombiningDrain_wf c line hs
  | directoryRequest e line write => exact execDirectoryRequest_wf e line write hs
  | guestDropReport e line => exact execGuestDropReport_wf e line hs
  | scratchpadEccError c b => exact execScratchpadEccError_wf c b hs
  | holdEccError c b g key => exact execHoldEccError_wf c b g key hs
  | barrierRelease c b lvl n => exact execBarrierRelease_wf c b lvl n hs
  | andTreeArrival t l n node => exact execAndTreeArrival_wf t l n node hs
  | andTreeRelease t l n => exact execAndTreeRelease_wf t l n hs
  | coreFailure c => exact execCoreFailure_wf c hs
  | stampBookHomeRequest d => exact execStampBookHomeRequest_wf d hs
  | chainRecordFetch c slot => exact execChainRecordFetch_wf c slot hs
  | xferNop c id => exact execXferNop_wf c id hs
  | copy c id => exact execCopy_wf c id hs
  | reduce c id => exact execReduce_wf c id hs
  | mcast c id => exact execMcast_wf c id hs
  | multicastDeliveryAck c id rank => exact execMulticastDeliveryAck_wf c id rank hs
  | copyOperationComplete c id => exact execCopyOperationComplete_wf c id hs
  | monitorWake c b g m => exact execMonitorWake_wf c b g m hs
  | monitorPoll c b g m => exact execMonitorPoll_wf c b g m hs
  | linkPacketReceive d unit seqno crcOk vni red pa payload => exact execLinkPacketReceive_wf d unit seqno crcOk vni red pa payload hs
  | linkReplay d unit rerouted => exact execLinkReplay_wf d unit rerouted hs
  | channelWordArrival c ch => exact execChannelWordArrival_wf c ch hs
  | creditGrant c ch => exact execCreditGrant_wf c ch hs
  | gather c id => exact execGather_wf c id hs
  | scatteradd c id => exact execScatteradd_wf c id hs
  | topk c id => exact execTopk_wf c id hs
  | hist c id => exact execHist_wf c id hs
  | blockq c id => exact execBlockq_wf c id hs
  | req c id => exact execReq_wf c id hs
  | trans c id => exact execTrans_wf c id hs
  | verticalWindow c askers => exact execVerticalWindow_wf c askers hs
  | verticalWireFailure d spareLeft => exact execVerticalWireFailure_wf d spareLeft hs
  | rewriteWindowTimeout c b => exact execRewriteWindowTimeout_wf c b hs
  | segmentFetchComplete c slot => exact execSegmentFetchComplete_wf c slot hs
  | deferredFetchStart c slot => exact execDeferredFetchStart_wf c slot hs
  | pageWalkComplete d t va write agent core l => exact execPageWalkComplete_wf d t va write agent core l hs
  | faultResponse t => exact execFaultResponse_wf t hs
  | xinvGo d => exact execXinvGo_wf d hs
  | xinvComplete d => exact execXinvComplete_wf d hs
  | preemptGo => exact execPreemptGo_wf hs
  | preemptDeadline t => exact execPreemptDeadline_wf t hs
  | resume t => exact execResume_wf t hs
  | pwstepWrite val => exact execPwstepWrite_wf val hs
  | droopAlarm r => exact execDroopAlarm_wf r hs
  | droopRecovery r => exact execDroopRecovery_wf r hs
  | imbalanceSample pair => exact execImbalanceSample_wf pair hs
  | forcefb r => exact execForcefb_wf r hs
  | restack r => exact execRestack_wf r hs
  | drainingEnd r => exact execDrainingEnd_wf r hs
  | switchingEnd r => exact execSwitchingEnd_wf r hs
  | regionTrip r => exact execRegionTrip_wf r hs
  | trippedEnd r => exact execTrippedEnd_wf r hs
  | restartingEnd r pass => exact execRestartingEnd_wf r pass hs
  | domainLoss d cause => exact execDomainLoss_wf d cause hs
  | operatingPointChange d tier pt => exact execOperatingPointChange_wf d tier pt hs
  | timeReferencePulse => exact execTimeReferencePulse_wf hs
  | cxlLinkDown p => exact execCxlLinkDown_wf p hs
  | peerAccess m vni va size write val => exact execPeerAccess_wf m vni va size write val hs
  | hostBar2Access fn addr payload => exact execHostBar2Access_wf fn addr payload hs
  | powerOnBoot image sorter => exact execPowerOnBoot_wf image sorter hs
  | sorterHeartbeat => exact execSorterHeartbeat_wf hs
  | sorterHeartbeatTimeout => exact execSorterHeartbeatTimeout_wf hs
  | sorterMailboxWrite off val => exact execSorterMailboxWrite_wf off val hs
  | topologyRefresh => exact execTopologyRefresh_wf hs
  | tenantReset t => exact execTenantReset_wf t hs
  | functionLevelReset vf => exact execFunctionLevelReset_wf vf hs
  | load t => exact execLoad_wf t hs
  | unload t => exact execUnload_wf t hs
  | fwset t => exact execFwset_wf t hs
  | unpoison t => exact execUnpoison_wf t hs
  | lvlfree t => exact execLvlfree_wf t hs
  | rules t => exact execRules_wf t hs
  | attest t => exact execAttest_wf t hs
  | admitTenant => exact execAdmit_wf hs
  | retire => exact execRetire_wf hs
  | draincore => exact execDraincore_wf hs
  | retrain ok => exact execRetrain_wf ok hs
  | recal => exact execRecal_wf hs
  | drainDeadline => exact execDrainDeadline_wf hs
  | fwupdate => exact execFwupdate_wf hs
  | sorterload ok => exact execSorterload_wf ok hs
  | adminAttest => exact execAdminAttest_wf hs
  | migset => exact execMigset_wf hs
  | errorCounterClear d word => exact execErrorCounterClear_wf d word hs
  | registerWrite fn off val => exact execRegisterWrite_wf fn off val hs
  | memoryError level loc correctable => exact execMemoryError_wf level loc correctable hs
  | courierLinkDown port => exact execCourierLinkDown_wf port hs
  | hostMailboxImage image => exact execHostMailboxImage_wf image hs
  | ringTailWrite fn off val => exact execRingTailWrite_wf fn off val hs

theorem noteGroups_wf {s : State} (hs : s.MemWf) : (noteGroups s).MemWf := hs

/-- An instruction is one that an agent issues, or the step of another agent of the device. -/
theorem issued_or_event (i : Instr) : (∃ r x len, i.issued = some (r, x, len)) ∨ ∃ e, eventOf i = some e := by
  cases i <;> simp [Instr.issued, Instr.form, eventOf]

/-- Whatever instruction it is, the next state's memory is in form. -/
theorem exec_wf (i : Instr) {s : State} (hs : s.MemWf) : OutcomeWf (exec i s) := by
  obtain ⟨r, x, len, h⟩ | ⟨e, h⟩ := issued_or_event i
  · cases ht : r.tile with
    | false =>
      rw [exec_of_issued h ht]
      exact issueGroup_wf len x.s hs fun g _ hu => groupBody_wf r.xop len x g hu
    | true =>
      rw [exec_of_issued_tile h ht]
      exact issueTile_wf len x hs fun _ c b k t hu => tileBody_wf r.xop x c b k t hu
  · rw [exec_of_event h]
    exact stepEvent_wf e hs

theorem next_wf {s : State} (hs : s.MemWf) : OutcomeWf (.next s) := by
  rintro _ ⟨⟩
  exact hs

theorem tryAgent_wf {s : State} (hs : s.MemWf) : OutcomeWf (tryAgent s) := by
  have hr := readyAgent_wf hs
  unfold tryAgent
  split
  case h_1 hu => exact next_wf (hu ▸ hr :)
  case h_2 u hu =>
    have hr : u.MemWf := (hu ▸ hr :)
    split
    · exact next_wf hr
    · split
      · exact exec_wf _ hr
      · exact next_wf (streamIllop_wf hr)
      · exact next_wf (streamMissing_wf hr)

theorem stepAgent_wf {s : State} (hs : s.MemWf) : OutcomeWf (stepAgent s) := by
  unfold stepAgent
  split
  · exact next_wf hs
  · exact tryAgent_wf hs

theorem stepTurn_wf (t : Turn) {s : State} (hs : s.MemWf) : OutcomeWf (stepTurn s t) := by
  cases t with
  | agent a => exact stepAgent_wf hs
  | event e => exact stepEvent_wf e hs
  | elapse n => exact next_wf hs

theorem step_wf {s : State} (hs : s.MemWf) : OutcomeWf (step s) := by
  unfold step
  extract_lets u
  have hu : u.MemWf := noteGroups_wf hs
  split
  · exact stepTurn_wf _ hu
  · split
    · exact stepTurn_wf _ hu
    · exact next_wf hu

/-- Settles O59: each step's turn keeps memory's canonical form, since whatever stores into memory does. -/
theorem memoryStaysCanonical : Obligations.MemoryStaysCanonical := by
  unfold Obligations.MemoryStaysCanonical
  exact fun s t hs h => step_wf hs t h

end Sys2Proof.Machine
end

section
/-! ### The copy unit's steps (R121-R136) -/
namespace Sys2Proof.Machine
open Sys2Proof

theorem getOp_id {s : State} {c id : Nat} {op : Op} (h : getOp s c id = some op) : op.id = id :=
  beq_iff_eq.mp (List.find?_some h :)

theorem mem_ops_of_getOp {s : State} {c id : Nat} {op : Op} (h : getOp s c id = some op) : op ∈ (s.core c).ops :=
  List.mem_of_find?_eq_some h

/-- An operation changed is found changed. -/
theorem getOp_updOp {s : State} {c id : Nat} {op : Op} {f : Op → Op} (hf : ∀ o, (f o).id = o.id) (h : getOp s c id = some op) :
    getOp (updOp s c id f) c id = some (f op) := by
  have hp : ((fun o : Op => o.id == id) ∘ fun o => if o.id = id then f o else o) = fun o => o.id == id := by
    funext o
    by_cases ho : o.id = id <;> simp [ho, hf]
  have hid := getOp_id h
  unfold getOp updOp at *
  rw [State.updCore_core_self, List.find?_map, hp, h, Option.map_some, if_pos hid]

theorem getOp_updBlock (s : State) (c b c' id : Nat) (f : Block → Block) : getOp (s.updBlock c b f) c' id = getOp s c' id := by
  unfold getOp State.updBlock
  by_cases h : c' = c
  · rw [h, State.updCore_core_self]
  · rw [State.updCore_core_ne s _ h]

/-- An operation that starts is to move its payload; a multicast has its ranks to deliver to (R130). -/
theorem getOp_startOp {s : State} {c id : Nat} {op : Op} (h : getOp s c id = some op) :
    getOp (startOp s c op) c id = some { op with stage := .payload, todo := if xOp op.w = 3 then xCmask op.w else [] } := by
  have hb := fun f => (getOp_updBlock s c op.block c id f).trans h
  obtain rfl := getOp_id h
  exact getOp_updOp (f := fun o => { o with stage := .payload, todo := if xOp o.w = 3 then xCmask o.w else [] })
    (fun _ => rfl) (hb _)

/-- A waiting operation of the copy unit that may start starts (R127). -/
theorem startedOp_waiting {s : State} {c id kind : Nat} {op : Op} (h : getOp s c id = some op) (he : op.eng = 0)
    (hk : xOp op.w = kind) (hw : op.stage = .waiting) (hm : mayStart s c op = true) :
    startedOp s c id kind = some (startOp s c op, { op with stage := .payload }) := by
  simp [startedOp, h, he, hk, hw, hm]

/-- One that moves its payload goes on. -/
theorem startedOp_payload {s : State} {c id kind : Nat} {op : Op} (h : getOp s c id = some op) (he : op.eng = 0)
    (hk : xOp op.w = kind) (hp : op.stage = .payload) : startedOp s c id kind = some (s, op) := by
  simp [startedOp, h, he, hk, hp]

/-- What a complete operation without a postmark does, and one that stays. -/
theorem leaveIfBare_eq {s : State} {c id : Nat} {op : Op} (h : getOp s c id = some op) :
    leaveIfBare s c id = if op.eng = 0 ∧ op.stage = .done ∧ xPm op.w = 0 then leaveOp s c op else s := by
  simp [leaveIfBare, h, and_assoc]

/-! What barriers do to blocks leaves a core's operations. -/

theorem updBlock_ops (s : State) (c b i : Nat) (f : Block → Block) : ((s.updBlock c b f).core i).ops = (s.core i).ops := by
  unfold State.updBlock
  by_cases h : i = c
  · rw [h, State.updCore_core_self]
  · rw [State.updCore_core_ne s _ h]

theorem setBar_ops (s : State) (c b i : Nat) (k : Block) (g lvl n : Nat) (v : Bar) :
    ((setBar s c b k g lvl n v).core i).ops = (s.core i).ops := by
  unfold setBar
  split
  · exact updBlock_ops ..
  · split <;> rfl

theorem updSharers_ops (s : State) (c b i : Nat) (k : Block) (lvl : Nat) (f : Block → Block) :
    ((updSharers s c b k lvl f).core i).ops = (s.core i).ops := by
  unfold updSharers
  split
  · exact updBlock_ops ..
  · simp only [State.core, kget_kmap]
    cases kget s.cores i <;> rfl

theorem completeBar_ops (s : State) (c b i : Nat) (k : Block) (g lvl n : Nat) :
    ((completeBar s c b k g lvl n).core i).ops = (s.core i).ops := by
  simp only [completeBar]
  split
  · split <;> simp only [updBlock_ops, setBar_ops]
  · rw [updSharers_ops]
    split <;> simp only [updBlock_ops, setBar_ops]

theorem tryComplete_ops (s : State) (c b g lvl n i : Nat) : ((tryComplete s c b g lvl n).core i).ops = (s.core i).ops := by
  unfold tryComplete
  split
  · split
    · rfl
    · split
      · exact completeBar_ops ..
      · rfl
  · rfl

theorem memberArrive_ops (s : State) (c b g lvl n m i : Nat) : ((memberArrive s c b g lvl n m).core i).ops = (s.core i).ops := by
  unfold memberArrive
  split
  · exact (tryComplete_ops ..).trans (setBar_ops ..)
  · rfl

theorem trimHeld_ops (s : State) (c i : Nat) : ((s.updCore c Core.trimHeld).core i).ops = (s.core i).ops := by
  by_cases h : i = c
  · rw [h, State.updCore_core_self]
    rfl
  · rw [State.updCore_core_ne s _ h]

theorem settleHeld_ops (s : State) (c b i : Nat) : ((settleHeld s c b).core i).ops = (s.core i).ops := by
  unfold settleHeld
  extract_lets u
  split
  · exact trimHeld_ops ..
  · refine foldl_keeps (fun v : State => (v.core i).ops = (s.core i).ops) _ (fun v h hv => ?_) _ u (trimHeld_ops ..)
    rw [memberArrive_ops, updBlock_ops, hv]

/-- An operation that leaves is on its core no more. -/
theorem getOp_leaveOp (s : State) (c : Nat) (op : Op) : getOp (leaveOp s c op) c op.id = none := by
  simp only [getOp, leaveOp, settleHeld_ops, State.updCore_core_self]
  simp

/-- An operation that `leaveIfBare` leaves there is as it was. -/
theorem getOp_leaveIfBare {s : State} {c id : Nat} {op o : Op} (h : getOp s c id = some op)
    (ho : getOp (leaveIfBare s c id) c id = some o) : o = op := by
  have hid := getOp_id h
  rw [leaveIfBare_eq h] at ho
  split at ho
  · rw [← hid, getOp_leaveOp] at ho
    cases ho
  · exact (Option.some.inj (h.symm.trans ho)).symm

/-! #### Chains (R126, R134) -/

/-- A slot in RUN whose record can be read: the record's words, read with an acquire, decide (R126). -/
theorem fetchRecord_read {s p : State} {c i pa : Nat} {n : ChainSlot} {k : Block} {r : List Nat}
    (hn : kget (s.core c).chains i = some n) (hrun : n.state = 1) (hf : n.fault = none) (hk : s.block c n.owner = some k)
    (hd : k.draining = false) (hx : engXlat s c k.tenant k.launch 2 64 [(n.cur, false)] = (p, .ok (pa :: r)))
    (hl : lineReadable p k.tenant (lineOf pa) = true) :
    let u := (homeRead (drainLine p c (lineOf pa)) k.tenant pa 64).1
    let v := acquireAt u none (blockWho u c k none) 2 pa
    let w := readWords v.mem pa 8
    fetchRecord s c i =
      if bit (word w 0) 63 && xferOk w k.clus k.kern.scratch true then
        match engXlat v c k.tenant k.launch 2 8 [(n.cur, true)] with
        | (s, .ok _) => takeRecord s c i n k pa w
        | (s, r) => slotFault s c i n r
      else takeRecord v c i n k pa w := by
  intro u v w
  simp only [fetchRecord, hn, hk, hrun, hd, hf, hx, hl, chRun]
  rfl

theorem takeRecord_waits {s : State} {c i pa : Nat} {n : ChainSlot} {k : Block} {w : List W64} (h : bit (word w 0) 63 = false) :
    takeRecord s c i n k pa w = setSlot s c i { n with state := 2 } := by
  simp [takeRecord, h, chWait]

theorem takeRecord_refused {s : State} {c i pa : Nat} {n : ChainSlot} {k : Block} {w : List W64} (h : bit (word w 0) 63 = true)
    (hok : xferOk w k.clus k.kern.scratch true = false) : takeRecord s c i n k pa w =
      postFault (setSlot s c i { n with state := 3 }) k.tenant 3 c k.launch
        [BitVec.ofNat 64 n.cur, BitVec.ofNat 64 i, 0, 0, 0, 0] := by
  simp [takeRecord, h, hok, chError]

theorem takeRecord_taken {s : State} {c i pa : Nat} {n : ChainSlot} {k : Block} {w : List W64} (h : bit (word w 0) 63 = true)
    (hok : xferOk w k.clus k.kern.scratch true = true) (hroom : copyRoom (s.core c) w = true) : takeRecord s c i n k pa w =
      setSlot (strongWrite (homeAccess (acceptXfer s c n.owner k.tenant 0 w (some (i, n.cur))) k.tenant (lineOf pa) true)
          k.tenant (coreDomain c) pa 8 (bits (word w 0) 0 63)) c i
        { n with cur := bits (word w 0) 0 56
                 state := if bits (word w 0) 0 56 = 0 then 0 else if n.cur = n.tail then 2 else 1 } := by
  simp [takeRecord, h, hok, hroom, chIdle, chWait, chRun]

/-! #### Payloads (R124, R128, R131) -/

/-- What of a payload's movement an operation's state decides: its record, its order and how far it is. -/
theorem movePayload_started {s u : State} {c id kind : Nat} {op : Op} (h : startedOp s c id kind = some (u, op)) :
    movePayload s c id kind = updOp (match (moveList op)[op.prog]? with
        | some (i, e) => (moveElem u c id i e).1
        | none => u) c id
      fun o => if o.stage = .payload ∧ (moveList op).length ≤ o.prog then { o with stage := .done } else o := by
  simp only [movePayload, h, List.head?_drop, Bool.and_eq_true, beq_iff_eq, decide_eq_true_eq] <;> rfl

/-- A COPY or REDUCE that starts moves as one that has just started (R124). -/
theorem runCopy_start {s : State} {c id kind : Nat} {op : Op} (h : getOp s c id = some op) (he : op.eng = 0)
    (hk : xOp op.w = kind) (hw : op.stage = .waiting) (hm : mayStart s c op = true) :
    runCopy s c id kind = runCopy (startOp s c op) c id kind := by
  have hu := getOp_startOp (c := c) h
  unfold runCopy
  rw [movePayload_started (startedOp_waiting h he hk hw hm), movePayload_started (startedOp_payload hu he hk rfl)]
  rfl

/-- The next element moves. -/
theorem runCopy_moves {s v : State} {c id kind : Nat} {op : Op} {p : Nat × Int × Int} (h : getOp s c id = some op)
    (he : op.eng = 0) (hk : xOp op.w = kind) (hp : op.stage = .payload) (hnext : (moveList op)[op.prog]? = some p)
    (hmove : moveElem s c id p.1 p.2 = (v, true)) :
    runCopy s c id kind = leaveIfBare (updOp v c id fun o =>
      if o.stage = .payload ∧ (moveList op).length ≤ o.prog then { o with stage := .done } else o) c id := by
  obtain ⟨i, e⟩ := p
  unfold runCopy
  rw [movePayload_started (startedOp_payload h he hk hp), hnext]
  simp only [hmove]

theorem keepOld_apart {op : Op} (h : xOverlaps op.w = false) (s : State) (c va dst n : Nat) : keepOld s c op va dst n = s := by
  simp [keepOld, h]

theorem oldOrNew_fresh {op : Op} (h : op.olds = []) (i va n v : Nat) : oldOrNew op i va n v = v := by
  simp [oldOrNew, h]

/-- An element whose addresses translate and whose source can be read is put at its destination, and counts (R124). -/
theorem moveElem_moves {s u v : State} {c id i x : Nat} {op : Op} {e : Int × Int} {pas : List Nat} (h : getOp s c id = some op)
    (hold : op.olds = []) (hov : xOverlaps op.w = false)
    (hx : engXlat s c op.tenant (opLaunch s c op) 2 (xEs op.w) ((if xSsp op.w == 1 then [] else [(engAddr e.1, false)]) ++
      if xDsp op.w != 0 then [] else [(engAddr e.2, true)]) = (u, .ok pas))
    (hr : elemRead u c op.block op.tenant (xSsp op.w == 1) (if xSsp op.w == 1 then engAddr e.1 else pas.getD 0 0) (xEs op.w) =
      (v, some x)) :
    moveElem s c id i e = (updOp (putElem v c op
      (if xDsp op.w != 0 then engAddr e.2 else pas.getD (if xSsp op.w == 1 then [] else [(engAddr e.1, false)]).length 0) x) c id
        fun o => { o with prog := o.prog + 1 }, true) := by
  simp only [moveElem, h, hx, hr, keepOld_apart hov, oldOrNew_fresh hold]

/-! #### Deliveries, the postmark and the end (R127, R128, R130) -/

/-- NOP is done at once. -/
theorem runNop_start {s : State} {c id : Nat} {op : Op} (h : getOp s c id = some op) (he : op.eng = 0) (hk : xOp op.w = 0)
    (hw : op.stage = .waiting) (hm : mayStart s c op = true) :
    let v := updOp (startOp s c op) c id fun o => { o with stage := .done }
    runNop s c id = if xPm op.w = 0 then leaveOp v c { op with stage := .done } else v := by
  intro v
  have hv : getOp v c id = _ := getOp_updOp (f := fun o => { o with stage := .done }) (fun _ => rfl) (getOp_startOp h)
  simp only [runNop, startedOp_waiting h he hk hw hm]
  refine (leaveIfBare_eq hv).trans ?_
  simp only [he, true_and]
  rfl

theorem runMcast_start {s : State} {c id : Nat} {op : Op} (h : getOp s c id = some op) (he : op.eng = 0) (hk : xOp op.w = 3)
    (hw : op.stage = .waiting) (hm : mayStart s c op = true) :
    runMcast s c id = deliverAll (startOp s c op) c id (xCmask op.w) := by
  simp only [runMcast, startedOp_waiting h he hk hw hm, getOp_startOp h, hk]
  rfl

/-- A delivery's acknowledgement; the last one completes the multicast. -/
theorem ackDelivery_acks {s : State} {c id rank : Nat} {op : Op} (h : getOp s c id = some op) (hst : op.stage = .acks)
    (hr : rank ∈ op.acks) :
    ackDelivery s c id rank = leaveIfBare (updOp (updOp s c id fun o => { o with acks := o.acks.filter fun x => x != rank }) c id
      fun o => { o with stage := if o.todo.isEmpty && o.acks.isEmpty then .done else .acks }) c id := by
  simp [ackDelivery, h, hst, hr]

/-- Acknowledged by every rank that it is to reach a multicast is done. -/
theorem getOp_acked {s : State} {c id rank : Nat} {op : Op} (h : getOp s c id = some op) :
    ∃ q, getOp (updOp (updOp s c id fun o => { o with acks := o.acks.filter fun x => x != rank }) c id
        fun o => { o with stage := if o.todo.isEmpty && o.acks.isEmpty then .done else .acks }) c id = some q ∧
      q.stage = if op.todo = [] ∧ (op.acks.filter fun x => x != rank) = [] then .done else .acks := by
  have hw := getOp_updOp (f := fun o => { o with stage := if o.todo.isEmpty && o.acks.isEmpty then .done else .acks })
    (fun _ => rfl) (getOp_updOp (f := fun o => { o with acks := o.acks.filter fun x => x != rank }) (fun _ => rfl) h)
  refine ⟨_, hw, ?_⟩
  simp only [Bool.and_eq_true, List.isEmpty_iff]

theorem finishOp_done {s : State} {c id : Nat} {op : Op} (h : getOp s c id = some op) (hst : op.stage = .done)
    (hearly : earlierOps (s.core c) op = []) :
    finishOp s c id = if bits (word op.w 6) 0 56 = 0 then leaveOp s c op else
      match postmark s c op (bits (word op.w 6) 0 56) (if op.eng = 0 then xScope op.w else cmdScope op.w) (word op.w 7)
        (if op.eng = 0 then 2 else 3) with
      | (s, true) => leaveOp s c op
      | (s, false) => s := by
  simp only [finishOp, h, hst, hearly]
  rfl

/-- Settles O48: each event by the lemma of its operation, an operation that leaves being found no more. -/
theorem copyUnitSteps : Obligations.CopyUnitSteps := by
  refine ⟨?chain, ?start, ?payload, ?element, ?deliver, ?ack, ?complete⟩
  case chain =>
    intro s c i n k p pa r hn hrun hf hk hd hx hl u v w
    have hfetch : fetchRecord s c i = _ := fetchRecord_read hn hrun hf hk hd hx hl
    change _ = if bit (word w 0) 63 && _ then _ else _ at hfetch
    refine ⟨fun hw => congrArg Host.Outcome.next ?_, fun hw hok => congrArg Host.Outcome.next ?_,
      fun y q hw hok hy hroom => congrArg Host.Outcome.next ?_⟩
    · rw [hfetch, hw]
      exact takeRecord_waits hw
    · rw [hfetch, hok, Bool.and_false]
      exact takeRecord_refused hw hok
    · rw [hfetch, hw, hok, Bool.and_true, if_pos rfl, hy]
      exact takeRecord_taken hw hok hroom
  case start =>
    intro s c id op h he hw hm u
    refine ⟨fun hk => congrArg Host.Outcome.next (runNop_start h he hk hw hm),
      fun hk => congrArg Host.Outcome.next (runMcast_start h he hk hw hm), fun e hmem hk => ?_⟩
    rcases List.mem_pair.mp hmem with rfl | rfl <;> exact congrArg Host.Outcome.next (runCopy_start h he hk hw hm)
  case payload =>
    intro s c id op h he hp
    refine ⟨freeOrder_perm .., fun e hmem hk p v hnext hmove => ?_⟩
    rcases List.mem_pair.mp hmem with rfl | rfl <;> exact congrArg Host.Outcome.next (runCopy_moves h he hk hp hnext hmove)
  case element =>
    intro s c id op k i e h hk hold hov n on
    have hlaunch : opLaunch s c op = k.launch := by simp [opLaunch, hk]
    refine ⟨fun hs hd => ?scratch, fun hs hd hcopy u src dst v x hx hr => ?memory⟩
    case scratch =>
      have hmove := moveElem_moves (i := i) (e := e) (u := s) (v := s) (pas := []) (x := k.scratchNat (engAddr e.1) n) h hold hov
        (by simp [hs, hd, engXlat]) (by simp [hs, elemRead, hk, n])
      refine ⟨fun hop => hmove.trans ?_, fun hop => hmove.trans ?_⟩
      · simp [putElem, hop, hd, n]
      · simp [putElem, hop, hd, n]
    case memory =>
      refine (moveElem_moves (i := i) (e := e) (u := u) (v := v) (pas := [src, dst]) (x := x) h hold hov
        (by simp [hs, hd, hlaunch]; exact hx) (by simp [hs, elemRead]; exact hr)).trans ?_
      simp [putElem, hcopy, hs, hd, n]
  case deliver =>
    intro s c op rank es vs k rc rb hk hat
    refine ⟨_, freeOrder_perm (Config.castOrder op.seed rank) es.length (es.zip vs), ?_⟩
    simp only [deliverRank, hk, hat]
  case ack =>
    intro s c id op rank h hst hr left
    have hacks := ackDelivery_acks h hst hr
    obtain ⟨q, hq, hstage⟩ := getOp_acked (rank := rank) h
    refine ⟨fun hmore => congrArg Host.Outcome.next (hacks.trans ?_), fun hl ht => ⟨_, rfl, fun o ho => ?_⟩⟩
    · have hmore : ¬(op.todo = [] ∧ left = []) := fun hnone => hmore.elim (· hnone.2) (· hnone.1)
      rw [if_neg hmore] at hstage
      refine (leaveIfBare_eq hq).trans (if_neg fun hbare => ?_)
      rw [hstage] at hbare
      obtain ⟨-, ⟨⟩, -⟩ := hbare
    · rw [hacks] at ho
      rw [getOp_leaveIfBare hq ho, hstage, if_pos ⟨ht, hl⟩]
  case complete =>
    intro s c id op h hst hearly
    have hfin := finishOp_done h hst hearly
    refine ⟨fun hpm => congrArg Host.Outcome.next (hfin.trans (if_pos hpm)),
      fun u hpm hmark => congrArg Host.Outcome.next (hfin.trans ((if_neg hpm).trans ?_))⟩
    rw [hmark]

end Sys2Proof.Machine
end

section
/-! ### Page walks, fault answers, invalidation and pre-emption (R389-R398) -/
namespace Sys2Proof.Machine
open Sys2Proof

theorem mem_of_kget {α : Type} {m : KMap α} {k : Nat} {v : α} (h : kget m k = some v) : (k, v) ∈ m := by
  induction m with
  | nil => cases h
  | cons p r ih =>
    obtain ⟨j, w⟩ := p
    unfold kget at h
    split at h
    case isTrue hj =>
      cases h
      rw [← hj]
      exact List.mem_cons_self
    case isFalse => exact List.mem_cons_of_mem _ (ih h)

/-! #### Walks (R391, R392) -/

theorem pendingFault_none {s : State} {d t va : Nat} {w : Bool}
    (h : ∀ p ∈ (s.dom d).faults, ¬(p.2.tenant = t ∧ p.2.page = va / 65536 ∧ p.2.write = w)) : pendingFault s d t va w = none := by
  simp only [pendingFault, Option.map_eq_none_iff, List.find?_eq_none, Bool.and_eq_true, beq_iff_eq, and_assoc]
  exact h

/-- A walk that succeeds is cached. -/
theorem translate_ok {s u : State} {d t va pa sh : Nat} {wr w : Bool} (hc : tlbFind s d t va wr = none)
    (hw : walk s t va wr = (u, .ok pa sh w)) :
    let n := 2 ^ (sh - 16)
    let e : TlbEntry := ⟨t, va / 65536 / n * n, n, pa / 65536 - va / 65536 % n, w⟩
    translate s d t va wr =
      (u.updDom d fun k => { k with tlb := e :: k.tlb.filter fun x => !(x.tenant == t && x.vpage == e.vpage) }, .ok pa sh w) := by
  simp only [translate, hc, hw]

/-- One that fails leaves the fault table as it was. -/
theorem translate_fail {s u : State} {d t va cause level at_ : Nat} {wr : Bool} {pte : W64} (hc : tlbFind s d t va wr = none)
    (hw : walk s t va wr = (u, .fail cause level at_ pte)) :
    ∃ v, translate s d t va wr = (v, .fail cause level at_ pte) ∧ (v.dom d).nextFid = (u.dom d).nextFid ∧
      (v.dom d).faults = (u.dom d).faults := by
  simp only [translate, hc, hw]
  refine ⟨_, rfl, ?_⟩
  split
  · rw [State.updDom_dom_self]
    exact ⟨rfl, rfl⟩
  · exact ⟨rfl, rfl⟩

/-- An access that no cached translation serves and no entry of the fault table awaits is translated anew (R392). -/
theorem accessPage_walks {s u : State} {d t va agent core l pa sh : Nat} {wr w : Bool} (hva : va < 2 ^ 56)
    (hc : tlbFind s d t va wr = none) (hp : pendingFault s d t va wr = none)
    (hx : translate s d t va wr = (u, .ok pa sh w)) : accessPage s d t va wr agent core l = (u, .ok pa) := by
  simp only [accessPage, if_pos hva, hc, hp, hx]

/-- A failure that may be replayed becomes an entry of the fault table, while it has room (R392). -/
theorem accessPage_faults {s u : State} {d t va agent core l cause level at_ : Nat} {wr : Bool} {pte : W64} (hva : va < 2 ^ 56)
    (hc : tlbFind s d t va wr = none) (hp : pendingFault s d t va wr = none)
    (hx : translate s d t va wr = (u, .fail cause level at_ pte)) (hr : replayable cause = true)
    (hroom : (u.dom d).faults.length < 1024) :
    kget ((accessPage s d t va wr agent core l).1.dom d).faults (u.dom d).nextFid = some ⟨t, va / 65536, wr, cause⟩ := by
  have h0 : cause ≠ 0 := by rintro rfl; exact absurd hr (by decide)
  simp only [accessPage, if_pos hva, hc, hp, hx, if_neg h0, hr, Bool.true_and, decide_eq_true_eq, Nat.not_le.mpr hroom, if_false,
    if_true, State.updDom_dom_self, kget_kset_self]

/-! #### Answers (R394) -/

/-- An answer that is read frees its entry, and the accesses of the entry walk again or fail. -/
theorem answerFault_reads {s u : State} {t d fid : Nat} {w : List W64} {f : FaultEntry}
    (hseen : ((s.ten t).ring ringFQ).seen ≠ ((s.ten t).ring ringFQ).head)
    (hp : kget (s.ten t).fqPosted ((s.ten t).ring ringFQ).seen.toNat = some (d, fid))
    (hl : deviceLoad s t (((s.ten t).ring ringFQ).slot ((s.ten t).ring ringFQ).seen 64) 8 = (u, some w)) :
    let v := (u.updRing t ringFQ fun r => { r with seen := r.seen + 1 }).updTen t fun n =>
      { n with fqPosted := kdel n.fqPosted ((s.ten t).ring ringFQ).seen.toNat }
    let p := postWaiting v t (v.ten t).fqWait.length
    kget (p.dom d).faults fid = some f → f.tenant = t →
    let q := p.updDom d fun k => { k with faults := kdel k.faults fid }
    answerFault s t = if bits (word w 7) 0 2 < 2 then retryFault q d fid else failFault q d fid := by
  intro v p hf ht q
  simp only [answerFault, if_neg hseen, hl, hp]
  change (if ((kget (p.dom d).faults fid).map fun f => f.tenant) == some t then _ else _) = _
  rw [hf, Option.map_some, ht, beq_self_eq_true, if_pos rfl]
  rfl

/-- A group that waits for one entry alone waits for nothing once the entry's accesses walk again. -/
theorem retryFault_group {s : State} {d fid c b g va : Nat} {x : Group} (hx : s.group c b g = some x)
    (hp : x.park = some (.fault [(d, fid, va)])) : (retryFault s d fid).group c b g = some { x with park := some (.fault []) } := by
  unfold State.group State.block State.core at *
  simp only [retryFault, kget_kmap]
  cases hc : kget s.cores c with
  | none =>
    rw [hc] at hx
    cases hx
  | some k =>
    rw [hc] at hx
    obtain ⟨y, hy, hg⟩ := Option.bind_eq_some_iff.mp hx
    simp only [Option.map_some, Option.getD_some] at hy ⊢
    simp [kget_kmap, hy, hg, clearWaits, hp]

/-! #### Invalidation (R395) -/

/-- Demoting handles leaves every domain's cached translations. -/
theorem demoteRemapped_tlb (s : State) (t va n e : Nat) : ((demoteRemapped s t va n).dom e).tlb = (s.dom e).tlb := by
  unfold demoteRemapped
  refine foldl_keeps (fun u : State => (u.dom e).tlb = (s.dom e).tlb) _ (fun u h hu => ?_) _ s rfl
  rw [← hu]
  simp only [State.dom, kget_kmap]
  cases kget u.domains e <;> rfl

/-- Filtering the cached translations of every domain. -/
theorem dom_filterTlb (s : State) (p : TlbEntry → Bool) (e : Nat) :
    (State.dom { s with domains := kmap s.domains fun _ (x : Domain) => { x with tlb := x.tlb.filter p } } e).tlb =
      (s.dom e).tlb.filter p := by
  simp only [State.dom, kget_kmap]
  cases kget s.domains e <;> rfl

theorem updDom_tlb {s : State} {f : Domain → Domain} (hf : ∀ k, (f k).tlb = k.tlb) (d e : Nat) :
    ((s.updDom d f).dom e).tlb = (s.dom e).tlb := by
  by_cases h : e = d
  · rw [h, State.updDom_dom_self, hf]
  · rw [State.updDom_dom_ne s f h]

/-- The translations that XINV names (R395). -/
def xinvCovers (k : Domain) (e : TlbEntry) : Prop :=
  e.tenant = bits k.xinvn 24 6 ∧ (bits k.xinvn 0 24 = 0 ∨
    (e.vpage < bits k.xinva 16 40 + bits k.xinvn 0 24 ∧ bits k.xinva 16 40 < e.vpage + e.npages))

/-- GO removes the translations that it names and no other. -/
theorem invalidateGo_tlb {s : State} {d : Nat} (h : (s.dom d).xinvBusy = false) (e : Nat) (x : TlbEntry) :
    x ∈ ((invalidateGo s d).dom e).tlb ↔ x ∈ (s.dom e).tlb ∧ ¬ xinvCovers (s.dom d) x := by
  unfold invalidateGo
  extract_lets k t n page covers u v
  have hgo : ((v.updDom d fun k => { k with xinvBusy := true, xinvFor := t }).dom e).tlb = (v.dom e).tlb := by
    refine updDom_tlb ?_ d e
    exact fun _ => rfl
  have hv : (v.dom e).tlb = (u.dom e).tlb := by
    unfold v
    split <;> exact demoteRemapped_tlb ..
  rw [if_neg (by rw [show k.xinvBusy = false from h]; decide), hgo, hv, dom_filterTlb, List.mem_filter]
  have hc : covers x = true ↔ xinvCovers (s.dom d) x := by simp [covers, xinvCovers, k, t, n, page]
  rw [← hc, Bool.not_eq_true', Bool.not_eq_true]

theorem invalidateGo_busy {s : State} {d : Nat} (h : (s.dom d).xinvBusy = false) :
    ((invalidateGo s d).dom d).xinvBusy = true ∧ ((invalidateGo s d).dom d).xinvFor = bits (s.dom d).xinvn 24 6 := by
  simp only [invalidateGo, h, Bool.false_eq_true, if_false, State.updDom_dom_self, and_self]

theorem asksHome_iff (s : State) (t : Nat) :
    asksHome s t = true ↔ ∃ p ∈ s.domains, ∃ r ∈ p.2.sbReqs, s.coreTenant r.core = t := by
  simp [asksHome]

/-! #### Pre-emption (R396-R398) -/

/-- Two changes of a tenant that agree on it as it is. -/
theorem updTen_congr {s : State} {t : Nat} {f g : Tenant → Tenant} (h : f (s.ten t) = g (s.ten t)) : s.updTen t f = s.updTen t g := by
  unfold State.updTen
  rw [h]

/-- A tenant none of whose blocks is on a core has none to reach. -/
theorem tenantBlocks_nil {s : State} {t : Nat} (h : ∀ p ∈ s.cores, ∀ q ∈ p.2.blocks, q.2.tenant ≠ t) : tenantBlocks s t = [] := by
  refine List.filter_eq_nil_iff.mpr fun p _ => ?_
  obtain ⟨c, b⟩ := p
  dsimp only
  split
  case h_1 k hk =>
    unfold State.block State.core at hk
    cases hc : kget s.cores c with
    | none =>
      rw [hc] at hk
      cases hk
    | some x =>
      rw [hc] at hk
      simpa using h _ (mem_of_kget hc) _ (mem_of_kget hk)
  case h_2 => exact Bool.false_ne_true

/-- Being pre-empted with no block on a core it is PREEMPTED, and PF vector 0 is sent (R397). -/
theorem settlePreempt_empty {s : State} {t : Nat} (hp : (s.ten t).pstat = 1)
    (h : ∀ p ∈ s.cores, ∀ q ∈ p.2.blocks, q.2.tenant ≠ t) :
    settlePreempt s t = (s.updTen t fun n => { n with pstat := 2 }).msix 0 0 := by
  have hnone : (s.cores.any fun p => p.2.blocks.any fun q => q.2.tenant == t) = false := by simpa using h
  unfold settlePreempt
  rw [hp]
  change (if (true && !(s.cores.any fun p => p.2.blocks.any fun q => q.2.tenant == t)) = true then _ else _) = _
  rw [hnone]
  rfl

/-- A block that holds no arrival has none to settle. -/
theorem settleHeld_none {s : State} {c b : Nat} {k : Block} (hk : s.block c b = some k) (hh : k.held = []) :
    settleHeld s c b = s.updCore c Core.trimHeld ∧ (settleHeld s c b).block c b = some k := by
  have hb : (s.updCore c Core.trimHeld).block c b = some k := by
    unfold State.block at hk ⊢
    rw [State.updCore_core_self]
    simp [Core.trimHeld, Core.mapBlocks, kget_kmap, hk, hh]
  have hs : settleHeld s c b = s.updCore c Core.trimHeld := by
    unfold settleHeld
    extract_lets u
    rw [show u.block c b = some k from hb]
    simp only [hh, List.filter_nil, List.foldl_nil]
    rfl
  exact ⟨hs, hs ▸ hb⟩

/-- GO (R397): the tenant's blocks on cores are reached one after another. -/
theorem preemptGo_started {s : State} {st : BitVec 2} (hp : (s.ten (bits s.mod.pctl 0 6)).pstat = 0)
    (hs : bits s.mod.pctl 61 2 ≠ 3)
    (hst : st = if bits s.mod.pctl 61 2 = 2 ∨
      ¬((s.ten (bits s.mod.pctl 0 6)).domains.length ≤ 16 ∧ (s.ten (bits s.mod.pctl 0 6)).pctx ≠ 0) then 2 else 1)
    (hcan : bits s.mod.pctl 61 2 = 1 →
      (s.ten (bits s.mod.pctl 0 6)).domains.length ≤ 16 ∧ (s.ten (bits s.mod.pctl 0 6)).pctx ≠ 0) :
    let t := bits s.mod.pctl 0 6
    let us := if bits s.mod.pctl 32 16 = 0 then 200 else bits s.mod.pctl 32 16
    let u := s.updTen t fun n => { n with pstat := 1, pstyle := st, pdeadline := s.now + 1000 * us }
    preemptGo s = settlePreempt ((tenantBlocks u t).foldl (fun s p => preemptBlock s p.1 p.2) u) t := by
  intro t us u
  unfold preemptGo
  extract_lets style n canSave st' u'
  have hc : canSave = true ↔ (n.domains.length ≤ 16 ∧ n.pctx ≠ 0) := by simp [canSave]
  have hst' : st' = st := by
    rw [hst]
    simp only [st', Bool.or_eq_true, decide_eq_true_eq, Bool.not_eq_true', ← Bool.not_eq_true, hc]
    rfl
  have hgo : ¬((n.pstat != 0 || decide (style = 3) || (decide (style = 1) && !canSave)) = true) := by
    simp only [Bool.or_eq_true, bne_iff_ne, decide_eq_true_eq, Bool.and_eq_true, Bool.not_eq_true', ← Bool.not_eq_true, hc]
    rintro ((h | h) | ⟨h1, h2⟩)
    · exact h hp
    · exact hs h
    · exact h2 (hcan h1)
  rw [if_neg hgo]
  simp only [u', hst']
  rfl

/-- A released block without a stream or a held arrival, whose core and slot are there, is on its core again, resumed. -/
theorem restoreBlock_resumes {s : State} {c b : Nat} {k : Block} (ho : k.orphan = false) (hl : contextLost s c k.tenant = false)
    (hh : k.held = []) (ht : k.tile = none) : ∃ v, restoreBlock s c b k = recheckBlock v c b ∧ v.block c b =
      some { k with groups := kmap k.groups fun _ g => resumeGroup g, scratch := [], zeros := [], epoch := s.tick } := by
  unfold restoreBlock
  extract_lets k' u v saved
  have hu : u.block c b = some k' := by
    unfold State.block
    rw [State.updCore_core_self]
    exact kget_kset_self ..
  obtain ⟨hv, hvb⟩ := settleHeld_none (k := k') hu hh
  have hlost : contextLost v c k.tenant = false := by
    rw [show v = u.updCore c Core.trimHeld from hv]
    exact hl
  have hsaved : saved = false := by simp [saved, ht]
  exact ⟨v, by simp [ho, hlost, hsaved], hvb⟩

/-- Settles O51: each step by the lemma of its operation. -/
theorem translationAndPreemptionSteps : Obligations.TranslationAndPreemptionSteps := by
  have hne : ∀ wr : Nat, (wr != 0) = decide (wr ≠ 0) := fun wr => by cases wr <;> rfl
  refine ⟨⟨?walkOk, ?walkFail⟩, ⟨?answer, fun _ _ _ _ _ _ _ _ hx hp => retryFault_group hx hp⟩, ⟨?go, ?done⟩, ?preempt, ?deadline,
    ?refused, ?resuming, ?restored, fun _ _ _ _ ho hl hh ht => restoreBlock_resumes ho hl hh ht⟩
  case walkOk =>
    intro s d t va wr a c l u pa sh w hva hc hf hw n e
    have hx := translate_ok hc hw
    rw [← hne] at hc hf hw hx
    exact congrArg (Host.Outcome.next ·.1) (accessPage_walks hva hc (pendingFault_none hf) hx)
  case walkFail =>
    intro s d t va wr a c l u cause level at_ pte hva hc hf hw hr hroom
    obtain ⟨v, hx, hfid, hfaults⟩ := translate_fail hc hw
    rw [← hne] at hc hf hw hx
    refine ⟨_, rfl, ?_⟩
    rw [← hfid, ← hne]
    exact accessPage_faults hva hc (pendingFault_none hf) hx hr (hfaults ▸ hroom)
  case answer =>
    intro s t u w f d fid r hseen hp hl v p hf ht q
    exact congrArg Host.Outcome.next (answerFault_reads hseen hp hl hf ht)
  case go =>
    intro s d h
    exact ⟨_, rfl, (invalidateGo_busy h).1, (invalidateGo_busy h).2, invalidateGo_tlb h⟩
  case done =>
    intro s d h
    refine ⟨congrArg Host.Outcome.next (by simp only [invalidateGo, h, if_true]), fun hnone => congrArg Host.Outcome.next ?_,
      fun hsome => congrArg Host.Outcome.next ?_⟩
    · have hask : asksHome s (s.dom d).xinvFor = false := by
        rw [← Bool.not_eq_true, asksHome_iff]
        exact fun ⟨p, hp, r, hr, ht⟩ => hnone p hp r hr ht
      simp only [invalidateDone, h, hask]
      rfl
    · simp only [invalidateDone, h, (asksHome_iff s _).mpr hsome]
      rfl
  case preempt =>
    intro s t style can us u
    refine ⟨fun href => congrArg Host.Outcome.next ?_, fun hp hs st hst hcan => congrArg Host.Outcome.next ?_,
      fun hp hs hnone => congrArg Host.Outcome.next ?_⟩
    · exact if_pos (by simpa [can, imp_iff_not_or, or_assoc] using href)
    · exact preemptGo_started hp hs hst hcan
    · have hst : (2 : BitVec 2) = if style = 2 ∨ ¬can then 2 else 1 := (if_pos (.inl hs)).symm
      refine (preemptGo_started hp (by omega) hst (by omega)).trans ?_
      rw [tenantBlocks_nil (s := u 2) hnone]
      refine settlePreempt_empty ?_ hnone
      rw [List.foldl_nil, State.updTen_ten_self]
  case deadline =>
    intro s t hp hd
    refine congrArg Host.Outcome.next ?_
    simp only [preemptDeadline, hp, hd]
    rfl
  case refused =>
    intro s t h2 h3
    refine congrArg Host.Outcome.next ?_
    exact (if_neg (h3 <| beq_iff_eq.mp ·)).trans (updTen_congr (if_pos (bne_iff_ne.mpr h2)))
  case resuming =>
    intro s t h2
    refine congrArg Host.Outcome.next ?_
    exact (if_neg (by rw [h2]; decide)).trans (updTen_congr (if_neg (by rw [h2]; decide)))
  case restored =>
    intro s t h3
    refine congrArg Host.Outcome.next ?_
    simp only [resumeTenant, h3]
    rfl

end Sys2Proof.Machine
end

section
/-! ### What the memory system leaves alone -/
namespace Sys2Proof.Machine
open Sys2Proof

/-- A state that differs from another at most in memory, poison, and what the domains' caches and directories hold. -/
structure MemOnly (r s : State) : Prop where
  cores : s.cores = r.cores
  tenants : s.tenants = r.tenants
  regions : s.regions = r.regions
  mod : s.mod = r.mod
  lost : ∀ d, (s.dom d).lost = (r.dom d).lost
  tlb : ∀ d, (s.dom d).tlb = (r.dom d).tlb

section
variable {r : State}

theorem MemOnly.refl (s : State) : MemOnly s s := ⟨rfl, rfl, rfl, rfl, fun _ => rfl, fun _ => rfl⟩

theorem updDom_memOnly {s : State} {d : Nat} {f : Domain → Domain} (hf : ∀ k, (f k).lost = k.lost ∧ (f k).tlb = k.tlb)
    (hs : MemOnly r s) : MemOnly r (s.updDom d f) := by
  have hd : ∀ e, ((s.updDom d f).dom e).lost = (s.dom e).lost ∧ ((s.updDom d f).dom e).tlb = (s.dom e).tlb := by
    intro e
    by_cases h : e = d
    · rw [h, State.updDom_dom_self]
      exact hf _
    · rw [State.updDom_dom_ne s f h]
      exact ⟨rfl, rfl⟩
  exact ⟨hs.cores, hs.tenants, hs.regions, hs.mod, fun e => (hd e).1.trans (hs.lost e), fun e => (hd e).2.trans (hs.tlb e)⟩

theorem dropScales_memOnly (s : State) (line : Nat) (ps : List (Nat × Byte)) (hs : MemOnly r s) :
    MemOnly r (dropScales s line ps) := by
  unfold dropScales
  split
  · refine ⟨hs.cores, hs.tenants, hs.regions, hs.mod, fun e => ?_, fun e => ?_⟩
    · rw [← hs.lost e]
      simp only [State.dom, kget_kmap]
      cases kget s.domains e <;> rfl
    · rw [← hs.tlb e]
      simp only [State.dom, kget_kmap]
      cases kget s.domains e <;> rfl
  · exact hs

theorem unpoison_memOnly (s : State) (line : Nat) (hs : MemOnly r s) : MemOnly r (s.unpoison line) := by
  have hp : MemOnly r { s with poison := s.poison.filter fun l => l != line } := ⟨hs.1, hs.2, hs.3, hs.4, hs.5, hs.6⟩
  unfold State.unpoison
  dsimp only
  split
  · split
    · exact updDom_memOnly (fun _ => ⟨rfl, rfl⟩) hp
    · exact hp
  · exact hp

theorem putHome_memOnly (s : State) (t line : Nat) (ps : List (Nat × Byte)) (hs : MemOnly r s) :
    MemOnly r (putHome s t line ps) := by
  have hd := dropScales_memOnly s line ps hs
  unfold putHome
  extract_lets h u v w
  have hv : MemOnly r v := ⟨hd.1, hd.2, hd.3, hd.4, hd.5, hd.6⟩
  have hw : MemOnly r w := by
    unfold w
    split
    · exact unpoison_memOnly v line hv
    · exact hv
  split
  · exact updDom_memOnly (fun _ => ⟨rfl, rfl⟩) hw
  · exact hw

theorem writeBack_memOnly (s : State) (t d line : Nat) (h : MemOnly r s) : MemOnly r (writeBack s t d line) := by
  unfold writeBack
  split
  · split
    · exact h
    · exact updDom_memOnly (fun _ => ⟨rfl, rfl⟩) (putHome_memOnly s t line _ h)
  · exact h

theorem recallLine_memOnly (s : State) (t h line d : Nat) (hs : MemOnly r s) : MemOnly r (recallLine s t h line d) :=
  foldl_keeps (MemOnly r) _ (fun s l hs => writeBack_memOnly s t d l hs) _ s hs

theorem dropGuest_memOnly (s : State) (t d line : Nat) (h : MemOnly r s) : MemOnly r (dropGuest s t d line) :=
  updDom_memOnly (fun _ => ⟨rfl, rfl⟩) (writeBack_memOnly s t d line h)

theorem evictGranule_memOnly (s : State) (t h : Nat) (hs : MemOnly r s) : MemOnly r (evictGranule s t h) := by
  unfold evictGranule
  split
  · exact hs
  · exact updDom_memOnly (fun _ => ⟨rfl, rfl⟩) (foldl_keeps (MemOnly r) _
      (fun s d hs => foldl_keeps (MemOnly r) _ (fun s l hs => dropGuest_memOnly s t d l hs) _ s hs) _ s hs)

theorem setDir_memOnly (s : State) (t h line : Nat) (st : DirState) (p : BitVec 64) (hs : MemOnly r s) :
    MemOnly r (setDir s t h line st p) := by
  unfold setDir
  split
  · exact updDom_memOnly (fun _ => ⟨rfl, rfl⟩) hs
  · split
    · exact updDom_memOnly (fun _ => ⟨rfl, rfl⟩) hs
    · dsimp only
      split
      · exact updDom_memOnly (fun _ => ⟨rfl, rfl⟩) (evictGranule_memOnly s t h hs)
      · exact updDom_memOnly (fun _ => ⟨rfl, rfl⟩) hs

theorem useDir_memOnly (s : State) (h line : Nat) (hs : MemOnly r s) : MemOnly r (useDir s h line) := by
  unfold useDir
  split <;> exact updDom_memOnly (fun _ => ⟨rfl, rfl⟩) hs

theorem displace_memOnly (s : State) (d t h : Nat) (hs : MemOnly r s) : MemOnly r (displace s d t h) := by
  unfold displace
  split
  · dsimp only
    split
    · refine foldl_keeps (MemOnly r) _ (fun s l hs => ?_) _ _ (updDom_memOnly (fun _ => ⟨rfl, rfl⟩) hs)
      split
      · exact dropGuest_memOnly s t d l hs
      · exact hs
    · exact updDom_memOnly (fun _ => ⟨rfl, rfl⟩) hs
  · exact hs

theorem fitBudget_memOnly (d t : Nat) : ∀ (n : Nat) (s : State), MemOnly r s → MemOnly r (fitBudget s d t n)
  | 0, _, hs => hs
  | n + 1, s, hs => by
    unfold fitBudget
    split
    · split
      · exact fitBudget_memOnly d t n _ (displace_memOnly s d _ _ hs)
      · exact hs
    · exact hs

theorem fitAll_memOnly (s : State) (d : Nat) (hs : MemOnly r s) : MemOnly r (fitAll s d) :=
  foldl_keeps (MemOnly r) _ (fun s u hs => fitBudget_memOnly d u _ s hs) _ _ hs

theorem roomIn_memOnly (t d line : Nat) : ∀ (n : Nat) (s : State), MemOnly r s → MemOnly r (roomIn s t d line n)
  | 0, _, hs => hs
  | n + 1, s, hs => by
    unfold roomIn
    split
    · exact hs
    · dsimp only
      split
      · exact hs
      · split
        · exact dropGuest_memOnly s t d _ hs
        · split
          · exact roomIn_memOnly t d line n _ (displace_memOnly s d _ _ hs)
          · exact hs

theorem gather_memOnly (s : State) (t pa n : Nat) (hs : MemOnly r s) : MemOnly r (gather s t pa n) :=
  foldl_keeps (MemOnly r) _ (fun s l hs => foldl_keeps (MemOnly r) _ (fun s d hs => writeBack_memOnly s t d l hs) _ s hs) _ s hs

theorem readScales_memOnly (s : State) (t line : Nat) (x : Nat × List W64 × Nat × Nat) (hs : MemOnly r s) :
    MemOnly r (readScales s t line x).1 := by
  have ite_memOnly : ∀ (p : Prop) [Decidable p] (u v : State), MemOnly r u → MemOnly r v → MemOnly r (if p then u else v) := by
    intro p _ u v hu hv
    split
    · exact hu
    · exact hv
  exact ite_memOnly _ _ _ (gather_memOnly _ _ _ _ (ite_memOnly _ _ _ hs (gather_memOnly _ _ _ _ hs)))
    (ite_memOnly _ _ _ hs (gather_memOnly _ _ _ _ hs))

theorem attachLine_memOnly (s : State) (t d line : Nat) (hs : MemOnly r s) : MemOnly r (attachLine s t d line) := by
  unfold attachLine
  split
  · exact hs
  · split
    · exact updDom_memOnly (fun _ => ⟨rfl, rfl⟩) (readScales_memOnly s t line _ hs)
    · split
      · exact updDom_memOnly (fun _ => ⟨rfl, rfl⟩) hs
      · exact hs

theorem fillL2_memOnly (s : State) (t d line : Nat) (hs : MemOnly r s) : MemOnly r (fillL2 s t d line) := by
  unfold fillL2
  split
  · exact updDom_memOnly (fun _ => ⟨rfl, rfl⟩) hs
  · have hw := attachLine_memOnly _ t d line
      (updDom_memOnly (d := d) (f := fun k => { k with l2 := k.l2 ++ [line] }) (fun _ => ⟨rfl, rfl⟩)
      (roomIn_memOnly t d line 1025 s hs))
    dsimp only
    split
    · exact hw
    · exact fitAll_memOnly _ d hw

theorem touchHome_memOnly (s : State) (t line : Nat) (hs : MemOnly r s) : MemOnly r (touchHome s t line) :=
  useDir_memOnly _ _ line (fillL2_memOnly s t _ line hs)

theorem homeWrite_memOnly (s : State) (t line : Nat) (ps : List (Nat × Byte)) (h : MemOnly r s) : MemOnly r (homeWrite s t line ps) := by
  unfold homeWrite
  split
  · exact putHome_memOnly s t line ps h
  · exact putHome_memOnly _ t line ps (updDom_memOnly (fun _ => ⟨rfl, rfl⟩) (touchHome_memOnly s t line h))

theorem recalls_memOnly (s : State) (t h line : Nat) (ds : List Nat) (hs : MemOnly r s) :
    MemOnly r (ds.foldl (fun s d => recallLine s t h line d) s) :=
  foldl_keeps (MemOnly r) _ (fun s d hs => recallLine_memOnly s t h line d hs) ds s hs

theorem homeAccess_memOnly (s : State) (t line : Nat) (write : Bool) (hs : MemOnly r s) : MemOnly r (homeAccess s t line write) := by
  have hw := touchHome_memOnly s t line hs
  unfold homeAccess
  split
  · exact hs
  · dsimp only
    split
    · exact setDir_memOnly _ _ _ _ _ _ (recalls_memOnly _ t _ line _ hw)
    · exact hw

theorem homeRead_memOnly (s : State) (t pa n : Nat) (hs : MemOnly r s) : MemOnly r (homeRead s t pa n).1 :=
  foldl_keeps (MemOnly r) _ (fun s l hs => homeAccess_memOnly s t l false hs) _ s hs

theorem homeStore_memOnly (s : State) (t pa : Nat) (bs : List Byte) (hs : MemOnly r s) : MemOnly r (homeStore s t pa bs) := by
  unfold homeStore
  split
  · exact hs
  · exact foldl_keeps (MemOnly r) _ (fun s l hs => homeWrite_memOnly _ t l _ (homeAccess_memOnly s t l true hs)) _ s hs

theorem walkFrom_memOnly (t va : Nat) (write : Bool) :
    ∀ (ls : List (Nat × Nat × Nat × Bool × Nat)) (s : State) (table : Nat), MemOnly r s →
    MemOnly r (walkFrom s t va write table ls).1
  | [], _, _, hs => hs
  | (level, lo, n, leafOk, align) :: rest, s, table, hs => by
    have hr := homeRead_memOnly s t (table + 8 * (va / 2 ^ lo % 2 ^ n)) 8 hs
    unfold walkFrom
    dsimp only
    split
    · exact hr
    · split
      · exact hr
      · split
        · exact hr
        · split
          · split
            · exact hr
            · split <;> exact hr
          · split
            · exact hr
            · exact walkFrom_memOnly t va write rest _ _ hr

theorem walk_memOnly (s : State) (t va : Nat) (write : Bool) (hs : MemOnly r s) : MemOnly r (walk s t va write).1 := by
  simp only [walk]
  split
  · exact hs
  · split
    · exact hs
    · exact walkFrom_memOnly t va write walkLevels s _ hs

theorem deviceStore_memOnly (s t' : State) (t va : Nat) (ws : List W64) (hs : MemOnly r s) (h : deviceStore s t va ws = some t') :
    MemOnly r t' := by
  have hw := walk_memOnly s t va true hs
  unfold deviceStore at h
  split at h
  · rename_i he; rw [he] at hw
    cases h
    exact homeStore_memOnly _ t _ _ hw
  · cases h

end

end Sys2Proof.Machine
end

section
/-! ### Power, clocks and links (R399-R407, R411) -/
namespace Sys2Proof.Machine
open Sys2Proof

/-! #### A domain stays lost (R401) -/

theorem ringPush_lost {s u : State} {t q vec : Nat} {ws : List W64} (h : ringPush s t q vec ws = some u) (d : Nat) :
    (u.dom d).lost = (s.dom d).lost := by
  unfold ringPush at h
  dsimp only at h
  generalize (!((s.ten t).ring q).en || decide (_ ≤ (_ : Nat))) = full at h
  cases full with
  | true => cases h
  | false =>
    rw [if_neg Bool.false_ne_true] at h
    split at h
    case h_1 v hv =>
      have hm := (deviceStore_memOnly s v t _ ws (.refl s) hv).lost d
      cases h
      split <;> exact hm
    case h_2 => cases h

theorem postFault_lost (s : State) (t kind core launch : Nat) (ws : List W64) (d : Nat) :
    ((postFault s t kind core launch ws).dom d).lost = (s.dom d).lost := by
  unfold postFault
  split
  case h_1 u hu => exact ringPush_lost hu d
  case h_2 => rfl

theorem homeStore_lost (s : State) (t pa : Nat) (bs : List Byte) (d : Nat) : ((homeStore s t pa bs).dom d).lost = (s.dom d).lost :=
  (homeStore_memOnly s t pa bs (.refl s)).lost d

theorem postEvent_lost (s : State) (kind core : Nat) (ws : List W64) (d : Nat) :
    ((postEvent s kind core ws).dom d).lost = (s.dom d).lost := by
  unfold postEvent
  dsimp only
  split
  · rfl
  · split <;> exact homeStore_lost s ..

theorem publish1_lost (s : State) (d : Nat) : ((publish1 s).dom d).lost = (s.dom d).lost := by
  unfold publish1
  extract_lets u
  refine foldl_keeps (fun v : State => (v.dom d).lost = (s.dom d).lost) _ (fun v p hv => (homeStore_lost ..).trans hv) _ u ?_
  unfold u publishPf
  split
  · exact homeStore_lost ..
  · rfl

theorem publishAll_lost (s : State) (d : Nat) : ((publishAll s).dom d).lost = (s.dom d).lost := by
  unfold publishAll
  extract_lets u v
  refine foldl_keeps (fun v : State => (v.dom d).lost = (s.dom d).lost) _ (fun v p hv => (homeStore_lost ..).trans hv) _ v ?_
  unfold v
  split
  · exact (homeStore_lost ..).trans (publish1_lost s d)
  · exact publish1_lost s d

theorem raiseTopo_lost (s : State) (d : Nat) : ((raiseTopo s).dom d).lost = (s.dom d).lost := by
  unfold raiseTopo
  extract_lets u
  rw [publishAll_lost]
  split <;> rfl

theorem requestRepl_lost (s : State) (i d : Nat) : ((requestRepl s i).dom d).lost = (s.dom d).lost := by
  unfold requestRepl
  extract_lets first u v
  have hv : (v.dom d).lost = (s.dom d).lost := by
    unfold v
    split
    · exact raiseTopo_lost u d
    · rfl
  split
  · rfl
  · exact (postEvent_lost ..).trans hv

/-- A domain lost is marked so (R401). -/
theorem loseOne_lost (told : List Nat) (d cause : Nat) (s : State) : ((loseOne told d cause s).dom d).lost = true := by
  unfold loseOne
  extract_lets queue cs u1 u2 u3 u4 u5 u6 ws u7
  have h6 : (u6.dom d).lost = true := by
    unfold u6
    rw [State.updDom_dom_self]
    rfl
  rw [requestRepl_lost, raiseTopo_lost]
  unfold u7
  rw [postEvent_lost]
  exact foldl_keeps (fun v : State => (v.dom d).lost = true) _ (fun v t hv => (postFault_lost ..).trans hv) _ u6 h6

theorem loseDomain_lost {s : State} {d : Nat} (cause : Nat) (hd : d < s.nlive) (hl : (s.dom d).lost = false) :
    ((loseDomain s d cause).dom d).lost = true := by
  simp only [loseDomain, loseDomains, List.filter_cons, decide_eq_true hd, hl, Bool.not_false, Bool.and_self, if_true,
    List.filter_nil, List.foldl_cons, List.foldl_nil]
  exact loseOne_lost ..


/-! #### What the Sorter sets (R364) -/

/-- A control's value within its limits is set. -/
theorem sorterSets_within {s : State} {control v lo hi : Nat} {f : State → State} (hup : s.mod.sorterUp = true)
    (hfw : s.mod.fwFetch = none) (hl : kget s.mod.limits control = some (lo, hi)) (h1 : lo ≤ v) (h2 : v ≤ hi) :
    sorterSets s control v f = f s := by
  simp [sorterSets, hup, hfw, hl, h1, h2]

/-- One outside them, or without limits, is refused. -/
theorem sorterSets_refused {s : State} {control v : Nat} {f : State → State} (hup : s.mod.sorterUp = true)
    (hfw : s.mod.fwFetch = none) (hl : ∀ p, kget s.mod.limits control = some p → v < p.1 ∨ p.2 < v) :
    sorterSets s control v f = s.updMod fun m =>
      { m with violations := m.violations ++ [⟨1, control, v⟩], refusals := m.refusals + 1 } := by
  cases hk : kget s.mod.limits control with
  | none => simp [sorterSets, hup, hfw, hk]
  | some p =>
    have hout : ¬(p.1 ≤ v ∧ v ≤ p.2) := by
      have := hl p hk
      omega
    simpa [sorterSets, hup, hfw, hk] using fun h1 h2 => absurd ⟨h1, h2⟩ hout

/-- While the Sorter is down or the Postmaster is replaced nothing is set. -/
theorem sorterSets_idle {s : State} {control v : Nat} {f : State → State} (h : s.mod.sorterUp = false ∨ s.mod.fwFetch.isSome = true) :
    sorterSets s control v f = s := by
  rcases h with h | h <;> simp [sorterSets, h]

/-- What is set or refused: a region is as it was, or as the setting leaves it. -/
theorem sorterSets_region (s : State) (control v i : Nat) (f : State → State) :
    (sorterSets s control v f).region i = (f s).region i ∨ (sorterSets s control v f).region i = s.region i := by
  unfold sorterSets
  extract_lets ok
  split
  · exact .inr rfl
  · cases ok with
    | true => exact .inl rfl
    | false => exact .inr rfl

/-! #### Pairs of regions (R6, R400-R403) -/

theorem partner_ne (r : Nat) : partner r ≠ r := by
  unfold partner
  split <;> omega

theorem partner_even (p : Nat) : partner (2 * p) = 2 * p + 1 := by simp [partner]

theorem updPair_region_self (s : State) (r : Nat) (f : Region → Region) : (updPair s r f).region r = f (s.region r) := by
  unfold updPair
  rw [State.updRegion_region_ne _ _ (partner_ne r).symm, State.updRegion_region_self]

theorem updPair_region_partner (s : State) (r : Nat) (f : Region → Region) :
    (updPair s r f).region (partner r) = f (s.region (partner r)) := by
  unfold updPair
  rw [State.updRegion_region_self, State.updRegion_region_ne _ _ (partner_ne r)]

theorem droopAlarm_regions (s : State) (r : Nat) :
    ((droopAlarm s r).region r).droop = min 2 ((s.region r).droop + 1) ∧ ((droopAlarm s r).region r).lastAlarm = s.now ∧
    ((droopAlarm s r).region r).droops = satAdd 32 (s.region r).droops ∧ ((droopAlarm s r).region (partner r)).droop =
      (if (s.region r).st = 0 then min 2 ((s.region r).droop + 1) else (s.region (partner r)).droop) := by
  have hne := partner_ne r
  unfold droopAlarm
  extract_lets l both u
  by_cases h : (s.region r).st = 0
  · have hb : both = true := beq_iff_eq.mpr h
    simp only [hb, h, if_true, u, l, State.updRegion_region_ne _ _ hne.symm, State.updRegion_region_self,
      and_self]
  · have hb : both = false := beq_eq_false_iff_ne.mpr h
    simp only [hb, h, Bool.false_eq_true, if_false, u, l, State.updRegion_region_ne _ _ hne,
      State.updRegion_region_self, and_self]

theorem droopRecovery_regions {s : State} {r : Nat} (h : (s.region r).lastAlarm + 4000 ≤ s.now) :
    ((droopRecovery s r).region r).droop = 0 ∧
    ((droopRecovery s r).region (partner r)).droop = (if (s.region r).st = 0 then 0 else (s.region (partner r)).droop) := by
  have hne := partner_ne r
  unfold droopRecovery
  rw [if_pos h]
  by_cases h0 : (s.region r).st = 0
  · rw [if_pos (beq_iff_eq.mpr h0 : ((s.region r).st == rgStacked) = true), if_pos h0, State.updRegion_region_self,
      State.updRegion_region_ne _ _ hne.symm, State.updRegion_region_self]
    exact ⟨rfl, rfl⟩
  · rw [if_neg (h0 <| beq_iff_eq.mp · : ¬((s.region r).st == rgStacked) = true), if_neg h0, State.updRegion_region_self,
      State.updRegion_region_ne _ _ hne]
    exact ⟨rfl, rfl⟩

/-! #### Imbalance (R402, R403) -/

/-- Balancing changes a region's ballast and throttle alone. -/
def Region.Balanced (k k' : Region) : Prop := k'.st = k.st ∧ k'.current = k.current ∧ k'.lightSince = k.lightSince

theorem sorterSets_balanced {s : State} {i r control v : Nat} {f : Region → Region} (hf : ∀ k : Region, k.Balanced (f k)) :
    (s.region i).Balanced ((sorterSets s control v fun s => s.updRegion r f).region i) := by
  have hsame : (s.region i).Balanced (s.region i) := ⟨rfl, rfl, rfl⟩
  rcases sorterSets_region s control v i fun s => s.updRegion r f with h | h
  · rw [h]
    by_cases hi : i = r
    · rw [hi, State.updRegion_region_self]
      exact hf _
    · rw [State.updRegion_region_ne _ _ hi]
      exact hsame
  · rw [h]
    exact hsame

theorem Region.Balanced.trans {a b c : Region} (h : a.Balanced b) (g : b.Balanced c) : a.Balanced c :=
  ⟨g.1.trans h.1, g.2.1.trans h.2.1, g.2.2.trans h.2.2⟩

theorem balance_balanced (s : State) (heavy light since i : Nat) :
    (s.region i).Balanced ((balance s heavy light since).region i) := by
  unfold balance
  extract_lets idle u
  have hu : (s.region i).Balanced (u.region i) := by
    unfold u
    split
    · exact ⟨rfl, rfl, rfl⟩
    · exact sorterSets_balanced fun _ => ⟨rfl, rfl, rfl⟩
  split
  · split
    · exact hu.trans (sorterSets_balanced fun _ => ⟨rfl, rfl, rfl⟩)
    · split
      · exact hu.trans (sorterSets_balanced fun _ => ⟨rfl, rfl, rfl⟩)
      · exact hu
  · exact hu

theorem lift_balanced (s : State) (r i : Nat) : (s.region i).Balanced ((lift s r).region i) := by
  unfold lift
  extract_lets u
  have hu : (s.region i).Balanced (u.region i) := by
    unfold u
    split
    · exact sorterSets_balanced fun _ => ⟨rfl, rfl, rfl⟩
    · exact ⟨rfl, rfl, rfl⟩
  split
  · exact hu
  · exact hu.trans (sorterSets_balanced fun _ => ⟨rfl, rfl, rfl⟩)

/-- Ballast that the limits allow runs in the lighter region while a core there is idle (R402). -/
theorem balance_ballast {s : State} {heavy light since lo hi : Nat} (hne : heavy ≠ light) (hup : s.mod.sorterUp = true)
    (hfw : s.mod.fwFetch = none) (hidle : idleCores s light ≠ 0) (hl : kget s.mod.limits (ctlBallast light) = some (lo, hi))
    (h1 : lo ≤ 1) (h2 : 1 ≤ hi) : ((balance s heavy light since).region light).ballast = true := by
  have hset : ∀ (u : State) (control v : Nat) (f : Region → Region), (u.region light).ballast = true →
      ((sorterSets u control v fun u => u.updRegion heavy f).region light).ballast = true := by
    intro u control v f hu
    rcases sorterSets_region u control v light fun u => u.updRegion heavy f with h | h
    · rw [h, State.updRegion_region_ne _ _ hne.symm, hu]
    · rw [h, hu]
  unfold balance
  extract_lets idle u
  have hu : (u.region light).ballast = true := by
    unfold u
    rw [if_neg hidle, sorterSets_within hup hfw hl h1 h2, State.updRegion_region_self]
  split
  · split
    · exact hset _ _ _ _ hu
    · split
      · exact hset _ _ _ _ hu
      · exact hu
  · exact hu

/-- What balances a region ends where the limits allow it (R402); the other region and the module stay. -/
theorem lift_ends {s : State} {r : Nat} (hup : s.mod.sorterUp = true) (hfw : s.mod.fwFetch = none)
    (hl : ∀ c ∈ [ctlBallast r, ctlThrottle r], ∃ hi, kget s.mod.limits c = some (0, hi)) :
    ((lift s r).region r).ballast = false ∧ ((lift s r).region r).throttle = 0 ∧ (lift s r).mod = s.mod ∧
      ∀ i, i ≠ r → (lift s r).region i = s.region i := by
  obtain ⟨hb, hlb⟩ := hl (ctlBallast r) (by simp)
  obtain ⟨ht, hlt⟩ := hl (ctlThrottle r) (by simp)
  unfold lift
  extract_lets u
  have hu : (u.region r).ballast = false ∧ u.mod = s.mod ∧ ∀ i, i ≠ r → u.region i = s.region i := by
    unfold u
    split
    case isTrue =>
      rw [sorterSets_within hup hfw hlb (Nat.zero_le _) (Nat.zero_le _), State.updRegion_region_self]
      exact ⟨rfl, rfl, fun i hi => State.updRegion_region_ne _ _ hi⟩
    case isFalse h => exact ⟨Bool.not_eq_true _ ▸ h, rfl, fun _ _ => rfl⟩
  obtain ⟨hub, hum, huo⟩ := hu
  split
  case isTrue h => exact ⟨hub, h, hum, huo⟩
  case isFalse h =>
    rw [sorterSets_within (hum ▸ hup) (hum ▸ hfw) (hum ▸ hlt) (Nat.zero_le _) (Nat.zero_le _), State.updRegion_region_self]
    exact ⟨hub, rfl, hum, fun i hi => (State.updRegion_region_ne _ _ hi).trans (huo i hi)⟩

/-- A sample's two currents and imbalances are stored, and nothing else changes. -/
def sampled (s : State) (a heavy light : Nat) (ia ib : Nat) (pct : Int) : State :=
  (((s.updRegion a fun k => { k with current := ia }).updRegion (a + 1) fun k => { k with current := ib }).updRegion heavy
    fun k => { k with imb := pct }).updRegion light fun k => { k with imb := -pct }

/-- What a sample of a stacked pair sets off (R402). -/
def weigh (s : State) (a heavy light sum diff : Nat) : State :=
  if 12 * sum < diff then
    let since := ((s.region a).heavySince).getD s.now
    let s := updPair s a fun k => { k with heavySince := some since, lightSince := none }
    if since + 50000 ≤ s.now then startDraining (updPair s a fun k => { k with shunts := satAdd 16 k.shunts }) a false
    else if since + 2000 ≤ s.now then balance s heavy light since
    else s
  else if diff < 8 * sum then
    let since := ((s.region a).lightSince).getD s.now
    let s := updPair s a fun k => { k with heavySince := none, lightSince := some since }
    if since + 10000 ≤ s.now then lift (lift s a) (a + 1) else s
  else updPair s a fun k => { k with heavySince := none, lightSince := none }

theorem sampleImbalance_eq {s : State} {p : Nat} (hup : s.mod.sorterUp = true) :
    let a := 2 * p
    let ia := Config.regionCurrent s.tick a % 65536
    let ib := Config.regionCurrent s.tick (a + 1) % 65536
    let diff := 100 * (max ia ib - min ia ib)
    let pct : Int := if ia + ib = 0 then 0 else diff / (ia + ib)
    let heavy := if ia < ib then a + 1 else a
    let light := if ia < ib then a else a + 1
    sampleImbalance s p = if (s.region a).st = 0 then weigh (sampled s a heavy light ia ib pct) a heavy light (ia + ib) diff
      else (s.updRegion a fun k => { k with current := ia }).updRegion (a + 1) fun k => { k with current := ib } := by
  intro a ia ib diff pct heavy light
  have hst : (((s.updRegion a fun k => { k with current := ia }).updRegion (a + 1) fun k => { k with current := ib }).region a).st =
      (s.region a).st := by
    rw [State.updRegion_region_ne _ _ (Nat.ne_of_lt (Nat.lt_succ_self a)), State.updRegion_region_self]
  simp only [sampleImbalance, hup, Bool.not_true, Bool.false_eq_true, if_false]
  by_cases h0 : (s.region a).st = 0
  · rw [if_pos h0, if_neg (by rw [hst, h0]; decide)]
    by_cases hlt : ia < ib
    · simp only [ia, ib, a] at hlt
      simp only [heavy, light, ia, ib, a, hlt, if_true]
      rfl
    · simp only [ia, ib, a] at hlt
      simp only [heavy, light, ia, ib, a, hlt, if_false]
      rfl
  · rw [if_neg h0]
    exact if_pos (bne_iff_ne.mpr (hst ▸ h0))

theorem updRegion_current {s : State} {r i : Nat} {f : Region → Region} (hf : ∀ k, (f k).current = k.current) :
    ((s.updRegion r f).region i).current = (s.region i).current := by
  by_cases h : i = r
  · rw [h, State.updRegion_region_self, hf]
  · rw [State.updRegion_region_ne _ _ h]

theorem updPair_current {s : State} {r i : Nat} {f : Region → Region} (hf : ∀ k, (f k).current = k.current) :
    ((updPair s r f).region i).current = (s.region i).current :=
  (updRegion_current hf).trans (updRegion_current hf)

theorem startDraining_current (s : State) (r i : Nat) (b : Bool) :
    ((startDraining s r b).region i).current = (s.region i).current := updPair_current fun _ => rfl

/-- What a sample sets off leaves the currents as they were measured. -/
theorem weigh_current (s : State) (a heavy light sum diff i : Nat) :
    ((weigh s a heavy light sum diff).region i).current = (s.region i).current := by
  unfold weigh
  split
  · extract_lets since u
    have hu : (u.region i).current = (s.region i).current := updPair_current fun _ => rfl
    have hs : ((updPair u a fun k => { k with shunts := satAdd 16 k.shunts }).region i).current = (u.region i).current :=
      updPair_current fun _ => rfl
    split
    · rw [startDraining_current, hs, hu]
    · split
      · exact (balance_balanced u heavy light since i).2.1.trans hu
      · exact hu
  · split
    · extract_lets since u
      have hu : (u.region i).current = (s.region i).current := updPair_current fun _ => rfl
      split
      · exact (lift_balanced _ (a + 1) i).2.1.trans ((lift_balanced u a i).2.1.trans hu)
      · exact hu
    · exact updPair_current fun _ => rfl

/-- A pair that stands above 12 percent for the first time is marked with the time. -/
theorem weigh_first {s : State} {a heavy light sum diff : Nat} (hd : 12 * sum < diff) (hh : (s.region a).heavySince = none) :
    ((weigh s a heavy light sum diff).region a).heavySince = some s.now ∧
      ((weigh s a heavy light sum diff).region (partner a)).heavySince = some s.now ∧
      ((weigh s a heavy light sum diff).region a).st = (s.region a).st := by
  have h1 : ¬(s.now + 50000 ≤ s.now) := by omega
  have h2 : ¬(s.now + 2000 ≤ s.now) := by omega
  unfold weigh
  rw [if_pos hd, hh]
  extract_lets since u
  rw [if_neg (c := since + 50000 ≤ u.now) h1, if_neg (c := since + 2000 ≤ u.now) h2]
  simp only [u, since, updPair_region_self, updPair_region_partner, Option.getD_none, and_self]

/-- One that stood so for 50 µs has a shunt fault, and drains (R403). -/
theorem weigh_shunt {s : State} {a heavy light sum diff f : Nat} (hd : 12 * sum < diff) (hh : (s.region a).heavySince = some f)
    (hf : f + 50000 ≤ s.now) :
    ((weigh s a heavy light sum diff).region a).st = 1 ∧ ((weigh s a heavy light sum diff).region (partner a)).st = 1 ∧
      ((weigh s a heavy light sum diff).region a).toStack = false ∧
      ((weigh s a heavy light sum diff).region a).shunts = satAdd 16 (s.region a).shunts := by
  unfold weigh
  rw [if_pos hd, hh]
  extract_lets since u
  rw [if_pos (c := since + 50000 ≤ u.now) hf]
  simp only [u, startDraining, updPair_region_self, updPair_region_partner, rgDraining, and_self]

/-- One that stood so for 2 µs is balanced (R402). -/
theorem weigh_balance {s : State} {a heavy light sum diff f : Nat} (hd : 12 * sum < diff) (hh : (s.region a).heavySince = some f)
    (hf : f + 2000 ≤ s.now) (hn : s.now < f + 50000) :
    weigh s a heavy light sum diff =
      balance (updPair s a fun k => { k with heavySince := some f, lightSince := none }) heavy light f := by
  unfold weigh
  rw [if_pos hd, hh]
  extract_lets since u
  rw [if_neg (c := since + 50000 ≤ u.now) (Nat.not_le.mpr hn), if_pos (c := since + 2000 ≤ u.now) hf]
  rfl

/-- One that stood below 8 percent for 10 µs is balanced no longer (R402). -/
theorem weigh_lift {s : State} {a heavy light sum diff f : Nat} (hd : diff < 8 * sum) (hl : (s.region a).lightSince = some f)
    (hf : f + 10000 ≤ s.now) :
    weigh s a heavy light sum diff =
      lift (lift (updPair s a fun k => { k with heavySince := none, lightSince := some f }) a) (a + 1) := by
  unfold weigh
  rw [if_neg (by omega), if_pos hd, hl]
  extract_lets since u
  exact if_pos (c := since + 10000 ≤ u.now) hf

/-- The regions of a pair as a sample leaves them: each with its current, and with an imbalance. -/
theorem sampled_regions {s : State} {a heavy light : Nat} (h : (heavy = a ∧ light = a + 1) ∨ (heavy = a + 1 ∧ light = a))
    (ia ib : Nat) (pct : Int) : ∃ x y, (sampled s a heavy light ia ib pct).region a = { s.region a with current := ia, imb := x } ∧
      (sampled s a heavy light ia ib pct).region (a + 1) = { s.region (a + 1) with current := ib, imb := y } := by
  have hne : a ≠ a + 1 := by omega
  obtain ⟨rfl, rfl⟩ | ⟨rfl, rfl⟩ := h
  · refine ⟨pct, -pct, ?_, ?_⟩ <;>
      simp only [sampled, State.updRegion_region_self, State.updRegion_region_ne _ _ hne, State.updRegion_region_ne _ _ hne.symm]
  · refine ⟨-pct, pct, ?_, ?_⟩ <;>
      simp only [sampled, State.updRegion_region_self, State.updRegion_region_ne _ _ hne, State.updRegion_region_ne _ _ hne.symm]

/-! #### Time (R405) -/

/-- Each domain of a list without repetition is changed once. -/
theorem foldl_updDom_dom (g : Nat → Nat → Domain → Domain) (l : List Nat) (hl : l.Nodup) (s : State) (e : Nat) :
    (l.foldl (fun s d => s.updDom d (g s.tick d)) s).dom e = if e ∈ l then g s.tick e (s.dom e) else s.dom e := by
  induction l generalizing s with
  | nil => rfl
  | cons d r ih =>
    obtain ⟨hd, hr⟩ := List.nodup_cons.mp hl
    rw [List.foldl_cons, ih hr]
    by_cases he : e = d
    · subst he
      rw [if_neg hd, if_pos List.mem_cons_self, State.updDom_dom_self]
    · rw [State.updDom_dom_ne _ _ he]
      simp only [List.mem_cons, he, false_or]
      rfl


theorem referencePulse_dom {s : State} {d : Nat} (hp : s.mod.lastPulse + 1000000 ≤ s.now) (hd : d < s.nlive)
    (hup : s.domDown d = false) : (referencePulse s).dom d =
      let k := s.tick * 64 + d
      if Config.pulseMissed k then { s.dom d with skew := (s.dom d).skew + (Config.pulseDrift k %
          (20 * ((s.now - s.mod.lastPulse) / 1000000) + 1) : Nat) }
      else { s.dom d with timeoff := BitVec.ofInt 64 ((s.dom d).skew + (Config.pulseError k % 9 : Nat) - 4) } := by
  have hmem : d ∈ (List.range s.nlive).filter fun d => !s.domDown d := by simp [hd, hup]
  unfold referencePulse
  rw [if_neg (by omega)]
  refine (foldl_updDom_dom (fun tick d x => if Config.pulseMissed (tick * 64 + d) then { x with skew := x.skew + (Config.pulseDrift
      (tick * 64 + d) % (20 * ((s.now - s.mod.lastPulse) / 1000000) + 1) : Nat) }
    else { x with timeoff := BitVec.ofInt 64 (x.skew + (Config.pulseError (tick * 64 + d) % 9 : Nat) - 4) }) _
    (List.nodup_range.filter _) _ d).trans ((if_pos hmem).trans ?_)
  rfl

theorem referencePulse_lastPulse {s : State} (hp : s.mod.lastPulse + 1000000 ≤ s.now) :
    (referencePulse s).mod.lastPulse = s.now := by
  unfold referencePulse
  rw [if_neg (by omega)]
  extract_lets far
  apply foldl_keeps (fun u : State => u.mod.lastPulse = s.now)
  · exact fun u d hu => hu
  · rfl

/-! #### The steps that remain -/

/-- Where no core holds a block, nothing is killed at the end of DRAINING. -/
theorem deadlineCore_free {s : State} {c : Nat} (h : (s.core c).blocks = []) : deadlineCore s c = s := by
  unfold deadlineCore
  rw [h]
  rfl

theorem foldl_deadlineCore_free {s : State} {cs : List Nat} (h : ∀ c ∈ cs, (s.core c).blocks = []) : cs.foldl deadlineCore s = s := by
  induction cs with
  | nil => rfl
  | cons c cs ih =>
    rw [List.foldl_cons, deadlineCore_free (h c List.mem_cons_self)]
    exact ih fun x hx => h x (List.mem_cons_of_mem _ hx)

theorem endDraining_eq {s : State} {r : Nat} (h : (s.region r).st = 1) :
    let cs := coresIn s (s.regionDomains r ++ s.regionDomains (partner r))
    (∀ c ∈ cs, (s.core c).blocks = []) ∨ (s.region r).since + 500000 ≤ s.now →
      endDraining s r = updPair (cs.foldl deadlineCore s) r fun k => { k with st := 2, since := s.now } := by
  intro cs hend
  unfold endDraining
  rw [if_neg (by rw [h]; decide)]
  refine (if_pos ?_).trans rfl
  simpa using hend

/-- Of a region that runs alone only it trips, else both of its pair. -/
theorem tripRegion_eq {s : State} {r : Nat} (h4 : (s.region r).st ≠ 4) (h5 : (s.region r).st ≠ 5) :
    let rs := if (s.region r).st = 3 then [r] else [r, partner r]
    tripRegion s r = loseDomains (rs.foldl (fun u x => u.updRegion x fun k => { k with
        st := 4, since := s.now, droop := 0, toStack := false, ballast := false, throttle := 0, heavySince := none
        throttledAt := none, lightSince := none, imb := 0 })
      (s.updRegion r fun k => { k with trips := satAdd 16 k.trips })) ((rs.map fun x => s.regionDomains x).flatten) 1 := by
  intro rs
  unfold tripRegion
  refine (if_neg ?_).trans ?_
  · rw [Bool.not_eq_true, Bool.or_eq_false_iff]
    exact ⟨beq_eq_false_iff_ne.mpr h4, beq_eq_false_iff_ne.mpr h5⟩
  by_cases h3 : (s.region r).st = 3
  · simp only [rs, h3, rgFallback, beq_self_eq_true, if_true]
    rfl
  · have hb : ((s.region r).st == rgFallback) = false := beq_eq_false_iff_ne.mpr h3
    simp only [rs, h3, hb, Bool.false_eq_true, if_false]
    rfl

theorem setPoint_eq {s : State} {d tier pt : Nat} (hd : d < s.nlive) (hpt : pt ≤ 7) (htier : tier ≤ 1) :
    setPoint s d tier pt = sorterSets s (ctlPoint d tier) pt fun s => s.updDom d fun x =>
      if tier = 0 then { x with cpt := BitVec.ofNat 8 pt } else { x with bpt := BitVec.ofNat 8 pt } :=
  if_neg (by simp; omega)

theorem peerAccess_eq {s : State} {m vni pa size write val t : Nat} {n : Tenant} (hadm : Config.peerAdmits vni m = true)
    (hdom : isDomainMem s pa = true) (hup : s.homeDown 0 pa = false)
    (hfind : s.tenants.find? (fun p => p.2.st != 0 && p.2.vni == vni) = some (t, n)) :
    peerAccess s m vni pa size write val =
      if write != 0 then homeStore s t pa (leBytes size val) else if size = 0 then s else (homeRead s t pa size).1 := by
  simp only [peerAccess, hadm, hdom, hup, hfind]
  rfl

/-- A sample of a stacked pair: its currents and imbalances are stored, and then it is weighed. -/
theorem sampleImbalance_stacked {s : State} {p : Nat} (hup : s.mod.sorterUp = true) (hst : (s.region (2 * p)).st = 0) :
    let a := 2 * p
    let ia := Config.regionCurrent s.tick a % 65536
    let ib := Config.regionCurrent s.tick (a + 1) % 65536
    ∃ heavy v, ∀ light, light = (if ia < ib then a else a + 1) →
      heavy ≠ light ∧ sampleImbalance s p = weigh v a heavy light (ia + ib) (100 * (max ia ib - min ia ib)) ∧
      (∃ x, v.region a = { s.region a with current := ia, imb := x }) ∧ (v.region (a + 1)).current = ib ∧
      v.mod = s.mod ∧ v.now = s.now ∧ ∀ r, idleCores v r = idleCores s r := by
  intro a ia ib
  refine ⟨if ia < ib then a + 1 else a, sampled s a (if ia < ib then a + 1 else a) (if ia < ib then a else a + 1) ia ib
    (if ia + ib = 0 then 0 else (100 * (max ia ib - min ia ib) : Nat) / (ia + ib)), fun light hlight => ?_⟩
  subst hlight
  have hhl : (if ia < ib then a + 1 else a) = a ∧ (if ia < ib then a else a + 1) = a + 1 ∨
      (if ia < ib then a + 1 else a) = a + 1 ∧ (if ia < ib then a else a + 1) = a := by
    split <;> simp
  obtain ⟨x, y, hx, hy⟩ := sampled_regions (s := s) hhl ia ib
    (if ia + ib = 0 then 0 else (100 * (max ia ib - min ia ib) : Nat) / (ia + ib))
  refine ⟨by omega, (sampleImbalance_eq hup).trans (if_pos hst), ⟨x, hx⟩, ?_, rfl, rfl, fun _ => rfl⟩
  rw [hy]

/-- What a sample leaves of the currents: those that were measured. -/
theorem sampleImbalance_currents {s : State} {p : Nat} (hup : s.mod.sorterUp = true) :
    ((sampleImbalance s p).region (2 * p)).current = Config.regionCurrent s.tick (2 * p) % 65536 ∧
      ((sampleImbalance s p).region (2 * p + 1)).current = Config.regionCurrent s.tick (2 * p + 1) % 65536 := by
  have hne : 2 * p ≠ 2 * p + 1 := by omega
  by_cases hst : (s.region (2 * p)).st = 0
  · obtain ⟨heavy, v, hv⟩ := sampleImbalance_stacked hup hst
    obtain ⟨-, hu, ⟨x, hx⟩, hy, -⟩ := hv _ rfl
    rw [hu, weigh_current, weigh_current, hx]
    exact ⟨rfl, hy⟩
  · rw [(sampleImbalance_eq hup).trans (if_neg hst)]
    simp only [State.updRegion_region_self, State.updRegion_region_ne _ _ hne, and_self]

/-- A pair above 12 percent is marked, balanced or drained, by how long it stood there (R402, R403). -/
theorem sampleImbalance_heavy {s : State} {p : Nat} (hup : s.mod.sorterUp = true) (hst : (s.region (2 * p)).st = 0) :
    let a := 2 * p
    let ia := Config.regionCurrent s.tick a % 65536
    let ib := Config.regionCurrent s.tick (a + 1) % 65536
    let u := sampleImbalance s p
    12 * (ia + ib) < 100 * (max ia ib - min ia ib) →
      ((s.region a).heavySince = none → (u.region a).heavySince = some s.now ∧ (u.region (a + 1)).heavySince = some s.now ∧
        (u.region a).st = 0) ∧
      (∀ f, (s.region a).heavySince = some f →
        (f + 50000 ≤ s.now → (u.region a).st = 1 ∧ (u.region (a + 1)).st = 1 ∧ (u.region a).toStack = false ∧
          (u.region a).shunts = satAdd 16 (s.region a).shunts) ∧
        (f + 2000 ≤ s.now → s.now < f + 50000 → (u.region a).st = 0 ∧ let light := if ia < ib then a else a + 1
          ∀ lo hi, s.mod.fwFetch = none → idleCores s light ≠ 0 →
            kget s.mod.limits (ctlBallast light) = some (lo, hi) → lo ≤ 1 → 1 ≤ hi →
            (u.region light).ballast = true)) := by
  intro a ia ib u hd
  have hpa : partner a = a + 1 := partner_even p
  obtain ⟨heavy, v, hv⟩ := sampleImbalance_stacked hup hst
  obtain ⟨hne, hu, ⟨x, hx⟩, -, hm, hnow, hidle⟩ := hv _ rfl
  have hstv : (v.region a).st = 0 := by
    rw [hx]
    exact hst
  have hsince : (v.region a).heavySince = (s.region a).heavySince := by rw [hx]
  refine ⟨fun hh => ?_, fun f hh => ⟨fun hf => ?_, fun hf hn => ?_⟩⟩
  · obtain ⟨h1, h2, h3⟩ := weigh_first (s := v) (heavy := heavy) (light := if ia < ib then a else a + 1) hd (hsince.trans hh)
    rw [hpa] at h2
    rw [← hu, hnow] at h1 h2
    exact ⟨h1, h2, (congrArg (fun w : State => (w.region a).st) hu).trans (h3.trans hstv)⟩
  · obtain ⟨h1, h2, h3, h4⟩ := weigh_shunt (s := v) (heavy := heavy) (light := if ia < ib then a else a + 1) hd
      (hsince.trans hh) (hnow ▸ hf)
    rw [hpa] at h2
    rw [hx] at h4
    rw [← hu] at h1 h2 h3 h4
    exact ⟨h1, h2, h3, h4⟩
  · have hb := hu.trans (weigh_balance hd (hsince.trans hh) (hnow ▸ hf) (hnow ▸ hn))
    refine ⟨?_, fun lo hi hfw hi0 hl h1 h2 => ?_⟩
    · exact (congrArg (fun w : State => (w.region a).st) hb).trans
        (((balance_balanced _ heavy _ f a).1).trans ((congrArg Region.st (updPair_region_self v a _)).trans hstv))
    · exact (congrArg (fun w : State => (w.region _).ballast) hb).trans
        (balance_ballast hne (hm ▸ hup) (hm ▸ hfw) ((hidle _).trans_ne hi0) (hm ▸ hl) h1 h2)

/-- A pair that stood below 8 percent for 10 µs is balanced no longer (R402). -/
theorem sampleImbalance_light {s : State} {p f : Nat} (hup : s.mod.sorterUp = true) (hst : (s.region (2 * p)).st = 0) :
    let a := 2 * p
    let ia := Config.regionCurrent s.tick a % 65536
    let ib := Config.regionCurrent s.tick (a + 1) % 65536
    let u := sampleImbalance s p
    100 * (max ia ib - min ia ib) < 8 * (ia + ib) → (s.region a).lightSince = some f → f + 10000 ≤ s.now →
      s.mod.fwFetch = none →
      (∀ r ∈ [a, a + 1], ∀ c ∈ [ctlBallast r, ctlThrottle r], ∃ hi, kget s.mod.limits c = some (0, hi)) →
      (u.region a).ballast = false ∧ (u.region (a + 1)).ballast = false ∧ (u.region a).throttle = 0 ∧
        (u.region (a + 1)).throttle = 0 := by
  intro a ia ib u hd hls hf hfw hl
  obtain ⟨heavy, w, hw⟩ := sampleImbalance_stacked hup hst
  obtain ⟨-, hu, ⟨x, hx⟩, -, hmw, hnow, -⟩ := hw _ rfl
  rw [weigh_lift hd (by rw [hx]; exact hls) (hnow ▸ hf)] at hu
  generalize hv : updPair w (2 * p) (fun k => { k with heavySince := none, lightSince := some f }) = v at hu
  have hm : v.mod = s.mod := by
    rw [← hv]
    exact hmw
  obtain ⟨hb, ht, hm', ho⟩ := lift_ends (s := v) (r := a) (hm ▸ hup) (hm ▸ hfw) (hm ▸ hl a (by simp))
  obtain ⟨hb', ht', -, ho'⟩ := lift_ends (s := lift v a) (r := a + 1)
    (hm' ▸ hm ▸ hup) (hm' ▸ hm ▸ hfw) (hm' ▸ hm ▸ hl (a + 1) (by simp))
  have ha := ho' a (by omega)
  have hu' : u = lift (lift v a) (a + 1) := hu
  rw [hu', ha]
  exact ⟨hb, hb', ht, ht'⟩

/-- A peer's entry as the loss of a Courier port leaves it: the port off its PORTS, and not UP without one (R406). -/
theorem courierDown_tears {s : State} {port : Nat} (hex : ∃ q ∈ s.mod.peers, q.2.2.1 = true ∧ q.2.2.2.2.getLsbD port = true) :
    let mask : W32 := ~~~BitVec.ofNat 32 (2 ^ port)
    let u := s.updMod fun m => { m with peers := kmap m.peers fun _ q =>
      (q.1, q.2.1, q.2.2.1 && (q.2.2.2 &&& mask) != 0, q.2.2.2 &&& mask) }
    ∃ lost : Nat → Bool,
      (∀ m, lost m = true ↔ ∃ q ∈ s.mod.peers, q.1 = m ∧ q.2.2.1 = true ∧ q.2.2.2.2.getLsbD port = true ∧
        (q.2.2.2.1 && (q.2.2.2.2 &&& mask) != 0) = false) ∧
      exec (.courierLinkDown port) s = .next (requestRepl (tearOps u (tornOps u [] fun pa => isPeer pa && lost (peerOf pa))) 5) := by
  intro mask u
  have hhit : (s.mod.peers.filter fun (_, _, v, _, ports) => v && ports.getLsbD port).isEmpty = false := by
    obtain ⟨q, hq, hv, hp⟩ := hex
    exact List.isEmpty_eq_false_iff_exists_mem.mpr ⟨q, List.mem_filter.mpr ⟨hq, by simp [hv, hp]⟩⟩
  refine ⟨fun m => ((s.mod.peers.filter fun (_, _, v, _, ports) => v && ports.getLsbD port).filter
    fun (_, q) => !(q.2.2.1 && (q.2.2.2 &&& mask) != 0)).any fun (x, _) => x == m, fun m => ?_, congrArg Host.Outcome.next ?_⟩
  · simp only [List.any_eq_true, List.mem_filter, Bool.and_eq_true, Bool.not_eq_true', beq_iff_eq]
    constructor
    · rintro ⟨q, ⟨⟨hq, hv, hp⟩, hd⟩, rfl⟩
      exact ⟨q, hq, rfl, hv, hp, hd⟩
    · rintro ⟨q, hq, rfl, hv, hp, hd⟩
      exact ⟨q, ⟨⟨hq, hv, hp⟩, hd⟩, rfl⟩
  · unfold courierDown
    exact if_neg (by rw [hhit]; decide)

/-- Settles O52. -/
theorem powerAndLinkSteps : Obligations.PowerAndLinkSteps := by
  refine ⟨⟨fun _ _ => rfl, ?droop, ?recovery⟩, ?down, ?sample, ⟨?pair, ?draining, ?switching, ?trip, ?tripped, ?restart⟩,
    ⟨?lost, ?point, ?early, ?pulse⟩, ?cxl, ?courier, ?peer⟩
  case droop => exact fun s r => ⟨_, rfl, droopAlarm_regions s r⟩
  case recovery => exact fun s r h => ⟨_, rfl, droopRecovery_regions h⟩
  case down =>
    intro s p h
    exact congrArg Host.Outcome.next (by simp [sampleImbalance, h])
  case sample =>
    intro s p hup a ia ib diff
    refine ⟨_, rfl, (sampleImbalance_currents hup).1, (sampleImbalance_currents hup).2, fun hst hd => ?_,
      fun f hst hd hf hn hfw hl => ?_⟩
    · exact sampleImbalance_heavy hup hst hd
    · exact sampleImbalance_light hup hst hd hf hn hfw hl
  case pair =>
    intro s r drain
    refine ⟨fun h => congrArg Host.Outcome.next (if_pos (beq_iff_eq.mpr h)), fun h hp => congrArg Host.Outcome.next (if_pos ?_)⟩
    rw [h, hp]
    rfl
  case draining =>
    exact fun s r h => ⟨fun hfree => congrArg Host.Outcome.next ((endDraining_eq h (.inl hfree)).trans
        (by rw [foldl_deadlineCore_free hfree])),
      fun ht => congrArg Host.Outcome.next (endDraining_eq h (.inr ht))⟩
  case switching =>
    intro s r h ht
    refine congrArg Host.Outcome.next ((if_pos ?_).trans rfl)
    simp [h, ht, rgSwitching]
  case trip =>
    exact fun s r h4 h5 => congrArg Host.Outcome.next (tripRegion_eq h4 h5)
  case tripped =>
    intro s r h ht
    refine congrArg Host.Outcome.next (if_pos ?_)
    simp [h, ht, rgTripped]
  case restart =>
    intro s r h u v
    refine congrArg Host.Outcome.next (if_neg ?_)
    simp [h, rgRestarting]
  case lost => exact fun s d cause hd hl => ⟨_, rfl, loseDomain_lost cause hd hl⟩
  case point =>
    intro s d tier pt lo hi hd hpt htier hup hfw hl
    refine ⟨fun h1 h2 => congrArg Host.Outcome.next ((setPoint_eq hd hpt htier).trans (sorterSets_within hup hfw hl h1 h2)),
      fun hout => congrArg Host.Outcome.next ((setPoint_eq hd hpt htier).trans (sorterSets_refused hup hfw fun q hq => ?_))⟩
    obtain rfl : (lo, hi) = q := Option.some.inj (hl.symm.trans hq)
    exact hout
  case early =>
    intro s h
    exact congrArg Host.Outcome.next (if_pos h)
  case pulse =>
    intro s h
    refine ⟨_, rfl, referencePulse_lastPulse h, fun d hd hup => ?_⟩
    have hdom := referencePulse_dom h hd hup
    by_cases hm : Config.pulseMissed (s.tick * 64 + d) = true
    · rw [if_pos hm]
      exact ⟨_, Nat.le_of_lt_succ (Nat.mod_lt _ (Nat.succ_pos _)), hdom.trans (if_pos hm)⟩
    · rw [if_neg hm]
      exact ⟨_, Nat.le_of_lt_succ (Nat.mod_lt _ (by decide)), hdom.trans (if_neg hm)⟩
  case cxl =>
    intro s p dev home cap h
    refine congrArg Host.Outcome.next ?_
    simp only [cxlDown, h]
    rfl
  case courier =>
    exact fun s port hex => courierDown_tears hex
  case peer =>
    intro s m vni pa size val t n hadm hdom hup hfind
    refine ⟨congrArg Host.Outcome.next ((peerAccess_eq hadm hdom hup hfind).trans rfl), fun hsize =>
      congrArg Host.Outcome.next ((peerAccess_eq hadm hdom hup hfind).trans (if_neg hsize))⟩

end Sys2Proof.Machine
end

section
/-! ### Admin commands: O55 -/
namespace Sys2Proof.Machine
open Sys2Proof

/-! #### A command at the ring's HEAD (R386, R388) -/

/-- A known command with its reserved words zero is carried out, and comes to what its action says. -/
theorem runAdmin_eq {s : State} {w : List W64} {op last : Nat} {act : State → List W64 → Ended} (h : adminHead s = some w)
    (hop : cmdOp w = op) (hlast : (adminOps.find? fun q => q.1 == op) = some (op, last)) (hp : cmdPlain w last [] = true) :
    runAdmin s op act = match act s w with | .done u st => endAdmin u w st | .waits u => u := by
  simp only [runAdmin, h, hop, hlast, hp, bne_self_eq_false, Bool.false_eq_true, if_false, Bool.not_true] <;> rfl

theorem runAdmin_done {s u : State} {w : List W64} {op last st : Nat} {act : State → List W64 → Ended} (h : adminHead s = some w)
    (hop : cmdOp w = op) (hlast : (adminOps.find? fun q => q.1 == op) = some (op, last)) (hp : cmdPlain w last [] = true)
    (hact : act s w = .done u st) : runAdmin s op act = endAdmin u w st := by
  rw [runAdmin_eq h hop hlast hp, hact]

theorem runAdmin_waits {s u : State} {w : List W64} {op last : Nat} {act : State → List W64 → Ended} (h : adminHead s = some w)
    (hop : cmdOp w = op) (hlast : (adminOps.find? fun q => q.1 == op) = some (op, last)) (hp : cmdPlain w last [] = true)
    (hact : act s w = .waits u) : runAdmin s op act = u := by
  rw [runAdmin_eq h hop hlast hp, hact]

/-! #### ADMIT and RETIRE (R375, R376, R388) -/

theorem permitVni_tenants (s : State) (vni : Nat) (on : Bool) : (permitVni s vni on).tenants = s.tenants := by
  apply foldl_keeps (fun u : State => u.tenants = s.tenants)
  · exact fun _ _ hu => hu
  · rfl

theorem permitVni_cores (s : State) (vni : Nat) (on : Bool) : (permitVni s vni on).cores = s.cores := by
  apply foldl_keeps (fun u : State => u.cores = s.cores)
  · exact fun _ _ hu => hu
  · rfl

/-- The pages published at ADMIT are memory, and change no register. -/
theorem publishPages_memOnly (s : State) (t : Nat) : MemOnly s (publishLat (publishPage s t) t) :=
  homeStore_memOnly _ _ _ _ (homeStore_memOnly _ _ _ _ (MemOnly.refl s))

/-- Cores changed one after another. -/
def updCores (s : State) (cs : List Nat) (f : Core → Core) : State := cs.foldl (fun s c => s.updCore c f) s

theorem updCores_tenants (s : State) (cs : List Nat) (f : Core → Core) : (updCores s cs f).tenants = s.tenants := by
  apply foldl_keeps (fun u : State => u.tenants = s.tenants)
  · exact fun _ _ hu => hu
  · rfl

/-- Each of the cores has the tenant that the change gives it. -/
theorem updCores_core_tenant {f : Core → Core} {o : Option Nat} (hf : ∀ k, (f k).tenant = o) {cs : List Nat} {s : State} {c : Nat}
    (h : c ∈ cs ∨ (s.core c).tenant = o) : ((updCores s cs f).core c).tenant = o := by
  induction cs generalizing s with
  | nil => exact h.resolve_left List.not_mem_nil
  | cons b cs ih =>
    refine ih ?_
    by_cases hc : c = b
    · rw [hc, State.updCore_core_self]
      exact .inr (hf _)
    · rw [State.updCore_core_ne _ _ hc]
      exact h.imp_left fun hm => (List.mem_cons.mp hm).resolve_left hc

/-- The record of a tenant that ADMIT makes ACTIVE. -/
def admitted (w : List W64) (cs : List Nat) : Tenant :=
  { Tenant.fresh with
    st := 1, vni := (word w 2).toNat, placement := cs, root := (word w 4).toNat, pthome := bits (word w 5) 0 6, port := (word w 6).toNat
    vf := bits (word w 5) 8 6, topopa := Config.topoPage (word w 1).toNat % 2 ^ 36 * 65536 }

theorem admitted_fields (w : List W64) (cs : List Nat) : (admitted w cs).st = 1 ∧ (admitted w cs).vni = (word w 2).toNat ∧
    (admitted w cs).placement = cs ∧ (admitted w cs).root = (word w 4).toNat ∧ (admitted w cs).pthome = bits (word w 5) 0 6 :=
  ⟨rfl, rfl, rfl, rfl, rfl⟩

/-- The state in which ADMIT publishes a tenant's pages. -/
def admitTo (s : State) (w : List W64) (cs : List Nat) : State :=
  permitVni (updCores { s with tenants := kset s.tenants (word w 1).toNat (admitted w cs) } cs fun k =>
    { k with tenant := some (word w 1).toNat, clear := List.range 8 }) (word w 2).toNat true

theorem admitTo_tenants (s : State) (w : List W64) (cs : List Nat) :
    (admitTo s w cs).tenants = kset s.tenants (word w 1).toNat (admitted w cs) :=
  (permitVni_tenants _ _ _).trans (updCores_tenants _ _ _)

theorem admitTo_core_tenant {s : State} {w : List W64} {cs : List Nat} {c : Nat} (hc : c ∈ cs) :
    ((admitTo s w cs).core c).tenant = some (word w 1).toNat := by
  rw [State.core, admitTo, permitVni_cores]
  exact updCores_core_tenant (f := fun k => { k with tenant := some (word w 1).toNat, clear := List.range 8 }) (fun _ => rfl) (.inl hc)

/-- ADMIT with every check passed. -/
theorem admitCommand_done {s : State} {w : List W64} {cs : List Nat} (hcs : cs = mapCores (physBytes s (word w 3).toNat 1152))
    (ht : (word w 1).toNat < 64) (hr : word w 5 &&& ~~~0x3F3F = 0) (hst : (s.ten (word w 1).toNat).st = 0)
    (hv0 : 0 < (word w 2).toNat) (hv : (word w 2).toNat < 4096)
    (hvni : ∀ p ∈ s.tenants, p.2.st ≠ 0 → p.2.vni ≠ (word w 2).toNat)
    (hfree : ∀ c ∈ cs, advertises s c = true ∧ ownerOf s c = none) (hhome : ∃ c ∈ cs, coreDomain c = bits (word w 5) 0 6)
    (hvf : bits (word w 5) 8 6 < s.mod.numVfs.getD (word w 6).toNat 0) :
    ∃ u, admitCommand s w = .done u 0 ∧ u.ten (word w 1).toNat = admitted w cs ∧
      ∀ c ∈ cs, (u.core c).tenant = some (word w 1).toNat := by
  have hz1 : zeroBits (word w 5) 6 2 = true := zeroBits_of_mask hr (by decide) (by omega)
  have hz2 : zeroBits (word w 5) 14 50 = true := zeroBits_of_mask hr (by decide) (by omega)
  have hany : (s.tenants.any fun (_, n) => n.st != 0 && n.vni == (word w 2).toNat) = false := by
    simpa using hvni
  have hbusy : (cs.any fun c => !advertises s c || (ownerOf s c).isSome) = false := by
    simpa using hfree
  have hhere : (cs.any fun c => coreDomain c == bits (word w 5) 0 6) = true := by
    simpa using hhome
  have hnum : (decide ((word w 2).toNat = 0) || decide (4096 ≤ (word w 2).toNat) ||
      s.tenants.any fun (_, n) => n.st != 0 && n.vni == (word w 2).toNat) = false := by
    rw [hany]
    simp
    omega
  have hact : admitCommand s w = .done (publishLat (publishPage (admitTo s w cs) (word w 1).toNat) (word w 1).toNat) 0 := by
    unfold admitCommand
    dsimp only
    rw [← hcs]
    refine (if_neg ?reserved).trans ((if_neg ?active).trans ((if_neg ?vni).trans ((if_neg ?cores).trans
      ((if_neg ?home).trans (if_neg (Nat.not_le.mpr hvf))))))
    case reserved => simpa [hz1, hz2] using ht
    case active => simpa using hst
    case vni => exact Bool.not_eq_true _ ▸ hnum
    case cores => exact Bool.not_eq_true _ ▸ hbusy
    case home => rw [hhere]; decide
  have hm := publishPages_memOnly (admitTo s w cs) (word w 1).toNat
  refine ⟨_, hact, ?_, fun c hc => ?_⟩
  · rw [State.ten, hm.tenants, admitTo_tenants, kget_kset_self]
    rfl
  · rw [State.core, hm.cores]
    exact admitTo_core_tenant hc

/-- RETIRE of an ACTIVE tenant after its reset: the tenant is FREE, and its cores have none. -/
theorem retire_done {s : State} {w : List W64} (hst : (s.ten (word w 1).toNat).st = 1) (hclean : (s.ten (word w 1).toNat).clean = true) :
    ∃ u, retire s w = .done u 0 ∧ kget u.tenants (word w 1).toNat = none ∧
      ∀ c ∈ (s.ten (word w 1).toNat).placement, (u.core c).tenant = none := by
  refine ⟨_, (if_neg (by rw [hst]; decide)).trans (if_neg (by simp [hst, hclean])), ?_, fun c hc => ?_⟩
  · rw [permitVni_tenants, kget_kdel_self]
  · rw [State.core, permitVni_cores]
    exact updCores_core_tenant (s := s) (f := fun k => { Core.fresh with retired := k.retired }) (fun _ => rfl) (.inl hc)

theorem retire_refused {s : State} {w : List W64} (hst : (s.ten (word w 1).toNat).st ≠ 0)
    (h : (s.ten (word w 1).toNat).st ≠ 1 ∨ (s.ten (word w 1).toNat).clean = false) : retire s w = .done s 1 :=
  (if_neg hst).trans (if_pos (by simpa using h))

/-! #### Repairs (R412, R413) -/

theorem drainCoreCmd_start {s : State} {w : List W64} (hd : theDrain s = none) (h1 : zeroBits (word w 1) 14 50 = true)
    (h2 : zeroBits (word w 2) 32 32 = true) (ha : advertises s (bits (word w 1) 0 14) = true)
    (hr : regionServes s (coreDomain (bits (word w 1) 0 14)) = true) :
    drainCoreCmd s w = .waits (startDrain s 0x20 (bits (word w 1) 0 14) (drainNs w)) := by
  simp [drainCoreCmd, hd, h1, h2, ha, hr]

theorem domainRepair_start {s : State} {w : List W64} (op ok : Nat) (hd : theDrain s = none) (h1 : zeroBits (word w 1) 6 58 = true)
    (h2 : zeroBits (word w 2) 32 32 = true) (ha : bits (word w 1) 0 6 < s.nlive) (hr : regionServes s (bits (word w 1) 0 6) = true) :
    domainRepair s op ok w = .waits (startDrain s op (bits (word w 1) 0 6) (drainNs w)) := by
  simp [domainRepair, hd, h1, h2, hr, Nat.not_le.mpr ha]

/-- The core drained: its number moves to the spare, or the bay is shortened. -/
theorem drainCoreCmd_drained {s : State} {w : List W64} {x : Drain} (hd : theDrain s = some x) (he : drained s x = true)
    (hf : failedCore s (bits (word w 1) 0 14) = false) :
    let c := bits (word w 1) 0 14
    let y := drainCore s c
    let o := remapCore 16 (markDead (postRetired (breakChannels (orphanKept y c) c) c 2 (launchOn y c)) c) c
    drainCoreCmd s w = .done (endDrain o.1 x) o.2 := by
  simp [drainCoreCmd, hd, he, hf]

theorem domainRepair_drained {s : State} {w : List W64} {x : Drain} (op ok : Nat) (hd : theDrain s = some x) (he : drained s x = true) :
    domainRepair s op ok w = if op = 0x21 && ok = 0 then .done (loseDomain (endDrain s x) (bits (word w 1) 0 6) 2) 1
      else .done (endDrain s x) 0 := by
  simp [domainRepair, hd, he]

/-! #### Images (R365, R414, R415) -/

theorem updateFirmware_new {s : State} {w : List W64} (hfw : s.mod.fwFetch = none) :
    let bs := physBytes s (word w 1).toNat (word w 2).toNat
    updateFirmware s w = if !imageOk s.mod.svnMin 1 bs then .done s 1
      else if Config.imageStarts bs s.tick then
        .done (postFirmware (s.updMod fun m => raiseSvn { m with flash := bs, running := bs, pmSvn := imageSvn bs } bs) bs 0) 0
      else .waits (s.updMod fun m => { m with fwFetch := some (s.now + 1000000000) }) := by
  simp only [updateFirmware, hfw]

theorem updateFirmware_mailbox {s : State} {w : List W64} {im : List Byte} (hfw : s.mod.fwFetch.isSome = true)
    (hm : s.mod.mailbox = some im) (hok : imageOk s.mod.svnMin 1 im = true) : updateFirmware s w = fallBack s im := by
  obtain ⟨limit, hl⟩ := Option.isSome_iff_exists.mp hfw
  have hf : (some im).filter (fun im => imageOk s.mod.svnMin 1 im) = some im := Option.filter_some_pos hok
  simp only [updateFirmware, hl, hm, hf]

/-! #### The obligation -/

/-- Settles O55. -/
theorem adminCommandSteps : Obligations.AdminCommandSteps := by
  refine ⟨fun s w h => ⟨?admission, ?retire, ?refused⟩, fun s w h hp => ⟨?start, ?drained, ?image⟩, ?deadline,
    fun s w h hp => ⟨?attest, ?migset⟩⟩
  case admission =>
    intro hop hp t vni cs ht hr hst hv0 hv hvni hfree hhome hvf
    obtain ⟨u, hu, hten, hcore⟩ := admitCommand_done rfl ht hr hst hv0 hv hvni hfree hhome hvf
    refine ⟨u, congrArg Host.Outcome.next (runAdmin_done h hop rfl hp hu), ?_⟩
    obtain ⟨h1, h2, h3, h4, h5⟩ := admitted_fields w cs
    rw [hten]
    exact ⟨h1, h2, h3, h4, h5, hcore⟩
  case retire =>
    intro hop hp hst hclean
    obtain ⟨u, hu, hfree⟩ := retire_done hst hclean
    exact ⟨u, congrArg Host.Outcome.next (runAdmin_done h hop rfl hp hu), hfree⟩
  case refused =>
    exact fun hop hp hst hno => congrArg Host.Outcome.next (runAdmin_done h hop rfl hp (retire_refused hst hno))
  case start =>
    intro e he hop hd h1 h2 hcore hdom
    simp only [List.mem_cons, List.not_mem_nil, or_false] at he
    obtain rfl | rfl | rfl := he
    · obtain ⟨ha, hr⟩ := hcore rfl
      exact congrArg Host.Outcome.next (runAdmin_waits h hop rfl hp (drainCoreCmd_start hd h1 h2 ha hr))
    · obtain ⟨ha, hr⟩ := hdom (by decide)
      exact congrArg Host.Outcome.next (runAdmin_waits h hop rfl hp (domainRepair_start _ _ hd h1 h2 ha hr))
    · obtain ⟨ha, hr⟩ := hdom (by decide)
      exact congrArg Host.Outcome.next (runAdmin_waits h hop rfl hp (domainRepair_start _ _ hd h1 h2 ha hr))
  case drained =>
    intro x hd he
    refine ⟨fun hop => ?_, fun hop => ⟨?_, ?_⟩, fun hop => ?_⟩
    · intro c y o hf
      exact congrArg Host.Outcome.next (runAdmin_done h hop rfl hp (drainCoreCmd_drained hd he hf))
    · exact congrArg Host.Outcome.next (runAdmin_done h hop rfl hp (domainRepair_drained 0x21 1 hd he))
    · exact congrArg Host.Outcome.next (runAdmin_done h hop rfl hp (domainRepair_drained 0x21 0 hd he))
    · exact congrArg Host.Outcome.next (runAdmin_done h hop rfl hp (domainRepair_drained 0x22 1 hd he))
  case image =>
    refine ⟨fun hop hfw hok hs => ?_, fun hop hfw hok => ?_, fun hop hfw hok hs => ?_, fun im hop hfw hm hok => ?_, fun hop hok => ?_⟩
    · exact congrArg Host.Outcome.next (runAdmin_done h hop rfl hp ((updateFirmware_new hfw).trans (by rw [hok, hs]; rfl)))
    · exact congrArg Host.Outcome.next (runAdmin_done h hop rfl hp ((updateFirmware_new hfw).trans (by rw [hok]; rfl)))
    · exact congrArg Host.Outcome.next (runAdmin_waits h hop rfl hp ((updateFirmware_new hfw).trans (by rw [hok, hs]; rfl)))
    · exact congrArg Host.Outcome.next (runAdmin_done h hop rfl hp (updateFirmware_mailbox hfw hm hok))
    · exact congrArg Host.Outcome.next (runAdmin_done h hop rfl hp ((if_neg (by rw [hok]; decide)).trans (if_neg Nat.one_ne_zero)))
  case deadline =>
    intro s x hd hdue
    refine congrArg Host.Outcome.next ?_
    simp only [expireDrain, hd, if_pos hdue]
  case attest =>
    intro hop hr hlt of
    have hz1 : zeroBits (word w 3) 6 2 = true := zeroBits_of_mask hr (by decide) (by omega)
    have hz2 : zeroBits (word w 3) 9 55 = true := zeroBits_of_mask hr (by decide) (by omega)
    exact congrArg Host.Outcome.next (runAdmin_done h hop rfl hp
      ((if_neg (by rw [hz1, hz2]; decide)).trans (if_neg (Nat.not_le.mpr hlt))))
  case migset =>
    intro t ws hop ht hno hok
    refine congrArg Host.Outcome.next (runAdmin_done h hop rfl hp
      ((if_neg (Nat.not_le.mpr ht)).trans ((if_neg ?_).trans (if_neg (by rw [hok]; decide)))))
    simpa [lvOpen, imp_iff_not_or] using hno

end Sys2Proof.Machine
end

section
/-! ### What leaves the placements alone -/
namespace Sys2Proof.Machine
open Sys2Proof

/-- Each tenant holds the cores that it held in another state. -/
def SamePlaces (r s : State) : Prop := ∀ t, (s.ten t).placement = (r.ten t).placement

section
variable {r s : State}

theorem SamePlaces.refl (s : State) : SamePlaces s s := fun _ => rfl

theorem SamePlaces.of_tenants {u : State} (h : u.tenants = s.tenants) (hs : SamePlaces r s) : SamePlaces r u := by
  intro t
  rw [← hs t, State.ten, h]
  rfl

theorem updTen_places (t : Nat) {f : Tenant → Tenant} (hf : ∀ n, (f n).placement = n.placement) (hs : SamePlaces r s) :
    SamePlaces r (s.updTen t f) := by
  intro e
  by_cases he : e = t
  · rw [he, State.updTen_ten_self, hf, hs t]
  · rw [State.updTen_ten_ne _ _ he, hs e]

theorem foldl_places {α : Type} {f : State → α → State} (h : ∀ u a, SamePlaces r u → SamePlaces r (f u a)) (l : List α)
    (hs : SamePlaces r s) : SamePlaces r (l.foldl f s) := foldl_keeps (SamePlaces r) f h l s hs

/-! #### Memory, caches and directories -/

theorem updDom_places (d : Nat) (f : Domain → Domain) (hs : SamePlaces r s) : SamePlaces r (s.updDom d f) := hs.of_tenants rfl

theorem updCore_places (c : Nat) (f : Core → Core) (hs : SamePlaces r s) : SamePlaces r (s.updCore c f) := hs.of_tenants rfl

theorem updBlock_places (c b : Nat) (f : Block → Block) (hs : SamePlaces r s) : SamePlaces r (s.updBlock c b f) := hs.of_tenants rfl

theorem updGroup_places (c b g : Nat) (f : Group → Group) (hs : SamePlaces r s) : SamePlaces r (s.updGroup c b g f) := hs.of_tenants rfl

theorem wrote_places (t line : Nat) (hs : SamePlaces r s) : SamePlaces r (wrote s t line) := hs.of_tenants rfl

theorem homeStore_places (t pa : Nat) (bs : List Byte) (hs : SamePlaces r s) : SamePlaces r (homeStore s t pa bs) :=
  hs.of_tenants (homeStore_memOnly s t pa bs (MemOnly.refl s)).tenants

theorem homeWrite_places (t line : Nat) (ps : List (Nat × Byte)) (hs : SamePlaces r s) : SamePlaces r (homeWrite s t line ps) :=
  hs.of_tenants (homeWrite_memOnly s t line ps (MemOnly.refl s)).tenants

theorem homeAccess_places (t line : Nat) (w : Bool) (hs : SamePlaces r s) : SamePlaces r (homeAccess s t line w) :=
  hs.of_tenants (homeAccess_memOnly s t line w (MemOnly.refl s)).tenants

theorem putHome_places (t line : Nat) (ps : List (Nat × Byte)) (hs : SamePlaces r s) : SamePlaces r (putHome s t line ps) :=
  hs.of_tenants (putHome_memOnly s t line ps (MemOnly.refl s)).tenants

theorem dropScales_places (line : Nat) (ps : List (Nat × Byte)) (hs : SamePlaces r s) : SamePlaces r (dropScales s line ps) :=
  hs.of_tenants (dropScales_memOnly s line ps (MemOnly.refl s)).tenants

theorem setDir_places (t h line : Nat) (st : DirState) (p : BitVec 64) (hs : SamePlaces r s) : SamePlaces r (setDir s t h line st p) :=
  hs.of_tenants (setDir_memOnly s t h line st p (MemOnly.refl s)).tenants

theorem fillL2_places (t d line : Nat) (hs : SamePlaces r s) : SamePlaces r (fillL2 s t d line) :=
  hs.of_tenants (fillL2_memOnly s t d line (MemOnly.refl s)).tenants

theorem recallLine_places (t h line d : Nat) (hs : SamePlaces r s) : SamePlaces r (recallLine s t h line d) :=
  hs.of_tenants (recallLine_memOnly s t h line d (MemOnly.refl s)).tenants

theorem writeBack_places (t d line : Nat) (hs : SamePlaces r s) : SamePlaces r (writeBack s t d line) :=
  hs.of_tenants (writeBack_memOnly s t d line (MemOnly.refl s)).tenants

theorem dropGuest_places (t d line : Nat) (hs : SamePlaces r s) : SamePlaces r (dropGuest s t d line) :=
  hs.of_tenants (dropGuest_memOnly s t d line (MemOnly.refl s)).tenants

theorem supply_places (t d line : Nat) (hs : SamePlaces r s) : SamePlaces r (supply s t d line) :=
  fillL2_places _ _ _ (updDom_places _ _ hs)

theorem l2Put_places (t d line : Nat) (ps : List (Nat × Byte)) (hs : SamePlaces r s) : SamePlaces r (l2Put s t d line ps) := by
  grind [l2Put, homeWrite_places, homeAccess_places, updDom_places, setDir_places, supply_places, fillL2_places, putHome_places,
    dropScales_places, recallLine_places, foldl_places]

theorem l2Write_places (t d line : Nat) (ps : List (Nat × Byte)) (hs : SamePlaces r s) : SamePlaces r (l2Write s t d line ps) :=
  l2Put_places _ _ _ _ (wrote_places _ _ hs)

theorem reportDrop_places (h line d : Nat) (hs : SamePlaces r s) : SamePlaces r (reportDrop s h line d) := by
  unfold reportDrop
  split
  · exact setDir_places _ _ _ _ _ hs
  · exact hs

theorem flushTenant_places (t : Nat) (hs : SamePlaces r s) : SamePlaces r (flushTenant s t) :=
  foldl_places (fun _ _ hu => reportDrop_places _ _ _ (dropGuest_places _ _ _ hu)) _ hs

/-! #### What a core has stored -/

theorem drainEntry_places (c line : Nat) (hs : SamePlaces r s) : SamePlaces r (drainEntry s c line) := by
  unfold drainEntry
  split
  · exact l2Write_places _ _ _ _ (updCore_places _ _ hs)
  · exact hs

theorem drainEntries_places (c : Nat) (hs : SamePlaces r s) : SamePlaces r (drainEntries s c) :=
  foldl_places (fun _ l hu => drainEntry_places c l hu) _ hs

theorem tellStrong_places (c : Nat) (w : StrongW) (old : Nat) (hs : SamePlaces r s) : SamePlaces r (tellStrong s c w old) := by
  grind [tellStrong, noteReadOf, deliverSlot, updGroup_places]

theorem strongWrite_places (t d pa n v : Nat) (hs : SamePlaces r s) : SamePlaces r (strongWrite s t d pa n v) :=
  updDom_places _ _ (homeWrite_places _ _ _ (wrote_places _ _ hs))

theorem writeBackHost_places (t : Nat) (hs : SamePlaces r s) : SamePlaces r (writeBackHost s t) :=
  foldl_places (fun _ _ hu => foldl_places (fun _ _ hv => writeBack_places _ _ _ hv) _ hu) _ hs

theorem publish_places (who : Who) (sig : BitVec 1024) (scope : BitVec 4) (pa n : Nat) (hs : SamePlaces r s) :
    SamePlaces r (publish s who sig scope pa n) := by
  grind [publish, svPut, updDom_places, writeBackHost_places]

theorem performStrong_places (c : Nat) (w : StrongW) (hs : SamePlaces r s) : SamePlaces r (performStrong s c w) := by
  have hd : SamePlaces r (if w.rel then drainEntries s c else drainEntry s c (lineOf w.pa)) := by
    split
    · exact drainEntries_places _ hs
    · exact drainEntry_places _ _ hs
  unfold performStrong
  extract_lets t line u old new v
  have hu : SamePlaces r u := updCore_places _ _ hd
  have hv : SamePlaces r v := tellStrong_places _ _ _ (homeAccess_places _ _ _ hu)
  split
  · exact tellStrong_places _ _ _ hu
  · clear_value v new
    cases new with
    | none => exact hv
    | some x =>
      dsimp only
      split
      · exact publish_places _ _ _ _ _ (strongWrite_places _ _ _ _ _ hv)
      · exact strongWrite_places _ _ _ _ _ hv

theorem drainCore_places (c : Nat) (hs : SamePlaces r s) : SamePlaces r (drainCore s c) :=
  drainEntries_places c (foldl_places (fun _ _ hu => performStrong_places _ _ (updCore_places _ _ hu)) _ hs)

/-! #### Stamp books -/

theorem sbRecall_places (t pa : Nat) (k : SbHome) (hs : SamePlaces r s) : SamePlaces r (sbRecall s t pa k) :=
  homeStore_places _ _ _ (homeStore_places _ _ _ (updDom_places _ _ (foldl_places (fun _ _ hu => updDom_places _ _ hu) _ hs)))

theorem recallBooks_places (t : Nat) (hs : SamePlaces r s) : SamePlaces r (recallBooks s t) := by
  refine foldl_places (fun u pa hu => ?_) _ hs
  split
  · exact sbRecall_places _ _ _ hu
  · exact hu

/-! #### Barriers, counters and a block that goes -/

theorem updLaunch_places (t l : Nat) (f : Launch → Launch) (hs : SamePlaces r s) : SamePlaces r (s.updLaunch t l f) :=
  updTen_places _ (fun _ => rfl) hs

theorem returnCredits_places (c b : Nat) (hs : SamePlaces r s) : SamePlaces r (returnCredits s c b) :=
  foldl_places (fun _ _ hu => updCore_places _ _ hu) _ hs

theorem settlePreempt_places (t : Nat) (hs : SamePlaces r s) : SamePlaces r (settlePreempt s t) := by
  unfold settlePreempt
  split
  · exact (updTen_places t (f := fun n => { n with pstat := 2 }) (fun _ => rfl) hs).of_tenants rfl
  · exact hs

theorem setBar_places (c b : Nat) (k : Block) (g lvl n : Nat) (v : Bar) (hs : SamePlaces r s) :
    SamePlaces r (setBar s c b k g lvl n v) := by
  unfold setBar
  split
  · exact updBlock_places _ _ _ hs
  · split
    · exact hs
    · exact updLaunch_places _ _ _ hs

theorem updSharers_places (c b : Nat) (k : Block) (lvl : Nat) (f : Block → Block) (hs : SamePlaces r s) :
    SamePlaces r (updSharers s c b k lvl f) := by
  unfold updSharers
  split
  · exact updBlock_places _ _ _ hs
  · exact hs.of_tenants rfl

theorem completeBar_places (c b : Nat) (k : Block) (g lvl n : Nat) (hs : SamePlaces r s) :
    SamePlaces r (completeBar s c b k g lvl n) := by
  grind [completeBar, setBar_places, updBlock_places, updSharers_places]

theorem tryComplete_places (c b g lvl n : Nat) (hs : SamePlaces r s) : SamePlaces r (tryComplete s c b g lvl n) := by
  grind [tryComplete, completeBar_places]

theorem memberArrive_places (c b g lvl n member : Nat) (hs : SamePlaces r s) : SamePlaces r (memberArrive s c b g lvl n member) := by
  grind [memberArrive, tryComplete_places, setBar_places]

theorem deriveArrivals_places (c b lvl n : Nat) (hs : SamePlaces r s) : SamePlaces r (deriveArrivals s c b lvl n) := by
  grind [deriveArrivals, updBlock_places, memberArrive_places, foldl_places]

theorem recheckBlock_places (c b : Nat) (hs : SamePlaces r s) : SamePlaces r (recheckBlock s c b) := by
  have hlevel : ∀ (lvl cnt : Nat) (u : State), SamePlaces r u →
      SamePlaces r ((List.range cnt).foldl (fun s n => tryComplete (deriveArrivals s c b lvl n) c b 0 lvl n) u) := fun lvl cnt u hu =>
    foldl_places (fun _ n hv => tryComplete_places c b 0 lvl n (deriveArrivals_places c b lvl n hv)) _ hu
  unfold recheckBlock
  split
  · exact hs
  · exact hlevel 3 4 _ (hlevel 2 8 _ (hlevel 1 16 _ (foldl_places (fun _ g hu => foldl_places
      (fun _ n hv => tryComplete_places c b g 0 n hv) _ hu) _ hs)))

theorem completeGrid_places (t l n : Nat) (hs : SamePlaces r s) : SamePlaces r (completeGrid s t l n) := by
  unfold completeGrid
  split
  · exact hs
  · exact (updLaunch_places _ _ _ hs).of_tenants rfl

theorem recheckGrid_places (t l : Nat) (hs : SamePlaces r s) : SamePlaces r (recheckGrid s t l) := by
  grind [recheckGrid, completeGrid_places, foldl_places]

theorem releaseCancelled_placement (n : Tenant) (lvl id : Nat) : (releaseCancelled n lvl id).placement = n.placement :=
  foldl_keeps (fun m : Tenant => m.placement = n.placement) _ (fun m p hm => by grind [freeCounter]) _ n rfl

theorem openNext_places (t p : Nat) (hs : SamePlaces r s) : SamePlaces r (openNext s t p) := by
  unfold openNext
  split
  · exact updTen_places _ (fun _ => rfl) (updTen_places _ (fun _ => rfl) hs)
  · exact hs

theorem lowerCounter_places (t lvl id n : Nat) (hs : SamePlaces r s) : SamePlaces r (lowerCounter s t lvl id n) := by
  induction n generalizing s lvl id with
  | zero => exact hs
  | succ n ih =>
    have hdone : ∀ c : Counter, SamePlaces r (s.updTen t fun x => releaseCancelled (x.setCounter lvl id c) lvl id) := fun c =>
      updTen_places t (fun x => releaseCancelled_placement (x.setCounter lvl id c) lvl id) hs
    have hfree : ∀ u : State, SamePlaces r u → SamePlaces r (if lvl = 0 then freeSlots u t id else u) := by
      intro u hu
      split
      · exact hu.of_tenants rfl
      · exact hu
    have hopen : ∀ u : State, SamePlaces r u → SamePlaces r (if lvl = 2 then openNext u t id else u) := by
      intro u hu
      split
      · exact openNext_places _ _ hu
      · exact hu
    unfold lowerCounter
    extract_lets c v x y z
    have hz : SamePlaces r z := hopen _ (hfree _ (hdone _))
    split
    · exact hs
    · split
      · split
        · exact ih _ _ hz
        · exact hz
      · exact updTen_places t (fun _ => rfl) hs

theorem blockGone_places (k : Block) (c : Nat) (hs : SamePlaces r s) : SamePlaces r (blockGone s k c) := by
  have htree : ∀ u : State, SamePlaces r u → SamePlaces r (treeSync u k.tenant k.launch) := fun u hu => hu.of_tenants rfl
  grind [blockGone, updCore_places, settlePreempt_places, updLaunch_places, lowerCounter_places, recheckGrid_places,
    recheckBlock_places, foldl_places]

theorem killBlock_places (c b : Nat) (hs : SamePlaces r s) : SamePlaces r (killBlock s c b) := by
  unfold killBlock
  split
  · exact hs
  · have hu := updCore_places c (fun x => freeBlockState x b true) (returnCredits_places c b hs)
    exact blockGone_places _ _ (hu.of_tenants rfl)

end

end Sys2Proof.Machine
end

section
/-! ### Host accesses, boot, the Sorter and tenant reset: O53 -/
namespace Sys2Proof.Machine
open Sys2Proof

/-! #### What the module is built of, which publishing leaves alone (R365, R366) -/

/-- Two states whose modules have the same live fields, running image and fused minimum. -/
structure SameBuild (r s : State) : Prop where
  fieldOf : s.mod.fieldOf = r.mod.fieldOf
  running : s.mod.running = r.mod.running
  svnMin : s.mod.svnMin = r.mod.svnMin

section
variable {r s : State}

theorem SameBuild.refl (s : State) : SameBuild s s := ⟨rfl, rfl, rfl⟩

theorem SameBuild.of_mod {u : State} (h : u.mod = s.mod) (hs : SameBuild r s) : SameBuild r u :=
  ⟨h ▸ hs.fieldOf, h ▸ hs.running, h ▸ hs.svnMin⟩

theorem updMod_build {f : Module → Module} (hf : (f s.mod).fieldOf = s.mod.fieldOf ∧ (f s.mod).running = s.mod.running ∧
    (f s.mod).svnMin = s.mod.svnMin) (hs : SameBuild r s) : SameBuild r (s.updMod f) :=
  ⟨hf.1.trans hs.fieldOf, hf.2.1.trans hs.running, hf.2.2.trans hs.svnMin⟩

theorem foldl_build {α : Type} {f : State → α → State} (h : ∀ u a, SameBuild r u → SameBuild r (f u a)) (l : List α)
    (hs : SameBuild r s) : SameBuild r (l.foldl f s) := foldl_keeps (SameBuild r) f h l s hs

theorem homeStore_build (t pa : Nat) (bs : List Byte) (hs : SameBuild r s) : SameBuild r (homeStore s t pa bs) :=
  hs.of_mod (homeStore_memOnly s t pa bs (MemOnly.refl s)).mod

theorem msix_build (fn vec : Nat) (hs : SameBuild r s) : SameBuild r (s.msix fn vec) := by
  have hm : ∀ (l : List Nat) (m : Module), let m' := l.foldl (fun m fn =>
      if bit (m.vector fn vec).2 32 then { m with pba := if m.pba.contains (fn, vec) then m.pba else m.pba ++ [(fn, vec)] }
      else { m with msix := m.msix ++ [(fn, vec)] }) m
      m'.fieldOf = m.fieldOf ∧ m'.running = m.running ∧ m'.svnMin = m.svnMin := fun l m =>
    foldl_keeps (fun m' : Module => m'.fieldOf = m.fieldOf ∧ m'.running = m.running ∧ m'.svnMin = m.svnMin) _
      (fun m' fn h => by split <;> exact h) l m ⟨rfl, rfl, rfl⟩
  exact updMod_build (hm _ _) hs

theorem postEvent_build (kind core : Nat) (ws : List W64) (hs : SameBuild r s) : SameBuild r (postEvent s kind core ws) := by
  unfold postEvent
  extract_lets ring bs u v
  have hv : SameBuild r v := updMod_build ⟨rfl, rfl, rfl⟩ (homeStore_build _ _ _ hs)
  split
  · exact updMod_build ⟨rfl, rfl, rfl⟩ hs
  · split
    · exact msix_build _ _ hv
    · exact hv

theorem publish1_build (hs : SameBuild r s) : SameBuild r (publish1 s) := by
  have hu : SameBuild r (s.updMod fun m => { m with topoGen := m.topoGen + 2, pubTime := s.now }) := updMod_build ⟨rfl, rfl, rfl⟩ hs
  refine foldl_build (fun _ _ hv => homeStore_build _ _ _ hv) _ ?_
  unfold publishPf
  split
  · exact homeStore_build _ _ _ hu
  · exact hu

theorem publishAll_build (hs : SameBuild r s) : SameBuild r (publishAll s) := by
  unfold publishAll
  extract_lets u v
  have hv : SameBuild r v := by
    unfold v
    split
    · exact homeStore_build _ _ _ (publish1_build hs)
    · exact publish1_build hs
  exact foldl_build (fun _ _ hv => homeStore_build _ _ _ hv) _ hv

theorem takeFigures_build (hs : SameBuild r s) : SameBuild r (takeFigures s) := ⟨hs.fieldOf, hs.running, hs.svnMin⟩

theorem raiseTopo_build (hs : SameBuild r s) : SameBuild r (raiseTopo s) := by
  unfold raiseTopo
  extract_lets u
  have hu : SameBuild r u := updMod_build ⟨rfl, rfl, rfl⟩ hs
  apply publishAll_build
  split
  · exact takeFigures_build hu
  · exact hu

theorem requestRepl_build (i : Nat) (hs : SameBuild r s) : SameBuild r (requestRepl s i) := by
  unfold requestRepl
  extract_lets first u v
  have hu : SameBuild r u := updMod_build ⟨rfl, rfl, rfl⟩ hs
  have hv : SameBuild r v := by
    unfold v
    split
    · exact raiseTopo_build hu
    · exact hu
  split
  · exact hs
  · exact postEvent_build _ _ _ hv

theorem checkSpares_build (d : Nat) (hs : SameBuild r s) : SameBuild r (checkSpares s d) := by
  unfold checkSpares
  split
  · exact requestRepl_build _ hs
  · exact hs

end

/-! #### Boot (R366-R368) -/

theorem pruneRoutes_running (s : State) (n : Nat) : (pruneRoutes s n).mod.running = s.mod.running := by
  induction n generalizing s with
  | zero => rfl
  | succ n ih =>
    unfold pruneRoutes
    extract_lets ds
    split
    · exact ih _
    · rfl

theorem remapAll_running (s : State) : (remapAll s).mod.running = s.mod.running := by
  unfold remapAll
  extract_lets live u
  have hu : u.mod.running = s.mod.running := pruneRoutes_running (mapFields s live) 64
  clear_value u
  exact hu

theorem trainAll_running (s : State) : (trainAll s).mod.running = s.mod.running := by
  unfold trainAll
  extract_lets bad
  split
  · rfl
  · exact remapAll_running _

theorem tooFew_iff (s : State) : tooFew s = true ↔ s.nlive < 62 ∨ advertised s < 8192 := by simp [tooFew]

/-- Steps 3 to 5: the module with what self-test finds, mapped and with its routes. -/
def bootMapped (s : State) (image : List Byte) : State :=
  remapAll (s.updMod fun m => selfTest
    { m with running := image, pmSvn := imageSvn image, mailbox := none, bootErr := 0, bootStep := 3 })

/-- Step 6: its memory trained. -/
def bootTrained (s : State) (image : List Byte) : State := trainAll ((bootMapped s image).updMod fun m => { m with bootStep := 5 })

theorem bootTrained_running (s : State) (image : List Byte) : (bootTrained s image).mod.running = image := by
  have h : (bootMapped s image).mod.running = image := by rw [bootMapped, remapAll_running]; rfl
  rw [bootTrained, trainAll_running]
  exact h

theorem bootFrom_short {s : State} {image : List Byte} (sorter : List Byte) (h : tooFew (bootMapped s image) = true) :
    bootFrom s image sorter = bootShort (bootMapped s image) := if_pos h

theorem bootFrom_trained_short {s : State} {image : List Byte} (sorter : List Byte) (h : tooFew (bootMapped s image) = false)
    (ht : tooFew (bootTrained s image) = true) : bootFrom s image sorter = bootShort (bootTrained s image) :=
  (if_neg (Bool.not_eq_true _ ▸ h)).trans (if_pos ht)

/-- READY, with the fields that training left and the image that was verified. -/
theorem bootFrom_ready {s : State} {image sorter : List Byte} (h : tooFew (bootMapped s image) = false)
    (ht : tooFew (bootTrained s image) = false) (hok : imageOk (bootTrained s image).mod.svnMin 2 sorter = true) :
    (bootFrom s image sorter).mod.ready = true ∧ (bootFrom s image sorter).mod.bootStep = 10 ∧
      (bootFrom s image sorter).mod.fieldOf = (bootTrained s image).mod.fieldOf ∧ (bootFrom s image sorter).mod.running = image := by
  unfold bootFrom
  extract_lets a b c d e
  have hb : tooFew b = false := h
  have hc : tooFew c = false := ht
  have hd : SameBuild c d := updMod_build ⟨rfl, rfl, rfl⟩ (SameBuild.refl c)
  have he : SameBuild c e := foldl_build (fun _ d hu => checkSpares_build d hu) _ (publishAll_build (takeFigures_build hd))
  have hse : imageOk e.mod.svnMin 2 sorter = true := by
    rw [he.svnMin]
    exact hok
  rw [if_neg (by rw [hb]; decide), if_neg (by rw [hc]; decide), if_pos hse]
  have hfields : e.mod.fieldOf = (bootTrained s image).mod.fieldOf := he.fieldOf
  have hrun : e.mod.running = image := he.running.trans (bootTrained_running s image)
  clear_value e
  exact ⟨rfl, rfl, hfields, hrun⟩

theorem powerOn_eq {s : State} (image sorter : List Byte) (h : s.mod.bootStep = 0) :
    let u := s.updMod fun m => { m with bootStep := 1, flash := image, sorter := sorter }
    powerOn s image sorter = if imageOk s.mod.svnMin 1 image then bootFrom u image sorter
      else match s.mod.mailbox with
        | some im => if imageOk s.mod.svnMin 1 im then bootFrom u im sorter else u.updMod fun m => { m with bootErr := 2 }
        | none => u.updMod fun m => { m with bootErr := 2 } :=
  if_neg (by rw [h]; decide)

/-! #### Registers and TAILs (R11, R377, R380, R381) -/

theorem writeRegister_pf {s : State} {off : Nat} (v : Nat) (h : off < 2 ^ 32) : writeRegister s 0 off v = writePf s off v := by
  have h33 : ¬(isPf 0 = true ∧ 2 ^ 33 ≤ off) := by omega
  exact (if_neg h33).trans ((if_neg (Nat.not_le.mpr h)).trans (if_pos rfl))

theorem writeRegister_window {s : State} {t o : Nat} (v : Nat) (ht : t < 64) (ho : o < 0x1000) :
    writeRegister s 0 (t * 0x1000 + o) v = writeTenantWindow s t o v := by
  have hd : (t * 0x1000 + o) / 0x1000 = t := by omega
  have hm : (t * 0x1000 + o) % 0x1000 = o := by omega
  rw [writeRegister_pf v (by omega), writePf]
  exact (if_pos (by omega)).trans (by rw [hd, hm])

theorem isPf_vf {vf : Nat} (h : vf < 64) : isPf (vf + 1) = false := by
  simp [isPf, vectorFns]
  omega

theorem writeRegister_vf {s : State} {vf t o : Nat} (v : Nat) (h : vfTenant s vf = some t) (hvf : vf < 64) (ho : o < 0x1000) :
    writeRegister s (vf + 1) o v = writeTenantWindow s t o v := by
  have hpf := isPf_vf hvf
  have h33 : ¬(isPf (vf + 1) = true ∧ 2 ^ 33 ≤ o) := by omega
  have hd : vfTenant s (vf + 1 - 1) = some t := h
  rw [writeRegister, if_neg h33, if_neg (by omega), if_neg (by rw [hpf]; decide)]
  simp only [hd, if_pos ho]

theorem writeRegister_control {s : State} {d o : Nat} (v : Nat) (hd : d < 64) (ho : o < 65536) :
    writeRegister s 0 (0x400000 + d * 65536 + o) v = writeControl s d o v := by
  have h1 : (0x400000 + d * 65536 + o - 0x400000) / 65536 = d := by omega
  have h2 : (0x400000 + d * 65536 + o) % 65536 = o := by omega
  rw [writeRegister_pf v (by omega), writePf]
  rw [if_neg (by omega), if_neg (by omega), if_neg (by omega), if_neg (by omega), if_neg (by omega), if_neg (by omega), if_pos (by omega),
    h1, h2]

theorem writeControl_outside {s : State} {d o : Nat} (v : Nat) (h : controlBlock o = false) :
    writeControl s d o v = s.updMod fun m => { m with violations := m.violations ++ [⟨3, d * 65536 + o, v⟩] } :=
  if_pos (by simp [h])

/-- The registers of a host-produced ring lie at its 32 bytes of the window. -/
theorem windowRing_tail {q : Nat} (h : q < 5) : windowRing (0x100 + 32 * q + 16) = some q := by
  unfold windowRing
  by_cases hq : q < 4
  · rw [if_pos (by omega)]
    congr 1
    omega
  · obtain rfl : q = 4 := by omega
    rfl

theorem writeTenantWindow_tail {s : State} {t q : Nat} (v : Nat) (hq : q < 5) (hst : (s.ten t).st = 1) :
    writeTenantWindow s t (0x100 + 32 * q + 16) v = s.updRing t q fun r => r.writeTail v := by
  have hsub : (0x100 + 32 * q + 16) % 32 = 16 := by omega
  have hhost : hostRing q = true := decide_eq_true (Nat.le_of_lt_succ hq)
  simp only [writeTenantWindow, windowRing_tail hq, hsub, hst, hhost, ne_eq, not_true_eq_false, and_false, if_false]
  exact if_neg (by unfold ringFQ; omega)

theorem writeRingTail_window {s : State} {t q : Nat} (v : Nat) (ht : t < 64) (hq : q < 5) (hst : (s.ten t).st = 1) :
    writeRingTail s 0 (t * 0x1000 + 0x100 + 32 * q + 16) v = s.updRing t q fun _ => ((s.ten t).ring q).writeTail v := by
  have hoff : t * 0x1000 + 0x100 + 32 * q + 16 = t * 0x1000 + (0x100 + 32 * q + 16) := by omega
  have hm : (t * 0x1000 + (0x100 + 32 * q + 16)) % 0x1000 = 0x100 + 32 * q + 16 := by omega
  have hlt : t * 0x1000 + (0x100 + 32 * q + 16) < 0x40000 := by omega
  have hsub : (0x100 + 32 * q + 16) % 32 = 16 := by omega
  have htail : isTail 0 (t * 0x1000 + (0x100 + 32 * q + 16)) = true := by
    simp only [isTail, hlt, hm, hsub, Nat.not_le.mpr hlt, windowRing_tail hq, show isPf 0 = true from rfl, decide_true, decide_false,
      Bool.and_true, Bool.and_false, if_true, if_false, beq_self_eq_true, Option.isSome_some, Bool.false_eq_true]
  rw [hoff, writeRingTail, if_pos htail, writeRegister_window v ht (by omega), writeTenantWindow_tail v hq hst]
  rfl

/-! #### BAR2 (R379) -/

theorem take_page_isEmpty {α : Type} {bs : List α} (a : Nat) (h : bs ≠ []) : (bs.take (4096 - a % 4096)).isEmpty = false := by
  cases bs with
  | nil => exact absurd rfl h
  | cons b bs =>
    obtain ⟨n, hn⟩ : ∃ n, 4096 - a % 4096 = n + 1 := ⟨4095 - a % 4096, by omega⟩
    rw [hn]
    rfl

theorem hostAccess_write {s : State} {t pa : Nat} {bs : List Byte} (hm : s.memoryAt pa = true) (hup : s.homeDown t pa = false)
    (hbs : bs.isEmpty = false) : hostAccess s t pa bs = (homeStore s t pa bs).complete (some []) := by
  simp only [hostAccess, hm, hup, hbs, Bool.not_true, Bool.false_eq_true, if_false]

theorem hostBar2_pf (s : State) (addr : Nat) (bs : List Byte) :
    hostBar2 s 0 addr bs = hostAccess s 0 (s.mod.apbase + addr % 2 ^ 36) (bs.take (4096 - addr % 2 ^ 36 % 4096)) := by
  simp only [hostBar2, show isPf 0 = true from rfl, if_true]

theorem hostBar2_vf {s : State} {vf t : Nat} (addr : Nat) (payload : List Byte) (hvf : vf < 64) (h : vfTenant s vf = some t) :
    let va := (s.ten t).apbase + addr % 2 ^ 36
    let bs := payload.take (4096 - addr % 2 ^ 36 % 4096)
    (∀ u pa, hostXlat s t va (!bs.isEmpty) = (u, some pa) → hostBar2 s (vf + 1) addr payload =
      if !bs.isEmpty && sealed u t va bs.length then u.complete (some []) else hostAccess u t pa bs) ∧
    (∀ u, hostXlat s t va (!bs.isEmpty) = (u, none) → hostBar2 s (vf + 1) addr payload = u.complete none) := by
  intro va bs
  have hpf := isPf_vf hvf
  have hd : vfTenant s (vf + 1 - 1) = some t := h
  refine ⟨fun u pa hx => ?_, fun u hx => ?_⟩ <;>
    simp only [hostBar2, hpf, Bool.false_eq_true, if_false, hd, show hostXlat s t ((s.ten t).apbase + addr % 2 ^ 36)
      (!(payload.take (4096 - addr % 2 ^ 36 % 4096)).isEmpty) = _ from hx] <;> rfl

/-! #### The Sorter (R363, R364) -/

theorem performControl_poll {s : State} {d : Nat} (v : Nat) (hd : d < 64) (hlive : d < s.nlive) :
    performControl s (0x400000 + 65536 * d + 0x4800) v = s.updDom d fun x => { x with ueFirst := decide (v % 2 = 1) } := by
  have h1 : (0x400000 + 65536 * d + 0x4800 - 0x400000) / 65536 = d := by omega
  have h2 : (0x400000 + 65536 * d + 0x4800) % 65536 = 0x4800 := by omega
  unfold performControl
  rw [h1]
  extract_lets d' k
  rw [if_neg (by omega), if_neg (by omega), if_neg (by omega), if_neg (by omega), if_neg (by omega), if_neg (Nat.not_le.mpr hlive),
    if_pos h2]

theorem performControl_weight {s : State} {t : Nat} (v : Nat) (ht : t < 64) :
    performControl s (ctlWeight t) v = raiseTopo (s.updMod fun m => { m with weights := kset m.weights t v }) := by
  have hw : ctlWeight t = 0x1000000 + t := rfl
  have h1 : 0x1000000 + t - 0x1000000 = t := by omega
  unfold performControl
  rw [hw, h1]
  extract_lets d d' k
  rw [if_neg (by omega), if_neg (by omega), if_neg (by omega), if_neg (by omega), if_pos (by omega)]

theorem updMod_congr {s : State} {f g : Module → Module} (h : f s.mod = g s.mod) : s.updMod f = s.updMod g := by
  rw [State.updMod, h, State.updMod]

theorem heartbeat_eq (s : State) : let beat (m : Module) : Module := { m with beats := m.beats + 1, lastBeat := s.now, sorterUp := true }
    heartbeat s = s.updMod fun m => if m.beats + 1 = 100 then raiseSvn (beat m) m.sorter else beat m := rfl

/-! #### Tenant reset (R377, R378) -/

/-- A state with the tenants and domains of another, and the same blocks on every core. -/
structure SameTables (r s : State) : Prop where
  tenants : s.tenants = r.tenants
  domains : s.domains = r.domains
  blocks : ∀ c, (s.core c).blocks = (r.core c).blocks

theorem sweepImages_tables (s : State) : SameTables s (sweepImages s) := by
  refine ⟨rfl, rfl, fun c => ?_⟩
  unfold sweepImages
  extract_lets held alive
  simp only [State.core, kget_kmap]
  cases kget s.cores c with
  | none => rfl
  | some k =>
    simp only [Option.map_some, Option.getD_some]
    split <;> rfl

theorem foldl_dropImage_tables (l : List (Nat × Nat)) (s : State) : SameTables s (l.foldl (fun s p => dropImage s p.2) s) := by
  refine foldl_keeps (SameTables s) _ (fun u p hu => ?_) l s ⟨rfl, rfl, fun _ => rfl⟩
  have h := sweepImages_tables { u with images := kupd u.images p.2 fun m => { m with refs := m.refs - 1 } }
  exact ⟨h.tenants.trans hu.tenants, h.domains.trans hu.domains, fun c => (h.blocks c).trans (hu.blocks c)⟩

/-- What a domain holds for a tenant, and the tenant's slots of the tree, go. -/
def forgotten (s : State) (t vni : Nat) : State :=
  { s with domains := kmap s.domains fun _ x => x.forget t vni, tree := s.tree.filter fun x => x.tenant != t }

/-- The cores that a tenant holds cleared, and what others keep for it. -/
def coresCleared (s : State) (n : Tenant) (t : Nat) : State :=
  { s with cores := kmap s.cores fun c (k : Core) =>
      if n.holds c then { Core.fresh with retired := k.retired, tenant := some t, clear := List.range 8 }
      else { k with kept := k.kept.filter fun (_, x) => x.tenant != t
                    keptChans := k.keptChans.filter fun (i, _) => (kget k.kept (i / 64)).any fun x => x.tenant != t } }

/-- A tenant's record after its reset. -/
def Tenant.restarted (n : Tenant) : Tenant :=
  { n with
    levels := [], phase := 0, esum := 0, exc := [], codes := [], seals := [], sealPas := [], handles := [], launches := [], again := []
    pstat := 0, rings := [], fqWait := [], fqPosted := [], st := 1, rstDone := true, clean := true }

/-- A reset's tables, from the state in which the tenant's blocks, lines and books are gone, before its images are dropped. -/
def resetTables (v : State) (n : Tenant) (t : Nat) : State := (coresCleared (forgotten v t n.vni) n t).updTen t Tenant.restarted

theorem resetTenant_eq {s : State} {t : Nat} (h : (s.ten t).st = 1) : ∃ v, SamePlaces s v ∧ resetTenant s t =
    ((s.ten t).codes.foldl (fun s p => dropImage s p.2) (resetTables v (s.ten t) t)).msix (s.ten t).fn 3 := by
  unfold resetTenant
  rw [if_neg (by rw [h]; decide)]
  extract_lets n a b c d mine e
  have ha : SamePlaces s a := updTen_places t (fun _ => rfl) (SamePlaces.refl s)
  clear_value a
  have hb : SamePlaces s b := foldl_places (fun _ x hu => drainCore_places x hu) _ ha
  clear_value b
  have hc : SamePlaces s c := foldl_places (fun _ p hu => killBlock_places p.1 p.2 hu) _ hb
  clear_value c
  have hd : SamePlaces s d := recallBooks_places t (flushTenant_places t hc)
  clear_value d
  have he : SamePlaces s e := foldl_places (f := fun s (p : Nat × Nat) => dropWindow s p.1 p.2)
    (fun _ _ hu => SamePlaces.of_tenants rfl hu) _ hd
  clear_value e
  exact ⟨e, he, rfl⟩

section
variable (v : State) (n : Tenant) (t : Nat)

theorem resetTables_restarted : (resetTables v n t).ten t = (v.ten t).restarted := State.updTen_ten_self _ _ _

theorem resetTables_ten_ne {e : Nat} (he : e ≠ t) : (resetTables v n t).ten e = v.ten e := State.updTen_ten_ne _ _ he

theorem resetTables_blocks {c : Nat} (h : n.holds c = true) : ((resetTables v n t).core c).blocks = [] := by
  have hk : (resetTables v n t).cores = (coresCleared v n t).cores := rfl
  rw [State.core, hk, coresCleared, kget_kmap]
  cases kget v.cores c with
  | none => rfl
  | some k =>
    rw [Option.map_some, if_pos h]
    rfl

theorem resetTables_tlb (d : Nat) : ∀ e ∈ ((resetTables v n t).dom d).tlb, e.tenant ≠ t := by
  have hk : (resetTables v n t).domains = kmap v.domains fun _ x => x.forget t n.vni := rfl
  intro e he
  rw [State.dom, hk, kget_kmap] at he
  cases hx : kget v.domains d with
  | none =>
    rw [hx] at he
    exact absurd he List.not_mem_nil
  | some x =>
    rw [hx] at he
    exact bne_iff_ne.mp (List.mem_filter.mp he).2

end

/-- The tables that a reset leaves. -/
theorem resetTenant_tables {s : State} {t : Nat} (h : (s.ten t).st = 1) :
    ∃ v, SamePlaces s v ∧ SameTables (resetTables v (s.ten t) t) (resetTenant s t) := by
  obtain ⟨v, hv, heq⟩ := resetTenant_eq h
  obtain ⟨ht, hd, hb⟩ := foldl_dropImage_tables (s.ten t).codes (resetTables v (s.ten t) t)
  exact ⟨v, hv, heq ▸ ⟨ht, hd, hb⟩⟩

/-! #### The obligation -/

/-- Settles O53. -/
theorem hostSteps : Obligations.HostSteps := by
  refine ⟨⟨?registers, ?vf, ?outside⟩, ?tail, ⟨?bar2, ?bar2Vf, ?bar2Fails⟩, ⟨?powerOn, ?boot, ?mailbox⟩,
    ⟨?beats, ?poll, ?weight, ?refused⟩, ?reset, ?flr⟩
  case registers =>
    intro s t v ht
    refine ⟨?_, ?_, ?_, fun hlive => ?_⟩
    · exact congrArg Host.Outcome.next (writeRegister_window v ht (by omega))
    · exact congrArg Host.Outcome.next (writeRegister_window v ht (by omega))
    · exact congrArg Host.Outcome.next (writeRegister_pf (off := 0x40008) v (by omega))
    · refine congrArg Host.Outcome.next ((writeRegister_control (d := 0) (o := 0xC008) v (by omega) (by omega)).trans (if_neg ?_))
      rw [show controlBlock 0xC008 = true from rfl, decide_eq_false (Nat.not_le.mpr hlive)]
      decide
  case vf =>
    intro s vf t v h ht hvf
    exact congrArg Host.Outcome.next
      ((writeRegister_vf v h hvf (by omega)).trans (writeRegister_window v ht (by omega)).symm)
  case outside =>
    intro s d o v hd ho hc
    exact congrArg Host.Outcome.next ((writeRegister_control v hd ho).trans (writeControl_outside v hc))
  case tail =>
    intro s t q v ht hq hst r by_ onto
    have hw : exec (.ringTailWrite 0 (t * 0x1000 + 0x100 + 32 * q + 16) v) s = .next (s.updRing t q fun _ => r.writeTail v) :=
      congrArg Host.Outcome.next (writeRingTail_window v ht hq hst)
    refine ⟨fun h1 h2 => hw.trans (congrArg (fun x => Host.Outcome.next (s.updRing t q fun _ => x)) (if_neg ?_)),
      fun h => hw.trans (congrArg (fun x => Host.Outcome.next (s.updRing t q fun _ => x)) (if_pos ?_))⟩
    · rw [Bool.or_eq_true, decide_eq_true_eq, decide_eq_true_eq]
      exact fun h => h.elim (Nat.not_lt.mpr h1) (Nat.not_lt.mpr h2)
    · rw [Bool.or_eq_true, decide_eq_true_eq, decide_eq_true_eq]
      exact h
  case bar2 =>
    intro s addr bs pa hm hup hbs
    exact congrArg Host.Outcome.next ((hostBar2_pf s addr bs).trans (hostAccess_write hm hup (take_page_isEmpty _ hbs)))
  case bar2Vf =>
    intro s vf t u pa addr bs h hbs hx hseal hm hup hvf
    have he := take_page_isEmpty (addr % 2 ^ 36) hbs
    have hv := (hostBar2_vf addr bs hvf h).1 u pa (by rw [he]; exact hx)
    rw [hseal, Bool.and_false, if_neg Bool.false_ne_true, hostAccess_write hm hup he] at hv
    exact congrArg Host.Outcome.next hv
  case bar2Fails =>
    intro s vf t u addr bs hvf h hx
    exact congrArg Host.Outcome.next ((hostBar2_vf addr bs hvf h).2 u hx)
  case powerOn =>
    intro s image sorter h u
    have hp := powerOn_eq image sorter h
    refine ⟨fun hok => congrArg Host.Outcome.next (hp.trans (if_pos hok)), fun hbad => ⟨fun im hm hok => ?_, fun hno => ?_⟩⟩
    · refine congrArg Host.Outcome.next (hp.trans ((if_neg (by rw [hbad]; decide)).trans ?_))
      rw [hm]
      exact if_pos hok
    · refine congrArg Host.Outcome.next (hp.trans ((if_neg (by rw [hbad]; decide)).trans ?_))
      cases hm : s.mod.mailbox with
      | none => rfl
      | some im => exact if_neg (by rw [hno im hm]; decide)
  case boot =>
    intro s image sorter started u v
    have hu : ∀ {b}, tooFew u = b → tooFew (bootMapped s image) = b := id
    have hv : ∀ {b}, tooFew v = b → tooFew (bootTrained s image) = b := id
    have full : ∀ {x : State}, 62 ≤ x.nlive → 8192 ≤ advertised x → tooFew x = false := fun h1 h2 => by
      rw [Bool.eq_false_iff, ne_eq, tooFew_iff]
      omega
    refine ⟨fun h => bootFrom_short sorter (hu ((tooFew_iff _).mpr h)),
      fun h1 h2 h => bootFrom_trained_short sorter (hu (full h1 h2)) (hv ((tooFew_iff _).mpr h)),
      fun h1 h2 h3 h4 hok => bootFrom_ready (hu (full h1 h2)) (hv (full h3 h4)) hok⟩
  case mailbox =>
    intro s image
    refine ⟨fun h1 h2 h3 => congrArg Host.Outcome.next (if_pos ?_), fun h => congrArg Host.Outcome.next (if_neg ?_)⟩
    · simp [h1, h2, h3]
    · simp only [decide_eq_false h, Bool.false_and, Bool.false_eq_true, not_false_eq_true]
  case beats =>
    intro s beat
    have hb := heartbeat_eq s
    refine ⟨fun h => congrArg Host.Outcome.next (hb.trans (updMod_congr (if_neg ?_))),
      fun h => congrArg Host.Outcome.next (hb.trans (updMod_congr (if_pos ?_))),
      fun hr ht => congrArg Host.Outcome.next (if_pos ?_), fun hup hfw => congrArg Host.Outcome.next (if_pos ?_)⟩
    · omega
    · omega
    · simp [hr, ht]
    · simp [hup, hfw]
  case poll =>
    intro s d v lo hi hup hfw hlive hd hl h1 h2
    exact congrArg Host.Outcome.next ((sorterSets_within hup hfw hl h1 h2).trans (performControl_poll v hd hlive))
  case weight =>
    intro s t v lo hi hup hfw ht hl h1 h2
    exact congrArg Host.Outcome.next ((sorterSets_within hup hfw hl h1 h2).trans (performControl_weight v ht))
  case refused =>
    exact fun s control v => ⟨fun hup hfw hl => congrArg Host.Outcome.next (sorterSets_refused hup hfw hl),
      fun h => congrArg Host.Outcome.next (sorterSets_idle h)⟩
  case reset =>
    intro s t hst
    obtain ⟨v, hv, htab⟩ := resetTenant_tables hst
    have hten : ∀ e, (resetTenant s t).ten e = (resetTables v (s.ten t) t).ten e := fun e => by
      rw [State.ten, htab.tenants]
      rfl
    have ht := (hten t).trans (resetTables_restarted v (s.ten t) t)
    refine ⟨_, rfl, ?_⟩
    rw [ht]
    refine ⟨rfl, rfl, rfl, rfl, rfl, rfl, rfl, rfl, rfl, rfl, rfl, fun c hc => ?_, fun d => ?_, fun e he => ?_⟩
    · rw [htab.blocks, resetTables_blocks v (s.ten t) t hc]
    · rw [State.dom, htab.domains]
      exact resetTables_tlb v (s.ten t) t d
    · rw [hten, resetTables_ten_ne v (s.ten t) t he, hv e]
  case flr =>
    intro s vf t h
    refine congrArg Host.Outcome.next ?_
    simp only [resetFunction, h]

end Sys2Proof.Machine
end
